-- ==== Sys2Proof/Word.lean ====
section
/-! DEFINITION. The word types of the model and its sparse tables: what the manual treats as bits is a bit vector,
and a collection keyed by a number is a list of pairs in ascending order. -/

namespace Sys2Proof

/-- One byte (R9: the byte at the lowest address holds the least significant bits). -/
abbrev Byte := BitVec 8

/-- An endpoint identifier, 18 bits (R71). -/
abbrev Eid := BitVec 18

/-- A lane key: tenant number in bits [11:2] and kind in bits [1:0] (R74). -/
abbrev LaneKey := BitVec 12

/-- A flow sequence number (R88). -/
abbrev Seq := BitVec 32

/-- A sparse table: pairs of a number and an item, keys strictly rising. -/
abbrev Tab (α : Type) := List (Nat × α)

end Sys2Proof
end

