-- ==== Sys2Proof/Syntax.lean ====
section
/-! DEFINITION. The commands of the block, one constructor of `Instr` per row of spec/opcode_table.json, and the
data they carry: the packets and cells of the wire (02_fabric_protocol.md), the inject descriptor (Table 9-8), the
plan image (Tables 7-10, 7-11, 8-2, 8-3) and the messages of the other interfaces. No row gives bits; the operands
are what the happening brings from outside. -/

namespace Sys2Proof

/-! ## The wire -/

/-- The common word of a packet (Table 2-3), less CLASS, which the packet's own form gives. -/
structure Common where
  laneKey : LaneKey
  epoch   : BitVec 2
  baton   : Bool
  dst     : Eid
  src     : Eid
  type    : BitVec 8
  tryNo   : BitVec 3
  mcast   : Bool
deriving DecidableEq, Repr

/-- The header fields of a billet after SEQ (Table 2-6); the five reserved fields are kept as received. -/
structure BilletHdr where
  plen    : BitVec 4
  pfmt    : BitVec 4
  recomp  : Bool
  rsvA    : BitVec 7
  runId   : BitVec 12
  run     : Bool
  rsvB    : BitVec 3
  mgroup  : BitVec 12
  mresync : Bool
  rsvC    : BitVec 3
  mmask   : BitVec 16
  collId  : BitVec 32
  step    : BitVec 64
  chunk   : BitVec 32
  rank    : BitVec 12
  part    : BitVec 4
  rsvD    : BitVec 16
  scale   : BitVec 128
  ovf     : BitVec 8
  rsvE    : BitVec 24
deriving DecidableEq, Repr

/-- What follows the common word and SEQ: a tally's body and TCRC (Table 2-4), or a billet's header, HDR_CRC,
payload and CRC-64 (R66). -/
inductive PktBody where
  | tally (body : BitVec 128) (tcrc : BitVec 32)
  | billet (hdr : BilletHdr) (hdrCrc : BitVec 32) (payload : List Byte) (crc : BitVec 64)
deriving DecidableEq, Repr

/-- A packet of the fabric (R55, R63, R64, R66). -/
structure Pkt where
  c    : Common
  seq  : Seq
  body : PktBody
deriving DecidableEq, Repr

/-- A packet frame as a port receives it (R59, R61): the frame word, the packet, the hop check, whether FEC could
correct every block of the frame, and whether the frame begins at the slot that its block's FSP names (R62). -/
structure Frame where
  word  : BitVec 64
  pkt   : Pkt
  hop   : BitVec 32
  fecOk : Bool
  atFsp : Bool
deriving DecidableEq, Repr

/-- A control cell as a port receives it (R60): the frame word, CSUB, byte 9, FREED_CUM of T0, T1, B0 and B1 (T0
lowest), the subtype data, the hop check, and whether FEC could correct its block. -/
structure CtlCell where
  word  : BitVec 64
  csub  : BitVec 8
  rsv   : BitVec 8
  freed : BitVec 64
  data  : BitVec 80
  hop   : BitVec 32
  fecOk : Bool
deriving DecidableEq, Repr

/-- A place with fabric ports: a GA-2 agent, by its entry in the agent list, or the module's link tiles. -/
inductive Site where
  | agent (a : Nat)
  | chrohar
deriving DecidableEq, Repr

/-- The identity of a flow (R88): source, destination EID or MGROUP of a multicast flow, and lane key. -/
structure FlowKey where
  src     : Eid
  mcast   : Bool
  peer    : Eid
  laneKey : LaneKey
deriving DecidableEq, Repr

/-- What one port's lanes did in a training window (R118, R125): the lanes of the port that trained at both ends
on their own pairs, and those that would train at both ends on a spare pair. Bit i is lane i of the link. -/
structure LaneReport where
  port    : Nat
  ok      : BitVec 8
  spareOk : BitVec 8
deriving DecidableEq, Repr

/-- An inject descriptor (Table 9-8); reserved bits are gathered in `rsv`, zero when all of them are zero. -/
structure Desc where
  tag        : BitVec 16
  mode       : BitVec 4
  type       : BitVec 8
  baton      : Bool
  billet     : Bool
  convert    : Bool
  pfmt       : BitVec 4
  plen       : BitVec 4
  inFmt      : BitVec 4
  children   : BitVec 3
  dest       : BitVec 18
  mmask      : BitVec 16
  rank       : BitVec 12
  collId     : BitVec 32
  step       : BitVec 64
  chunk      : BitVec 32
  scale      : BitVec 128
  childRanks : List (BitVec 12)
  ovf        : BitVec 8
  addr       : BitVec 48
  rsv        : Nat
deriving DecidableEq, Repr

/-! ## The plan image -/

/-- A torus axis (R80). -/
inductive Axis where
  | x | y | z
deriving DecidableEq, Repr

/-- One line of a multicast group of a plan (R157): the axis, the heat-relative coordinates on the other two axes
(lower axis first), and the sending rank, or none for a group that the hub sends to. -/
structure PlanGroup where
  axis   : Axis
  at1    : Nat
  at2    : Nat
  sender : Option Nat
deriving DecidableEq, Repr

/-- A run that the plan needs (RUN_COUNT, R182): its source rank, its end (a rank, or none for the hub) and share. -/
structure PlanRun where
  src   : Option Nat
  dst   : Option Nat
  share : Nat
deriving DecidableEq, Repr

/-- A collective descriptor (Table 7-11) with its sections decoded: the reduction tree as (rank, parent) pairs and
the result groups and owners. The byte form of those two sections is not in the manual. `rsv` gathers reserved bits. -/
structure CollDesc where
  collId    : BitVec 32
  kind      : Nat
  op        : Nat
  inFmt     : Nat
  outFmt    : Nat
  path      : Nat
  scale0    : Int
  scaleStep : Nat
  outScale  : Int
  chunkPlen : Nat
  cruBase   : Nat
  elements  : Nat
  tree      : List (Nat × Option Nat)
  groups    : List PlanGroup
  owners    : List Nat
  rsv       : Nat
deriving DecidableEq, Repr

/-- The sections of a collective descriptor whose byte form the manual does not give: the reduction tree as (rank, parent) pairs,
and the result groups and owners (Table 7-11). -/
structure CollSections where
  tree   : List (Nat × Option Nat)
  groups : List PlanGroup
  owners : List Nat
deriving DecidableEq, Repr

/-- What a plan image holds in sections whose byte form or place the manual does not give: those of each descriptor, the runs that
RUN_COUNT counts, and the module slots of the other pods in which the plan has heats (R46). -/
structure PlanSections where
  colls : List CollSections
  runs  : List PlanRun
  pods  : List Nat
deriving DecidableEq, Repr

/-- A segment descriptor (Table 8-3). -/
structure Seg where
  first    : Nat
  count    : Nat
  program  : Nat
  momFmt   : Nat
  userProg : Nat
  rows     : Nat
  cols     : Nat
  consts   : List (BitVec 32)
  rsv      : Nat
deriving DecidableEq, Repr

/-- A user program record (R317). -/
structure UserProg where
  slots  : Nat
  ops    : Nat
  instrs : List (BitVec 32)
  rsv    : Nat
deriving DecidableEq, Repr

/-- The update section (Tables 8-2, 8-3; R310 to R312, R317). -/
structure UpdateSec where
  forgeColl     : BitVec 32
  hearthBase    : Nat
  gradFmt       : Nat
  woutFmt       : Nat
  clip          : Bool
  lsDynamic     : Bool
  skipNonfinite : Bool
  lsExp         : Int
  lsInterval    : Nat
  clipMax       : BitVec 32
  saveEvery     : Nat
  sched         : List (Nat × BitVec 32)
  segs          : List Seg
  progs         : List UserProg
  rsv           : Nat
deriving DecidableEq, Repr

/-- A plan image (Table 7-10) with its sections decoded. `hash` stands for the image's bytes where only their
SHAKE256 hash matters; `pods` names the module slots of the other pods in which the plan has heats (R46; the manual places the list nowhere). -/
structure PlanImage where
  magic        : BitVec 32
  format       : Nat
  compilerVer  : BitVec 32
  spliceOk     : Bool
  stateless    : Bool
  tierCOk      : Bool
  timed        : Bool
  imageBytes   : Nat
  kx           : Nat
  ky           : Nat
  kz           : Nat
  ringNeed     : BitVec 3
  resendUs     : Nat
  stepPeriod   : Nat
  colls        : List CollDesc
  groupCount   : Nat
  pods         : List Nat
  runs         : List PlanRun
  update       : Option UpdateSec
  hash         : BitVec 256
  rsv          : Nat
deriving DecidableEq, Repr

/-! ## The installation record (R112, Table 3-1) -/

/-- One entry of the agent list: strap identity, kind, and for an endpoint its torus coordinates. -/
structure AgentEntry where
  strap    : BitVec 16
  isSwitch : Bool
  x        : Nat
  y        : Nat
  z        : Nat
deriving DecidableEq, Repr

/-- What stands at the far end of a port: nothing, an agent's port, a Chrohar port, or the module in a quad slot. -/
inductive Far where
  | none
  | entry (e : Nat) (port : Nat)
  | chrohar (port : Nat)
  | peer (slot : Nat)
deriving DecidableEq, Repr

/-- Edge wiring of one switch port: its installed width and its neighbour. -/
structure EdgeWire where
  sw    : Nat
  port  : Nat
  width : Nat
  far   : Far
deriving DecidableEq, Repr

/-- One Chrohar link: split code, and the neighbour and minimum width of each lane group. -/
structure ChLink where
  link  : Nat
  split : Nat
  ports : List (Far × Nat)
deriving DecidableEq, Repr

/-- The spare declaration (R143); the row form lists one index per row, the lower remaining axis fastest. -/
inductive Spares where
  | none
  | row (axis : Axis) (index : List Nat)
  | plane (axis : Axis) (index : Nat)
deriving DecidableEq, Repr

/-- The installation record. `minOver` lists (entry, port, minimum); `peers` lists (link, slot). -/
structure InstRecord where
  ex         : Nat
  ey         : Nat
  ez         : Nat
  agents     : List AgentEntry
  edges      : List EdgeWire
  links      : List ChLink
  minDefault : Nat
  minOver    : List (Nat × Nat × Nat)
  spares     : Spares
  quadN      : Nat
  peers      : List (Nat × Nat)
deriving DecidableEq, Repr

/-! ## Other interfaces -/

/-- Where a session comes in (R34, R450, R472): a management port, with the address that the client reached there (an IPv4
address in its mapped form), or the tongs port. -/
inductive SessPath where
  | mgmt (port : Nat) (dest : BitVec 128)
  | tongs
deriving DecidableEq, Repr

def SessPath.isTongs (p : SessPath) : Bool := p == .tongs

/-- The management port of a path; 2 for the tongs port. -/
def SessPath.port (p : SessPath) : Nat :=
  match p with
  | .mgmt port _ => port
  | .tongs => 2

/-- A register write that has no row of its own (R12, R385, R388, R379). -/
inductive RegWrite where
  /-- A 64-bit write at an offset of a function's BAR0 above the command window. -/
  | bar0 (fn : Nat) (off : Nat) (v : BitVec 64)
  /-- Bytes written into a function's command window (R389, R390). -/
  | window (fn : Nat) (off : Nat) (bytes : List Byte)
  /-- A 64-bit write into the module register space of PF0 (R388). -/
  | bar2 (off : Nat) (v : BitVec 64)
  /-- VF Enable and NumVFs of PF0 (R381, R384). -/
  | vfs (enable : Bool) (count : Nat)
  /-- A write on an agent's local register bus (R379). -/
  | agentReg (a : Nat) (off : Nat) (v : BitVec 64)
deriving DecidableEq, Repr

/-- An ember packet (Table 15-2): type, FLAGS bit LAST, SEQ, OBJECT, OFFSET, SRC_UNIT, payload and CRC-64, with SENT_CUM of the
frame word that it came in, FREED_CUM of its link's control cells so far, and the hop check of its frame (R59, R60, R83 to R85,
R521). -/
structure EmberPkt where
  type    : BitVec 8
  last    : Bool
  seq     : Nat
  object  : BitVec 64
  offset  : BitVec 64
  srcUnit : BitVec 64
  payload : List Byte
  crc     : BitVec 64
  sent    : BitVec 16
  freed   : BitVec 16
  hop     : BitVec 32 := 0
deriving DecidableEq, Repr

/-- One operator credential entry (R454): VALID, the OID of its algorithm, and the root and seed of the key. -/
structure Cred where
  valid : Bool
  oid   : BitVec 32
  root  : BitVec 256
  seed  : BitVec 256
deriving DecidableEq, Repr

/-- A session message after its header (Tables 12-3, 12-4): header TYPE, COUNTER, reserved bits gathered in `rsv`,
the body and the tag. -/
structure SessMsg where
  counter : Nat
  rsv     : Nat
  body    : List Byte
  tag     : BitVec 128
deriving DecidableEq, Repr

/-- One sample of a recorder series at a second boundary (R502): series, unit, value; a COUNT series gives the
occurrences of the second that ends. -/
structure Sample where
  series : BitVec 16
  unit   : BitVec 16
  value  : Int
deriving DecidableEq, Repr

/-- What PACKET_ARRIVAL names: the place where a packet is taken, and whether what it adds to holds an uncorrectable word (R31). -/
structure SiteRead where
  site      : Site
  dataError : Bool
deriving DecidableEq, Repr

/-- What a memory tier has read: tier P, B or C (0 to 2), and whether a word of it is uncorrectable (R31). -/
structure TierRead where
  tier      : Nat
  dataError : Bool
deriving DecidableEq, Repr

/-- What PLAN_LOAD brings: the bytes of the plan image in the data buffer, and the sections that have no byte form. -/
structure PlanData where
  bytes    : List Byte
  sections : PlanSections
deriving DecidableEq, Repr

/-- A PLAN_LOAD_CACHED command, and whether tier C gives an uncorrectable word of the entry (R31). -/
structure CachedLoad where
  id        : Nat
  dataError : Bool
deriving DecidableEq, Repr

/-- The commands: one constructor per row of spec/opcode_table.json, in the table's order. -/
inductive Instr where
  -- registers
  | registerWrite (w : RegWrite)
  | evtLostRead (fn : Nat)
  | portErrRead (a : Nat) (port : Nat)
  | dstFullDropsRead (a : Nat)
  | cfgCommit (fn : Nat) (v : BitVec 64)
  | cmdEnWrite (fn : Nat) (v : Bool)
  | evtEnWrite (fn : Nat) (v : Bool)
  | eventHeadWrite (fn : Nat) (v : BitVec 64)
  | agentCommit (a : Nat) (v : BitVec 64)
  | tdGo (v : BitVec 64)
  | quoteDone (dmaOk : Bool)
  -- power-on
  | powerOn
  | grantQueryRetry
  | pllLock
  | fuseMapLoaded (recs : List (BitVec 32)) (crc : BitVec 32)
  | configReadDone
  | waveSettled
  | bellowsSubstep
  | waveFail (rail : Nat)
  | bellowsRetryExpire
  | coolantWaitTimeout
  | linkTestDone (failing : List (BitVec 32))
  | computeTestDone (failing : List (BitVec 32))
  | managerReady
  | lockLost
  | governorAdmit
  | powerLimit (package : Bool) (watts : Nat)
  | thermalThrottle (unit : Nat) (celsius : Int)
  | thermalTrip (unit : Nat) (celsius : Int)
  | thermalTripRestart
  | inputFault (cause : Nat) (milliVolts : Nat)
  | railFault (rail : Nat) (kind : Nat)
  | inputSwitchClose
  | ejectOpen
  | perstN
  | functionLevelReset (fn : Nat)
  | coolantOk (flow : BitVec 16) (inlet : BitVec 8)
  | coolantLost
  | claimOpen (isOpen : Bool)
  | credClear
  | fabricGrant
  | standby
  | confirmReq
  | status
  -- agent reset, ports and cells
  | agentRstNAssert (a : Nat)
  | agentRstNDeassert (a : Nat) (strap : BitVec 16) (switchBuild : Bool) (instW : List (BitVec 3)) (minW : List (BitVec 3))
  | trainingAttemptStart (site : Site) (port : Nat)
  | trainingWindowClose (site : Site) (reports : List LaneReport)
  | laneUpChange (site : Site) (port : Nat) (lanes : BitVec 8)
  | identifyTimeout (site : Site) (port : Nat)
  | controlCellSend (site : Site) (port : Nat)
  | idleCell (site : Site) (port : Nat) (cell : CtlCell)
  | lapExchangeCell (site : Site) (port : Nat) (cell : CtlCell)
  | lapSlew (a : Nat)
  | neighbourDiscoveryCell (site : Site) (port : Nat) (cell : CtlCell)
  | forgetCell (site : Site) (port : Nat) (cell : CtlCell)
  | forgetSendEnd (a : Nat)
  -- packets and flows
  | frameReceive (site : Site) (port : Nat) (f : Frame)
  | frameSend (site : Site) (port : Nat)
  | packetArrival (x : SiteRead)
  | contribHeldAccept
  | treePartReceive (a : Nat)
  | treeSumFormed (a : Nat)
  | ackTimerExpire (site : Site) (key : FlowKey)
  | ackReceive (site : Site)
  | flowWindowSend (site : Site) (key : FlowKey)
  | mcastChangedSetSend (site : Site) (key : FlowKey)
  | nak (site : Site)
  | mgrBusy (site : Site)
  | busyHoldExpire (site : Site) (key : FlowKey) (seq : Seq)
  | hubPacketPaused
  | resendTimerExpire (site : Site) (key : FlowKey) (seq : Seq)
  | mgrFlowRestart (a : Nat) (key : FlowKey) (seq : Seq)
  | fenceNotice (site : Site) (key : FlowKey) (position : Nat) (lifted : Bool)
  | injectDescriptor (a : Nat) (d : Desc) (payload : List Byte)
  | deliveryRoomResume (a : Nat)
  | dlvStall (a : Nat)
  | timedRelease (a : Nat) (barrier : BitVec 32)
  | paceArrive
  | paceRelease (a : Nat)
  -- discovery
  | discoverQuery (a : Nat)
  | discoverReply
  | discoverReplyTimeout
  | discoveryStart
  | linkEvent
  | linkTilePortChange (port : Nat)
  -- routes and control operations
  | routeComputeDone
  | drainExpire
  | runTeardownWaitExpire
  | tableBillet (a : Nat)
  | tblFlip (a : Nat)
  | tblRetire (a : Nat)
  | tblState (a : Nat)
  | tblSeed (a : Nat)
  | fence (a : Nat)
  | unfence (a : Nat)
  | collRetry (a : Nat)
  | portHold (a : Nat)
  | ctlAdmit (a : Nat)
  | flowClear (a : Nat)
  | bridgeSet (a : Nat)
  -- the manager
  | ctrlReply
  | fenceAck
  | endpointReport
  | resendFail
  | resendFailGatherExpire (heat : Nat)
  | agentIsolationTimeout (a : Nat)
  | probeTimer
  | probeWindowClose (entry : Nat)
  | heatQueueHead
  -- the Hearths
  | hearthGradientReceive (h : Nat) (dataError : Bool)
  | meshTransferAccept (h : Nat)
  | hearthRecordUpdate (h : Nat) (x : TierRead)
  | hearthPassEnd (h : Nat)
  | normDecision
  -- saving, partial reset, memory
  | fabricImageSave
  | watchdogExpire (core : Nat)
  | managerStateUncorrectable
  | prPhaseEnd (failing : List (BitVec 32))
  | memLinkLoss (tier : Nat) (link : Nat)
  | configWriteDone (readBackOk : Bool)
  | irqGapExpire (fn : Nat) (vector : Nat)
  | quenchPageDone
  | reencryptPageDone
  -- sessions
  | clientHello (path : SessPath) (source : BitVec 128) (credIndex : BitVec 8) (events : Bool) (nonce : BitVec 256) (rsv : Nat)
  | clientAuth (session : Nat) (ciphertext : List Byte) (sigIndex : Nat) (signature : List Byte) (rsv : Nat)
  | sessionCommand (session : Nat) (m : SessMsg)
  | sessionClose (session : Nat) (m : SessMsg)
  | sessionIdleTimeout (session : Nat)
  | sessionBlockExpire (source : BitVec 128)
  -- firmware and recorder
  | healthCheck (coresServiced : Bool) (recorderOk : Bool)
  | fwDeadline
  | recorderSample (samples : List Sample)
  | recorderWindowClose
  | recorderCheckpoint
  -- ember links
  | emberSend
  | emberAckTimer
  | emberResendExpire (seq : Nat)
  | emberHeartbeatSend
  | emberLinkSilent (link : Nat)
  | emberLostTimer
  | fabric (link : Nat) (p : EmberPkt)
  | journal (link : Nat) (p : EmberPkt)
  | page (link : Nat) (p : EmberPkt)
  | stepDone (link : Nat) (p : EmberPkt)
  | key (link : Nat) (p : EmberPkt)
  | keyDestroy (link : Nat) (p : EmberPkt)
  | config (link : Nat) (p : EmberPkt)
  | heartbeat (link : Nat) (p : EmberPkt)
  | emberAck (link : Nat) (p : EmberPkt)
  | handover (link : Nat) (p : EmberPkt)
  | taken (link : Nat) (p : EmberPkt)
  | takenTimeout
  -- host commands: the accepted command number, and what its data buffer brings
  | devIdentify (id : Nat)
  | devStatus (id : Nat)
  | devPartialReset (id : Nat)
  | devCalRead (id : Nat)
  | devCalWrite (id : Nat) (data : List Byte)
  | topoRecWrite (id : Nat) (data : List Byte)
  | topoRecCommit (id : Nat)
  | topoRecRead (id : Nat)
  | topoDiscover (id : Nat)
  | topoEntryHold (id : Nat)
  | topoReadmit (id : Nat)
  | topoProbeSet (id : Nat)
  | topoEntryQuery (id : Nat)
  | topoPortRetrain (id : Nat)
  | routeFull (id : Nat)
  | routeDrainSet (id : Nat)
  | routeQuery (id : Nat)
  | heatCarve (id : Nat)
  | heatRelease (id : Nat)
  | heatFence (id : Nat)
  | heatUnfence (id : Nat)
  | heatQuery (id : Nat)
  | heatList (id : Nat)
  | tenantSet (id : Nat)
  | tenantGet (id : Nat)
  | planLoad (id : Nat) (image : PlanData)
  | planLoadCached (x : CachedLoad)
  | planGo (id : Nat)
  | planStop (id : Nat)
  | cacheList (id : Nat)
  | cacheDrop (id : Nat)
  | savedList (id : Nat)
  | savedDiscard (id : Nat)
  | stateImport (id : Nat) (data : List Byte)
  | stateExport (id : Nat) (dataError : Bool)
  | updateQuery (id : Nat)
  | memQuery (id : Nat)
  | cacheSet (id : Nat)
  | memRetrain (id : Nat)
  | secQuote (id : Nat)
  | secKeyRotate (id : Nat)
  | secKeyState (id : Nat)
  | secIndexState (id : Nat)
  | secCredSet (id : Nat) (data : List Byte)
  | fwPiece (id : Nat) (piece : List Byte)
  | fwStatus (id : Nat)
  | fwActivate (id : Nat)
  | fwDiscard (id : Nat)
  | recQuery (id : Nat)
  | recRead (id : Nat)
  | recClear (id : Nat)
  | redStatus (id : Nat)
  | redSaveNow (id : Nat)
  | redTakeover (id : Nat)
  | redPairSet (id : Nat) (partner : Nat)
  -- the last rows of the table
  | unlistedOpcode (id : Nat)
  | unlistedCtrlOp (a : Nat)
  | perstNDeassert
  | memLinkRetrainDone (tier : Nat) (link : Nat) (up : Bool)
  | thermalThrottleEnd (unit : Nat) (celsius : Int)
  | setdasa (addr : BitVec 7)
deriving DecidableEq, Repr

end Sys2Proof
end

