-- ==== Sys2Proof/Decode.lean ====
section
/-! DEFINITION. Words of the opcode table: no row of spec/opcode_table.json gives bits (a command of this block is a
happening, not a word), so no word spells a command. -/

namespace Sys2Proof

/-- The command that a word spells by the bits of the table: none, for no row has bits. -/
def decodeTableWord (_nbits _w : Nat) : Option Instr := none

end Sys2Proof
end

