-- ==== Sys2Proof/Config.lean ====
section
/-! DEFINITION. What the manual leaves to the implementation or to an outside standard: opaque constants with no body,
so that no proof can use a value of one. Each is named in the assumption log. -/

namespace Sys2Proof

/-- The module serial number, unique per module (Table 0-1). -/
opaque Config.serial : BitVec 64

/-- Lenyon's assigned PCIe Vendor ID (Table 0-1). -/
opaque Config.vendorId : BitVec 16

/-- What the strap inputs of the module read: the carrier ties them (R552). -/
opaque Config.strapPins : BitVec 16

/-- The factory MAC address of a management port (R450). -/
opaque Config.mgmtMac : Nat → BitVec 48

/-- The factory serial number of the agent at an entry (Table 9-12, reset fuse). -/
opaque Config.agentSerial : Nat → BitVec 64

/-- A value that the manual leaves open, drawn by the count of such values so far. -/
opaque Config.freeNat : Nat → Nat

/-- A 256-bit draw of the trust die's random bit generator (R142, R464), by the count of draws so far. -/
opaque Config.random : Nat → BitVec 256

/-- SHAKE256, 32 bytes of output, of a byte string (R54, R452, R481; the function is an outside standard). -/
opaque Config.shake256 : List Byte → BitVec 256

/-- 96 bytes of SHAKE256 output, from which session keys come (R452). -/
opaque Config.shake256Wide : List Byte → BitVec 768

/-- Whether a signature verifies over a message hash, under a public key given by its OID, root and seed (R452, R484;
XMSS is an outside standard). -/
opaque Config.sigVerifies : BitVec 32 → BitVec 256 → BitVec 256 → BitVec 256 → List Byte → Bool

/-- The OIDs of XMSS-SHAKE256_20_256 and XMSS^MT-SHAKE256_60/3_256 (Table 12-1; the numbers are an outside standard). -/
opaque Config.oidXmss : BitVec 32

opaque Config.oidXmssMt : BitVec 32

/-- A signature by a key of the trust die (1 identity, 2 attestation) with an index over a message (R446, R458). -/
opaque Config.sign : Nat → Nat → List Byte → List Byte

/-- The endorsement of the module (R443, Table 12-5). -/
opaque Config.endorsement : List Byte

/-- The ML-KEM-1024 encapsulation key of a draw, and the shared secret that a ciphertext carries for it (R452). -/
opaque Config.encapKey : Nat → List Byte

opaque Config.decapsulate : Nat → List Byte → List Byte

/-- Whether an AES-256-GCM tag holds, by direction key, counter, header and body (R451). -/
opaque Config.tagHolds : BitVec 256 → Nat → List Byte → List Byte → BitVec 128 → Bool

/-- A body sealed under AES-256-GCM with its tag, by direction key, counter, header and body (R451). -/
opaque Config.seal : BitVec 256 → Nat → List Byte → List Byte → List Byte

/-- Positions of an index area that read back wrong before a record reads back right, by a draw of open values (R446). -/
opaque Config.badPositions : Nat → Nat

/-- The plain text of an AES-256-GCM body, by direction key, counter and body (R451). -/
opaque Config.decrypt : BitVec 256 → Nat → List Byte → List Byte

/-- The key pair that an AES-256-KW wrapped body holds under the pairing key (R471). -/
opaque Config.unwrap : BitVec 256 → List Byte → BitVec 512

/-- The installation record that a byte string spells; the manual gives the record no byte form (R112, R408). -/
opaque Config.recordOf : List Byte → Option InstRecord

/-- The bytes of an installation record, for TOPO_REC_READ. -/
opaque Config.recordBytes : InstRecord → List Byte

/-- Root and seed of the public key of Lenyon that verifies firmware images (Table 12-1). -/
opaque Config.lenyonRoot : BitVec 256

opaque Config.lenyonSeed : BitVec 256

/-- The AES-256-KW body that carries a key pair under a pairing key (R471). -/
opaque Config.wrapKey : BitVec 256 → BitVec 512 → List Byte

/-- A message of the other trust die in the handshake of a pairing, by a draw of open values (R471, Table 12-4). -/
opaque Config.partnerMsg : Nat → List Byte

/-- The ML-KEM-1024 ciphertext toward the key in a SERVER_HELLO, and the secret that it carries, by a random draw (R452, R471; an
outside standard). -/
opaque Config.encapText : List Byte → Nat → List Byte
opaque Config.encapSecret : List Byte → Nat → List Byte

/-- The activity above idle, in A, that the units of a rail ask for at an admission (R421): by rail and the count of open
values so far. -/
opaque Config.activity : Nat → Nat → Nat

/-- DST_EID of a billet that an endpoint sends on a run: the descriptor gives a RUN_ID or an axis and no EID (R363,
R364). -/
opaque Config.runDest : BitVec 12 → Eid

/-- MIN, MIN_AT, MAX and MAX_AT of an EXTREME record whose window took no sample (R503), by field. -/
opaque Config.emptyExtreme : Nat → Int

/-- Whether a write to, or a read from, host memory fails on PCIe (R394, Table 10-11), by a draw of open values. -/
opaque Config.hostFails : Nat → Bool

/-- The bytes of the journal record of an index after a fabric image; the manual gives it no byte form (R438). -/
opaque Config.journalBytes : BitVec 64 → BitVec 64 → List Byte

/-- The 8 check bits of the SEC-DED code over the 64 data bits of a word: the manual gives the code's size and no more (R30). -/
opaque Config.checkBits : BitVec 64 → BitVec 8

/-- AES-256-XTS of a data unit of 64 bytes, by the tenant's key pair and the tweak (R32, R462; an outside standard). -/
opaque Config.xts : BitVec 512 → BitVec 128 → BitVec 512 → BitVec 512

/-- The plain text of a data unit, by the key pair and the tweak (R462; an outside standard). -/
opaque Config.xtsOpen : BitVec 512 → BitVec 128 → BitVec 512 → BitVec 512

/-- The tier C unit address of a data unit of a fabric image (R438, R462): by image number and index. -/
opaque Config.moduleUnit : BitVec 64 → Nat → Nat

/-- The ciphertext of a data unit of a placed page, and what a page under quench holds: by tier, pile and unit; the manual lays no
record out in a page (R462, R472). -/
opaque Config.tierText : Nat → Nat → Nat → BitVec 512

/-- A word of on-chip SRAM that an engine uses, by address: the manual gives SRAM no map (R472). -/
opaque Config.sramWord : Nat → BitVec 64

/-- The tier C unit address of the page from which 4,096 bytes of a saved state come, by heat, step and index (Table 15-3). -/
opaque Config.pageUnit : Nat → Nat → Nat → BitVec 64

/-- An element of a swage block that carries the raw marker on the ingot path: the manual gives it no value (R261, R262,
R272), by element index. -/
opaque Config.markedIngot : Nat → Int

/-- A byte of a broadcast whose source is the hub: the manual gives the hub no data to send (R284); by COLL_ID, step, chunk and
place in the chunk. -/
opaque Config.hubByte : BitVec 32 → Nat → Nat → Nat → BitVec 8

/-- The notice code under which a happening that the manual says is recorded stands, where Table 14-4 gives it none: 0 a
RESEND_FAIL that goes no further and 1 a LINK_EVENT of a held port (R253). -/
opaque Config.noticeCode : Nat → BitVec 16

/-- INSTANCE of the ROUTE_GAP notice of an entry that fails the rank check: Table 14-4 gives it none (R168). -/
opaque Config.rankInstance : BitVec 16

/-- The factory calibration set (R409). -/
opaque Config.factoryCal : List Byte

/-- Whether the stored calibration set passes its check when it is read, by a draw of open values (R409). -/
opaque Config.calGood : Nat → Bool

/-- The firmware image that the module leaves the factory with (R477). -/
opaque Config.factoryImage : List Byte

/-- Whether a piece written into the firmware flash reads back right, by a draw of open values (R482). -/
opaque Config.flashGood : Nat → Bool

/-- 2 MiB pages of a tier P pile that rows without a spare take, by their INDEX values (R426, Table 11-7). -/
opaque Config.rowPages : List Nat → Nat

/-- 2 MiB pages that a tier B (1) or C (2) pile reports as not repairable (R426), by tier and pile. -/
opaque Config.pilePages : Nat → Nat → Nat

/-- The key, tenant × 4 + generation, under which a mirrored page's ciphertext stands: an ember packet does not name it
(R528, Table 15-3); by heat number, step and page offset. -/
opaque Config.pageKey : Nat → Nat → Nat → Nat

end Sys2Proof
end

