-- ==== Sys2Proof/Machine/State.lean ====
section
/-! DEFINITION. The state of the block: everything the manual gives the module and the agents it manages, as plain
data, and the state right after reset. Field docstrings cite the rule that names the state. -/

namespace Sys2Proof.Machine

open Sys2Proof

/-- No happening of the manual stops the block as a whole with a fault: a power loss, a halt of the bellows and a
held compute domain are states, not stops. Nobody raises a fault, so the type has no constructor. -/
inductive Fault where
deriving DecidableEq, Repr

/-- Reasons a command is not carried out. -/
inductive Refusal where
  /-- Raised only by an arm of `exec` for a row that has no meaning yet; no such arm is left. Safe. -/
  | notModelled (mnemonic : String)
deriving DecidableEq, Repr

/-! ## Ports -/

/-- Credit counters of one virtual channel at one port, modulo 2^16 (R84, R85): cells sent, FREED_CUM last received,
cells received, cells freed. -/
structure Credit where
  sent      : BitVec 16
  freedSeen : BitVec 16
  received  : BitVec 16
  freed     : BitVec 16
deriving DecidableEq, Repr

/-- The four virtual channels T0, T1, B0, B1 (R79, Table 2-2). -/
structure Vcs where
  t0 : Credit
  t1 : Credit
  b0 : Credit
  b1 : Credit
deriving DecidableEq, Repr

/-- STATE of a port (Table 3-5, in code order 0 to 6). -/
inductive PortState where
  | untrained | training | up | noLane | belowMin | held | idChanged
deriving DecidableEq, Repr

/-- A neighbour's identity (R130): strap identity, port number, unit kind (Table 3-6). -/
structure Nbr where
  strap : BitVec 16
  port  : BitVec 8
  kind  : BitVec 2
deriving DecidableEq, Repr

/-- A frame that waits at an output port: the packet, its channel (Table 2-2 code), whether TBL_RETIRE voided it
(R170, R171), and the input port and channel whose buffer its cells occupy (none for a packet of this place). The copies of
one multicast billet share those cells: `hold` is the number that they have in common (R86). -/
structure QFrame where
  pkt    : Pkt
  vc     : BitVec 2
  void   : Bool
  origin : Option (Nat × BitVec 2)
  hold   : Option Nat
deriving DecidableEq, Repr

/-- A packet that passed the checks of its port and waits to be taken, with its input port and channel, whether its cells
there are still to be returned (not after the port has trained afresh), and what it shares them with. -/
structure Arrived where
  port : Nat
  vc   : BitVec 2
  pkt  : Pkt
  hold : Option Nat
  owed : Bool
deriving DecidableEq, Repr

/-- The stream of cells that a port sends since it trained (R56, R57): the next ordinary slot that is free and the next
control slot, each numbered among its own kind (19 of 20 slots are ordinary, the twentieth is a control slot), FSP by
block for the blocks that have not ended, and the control subtypes sent in the 16 blocks under way. -/
structure TxStream where
  next : Nat
  ctl  : Nat
  fsps : Tab Nat
  sent : List (BitVec 8)
deriving DecidableEq, Repr

/-- One fabric port of an agent (Table 9-17) or of a Chrohar link tile (Table 3-4), with its buffers and counters.
Widths are in lanes. -/
structure Port where
  instW      : Nat
  minW       : Nat
  width      : Nat
  state      : PortState
  laneOk     : BitVec 8
  spareIn    : Nat
  held       : Bool
  nbrSeen    : Bool
  idChanged  : Bool
  nbr        : Nbr
  /-- The identity of the last neighbour cells and how many agreed in a row (R130). -/
  cand       : Nbr
  candCount  : Nat
  /-- Cells in a row that differ from the recorded neighbour (R130). -/
  diffCount  : Nat
  /-- Frames dropped under R61 (PORT_ERR, RC). -/
  errCount   : BitVec 64
  /-- FENCE_DROPS and FENCE_FIRST (R77). -/
  fenceDrops : BitVec 32
  fenceFirst : LaneKey
  /-- Packets dropped at a dead port (R180). -/
  deadDrops  : Nat
  vcs        : Vcs
  /-- A frame word failed: cells are discarded up to the next FSP (R62). -/
  resync     : Bool
  queue      : List QFrame
  /-- Tally channel served last, T1 when true (R185). -/
  tallyTurn  : Bool
  /-- Deficit per entity: RUN_ID, or 4,096 for the pool (R185). -/
  deficits   : Tab Nat
  lastServed : Nat
  /-- MEAS to send: own LAP at receipt minus the peer's TX_LAP; 0x8000_0000 when none yet (Table 7-9). -/
  meas       : BitVec 32
  /-- The neighbour's DEPTH, 31 when unknown (Table 7-9). -/
  nbrDepth   : Nat
  tx         : TxStream
  /-- Pn_IDLE: the transmitters are held in electrical idle (R347, R348). -/
  idle       : Bool
  /-- The neighbour's identity changed, and no new discovery has begun since (R130). -/
  shut       : Bool
  /-- LAP when WIDTH, STATE, the neighbour or ID_CHANGED last changed (EVT_LAP of Table 9-7); kept for an agent's ports. -/
  changedAt  : BitVec 64
deriving DecidableEq, Repr

/-! ## Flows -/

/-- A copy that a source keeps (R90): the packet as last sent, tries sent so far (R95), whether its timer runs, the
hold after a MGR_BUSY (R99), the original MMASK with the positions acknowledged and fenced (R107), and the TAG of the
inject descriptor it came from, with the descriptor itself where each try reads its payload from ADDR (R366). -/
structure Copy where
  pkt    : Pkt
  tries  : Nat
  timer  : Bool
  busy   : Option Nat
  mask   : BitVec 16
  acked  : BitVec 16
  fenced : BitVec 16
  tag    : Option (BitVec 16)
  desc   : Option Desc := none
deriving DecidableEq, Repr

/-- A packet that waits for its flow window or for a changed position set (R90, R562). -/
structure Waiting where
  pkt : Pkt
  tag : Option (BitVec 16)
  desc : Option Desc := none
deriving DecidableEq, Repr

/-- A source flow record (R88 to R98, R107 to R109, R562). `latest` is A of R90, or C for multicast. -/
structure SrcFlow where
  key     : FlowKey
  next    : Seq
  latest  : Seq
  copies  : List Copy
  waiting : List Waiting
  failed  : Bool
  baseUs  : Nat
  fenced  : BitVec 16
  lastSet : Option (BitVec 16)
deriving DecidableEq, Repr

/-- A destination flow record (R89, R93, R100). `position` is the own position of a multicast flow; `stamp` is the
EPOCH of the last packet accepted when that packet was a TABLE billet (R173). -/
structure DstFlow where
  key      : FlowKey
  ackSeq   : Seq
  arrivals : BitVec 64
  sinceAck : Nat
  timer    : Bool
  held     : List Pkt
  position : BitVec 4
  stamp    : Option (BitVec 2)
deriving DecidableEq, Repr

/-! ## Agents -/

/-- State of a table slot (Table 4-10; coded 0 to 3 as in Table 9-5). -/
inductive SlotState where
  | empty | staged | current | draining
deriving DecidableEq, Repr

/-- A table slot of an agent (R169): state, epoch, route, hub route and group tables (Tables 4-5, 4-6). -/
structure Slot where
  state  : SlotState
  epoch  : BitVec 2
  routes : Tab (BitVec 8)
  hubs   : Tab (BitVec 8)
  groups : Tab (BitVec 64)
deriving DecidableEq, Repr

/-- The shadowed ring registers (R379). -/
structure RingCfg where
  sumBase  : BitVec 64
  injBase  : BitVec 64
  cplBase  : BitVec 64
  freeBase : BitVec 64
  dlvBase  : BitVec 64
  tdlvBase : BitVec 64
  size     : BitVec 64
deriving DecidableEq, Repr

/-- The endpoint interface (R363, Tables 9-12, 9-15): enables, shadow and live ring registers, the endpoint's and the
agent's indices, and the PHASE bits of the three rings the agent writes. -/
structure Rings where
  en       : Bool
  pause    : Bool
  live     : RingCfg
  shadow   : RingCfg
  injTail  : BitVec 64
  cplHead  : BitVec 64
  freeTail : BitVec 64
  dlvHead  : BitVec 64
  tdlvHead : BitVec 64
  injHead  : BitVec 64
  freeHead : BitVec 64
  cplTail  : BitVec 64
  dlvTail  : BitVec 64
  tdlvTail : BitVec 64
  cplPhase  : Bool
  dlvPhase  : Bool
  tdlvPhase : Bool
  intStat  : BitVec 64
  intEn    : BitVec 64
deriving DecidableEq, Repr

/-- What waits for room at the endpoint interface: a billet or tally, or a notice (kind 1 retry, 2 timed release,
3 assignment; R363) with the words of its record. -/
inductive Deliv where
  | packet (p : Pkt)
  | notice (kind : Nat) (words : List (BitVec 128))
deriving DecidableEq, Repr

/-- One part combined into a tree chunk (R265): the contributing rank, the elements, OVF and the scale vector. -/
structure TreePart where
  rank  : BitVec 12
  elems : List Int
  ovf   : BitVec 8
  scale : BitVec 128
deriving DecidableEq, Repr

/-- A chunk record of an endpoint agent (R266, R372): its key, whether the own part and the descriptor have come, the
named children, the parts combined, the parent, the sum sent, the TAG, and whether its swage slot is still held. -/
structure ChunkRec where
  collId   : BitVec 32
  step     : BitVec 64
  chunk    : BitVec 32
  scale    : BitVec 128
  own      : Option TreePart
  rank     : BitVec 12
  children : List (BitVec 12)
  parts    : List TreePart
  dest     : Eid
  plen     : BitVec 4
  tag      : BitVec 16
  sent     : Option Pkt
  slot     : Bool
deriving DecidableEq, Repr

/-- Lock state of a lap counter (Table 7-9). -/
inductive LapLock where
  | free | stepping | locking | locked | holdover
deriving DecidableEq, Repr

/-- An agent's lap counter (R292 to R295, R376): counter, lock state, parent port, last offsets (at most 64), the delay
to the parent of the last exchange (R294), and the last frequency correction (R295): the sixteenth of a tick added or
withheld at the last slew. -/
structure LapSync where
  lap     : BitVec 64
  lock    : LapLock
  parent  : Option Nat
  depth   : Nat
  offsets : List Int
  delay   : Int
  correction : Int
  /-- Ticks since the last slew (R295: at most one in 64). -/
  sinceSlew : Nat
deriving DecidableEq, Repr

/-- What guards an agent's barriers of one collective (R291): the barrier step guarded, its FALLBACK_LAP (zero when
none), whether the rank has sent PACE_ARRIVE for it, the steps passed by fallback, and TIMED of the next PACE_ARRIVE. -/
structure Guard where
  barrier  : BitVec 32
  step     : BitVec 32
  fallback : BitVec 64
  arrived  : Bool
  passed   : List (BitVec 32)
  timed    : Bool
deriving DecidableEq, Repr

/-- One GA-2 agent (09_goson_agent.md). -/
structure Agent where
  /-- AGENT_RST_N is asserted (R343). -/
  inReset    : Bool
  isSwitch   : Bool
  strap      : BitVec 16
  eid        : Option Eid
  mgrEid     : Option Eid
  uplink     : Option Nat
  discTag    : BitVec 64
  forgetting : Bool
  discTab    : Tab Nat
  stamp      : BitVec 64
  slot0      : Slot
  slot1      : Slot
  runs       : Tab (BitVec 32)
  attrs      : Tab (BitVec 8)
  keys       : Tab (BitVec 256)
  /-- Entry 16 as a fence found it: its lane keys are not withdrawn before entry 16 is loaded again (R88, R216). -/
  fencedKeys : BitVec 256
  /-- Positions of a multicast flow that the manager has said are fenced (R108), by flow. -/
  groupFences : List (FlowKey × BitVec 16)
  bridge     : Tab (BitVec 64)
  /-- TABLE billets rejected since the last TBL_FLIP reply (R356). -/
  rejected   : Nat
  ports      : Tab Port
  /-- FENCE_DROPS and FENCE_FIRST of the local port (R76, R77). -/
  localDrops : BitVec 32
  localFirst : LaneKey
  srcs       : List SrcFlow
  dsts       : List DstFlow
  dstFull    : BitVec 64
  /-- Packets that passed the port checks and wait to be taken, with their arrival port. -/
  arrived    : List Arrived
  /-- Numbers given so far to multicast billets whose copies share input cells (the model's own field). -/
  holds      : Nat
  /-- Accepted packets that wait to be applied or combined. -/
  inbox      : List Pkt
  rings      : Rings
  /-- The endpoint's memory as far as descriptors have shown it: what stood at an ADDR, the newest first (R366). -/
  input      : List (BitVec 48 × List Byte)
  /-- Buffers that baton billets held under R100 keep, by flow and number (R368). -/
  buffers    : List (FlowKey × Seq × BitVec 64)
  /-- Deliveries and notices that wait for a buffer or ring room (R368, R369). -/
  room       : List Deliv
  chunks     : List ChunkRec
  lapSync    : LapSync
  guards     : List Guard
deriving DecidableEq, Repr

/-! ## The link tiles -/

/-- One epoch of the link tiles' hub route table: destination EID to Chrohar port (R165). -/
structure TileTable where
  epoch : BitVec 2
  dest  : Tab Nat
deriving DecidableEq, Repr

/-- The eight link tiles (link domain): the Chrohar ports, the spare pairs in each tile's pool (R125), the lane that
each committed spare serves, the two hub route tables (R165), the tenant bitmaps (R211), the port changes logged
during a pause (R439), and the 20 ms of forget cells (R142). -/
structure LinkTiles where
  ports      : Tab Port
  pools      : Tab (List Nat)
  onSpare    : Tab Nat
  current    : TileTable
  other      : TileTable
  bitmaps    : Tab (List Nat)
  log        : List Nat
  forgetting : Bool
  /-- Lanes, by 8 × link + lane, recorded in this power cycle as faults in the die and outside it (R126). -/
  dieFaults  : List Nat
  outFaults  : List Nat
deriving DecidableEq, Repr

/-! ## The hub -/

/-- An ingot (R270, R271): a special value, or a finite multiple of 2^-149. -/
inductive Ingot where
  | nan | posInf | negInf
  | fin (v : Int)
deriving DecidableEq, Repr

/-- A pass of a chunk (R257): a swage pass at a scale vector, a raw pass, or the single pass of the ingot path. -/
inductive Pass where
  | swage (scale : BitVec 128)
  | raw
  | single
deriving DecidableEq, Repr

/-- An open chunk record of a Crucible (R267, R278): heat, collective, step, chunk, the current pass, the earlier
ones, the contributors counted, the accumulators, OVF and raw markers so far, the settled blocks, the blocks that
the pass covers, the ingots that have come of other pods' totals by module slot (R280), and the exact totals once every
block is settled, kept until the outputs are formed and taken. -/
structure CruChunk where
  heat    : Nat
  collId  : BitVec 32
  step    : BitVec 64
  chunk   : Nat
  pass    : Pass
  earlier : List Pass
  bits    : List Nat
  pods    : Tab (List Ingot)
  acc     : List Ingot
  ovf     : BitVec 8
  raw     : BitVec 8
  settled : Tab (List Ingot)
  ordered : List Nat
  total   : Option (List Ingot)
deriving DecidableEq, Repr

/-- What the completion billet of a forge step adds (R322): FORGE_FLAGS, LS_EXP of the next step, N. -/
structure ForgeEnd where
  flags : BitVec 8
  lsExp : Int
  norm  : BitVec 32
deriving DecidableEq, Repr

/-- A result of an open step as a hub unit sent it: the chunk, the unit, and the billet's header and payload. -/
structure Given where
  chunk   : Nat
  unit    : Nat
  hdr     : BilletHdr
  payload : List Byte
deriving DecidableEq, Repr

/-- An open collective step at the hub (R279, R281, Table 7-6): the counts of its completion record, the chunks whose
outputs are formed, those whose results have been sent, the ranks out of its delivery set (R259), the end of its
update in a forge step, and the results sent so far, which a rank spliced later is sent by unicast (Table 6-6). -/
structure HubStep where
  heat      : Nat
  collId    : BitVec 32
  step      : BitVec 64
  passes    : Nat
  rawBlocks : Nat
  outSat    : Nat
  outNan    : Nat
  formed    : List Nat
  done      : List Nat
  out       : List Nat
  forge     : Option ForgeEnd
  given     : List Given
deriving DecidableEq, Repr

/-- A step completion billet that has not left yet: results of its step to its rank are still to be acknowledged (R281). -/
structure EndDue where
  heat : Nat
  rank : Nat
  pkt  : Pkt
deriving DecidableEq, Repr

/-- A chunk's gradient outputs on their way to, or in the input buffer of, a Hearth (R306, R327): the FP32 or BF16
codes, whether the Hearth has refused the transfer for want of room, and the number of its arrival (R325). -/
structure Grad where
  heat    : Nat
  seq     : Nat
  step    : BitVec 64
  chunk   : Nat
  values  : List (BitVec 32)
  refused : Bool
deriving DecidableEq, Repr

/-- One Hearth at work for one heat (R325, R327, R333, R334): gradients offered over the mesh, the input buffer, the
chunks received in the open forge step, the pass (1 staging, 2 the update), the chunks that it has passed, the records of
the other chunks that each tier has passed (by 3 × chunk + tier), whether the pass has ended, and whether the update has
written a record. -/
structure Hearth where
  offered  : List Grad
  buffer   : List Grad
  received : List Nat
  pass     : Nat
  passed   : List Nat
  prog     : Tab Nat
  ended    : Bool
  written  : Bool
deriving DecidableEq, Repr

/-- A barrier collective at the pacer (R289): heat, BARRIER, the open step, the ranks arrived as (step, rank), the
ranks out of the open step's count, and those that a splice restores from a later step onward (R244 step 7). -/
structure Barrier where
  heat     : Nat
  barrier  : BitVec 32
  openStep : Nat
  arrived  : List (Nat × Nat)
  out      : List Nat
  back     : List (Nat × Nat) := []
deriving DecidableEq, Repr

/-- The hub units: packets for hub EIDs, the flows of every hub unit, Crucibles, Hearths and the pacer. -/
structure Hub where
  arrived  : List Arrived
  inbox    : List Pkt
  srcs     : List SrcFlow
  dsts     : List DstFlow
  chunks   : List CruChunk
  /-- First contributions that wait for a free record or accumulators at the head of their input buffer (R274). -/
  heldBack : List Arrived
  /-- Contributions that came out of their flow's order hold (R100) and wait for a record, in their order. -/
  noRoom   : List Pkt
  steps    : List HubStep
  /-- Step completion billets that wait for the results of their step to be acknowledged (R281, R282). -/
  ends     : List EndDue
  /-- Stray and ahead contributions counted per Crucible (Table 7-5). -/
  stray    : Tab Nat
  /-- Results of a failed flow, kept until they are sent again (R230, R232). -/
  kept     : List Pkt
  /-- By 16 × heat + Hearth. -/
  hearths  : Tab Hearth
  /-- Gradient outputs that the Hearths have taken so far. -/
  gradSeq  : Nat
  barriers : List Barrier
  /-- On-chip SRAM words that a tongs session has written, with their check bits, by address (R30, R472). -/
  sram     : Tab (BitVec 72) := []
deriving DecidableEq, Repr

/-! ## The training state -/

/-- One element's update state (R307, R314): master weight and slots S1 to S4 as stored codes, and its staging slot. -/
structure Elem where
  w      : BitVec 32
  s1     : BitVec 32
  s2     : BitVec 32
  s3     : BitVec 32
  s4     : BitVec 32
  staged : BitVec 32
deriving DecidableEq, Repr

/-- A saved state (R223, R334, R401, R403): the elements that are not zero, the loss-scale state, the factored statistics,
and for a kept one its SAVED_ID, tenant and plan image. -/
structure Saved where
  savedId : Nat
  tenant  : Nat
  hash    : BitVec 256
  image   : Option PlanImage
  step    : Nat
  elems   : Tab Elem
  lsExp   : Int
  applied : Nat
  streak  : Nat
  rowStat : Tab (BitVec 32)
  colStat : Tab (BitVec 32)
  /-- For a kept one, the heat whose saved step it was: its pages are mirrored under that number (R523, R533). -/
  heat    : Nat := 0
  /-- A page of a kept one reads as uncorrectable (R31, Table 12-10). -/
  torn    : Bool := false
deriving DecidableEq, Repr

/-! ## The manager's model -/

/-- Service state of an entry (Table 6-4). -/
inductive Service where
  | inService | failedForwarding | outOfService | repairHeld
deriving DecidableEq, Repr

/-- What the manager holds of one entry: service state, expected stamp (R227), whether discovery reached it, found it
absent or refused its block version, the operating seconds at which it left service (R249), SERIAL_LO, whether it was
reset during discovery (Table 3-10), whether its fence was applied at the boundary (R218), and the Chrohar port behind
which discovery reached it (R135). -/
structure Entry where
  service   : Service
  stamp     : Option (BitVec 64)
  reached   : Bool
  absent    : Bool
  refused   : Bool
  left      : List Nat
  serialLo  : Option (BitVec 32)
  resetOnce : Bool
  boundary  : Bool
  root      : Nat
  /-- An endpoint in no heat that the last full computation left without a hub path (R156). -/
  hubless   : Bool
deriving DecidableEq, Repr

/-- A run of the manager's model (R182, R183): the owning heat, tenant, whether it closes a ring by transit (with its
axis) or bridges a splice, share, and the path as (agent entry, output port), with the agent where it ends. -/
structure Run where
  heat    : Nat
  tenant  : Nat
  transit : Option Axis
  bridge  : Bool
  share   : Nat
  path    : List (Nat × Nat)
  dest    : Nat
deriving DecidableEq, Repr

/-- A multicast group in use (R157, R158): heat, the line, and the entry at the tree's root. -/
structure Group where
  heat   : Nat
  line   : PlanGroup
  root   : Nat
deriving DecidableEq, Repr

/-- The pages a plan holds (R329): per Hearth in tier P, in each of the 24 tier B piles, in tier C, and per saved-step
slot. -/
structure Place where
  p    : List Nat
  b    : List (List Nat)
  c    : List Nat
  save : List Nat
deriving DecidableEq, Repr

/-- The decision of a staged forge step (R320). -/
structure Decision where
  skip      : Bool
  clipped   : Bool
  nonfinite : Bool
  k3        : BitVec 32
  norm      : BitVec 32
deriving DecidableEq, Repr

/-- The loss-scale state and the factored statistics as they stood before a step's decision (R321, R323, R335). -/
structure ScaleState where
  lsExp   : Int
  streak  : Nat
  rowStat : Tab (BitVec 32)
  colStat : Tab (BitVec 32)
deriving DecidableEq, Repr

/-- A plan on a heat (R298 to R300, R321, R401). `opens` gives the open step of each collective that has completed a step
(R279); before that it is the step after `resume`. -/
structure Plan where
  image    : PlanImage
  opens    : List (BitVec 32 × Nat)
  stochastic : Bool
  seed     : BitVec 64
  resume   : Nat
  held     : Bool
  place    : Place
  lsExp    : Int
  /-- Applied updates (R313) and consecutive applied steps (R321). -/
  applied  : Nat
  streak   : Nat
  lastNorm : BitVec 32
  flags    : BitVec 8
  decision : Option Decision
  /-- What the decision of the step changed, for a step that is run again before its update has written a record (R335). -/
  before   : Option ScaleState
  /-- The step that the update pass in progress belongs to. -/
  openStep : Nat
  elems    : Tab Elem
  rowStat  : Tab (BitVec 32)
  colStat  : Tab (BitVec 32)
  lastSaved : Option Saved
  /-- The saved-step slot that holds the last saved step (R334). -/
  slot     : Bool
  /-- The save being written during the update pass (R334). -/
  saving   : Option Saved
  /-- The older saved step, until a save overwrites its slot (R334, R434). -/
  prevSaved : Option Saved := none
deriving DecidableEq, Repr

/-- A RESEND_FAIL as the manager gathers it (R229): source EID and body. -/
structure Failed where
  src  : Eid
  body : BitVec 128
deriving DecidableEq, Repr

/-- An open heat (05_heats.md). Closure and capacity are per axis X, Y, Z; `fenced` and `lost` name entries; `assigned`
holds from the end of its carve until its release begins, and `leaving` once its routes are given up (R221 step 4). -/
structure Heat where
  tenant   : Nat
  seq      : Nat
  ox       : Nat
  oy       : Nat
  oz       : Nat
  kx       : Nat
  ky       : Nat
  kz       : Nat
  codes    : BitVec 64
  closed   : List Nat
  caps     : List Nat
  runs     : List Nat
  assigned : Bool
  leaving  : Bool
  fenced   : List Nat
  /-- Ranks carried by a spare: rank and the spare's entry (R244). -/
  spliced  : List (Nat × Nat)
  /-- A splice under way: the rank and the spare, which the hub takes for the rank at step 7 of R244. -/
  joining  : Option (Nat × Nat)
  plan     : Option Plan
  /-- STATE of R243. -/
  state    : Nat
  /-- Retries of the current step: collective, step and count (R233). -/
  retries  : List (BitVec 32 × BitVec 64 × Nat)
  /-- Flows that failed on the path and have not been cleared and sent again yet (R231, R232). -/
  fails    : List Failed := []
  /-- Rolled back to this saved step this many times in a row (R242). -/
  rollback : Nat × Nat
  lost     : List Nat
  /-- A lost endpoint reported OUTPUT_SUSPECT (Table 6-2) since the last saved step. -/
  suspect  : Bool
  /-- The last saved step is still to be restored: a step failed, or a roll back has begun (Table 6-5 row 1, R242). -/
  restore  : Bool
  /-- SAVED_ID of a stopped heat's kept state (R403). -/
  keptId   : Nat
  mirrored : Option Nat
deriving DecidableEq, Repr

/-- The work that a restart carries to a new heat (R241): the old heat's number, the kept state and the plan. -/
structure Restart where
  heat    : Nat
  savedId : Nat
  plan    : Plan
deriving DecidableEq, Repr

/-- A command of the heat queue (R198); a restart's carve names what it restarts (R241). -/
inductive HeatOp where
  | carve (word : BitVec 64) (restart : Option Restart)
  | release (heat : Nat) (keep : Bool)
  | fence (heat : Nat) (rank : Nat)
  | unfence (heat : Nat) (rank : Nat)
deriving DecidableEq, Repr

/-- An entry of the heat queue, with the tenant records in force when it entered (R193). -/
structure Queued where
  op      : HeatOp
  seq     : Nat
  cmd     : Option Nat
  records : Tab (BitVec 64)
deriving DecidableEq, Repr

/-- One thing a procedure of the manager waits for. -/
inductive Wait where
  /-- The ACK of a packet to an agent's entry, by sequence number. -/
  | ack (entry : Nat) (seq : Seq)
  /-- The CTRL_REPLY of an operation. -/
  | reply (entry : Nat) (op : BitVec 8)
  /-- The FENCE_ACK of an UNFENCE. -/
  | unfenced (entry : Nat)
  | compute (full : Bool)
  | drain
  | teardown
  /-- The reply to a page query of readmission. -/
  | page (entry : Nat)
  /-- The end of the training of a Chrohar port, up and identified or down. -/
  | training (port : Nat)
  /-- The ACK that tells where an agent's manager flow stands (R531). -/
  | handover (entry : Nat)
deriving DecidableEq, Repr

/-- One step of a procedure of the manager; a step acts at once, except `wait`, which holds the procedure until its
waits are empty. -/
inductive MStep where
  | wait
  | compute (full : Bool)
  /-- Widen every lane key table and bitmap that Table 5-5 adds to (R212). -/
  | widen
  /-- Send the TABLE billets of the agents at one hub distance (R172). -/
  | loadRound (entries : List Nat)
  | flip
  | drain
  | retire
  /-- Load every lane key table that differs from Table 5-5. -/
  | keys
  | runsRest (ids : List Nat)
  | runsTrim (id : Nat) (gone : List Nat)
  | runsSource (ids : List Nat)
  | runsStop (ids : List Nat)
  | runsClear (ids : List Nat)
  | awaitTeardown
  | assign (heat : Nat)
  /-- The assignment entry of one spare (R244 step 6). -/
  | assignTo (heat : Nat) (entry : Nat)
  | unassign (heat : Nat)
  | carved (heat : Nat) (q : Queued)
  | undone (heat : Nat) (q : Queued)
  | loaded (heat : Nat)
  /-- The heat's endpoints are in no heat (R221 step 4). -/
  | leave (heat : Nat)
  | released (heat : Nat) (keep : Bool) (cmd : Option Nat)
  | clearDst (heat : Nat)
  | clearSrc (heat : Nat)
  /-- Clear one failed flow (R231), at its destinations and at its source. -/
  | failDst (f : FlowKey) (ends : List Nat)
  | failSrc (f : FlowKey)
  | retry (heat : Nat) (f : FlowKey)
  /-- Every failed flow of the heat has been sent again (R232). -/
  | retried (heat : Nat)
  /-- The heat's state is restored from its last saved step; a rollback posts ROLLED_BACK. -/
  | resume (heat : Nat) (post : Bool)
  /-- A heat is decided once its broken runs are torn down (R188, R239). -/
  | changed (heat : Nat)
  /-- Clear every flow of an endpoint of a heat (R220). -/
  | clearRank (heat : Nat) (entry : Nat)
  | unfence (heat : Nat) (rank : Nat) (cmd : Option Nat)
  | unfenced (heat entry : Nat) (cmd : Option Nat)
  | bridges (heat : Nat) (rank : Nat) (spare : Nat) (on : Bool)
  | spliced (heat : Nat) (rank : Nat) (spare : Nat) (rollback : Bool)
  /-- Ask an entry that is readmitted for a page (R250). -/
  | query (entry : Nat) (page : Nat)
  | seed (entry : Nat)
  | stampEntry (entry : Nat)
  | stampAll
  | entryIn (entry : Nat)
  | hold (entry : Nat)
  | holdPorts (ports : List (Nat × Nat))
  | slotsAll
  /-- Complete the flip or retire that the answers show to be pending (Table 4-12). -/
  | slotsDone
  | retrain (port : Nat)
  | portReply (port : Nat) (cmd : Nat)
  | routeReply (cmd : Nat)
  | inService
  /-- The reads of phase 5 of a partial reset are done (R439). -/
  | prEnd
  /-- The duplicate TBL_STATE of R531 to every agent. -/
  | handover
  /-- The FLOW_CLEAR of R531 at every agent. -/
  | clearFlows
  /-- ADMIT with every agent's expected stamp (R531). -/
  | restamp
  /-- Table 15-5 is done: every heat with a running plan is decided (R532). -/
  | takenOver
deriving DecidableEq, Repr

/-- A procedure of the manager in progress: the steps left, what it waits for, and the heat that it recovers, if it is a
recovery action (R242). -/
structure Job where
  steps : List MStep
  waits : List Wait
  heat  : Option Nat
deriving DecidableEq, Repr

/-- A fence in progress outside the heat queue (R216 to R219): FENCE_SEQ, entry, heat, the command to answer, OUTPUT_SUSPECT
when the endpoint is lost (R234), and whether it goes by the boundary (R218) with what is still to be acknowledged. -/
structure Fencing where
  seq      : BitVec 32
  entry    : Nat
  heat     : Nat
  /-- The heat's place in the order of carves, which tells it from a later heat of its number. -/
  carve    : Nat
  cmd      : Option Nat
  lost     : Option Bool
  boundary : Bool
  waits    : List Wait
deriving DecidableEq, Repr

/-- The failures of one heat that are gathered as one trouble (R229), the entries being probed with TBL_STATE, those
that answered, and those that did not. -/
structure Gather where
  heat    : Nat
  fails   : List Failed
  probing : List Nat
  lost    : List Nat
  ended   : Bool
deriving DecidableEq, Repr

/-- A difference between discovery and the record (R139, R140): row of Table 3-9, entry, port, expected, found. -/
structure Diff where
  row      : Nat
  entry    : Nat
  port     : Nat
  expected : BitVec 64
  found    : BitVec 64
deriving DecidableEq, Repr

/-- A query of discovery: the entry, the agent (none: a Chrohar port) and port that relay it, the page, the tries. -/
structure Query where
  entry : Nat
  via   : Option Nat
  port  : Nat
  page  : Nat
  tries : Nat
deriving DecidableEq, Repr

/-- Discovery in progress (R136, R137, R142). `todo` holds the queries still to send, in order. -/
structure Disc where
  active : Bool
  tag    : BitVec 64
  current : Option Query
  todo   : List Query
  queue  : List Nat
  cmd    : Option Nat
  /-- QUERY_ID of the last query sent (Table 3-7). -/
  queryId : BitVec 16
  /-- Strap identity and SERIAL_LO of each page 0 reply, by entry (Table 3-9). -/
  answers : List (Nat × BitVec 16 × BitVec 32)
  /-- PORT_COUNT + 1 of each page 0 reply, by entry (R136). -/
  counts : Tab Nat
  /-- Ports of the entry being readmitted that are up below the record's minimum (R346). -/
  under  : List (Nat × Nat)
  /-- A readmission's pages are asked for, not a discovery's (R250). -/
  readmit : Bool
deriving DecidableEq, Repr

/-- A trouble that has come up and is still to be decided under Table 6-5 (R239): a step that failed with a status, an
endpoint lost with OUTPUT_SUSPECT (R234), ports, links or runs that changed, or a plan to be stopped (Table 7-5 row 4). -/
inductive Trouble where
  | step (heat : Nat) (collId : BitVec 32) (step : BitVec 64) (status : BitVec 16)
  | lost (entry : Nat) (suspect : Bool)
  | changed (heat : Nat)
  | stop (heat : Nat) (status : BitVec 16)
deriving DecidableEq, Repr

/-- The manager's working model (R148, lost in a partial reset and restored, R437 to R439). -/
structure Mgr where
  /-- FABRIC_STATE: 0 not discovered, 1 discovering, 2 in service, 3 refused. -/
  fabricState : Nat
  /-- The record in force since the last discovery (R408). -/
  record      : Option InstRecord
  entries     : Tab Entry
  /-- Trained width of an agent's port that is up, zero when down, at 16 × entry + port (R148). -/
  widths      : Tab Nat
  disc        : Disc
  diffs       : List Diff
  peersRefused : Bool
  fenceLog    : Nat
  fabricGen   : BitVec 32
  epoch       : BitVec 2
  /-- Routing state (ROUTE_QUERY): 0 steady, 1 computing, 2 loading, 3 draining. -/
  routing     : Nat
  /-- Entries the agents hold, as last loaded, at 65,536 × kind + index (Table 4-4). -/
  loaded      : Tab (Tab (BitVec 64))
  loadedKeys  : Tab (Tab (BitVec 256))
  /-- Entries and Chrohar ports by EID of the epoch being loaded (R172). -/
  target      : Tab (Tab (BitVec 64))
  unrouted    : List (Nat × Nat)
  unhubbed    : List Nat
  /-- Entries that failed the rank check of the last computation: agent, and the EID that the entry leads to (R168). -/
  rankBad     : List (Nat × Nat)
  heats       : Tab Heat
  heatSeq     : Nat
  queue       : List Queued
  jobs        : List Job
  fencings    : List Fencing
  fenceSeq    : BitVec 32
  gathers     : List Gather
  runs        : Tab Run
  groups      : Tab Group
  probing     : List Nat
  /-- Entry being readmitted (R250), and whether it takes tables already. -/
  readmit     : Option Nat
  seeded      : Bool
  /-- Readmission commands that wait for their probe to end: command and entry. -/
  readmitCmds : List (Nat × Nat)
  /-- Times of the last full and the last incremental computation in ns (ROUTE_QUERY). -/
  lastFull    : Nat
  lastIncr    : Nat
  troubles    : List Trouble
  /-- The CTRL_REPLY to TBL_STATE of each agent in a takeover (Table 15-5 step 6, Table 9-6). -/
  slotsSeen   : Tab (BitVec 128) := []
deriving DecidableEq, Repr

/-! ## The host interface -/

/-- The shadowed function registers (R385). -/
structure FnCfg where
  replyBase : BitVec 64
  eventBase : BitVec 64
  eventCfg  : BitVec 64
deriving DecidableEq, Repr

/-- One MSI-X vector's interval (R396): an interval runs, and a message is due at its end. -/
structure Irq where
  gapOpen : Bool
  due     : Bool
deriving DecidableEq, Repr

/-- One PCIe function (Tables 10-2, 10-3). -/
structure Fn where
  present    : Bool
  window     : Tab Byte
  lastSeq    : Tab Seq
  busy       : List Nat
  /-- Slots whose SEQ was written while busy or during a pause (R391, R405). -/
  later      : List Nat
  cmdEn      : Bool
  evtEn      : Bool
  commitErr  : Bool
  commitField : BitVec 3
  enableErr  : Bool
  dmaErr     : Bool
  live       : FnCfg
  shadow     : FnCfg
  /-- A committed REPLY_BASE and event ring are live (R387). -/
  committed  : Bool
  evHead     : Nat
  evTail     : Nat
  phase      : Bool
  evtLost    : BitVec 64
  /-- Events dropped since the last EVENTS_LOST record (R397). -/
  lostSince  : Nat
  irq0       : Irq
  irq1       : Irq
  msix       : Tab (BitVec 64)
deriving DecidableEq, Repr

/-- Who sent a command: a function or a management session (R382, R383). -/
inductive Source where
  | fn (n : Nat)
  | session (id : Nat)
deriving DecidableEq, Repr

/-- An accepted command (R391, R392): the slot as copied. `started` is set once its body has run; it stays until it
replies. `mute` is set by a function-level reset (R384). -/
structure Cmd where
  id       : Nat
  src      : Source
  slot     : Nat
  seq      : Seq
  opcode   : BitVec 16
  flags    : BitVec 8
  rsv      : Bool
  dataAddr : BitVec 64
  dataLen  : Nat
  param    : List Byte
  /-- The data that follow the slot in a session's COMMAND (R453). -/
  data     : List Byte := []
  started  : Bool
  mute     : Bool
deriving DecidableEq, Repr

/-- The host interface: functions (sparse; an unlisted one is at reset), accepted commands in order of acceptance,
events dropped for absent VFs (DEV_STATUS). -/
structure HostIf where
  fns     : Tab Fn
  cmds    : List Cmd
  nextId  : Nat
  dropped : BitVec 32
deriving DecidableEq, Repr

/-! ## Memory tiers -/

/-- A memory tier (Table 1-3). -/
inductive Tier where
  | p | b | c
deriving DecidableEq, Repr

/-- What a set of pages holds (R462 STATE): live pages of a heat, its saved-step slots, a kept saved state, a plan
cache entry, the module's own pages, or pages under quench. -/
inductive PageUse where
  | live (heat : Nat)
  /-- One of a heat's two saved-step slots (R329). -/
  | save (heat : Nat) (slot : Bool)
  | kept (savedId : Nat)
  | cache (order : Nat)
  | module
  | quench
deriving DecidableEq, Repr

/-- A set of pages of one pile with one tag (Table 12-8). -/
structure PageSet where
  tier   : Tier
  pile   : Nat
  count  : Nat
  tenant : Nat
  gen    : Nat
  use    : PageUse
deriving DecidableEq, Repr

/-- A plan cache entry (R301, R302). -/
structure CacheEntry where
  tenant : Nat
  image  : PlanImage
  order  : Nat
  gen    : Nat
  /-- A page of it reads as uncorrectable (R31, Table 12-10). -/
  torn   : Bool := false
deriving DecidableEq, Repr

/-- A memory link (R433): 0 up, 1 retraining, 2 down and held, 3 held and retraining; the lap of its last loss; the command to
answer. -/
structure MemLink where
  state    : Nat
  lastLoss : Option Nat
  cmd      : Option Nat
deriving DecidableEq, Repr

/-- A plan load that has not replied (R331): heat, command, the reply's result, whether the image goes into the cache, the
saved state that it resumes from, whether the plan is held once loaded, whether it still waits for pages under quench, and
the old heat of a restart. -/
structure LoadWait where
  heat    : Nat
  cmd     : Option Nat
  result  : List Byte
  enter   : Bool
  resume  : Option Saved
  hold    : Bool
  waiting : Bool
  restart : Option Nat
  /-- DATA_BYTES of its reply: what has moved through the data buffer (R395). -/
  moved   : Nat := 0
deriving DecidableEq, Repr

/-- The memory tiers. Pages that no set names are free. -/
structure Mem where
  sets     : List PageSet
  withheld : Tab Nat
  cache    : List CacheEntry
  order    : Nat
  saved    : List Saved
  nextId   : Nat
  links    : Tab MemLink
  loads    : List LoadWait
  /-- The key slots of the memory controllers, by key as the trust die numbers it (R443, R463, R465). -/
  slots    : Tab (BitVec 512) := []
deriving DecidableEq, Repr

/-! ## Bring-up -/

/-- Progress of the power-on order (Table 11-1). -/
inductive Stage where
  | off          -- no 48 V in range, or the module waits for power-on
  | grantWait    -- end of step 1: GRANT_QUERY sent
  | pllWait      -- step 2
  | fuseWait     -- step 3
  | fuseStop     -- step 3 stopped: CRC or reserved class
  | bellows      -- steps 4 to 8
  | running      -- the manager is ready
  | standby      -- R517
  | tripped      -- R547
  | railHeld     -- R545
deriving DecidableEq, Repr

/-- A partial reset in progress (R436): phase 1 to 5 and 6 for the copy step between 3 and 4 (R487), the cause, the
command to answer, whether the copy step runs, the number of the first command accepted after the pause began (R405), and the
lap tick at which the pause began (Table 11-9). -/
structure Partial where
  phase : Nat
  cause : Nat
  cmd   : Option Nat
  copy  : Bool
  since : Nat
  began : Nat := 0
deriving DecidableEq, Repr

/-- Bring-up, power and thermal state. BRINGUP_STAT is read from it (R429). -/
structure Boot where
  stage       : Stage
  /-- On a standby, P0's ember link logic and tier C have come up in the one wave of R517. -/
  standbyUp   : Bool := false
  /-- The input switch is closed and the presence contacts made (R557). -/
  switchOn    : Bool
  strapsLatched : Bool
  /-- The strap identity that the board gives the module: board number [15:6], slot number [5:0] (R129, R552). -/
  strap       : BitVec 16
  wave        : Nat
  /-- Sub-steps released of the wave in progress. -/
  substep     : Nat
  /-- The wave in progress has failed once, and waits out the 10 ms (R420). -/
  failedOnce  : Bool
  retryWait   : Bool
  halted      : Bool
  haltRail    : Nat
  retried     : Bool
  pllLock     : Bool
  fuseOk      : Bool
  linkTest    : Bool
  computeTest : Bool
  grade       : Bool
  prPhase     : Nat
  prCause     : Nat
  /-- Operating seconds of unplanned partial resets (R441). -/
  unplanned   : List Nat
  computeHeld : Bool
  restarts    : BitVec 32
  fuse        : List (BitVec 32)
  failing     : List (BitVec 32)
  configRead  : Bool
  /-- The training window has closed, and the manager is ready (R412). -/
  windowClosed : Bool
  mgrReady    : Bool
  coolant     : Bool
  partialReset : Option Partial
  paused      : Bool
  /-- Activity admitted above idle per rail, in A (R421), and the standing orders of R543 (module input and package: no
  rise, and shedding), R547 and R548. -/
  activity    : Tab Nat
  throttled   : List Nat
  inputHigh   : Bool
  inputShed   : Bool
  packHigh    : Bool
  packShed    : Bool
  idleOrder   : Bool
  /-- Operating seconds of rail faults (R545). -/
  railFaults  : List Nat
  perst       : Bool
  dynAddr     : Option (BitVec 7)
  coolFlow    : BitVec 16
  inputWatts  : Nat
  hottest     : Int
  /-- Smith cores that a tongs session has halted (R472). -/
  haltedCores : List Nat := []
deriving DecidableEq, Repr

/-! ## The trust die -/

/-- A notice of the open window (R504). -/
structure Note where
  code   : BitVec 16
  unit   : BitVec 16
  count  : Nat
  first  : Nat
  last   : Nat
  detail : List Byte
deriving DecidableEq, Repr

/-- An index record (Table 12-2), less MAGIC and KEY: SEQ, BLOCK_END and CHECK. -/
structure IndexRec where
  seq   : Nat
  last  : Nat
  check : BitVec 64
deriving DecidableEq, Repr

/-- The two index areas of a signing key (R445): KEY, the records of each copy by position, the position that each copy writes
next, and the next index. -/
structure KeyIndex where
  key   : BitVec 8
  areaA : Tab IndexRec
  areaB : Tab IndexRec
  posA  : Nat
  posB  : Nat
  next  : Nat
  /-- A new block is reserved before the first signature after power-on (R447). -/
  fresh : Bool
deriving DecidableEq, Repr

/-- Who asked for a quote (R457). -/
inductive QuoteFrom where
  | cmd (id : Nat)
  | mailbox
deriving DecidableEq, Repr

/-- A queued quote request (R458, R460). -/
structure QuoteReq where
  asker  : QuoteFrom
  nonce   : BitVec 256
  fnNo    : BitVec 16
  tenant  : Nat
deriving DecidableEq, Repr

/-- A management or tongs session (R450 to R456): its management port (2 for the tongs port), source address, credential entry (none for a claim), EVENTS, whether
CLIENT_AUTH has come, the bytes of messages 1 and 2, the draw of its ML-KEM key, keys of the two directions, the session
identifier, message counts, operating seconds at its opening, and the count and the places of the tier pages that a tongs session
has read (R473). -/
structure Session where
  id       : Nat
  port     : Nat
  source   : BitVec 128
  cred     : Option Nat
  events   : Bool
  opened   : Bool
  tongs    : Bool
  hello    : List Byte
  draw     : Nat
  inKey    : BitVec 256
  outKey   : BitVec 256
  ident    : BitVec 256
  inCount  : Nat
  outCount : Nat
  openAt   : Nat
  pages    : Nat
  seen     : List Nat := []
deriving DecidableEq, Repr

/-- The trust die (12_security.md), reset only by power-on. -/
structure Trust where
  powerCycles : BitVec 32
  operatingS  : BitVec 32
  identity    : KeyIndex
  attest      : KeyIndex
  quotes      : List QuoteReq
  nonce       : List (BitVec 64)
  quoteAddr   : BitVec 64
  quoteLen    : BitVec 64
  quoteTenant : BitVec 64
  done        : Bool
  busy        : Bool
  lenErr      : Bool
  dmaErr      : Bool
  /-- The credential set, in two copies (R454). -/
  creds       : List Cred
  creds2      : List Cred
  /-- The two copies of the records of the highest signature index accepted, per credential entry (R455). -/
  acceptedA   : Tab IndexRec
  acceptedB   : Tab IndexRec
  sessions    : List Session
  nextSession : Nat
  claimOpen   : Bool
  /-- Failed handshakes: source address and lap (R450). -/
  failures    : List (BitVec 128 × Nat)
  blocked     : List (BitVec 128)
  /-- Live key generations per tenant, newest first (R464, R465). -/
  gens        : Tab (List Nat)
  moduleKey   : Bool
  /-- Random draws so far (R142, R464). -/
  draws       : Nat
  /-- The key pairs held in volatile memory, at tenant × 4 + generation; the module key at 0xFFFF_FFFF (Table 12-1). -/
  keys        : Tab (BitVec 512)
  debugged    : Bool
  tongsCount  : Nat
  /-- What the trust die recorded in its own flash before the recorder came up (R508). -/
  ownNotes    : List Note
  pairingKey  : BitVec 256
  /-- BRINGUP_STAT as last copied for reading after a halt at wave 1 (R429). -/
  bringupCopy : BitVec 64
deriving DecidableEq, Repr

/-! ## Firmware -/

/-- Role of an image area (Table 13-1). -/
inductive AreaRole where
  | free | current | fallback | staging
deriving DecidableEq, Repr

/-- The boot record (Table 13-1). -/
structure BootRec where
  seq      : Nat
  roles    : List AreaRole
  confirm  : Nat
  starts   : Nat
  deadline : Nat
  hash     : BitVec 256
deriving DecidableEq, Repr

/-- The delivery in progress (R481, R482, R484): IMAGE_ID, PIECE_COUNT, the bytes of each piece held with its check
value, and whether the image is verified (staging states 1 receiving, 2 complete, 3 verified). -/
structure Staging where
  imageId : BitVec 32
  count   : Nat
  held    : Tab (BitVec 256 × List Byte)
  state   : Nat
deriving DecidableEq, Repr

/-- A copy of the boot record as the trust die's flash holds it, with its CHECK (Table 13-1). -/
structure BootCopy where
  body  : BootRec
  check : BitVec 64
deriving DecidableEq, Repr

/-- Field-replaceable firmware (13_firmware_update.md). -/
structure Fw where
  /-- The boot record in force. -/
  record     : BootRec
  /-- Its two copies (R478); none where nothing has been written since manufacture. -/
  copyA      : Option BootCopy := none
  copyB      : Option BootCopy := none
  /-- The last write of the record may still be under way (R478). -/
  writing    : Bool := false
  /-- A confirmation burns its fuse bits, and its record is still to be written (R492): the fuse word that it comes to. -/
  burning    : Option (BitVec 64) := none
  /-- The bytes of the three image areas (R477). -/
  areas      : Tab (List Byte)
  staging    : Option Staging
  fuse       : BitVec 64
  /-- RUNNING_MEAS and the version of the running image (R487). -/
  running    : Option (BitVec 256 × BitVec 32)
  /-- The version that ran before the activation (Table 13-8). -/
  former     : BitVec 32
  /-- The FW_ACTIVATE in progress, by its accepted command (R489, R490). -/
  activating : Option Nat
  /-- Seconds for which every health check has held (R491). -/
  health     : Nat
  /-- FABRIC_STATE when the activation was accepted (Table 13-7). -/
  fabricAt   : Nat
  imageSaved : Bool
  unplannedSince : Bool
  /-- FALLBACK of a quote (R494). -/
  fallback   : Bool
  noImage    : Bool
deriving DecidableEq, Repr

/-! ## The event recorder -/

/-- A record (Table 14-1); `body` holds the fields of its KIND in the order of Table 14-2, and `check` is the CHECK it stands with in
the recorder flash (R500). -/
structure Rec where
  seq      : Nat
  opS      : Nat
  pcc      : Nat
  kind     : Nat
  cut      : Bool
  series   : BitVec 16
  unit     : BitVec 16
  body     : List Int
  duration : Nat
  check    : BitVec 32 := 0
deriving DecidableEq, Repr

/-- A sampled series of the open window (R502). -/
structure Hist where
  series : BitVec 16
  unit   : BitVec 16
  bins   : List Nat
  min    : Int
  minAt  : Nat
  max    : Int
  maxAt  : Nat
  sum    : Int
  n      : Nat
deriving DecidableEq, Repr

/-- A count of the open window (Table 14-2 COUNT); `now` counts the second in progress. -/
structure Count where
  series : BitVec 16
  unit   : BitVec 16
  total  : Nat
  peak   : Nat
  peakAt : Nat
  now    : Nat
deriving DecidableEq, Repr

/-- The open window (R505): start, power-cycle count, and its series, counts and notices. -/
structure Win where
  start  : Nat
  pcc    : Nat
  hists  : List Hist
  counts : List Count
  notes  : List Note
deriving DecidableEq, Repr

/-- What the recorder flash held before the records that are being written: the two areas, the checkpoint copies, the next SEQ, and
those records (R500, R507). -/
structure RecWrite where
  first : List Rec
  last  : List Rec
  ckpt  : Option (List Rec)
  older : Option (List Rec)
  seq   : Nat
  batch : List Rec
deriving DecidableEq, Repr

/-- The event recorder (14_event_recorder.md). `last` is in ascending SEQ, at most 65,536; `ckpt` is the newest
checkpoint, records without SEQ (R507), and `older` the other copy. `writing` is a write of records that a power loss can still cut
short, and `ckptWriting` says so of the newest checkpoint. -/
structure Recorder where
  running : Bool
  nextSeq : Nat
  first   : List Rec
  last    : List Rec
  win     : Win
  ckpt    : Option (List Rec)
  older   : Option (List Rec)
  writing     : Option RecWrite := none
  ckptWriting : Bool := false
deriving DecidableEq, Repr

/-! ## Standby -/

/-- Standby state (Table 15-1). -/
inductive StandbyState where
  | none | syncing | ready | behind | lost | taking
deriving DecidableEq, Repr

/-- A saved step in a mirror slot (R523): step, pages stored (offset, payload bytes, source unit), the page count of its STEP_DONE,
whether it is complete, and the SEQ of the packet that began it. -/
structure Mirror where
  step     : Nat
  pages    : List (BitVec 64 × List Byte × BitVec 64)
  count    : Nat
  complete : Bool
  since    : Nat := 0
deriving DecidableEq, Repr

/-- A fabric image slot at the standby (R523): image number, pieces by byte offset, the image's length once its last
packet has come, and whether every byte is there. -/
structure ImageSlot where
  number   : BitVec 64
  pieces   : List (BitVec 64 × List Byte)
  total    : Option Nat
  complete : Bool
deriving DecidableEq, Repr

/-- What waits for the acknowledgement of ember packets: a command's reply behind a journal record (R524); a heat's
saved step, whose STEP_DONE has been sent; and a heat's stream, behind the journal record that advances its
MIRRORED_STEP (R525). A journal record is named by its fabric image number and journal index. -/
inductive EmberWait where
  | cmd (image index : BitVec 64) (id : Nat) (dataBytes : Nat) (result : List Byte)
  | stepDone (heat : Nat) (step : Nat)
  | mirrored (image index : BitVec 64) (heat : Nat)
deriving DecidableEq, Repr

/-- Standby operation and the ember links (15_standby_and_hotplug.md). -/
structure Ember where
  grant     : Bool
  active    : Bool
  paired    : Bool
  state     : StandbyState
  up0       : Bool
  up1       : Bool
  /-- Credit counters of VC B0 of the two links (R83 to R85, R521). -/
  credit0   : Credit
  credit1   : Credit
  /-- The cell streams of the two links (R56, R57, R521). -/
  tx0       : TxStream := { next := 0, ctl := 0, fsps := [], sent := [] }
  tx1       : TxStream := { next := 0, ctl := 0, fsps := [], sent := [] }
  txNext    : Nat
  unacked   : List EmberPkt
  /-- Packets that wait, by the priorities of R527: journal, keys and configuration; the fabric image; saved steps. -/
  urgent    : List EmberPkt
  image     : List EmberPkt
  pages     : List EmberPkt
  rxNext    : Nat
  rxAhead   : List Nat
  sinceAck  : Nat
  ackTimer  : Bool
  imageNo   : BitVec 64
  journalIx : BitVec 64
  imageLap  : BitVec 64
  /-- The newest fabric image in the module's own tier C, and the journal records that follow it (R438): coded words of ciphertext
  under the module key (R30, R462). -/
  ownImage  : List (BitVec 72) := []
  ownJournal : List (List (BitVec 72)) := []
  waits     : List EmberWait
  abandons  : Tab Nat
  streaming : Tab Nat
  /-- The heat whose page went last (R527). -/
  pageTurn  : Nat
  slotA     : ImageSlot
  slotB     : ImageSlot
  journalRx : List EmberPkt
  mirrorA   : Tab Mirror
  mirrorB   : Tab Mirror
  keys      : Tab (BitVec 512)
  configRx  : List EmberPkt
  /-- A HANDOVER has gone out or come in, and no TAKEN yet (R529, R534). -/
  handover  : Bool
  /-- The RED_TAKEOVER under way. -/
  taking    : Option Nat
  /-- The former active takes the grant back (R534). -/
  takeBack  : Bool
  /-- A takeover is under way at this module (R530). -/
  takeover  : Bool
  /-- The lap counter takes its start from the first lap exchange (R297). -/
  lapWait   : Bool
deriving DecidableEq, Repr

/-! ## Stored configuration -/

/-- The stored configuration (R406): installation record, tenant records, PROBE_S, DRAIN_US, cache capacity, pairing. -/
structure Stored where
  record  : Option InstRecord
  tenants : Tab (BitVec 64)
  probeS  : Nat
  drainUs : Nat
  cacheGib : Nat
  pairing : Bool
  /-- Addresses of the two management ports, by port (R450). -/
  addrs   : Tab (List (BitVec 128))
deriving DecidableEq, Repr

/-- A configuration slot as flash holds it (R406): CFG_SEQ, body, and the 32 bytes of its header. -/
structure CfgSlot where
  seq  : Nat
  body : Stored
  head : List Byte := []
deriving DecidableEq, Repr

/-- A stored change that waits for its write (R407): the command, its opcode and the result bytes of its reply. -/
structure CfgWait where
  cmd    : Nat
  result : List Byte
deriving DecidableEq, Repr

/-- Configuration storage (R406 to R409). `flashA` and `flashB` are slots 0 and 1; `live` is what is in force. -/
structure Cfg where
  flashA     : Option CfgSlot
  flashB     : Option CfgSlot
  live       : Stored
  seq        : Nat
  writing    : Option CfgSlot
  writeCmds  : List CfgWait
  nextCmds   : List CfgWait
  /-- The shadow installation record (R408): the bytes written, by offset. -/
  shadow     : Tab Byte
  cal        : List Byte
  /-- The header of the calibration area, of the form of R406 (R409); empty for the factory set, whose header is the factory's. -/
  calHead    : List Byte := []
  calValid   : Bool
  calFactory : Bool
  /-- The calibration set that the sensors and trained lanes use, by user: a Chrohar port by its number, a memory link at 1,024 +
  64 × tier + link, the sensors at 2,048, ember link k at 2,049 + k; an empty set is the built-in default (R409). -/
  calUsed    : Tab (List Byte)
deriving DecidableEq, Repr

/-! ## What leaves the block -/

/-- What the block has put out, in order: the model's own record of its pins and of host and endpoint memory. -/
inductive Emission where
  /-- A packet frame, and the slot of its first cell, counted from training (80 to a block). -/
  | frame (site : Site) (port : Nat) (slot : Nat) (word : BitVec 64) (p : Pkt) (hop : BitVec 32)
  /-- A control cell, and its slot. -/
  | cell (site : Site) (port : Nat) (slot : Nat) (c : CtlCell)
  /-- The header of an FEC block: FSP and BSEQ (R56; Pn_TX_HDR of Table 9-2). -/
  | block (site : Site) (port : Nat) (header : BitVec 80)
  /-- AGENT_IRQ changes its level (Table 9-2). -/
  | agentIrq (a : Nat) (level : Bool)
  /-- A write into a function's reply area (R395): bytes 4 to 255 of a reply first, then bytes 0 to 3. -/
  | reply (fn : Nat) (addr : BitVec 64) (bytes : List Byte)
  | dma (addr : BitVec 64) (data : List Byte)
  /-- A record written into a function's event ring (R397). -/
  | event (fn : Nat) (addr : BitVec 64) (record : List Byte)
  /-- A message of a session (Table 12-3): its header, its body, and the body as it is sent, sealed, with its tag. -/
  | sessionMsg (session : Nat) (header body wire : List Byte)
  /-- A session message on the tongs port: between K28.5 and K28.1, its bytes and their CRC-32C (R556). -/
  | tongsFrame (message : List Byte) (crc : BitVec 32)
  | msix (fn : Nat) (vector : Nat)
  | i3c (code : Nat) (payload : List Byte)
  | serverHello (session : Nat) (bytes : List Byte) (signature : List Byte)
  | quote (addr : BitVec 64) (bytes : List Byte)
  /-- The frame of an ember packet: the slot of its first cell, its frame word, the packet and the hop check (R59, R521). -/
  | ember (link : Nat) (slot : Nat) (word : BitVec 64) (p : EmberPkt) (hop : BitVec 32)
  /-- A message of the handshake by which two trust dies agree the pairing key (R471, Table 12-4). -/
  | pairing (message : List Byte)
  | completion (a : Nat) (index : BitVec 64) (tag : BitVec 16) (code : BitVec 8) (phase : Bool) (bitmap : BitVec 16) (lap : BitVec 64)
  | delivered (a : Nat) (index : BitVec 64) (buffer : BitVec 64) (p : Pkt) (phase : Bool) (lap : BitVec 64)
  | talliedTo (a : Nat) (index : BitVec 64) (p : Pkt) (phase : Bool) (lap : BitVec 64)
  | noticeTo (a : Nat) (index : BitVec 64) (kind : Nat) (words : List (BitVec 128)) (phase : Bool) (lap : BitVec 64)
  | sumFrame (a : Nat) (p : Pkt)
  | portTrain (site : Site) (port : Nat)
  | portIdle (site : Site) (port : Nat) (on : Bool)
  | regRead (value : BitVec 64)
  /-- The manager tells a rank that is source of a multicast group that one of its positions is fenced, or that its fence is
  lifted (R108). -/
  | fenceNotice (entry : Nat) (group : BitVec 12) (position : Nat) (lifted : Bool)
deriving DecidableEq, Repr

/-- The block. -/
structure State where
  agents  : Tab Agent
  link    : LinkTiles
  hub     : Hub
  mgr     : Mgr
  hif     : HostIf
  mem     : Mem
  boot    : Boot
  trust   : Trust
  fw      : Fw
  rcd     : Recorder
  ember   : Ember
  cfg     : Cfg
  /-- The module's LAP register: ticks in [63:4], sixteenths in [3:0] (R292). -/
  lap     : BitVec 64
  /-- What the block has put out so far (the model's own field). -/
  out     : List Emission
  /-- Open values used so far (the model's own field). -/
  free    : Nat
  /-- Commands that wait, first in, first out. -/
  pending : List Instr
deriving DecidableEq, Repr

/-! ## The state right after reset

Every field at the value the manual gives; where it gives none, the value the assumption log names (entries 1 to 9). -/

def Credit.reset : Credit := { sent := 0, freedSeen := 0, received := 0, freed := 0 }

def Vcs.reset : Vcs := { t0 := Credit.reset, t1 := Credit.reset, b0 := Credit.reset, b1 := Credit.reset }

def TxStream.reset : TxStream := { next := 0, ctl := 0, fsps := [], sent := [] }

def Nbr.reset : Nbr := { strap := 0, port := 0, kind := 0 }

/-- An untrained port (Table 3-5 STATE 0; Table 9-17 resets), with no lanes installed. -/
def Port.reset : Port :=
  { instW := 0, minW := 0, width := 0, state := .untrained, laneOk := 0, spareIn := 0, held := false, nbrSeen := false,
    idChanged := false, nbr := Nbr.reset, cand := Nbr.reset, candCount := 0, diffCount := 0, errCount := 0,
    fenceDrops := 0, fenceFirst := 0, deadDrops := 0, vcs := Vcs.reset, resync := false, queue := [],
    tallyTurn := false, deficits := [], lastServed := 0, meas := 0x80000000#32, nbrDepth := 31, tx := TxStream.reset
    idle := false, shut := false, changedAt := 0 }

def Slot.reset : Slot := { state := .empty, epoch := 0, routes := [], hubs := [], groups := [] }

def RingCfg.reset : RingCfg :=
  { sumBase := 0, injBase := 0, cplBase := 0, freeBase := 0, dlvBase := 0, tdlvBase := 0, size := 0 }

def Rings.reset : Rings :=
  { en := false, pause := false, live := RingCfg.reset, shadow := RingCfg.reset, injTail := 0, cplHead := 0,
    freeTail := 0, dlvHead := 0, tdlvHead := 0, injHead := 0, freeHead := 0, cplTail := 0, dlvTail := 0,
    tdlvTail := 0, cplPhase := true, dlvPhase := true, tdlvPhase := true, intStat := 0, intEn := 0 }

def LapSync.reset : LapSync :=
  { lap := 0, lock := .free, parent := none, depth := 31, offsets := [], delay := 0, correction := 0, sinceSlew := 64 }

/-- An agent held in reset by AGENT_RST_N (R343, Table 9-12 resets). -/
def Agent.reset : Agent :=
  { inReset := true, isSwitch := false, strap := 0, eid := none, mgrEid := none, uplink := none, discTag := 0,
    forgetting := false, discTab := [], stamp := 0, slot0 := Slot.reset, slot1 := Slot.reset, runs := [], attrs := [],
    keys := [], fencedKeys := 0, groupFences := [], bridge := [], rejected := 0, ports := [], localDrops := 0, localFirst := 0, srcs := []
    dsts := [], dstFull := 0, arrived := [], holds := 0, inbox := [], rings := Rings.reset, input := [], buffers := [], room := [], chunks := [],
    lapSync := LapSync.reset, guards := [] }

def LinkTiles.reset : LinkTiles :=
  { ports := [], pools := [], onSpare := [], current := { epoch := 0, dest := [] }, other := { epoch := 1, dest := [] },
    bitmaps := [], log := [], forgetting := false, dieFaults := [], outFaults := [] }

def Hub.reset : Hub :=
  { arrived := [], inbox := [], srcs := [], dsts := [], chunks := [], heldBack := [], noRoom := [], steps := [], ends := [], stray := []
    kept := [], hearths := [], gradSeq := 0, barriers := [] }

def Disc.reset : Disc := { active := false, tag := 0, current := none, todo := [], queue := [], cmd := none, queryId := 0, answers := [], counts := [], under := [], readmit := false }

def Mgr.reset : Mgr :=
  { fabricState := 0, record := none, entries := [], widths := [], disc := Disc.reset, diffs := [],
    peersRefused := false, fenceLog := 0, fabricGen := 0, epoch := 0, routing := 0, loaded := [], loadedKeys := [], target := [],
    unrouted := [], unhubbed := [], rankBad := [], heats := [], heatSeq := 0, queue := [], jobs := [], fencings := [], fenceSeq := 0,
    gathers := [], runs := [], groups := [], probing := [], readmit := none, seeded := false, readmitCmds := [], lastFull := 0, lastIncr := 0, troubles := [] }

def FnCfg.reset : FnCfg := { replyBase := 0, eventBase := 0, eventCfg := 0 }

/-- A function's registers at reset (Tables 10-2, 10-3); PHASE begins at 1. -/
def Fn.reset (present : Bool) : Fn :=
  { present := present, window := [], lastSeq := [], busy := [], later := [], cmdEn := false, evtEn := false,
    commitErr := false, commitField := 0, enableErr := false, dmaErr := false, live := FnCfg.reset,
    shadow := FnCfg.reset, committed := false, evHead := 0, evTail := 0, phase := true, evtLost := 0, lostSince := 0,
    irq0 := { gapOpen := false, due := false }, irq1 := { gapOpen := false, due := false }, msix := [] }

/-- PF0 is present; the host has enabled no VF (R381, R384). -/
def HostIf.reset : HostIf := { fns := [(0, Fn.reset true)], cmds := [], nextId := 1, dropped := 0 }

def Mem.reset : Mem :=
  { sets := [], withheld := [], cache := [], order := 0, saved := [], nextId := 1, links := [], loads := [] }

def Boot.reset : Boot :=
  { stage := .off, switchOn := false, strapsLatched := false, strap := 0, wave := 0, substep := 0,
    failedOnce := false, retryWait := false, halted := false, haltRail := 0, retried := false, pllLock := false,
    fuseOk := false, linkTest := false, computeTest := false, grade := false, prPhase := 0, prCause := 0,
    unplanned := [], computeHeld := false, restarts := 0, fuse := [], failing := [], configRead := false,
    windowClosed := false, mgrReady := false, coolant := false, partialReset := none, paused := false, activity := [],
    throttled := [], inputHigh := false, inputShed := false, packHigh := false, packShed := false, idleOrder := false,
    railFaults := [], perst := true,
    dynAddr := none, coolFlow := 0, inputWatts := 0, hottest := 0 }

/-- No index is reserved. -/
def KeyIndex.reset (key : BitVec 8) : KeyIndex :=
  { key := key, areaA := [], areaB := [], posA := 0, posB := 0, next := 0, fresh := true }

def Trust.reset : Trust :=
  { powerCycles := 0, operatingS := 0, identity := KeyIndex.reset 1, attest := KeyIndex.reset 2, quotes := [], nonce := [],
    quoteAddr := 0, quoteLen := 0, quoteTenant := 0, done := false, busy := false, lenErr := false, dmaErr := false,
    creds := [], creds2 := [], acceptedA := [], acceptedB := [], sessions := [], nextSession := 1, claimOpen := false, failures := [], blocked := [],
    gens := [], moduleKey := false, draws := 0, keys := [], debugged := false, tongsCount := 0, ownNotes := [], pairingKey := 0,
    bringupCopy := 0 }

/-- Area 0 is CURRENT, the other two are FREE, and the image is confirmed. -/
def BootRec.reset : BootRec :=
  { seq := 0, roles := [.current, .free, .free], confirm := 0, starts := 0, deadline := 0
    hash := Config.shake256 Config.factoryImage }

def Fw.reset : Fw :=
  { record := BootRec.reset, areas := [(0, Config.factoryImage)], staging := none, fuse := 0, running := none,
    former := 0, activating := none, health := 0, fabricAt := 0, imageSaved := false, unplannedSince := false,
    fallback := false, noImage := false }

def Win.reset : Win := { start := 0, pcc := 0, hists := [], counts := [], notes := [] }

def Recorder.reset : Recorder :=
  { running := false, nextSeq := 1, first := [], last := [], win := Win.reset, ckpt := none, older := none }

def ImageSlot.reset : ImageSlot := { number := 0, pieces := [], total := none, complete := false }

def Ember.reset : Ember :=
  { grant := false, active := false, paired := false, state := .none, up0 := false, up1 := false, credit0 := Credit.reset, credit1 := Credit.reset, txNext := 0,
    unacked := [], urgent := [], image := [], pages := [], rxNext := 0, rxAhead := [], sinceAck := 0, ackTimer := false,
    imageNo := 0, journalIx := 0, imageLap := 0, waits := [], abandons := [], streaming := [], pageTurn := 0, slotA := ImageSlot.reset,
    slotB := ImageSlot.reset, journalRx := [], mirrorA := [], mirrorB := [], keys := [], configRx := [],
    handover := false, taking := none, takeBack := false, takeover := false, lapWait := false }

/-- No record, every tenant disabled, PROBE_S 30, DRAIN_US 200, plan cache 64 GiB (R177, R193, R249, R301). -/
def Stored.reset : Stored :=
  { record := none, tenants := [], probeS := 30, drainUs := 200, cacheGib := 64, pairing := false, addrs := [] }

def Cfg.reset : Cfg :=
  { flashA := none, flashB := none, live := Stored.reset, seq := 0, writing := none, writeCmds := [], nextCmds := [],
    shadow := [], cal := Config.factoryCal, calValid := false, calFactory := true, calUsed := [] }

/-- The block before power-on, with no agent released from reset and no command waiting. -/
def State.reset : State :=
  { agents := [], link := LinkTiles.reset, hub := Hub.reset, mgr := Mgr.reset, hif := HostIf.reset, mem := Mem.reset,
    boot := Boot.reset, trust := Trust.reset, fw := Fw.reset, rcd := Recorder.reset, ember := Ember.reset,
    cfg := Cfg.reset, lap := 0, out := [], free := 0, pending := [] }

end Sys2Proof.Machine
end

