-- ==== Sys2Proof/Machine/Ops.lean ====
section
/-! DEFINITION. The operations that every meaning is built from: sparse tables, bytes and fields, emissions, access to
an agent and to a fabric port wherever it stands. -/

namespace Sys2Proof.Machine

open Sys2Proof

/-! ## Sparse tables -/

/-- The item under a key. -/
def tget {α : Type} : Tab α → Nat → Option α
  | [], _ => none
  | (j, x) :: r, k => if j = k then some x else tget r k

/-- Put an item under a key, keeping the keys in rising order. -/
def tset {α : Type} : Tab α → Nat → α → Tab α
  | [], k, y => [(k, y)]
  | (j, x) :: r, k, y =>
    if k < j then (k, y) :: (j, x) :: r
    else if j = k then (k, y) :: r
    else (j, x) :: tset r k y

/-- Remove a key. -/
def tdel {α : Type} : Tab α → Nat → Tab α
  | [], _ => []
  | (j, x) :: r, k => if j = k then tdel r k else (j, x) :: tdel r k

/-- Change the item under a key, if there is one. -/
def tmod {α : Type} (t : Tab α) (k : Nat) (f : α → α) : Tab α :=
  match tget t k with
  | some x => tset t k (f x)
  | none => t

/-- Change every item. -/
def tmap {α β : Type} (f : Nat → α → β) : Tab α → Tab β
  | [] => []
  | (j, x) :: r => (j, f j x) :: tmap f r

/-- The keys of a table. -/
def tkeys {α : Type} (t : Tab α) : List Nat := t.map (·.1)

/-- The lowest number, from `k` on and within `fuel` of it, that is no key of the table. -/
def lowestFree {α : Type} (t : Tab α) : Nat → Nat → Nat
  | 0, k => k
  | fuel + 1, k => if (tget t k).isSome then lowestFree t fuel (k + 1) else k

/-- The first item of a list that fits, and the list without it. -/
def takeFirst {α : Type} (p : α → Bool) : List α → Option (α × List α)
  | [] => none
  | x :: r =>
    if p x then some (x, r)
    else
      match takeFirst p r with
      | some (y, q) => some (y, x :: q)
      | none => none

/-- Change the first item of a list that fits. -/
def modFirst {α : Type} (p : α → Bool) (f : α → α) : List α → List α
  | [] => []
  | x :: r => if p x then f x :: r else x :: modFirst p f r

/-- Insert an item before the first that it does not exceed. -/
def insertBy {α : Type} (le : α → α → Bool) (x : α) : List α → List α
  | [] => [x]
  | y :: r => if le x y then x :: y :: r else y :: insertBy le x r

/-- Sort a list, keeping the order of equal items. -/
def sortBy {α : Type} (le : α → α → Bool) : List α → List α
  | [] => []
  | x :: r => insertBy le x (sortBy le r)

/-- Sort numbers in ascending order. -/
def sortNat (l : List Nat) : List Nat := sortBy (fun a b => a ≤ b) l

/-! ## Bytes and fields -/

/-- The bytes of a word, lowest first (R9). -/
def bvBytes {w : Nat} (v : BitVec w) : List Byte := (List.range (w / 8)).map fun i => v.extractLsb' (8 * i) 8

/-- `n` bytes of a number, lowest first (R9). -/
def leBytes (n v : Nat) : List Byte := bvBytes (BitVec.ofNat (8 * n) v)

/-- The number that bytes spell, lowest first (R9). -/
def leNat (bytes : List Byte) : Nat := bytes.foldr (fun b n => b.toNat + 256 * n) 0

/-- `n` bytes at an offset of a byte string; bytes past its end read as zero. -/
def bytesAt (bytes : List Byte) (off n : Nat) : List Byte :=
  (List.range n).map fun i => (bytes[off + i]?).getD 0

/-- The number at `n` bytes from an offset. -/
def natAt (bytes : List Byte) (off n : Nat) : Nat := leNat (bytesAt bytes off n)

/-- Bytes padded with zeros up to a length. -/
def padTo (n : Nat) (bytes : List Byte) : List Byte := bytes ++ List.replicate (n - bytes.length) 0

/-- Field of `n` bits at bit `lo`. -/
def field {w : Nat} (v : BitVec w) (lo n : Nat) : BitVec n := v.extractLsb' lo n

/-- Put a field of `n` bits at bit `lo`. -/
def putField {w n : Nat} (v : BitVec w) (lo : Nat) (x : BitVec n) : BitVec w :=
  (v &&& ~~~((BitVec.allOnes n).setWidth w <<< lo)) ||| (x.setWidth w <<< lo)

/-- A field placed at bit `lo` of a word that is zero elsewhere. -/
def at' {n : Nat} (w lo : Nat) (x : BitVec n) : BitVec w := x.setWidth w <<< lo

/-- Serial comparison of sequence numbers (R89): `a` is later than `b`. -/
def seqLater (a b : Seq) : Bool := 1 ≤ (a - b).toNat && (a - b).toNat ≤ 2 ^ 31 - 1

/-! ## Emissions, agents, ports -/

/-- Put something out. -/
def State.emit (s : State) (es : List Emission) : State := { s with out := s.out ++ es }

/-- The agent at an entry; an agent that has never been released from reset is held in it. -/
def State.agent (s : State) (a : Nat) : Agent := (tget s.agents a).getD Agent.reset

/-- Put an agent. -/
def State.setAgent (s : State) (a : Nat) (g : Agent) : State := { s with agents := tset s.agents a g }

/-- AGENT_IRQ: INT_STAT AND INT_EN is not zero (Table 9-2). -/
def Agent.irq (g : Agent) : Bool := g.rings.intStat &&& g.rings.intEn != 0

/-- AGENT_IRQ as an agent changes: a level that changes is put out. -/
def irqChange (a : Nat) (before after : Agent) : List Emission :=
  if before.irq = after.irq then [] else [.agentIrq a after.irq]

/-- What a happening at one agent does: it changes that agent and puts something out, and nothing else. -/
def State.onAgent (s : State) (a : Nat) (f : Agent → Agent × List Emission) : State :=
  (s.setAgent a (f (s.agent a)).1).emit ((f (s.agent a)).2 ++ irqChange a (s.agent a) (f (s.agent a)).1)

/-- The port of an agent or of the link tiles; an absent port is a port with no lanes installed. -/
def Agent.port (g : Agent) (p : Nat) : Port := (tget g.ports p).getD Port.reset

def Agent.setPort (g : Agent) (p : Nat) (q : Port) : Agent := { g with ports := tset g.ports p q }

def LinkTiles.port (l : LinkTiles) (p : Nat) : Port := (tget l.ports p).getD Port.reset

def LinkTiles.setPort (l : LinkTiles) (p : Nat) (q : Port) : LinkTiles := { l with ports := tset l.ports p q }

/-- A draw of an open value (log entry 10). -/
def State.draw (s : State) : Nat × State := (Config.freeNat s.free, { s with free := s.free + 1 })

/-- 1 µs and 1 s in ticks of 625 ps (R292). -/
def tickPerUs : Nat := 1600

def tickPerS : Nat := 1600000000

/-- The module's lap count in ticks (R292). -/
def State.ticks (s : State) : Nat := s.lap.toNat / 16

end Sys2Proof.Machine
end

