-- ==== Sys2Proof/Machine/Clock.lean ====
section
/-! DEFINITION. What passes while no command waits: one tick of the lap counters (R292, R295). -/

namespace Sys2Proof.Machine

open Sys2Proof

/-- A lap counter advances by one tick of sixteen sixteenths (R292). -/
def LapSync.tick (l : LapSync) : LapSync := { l with lap := l.lap + 16, sinceSlew := min 64 (l.sinceSlew + 1) }

/-- The counter of an agent runs unless the agent is held in reset (R342, R343). -/
def Agent.tick (g : Agent) : Agent := if g.inReset then g else { g with lapSync := g.lapSync.tick }

/-- The module's counter runs from the moment the link domain leaves power-on reset (R292). -/
def State.lapRuns (s : State) : Bool := 2 ≤ s.boot.wave

/-- One tick passes. -/
def State.idle (s : State) : State :=
  { s with lap := if s.lapRuns then s.lap + 16 else s.lap, agents := tmap (fun _ g => g.tick) s.agents }

end Sys2Proof.Machine
end

