-- ==== Sys2Proof/Machine/Formats.lean ====
section
/-! DEFINITION. Number formats, swage elements, ingots and the rounding of outputs (07_collectives.md R255, R261 to R263,
R267, R270 to R277; Tables 2-7, 7-2 to 7-4). All arithmetic is exact; an output is rounded once. -/

namespace Sys2Proof.Machine

open Sys2Proof

/-- A decoded element: a special, or the exact value m × 2^e. -/
inductive Val where
  | nan | posInf | negInf
  | fin (m e : Int)
deriving DecidableEq, Repr

/-- The parameters of a floating-point format: significand bits with the hidden one, exponent field bits, and the
exponent of the least positive value. -/
structure FloatFmt where
  p    : Nat
  expW : Nat
  umin : Int
deriving DecidableEq, Repr

/-- Floating-point formats by PFMT code (Tables 2-7, 7-2). -/
def floatFmt (fmt : Nat) : Option FloatFmt :=
  match fmt with
  | 1 => some { p := 24, expW := 8, umin := -149 }
  | 2 => some { p := 8, expW := 8, umin := -133 }
  | 3 => some { p := 11, expW := 5, umin := -24 }
  | 4 => some { p := 4, expW := 4, umin := -9 }
  | 5 => some { p := 3, expW := 5, umin := -16 }
  | _ => none

/-- Bytes per element (Table 2-7); an ingot takes a 64-byte slot. -/
def fmtBytes (fmt : Nat) : Nat :=
  match fmt with
  | 1 => 4 | 2 => 2 | 3 => 2 | 4 => 1 | 5 => 1 | 6 => 4 | 7 => 1 | 8 => 8 | 9 => 64 | _ => 1

/-- Decode a floating-point code (Table 7-2). FP8 E4M3 has no infinity, and its codes 0x7F and 0xFF are NaN. -/
def decodeFloat (fmt : Nat) (f : FloatFmt) (code : Nat) : Val :=
  let fw := f.p - 1
  let frac := code % 2 ^ fw
  let ex := code / 2 ^ fw % 2 ^ f.expW
  let sign : Int := if code / 2 ^ (fw + f.expW) % 2 = 1 then -1 else 1
  if fmt = 4 ∧ ex = 15 ∧ frac = 7 then .nan
  else if fmt ≠ 4 ∧ ex = 2 ^ f.expW - 1 then
    if frac ≠ 0 then .nan else if sign < 0 then .negInf else .posInf
  else if ex = 0 then .fin (sign * frac) f.umin
  else .fin (sign * (2 ^ fw + frac : Nat)) (f.umin + (ex - 1 : Nat))

/-- Decode an element of a PFMT code 0x1 to 0x7; another code reads as zero. -/
def decodeElem (fmt code : Nat) : Val :=
  match floatFmt fmt with
  | some f => decodeFloat fmt f code
  | none =>
    if fmt = 6 then .fin (BitVec.ofNat 32 code).toInt 0
    else if fmt = 7 then .fin (BitVec.ofNat 8 code).toInt 0
    else .fin 0 0

/-- The codes of a payload, from its first byte (R255). -/
def payloadCodes (fmt : Nat) (bytes : List Byte) (n : Nat) : List Nat :=
  (List.range n).map fun i => natAt bytes (fmtBytes fmt * i) (fmtBytes fmt)

/-- The bytes of codes. -/
def codesBytes (fmt : Nat) (codes : List Nat) : List Byte := codes.flatMap fun c => leBytes (fmtBytes fmt) c

/-! ## Swage -/

/-- floor(m × 2^e / 2^s) (R262). -/
def floorAt (m e s : Int) : Int := if s ≤ e then m * 2 ^ (e - s).toNat else m / 2 ^ (s - e).toNat

/-- One element converted at a scale (R262): its integer, whether it sets OVF, and whether it is a NaN or infinite. -/
def swageElem (s : Int) (v : Val) : Int × Bool × Bool :=
  match v with
  | .fin m e =>
    let x := floorAt m e s
    if x < -(2 ^ 51) ∨ (2 : Int) ^ 51 ≤ x then (0, true, false) else (x, false, false)
  | _ => (0, true, true)

/-- The swage blocks of one contribution: elements, OVF bits and scales. -/
structure Swage where
  elems : List Int
  ovf   : BitVec 8
  scale : BitVec 128
deriving DecidableEq, Repr

/-- Set entry `k` of a scale vector. -/
def setScale (v : BitVec 128) (k : Nat) (x : BitVec 16) : BitVec 128 := putField v (16 * k) x

/-- Convert a chunk's elements at the scales of a pass (R262). -/
def toSwage (scale : BitVec 128) (vals : List Val) : Swage :=
  let conv := (List.range vals.length).map fun i =>
    swageElem (scale.extractLsb' (16 * (i / 64)) 16).toInt ((vals[i]?).getD (.fin 0 0))
  let mark (w : Swage) (i : Nat) : Swage :=
    match conv[i]? with
    | some (_, true, special) =>
      { w with ovf := w.ovf ||| (1#8 <<< (i / 64))
               scale := if special then setScale w.scale (i / 64) 0x7FFF else w.scale }
    | _ => w
  (List.range vals.length).foldl mark { elems := conv.map (·.1), ovf := 0, scale := scale }

/-- Swage elements of a payload: 64-bit two's complement integers. -/
def swageElems (bytes : List Byte) (n : Nat) : List Int :=
  (List.range n).map fun i => (BitVec.ofNat 64 (natAt bytes (8 * i) 8)).toInt

/-- The payload of swage elements. -/
def swageBytes (elems : List Int) : List Byte := elems.flatMap fun v => bvBytes (BitVec.ofInt 64 v)

/-- Two scale vectors are of the same pass: equal wherever neither has the raw marker (R265). -/
def samePass (a b : BitVec 128) : Bool :=
  (List.range 8).all fun k =>
    let x := a.extractLsb' (16 * k) 16
    let y := b.extractLsb' (16 * k) 16
    x == 0x7FFF || y == 0x7FFF || x == y

/-- Scales of a sum: the raw marker where any part carries it, otherwise the common scale (R265). -/
def joinScales (a b : BitVec 128) : BitVec 128 :=
  (List.range 8).foldl (fun v k => if b.extractLsb' (16 * k) 16 == 0x7FFF then setScale v k 0x7FFF else v) a

/-- Sum of two parts (R265). -/
def addSwage (a b : Swage) : Swage :=
  { elems := List.zipWith (· + ·) a.elems b.elems, ovf := a.ovf ||| b.ovf, scale := joinScales a.scale b.scale }

/-! ## Ingots -/

/-- An element as an ingot, in units of 2^-149 (R272, Table 7-2). -/
def toIngot (v : Val) : Ingot :=
  match v with
  | .nan => .nan
  | .posInf => .posInf
  | .negInf => .negInf
  | .fin m e => .fin (floorAt m e (-149))

/-- Sum on the ingot path (Table 7-3). -/
def ingotSum : Ingot → Ingot → Ingot
  | .nan, _ => .nan
  | _, .nan => .nan
  | .posInf, .negInf => .nan
  | .negInf, .posInf => .nan
  | .posInf, _ => .posInf
  | _, .posInf => .posInf
  | .negInf, _ => .negInf
  | _, .negInf => .negInf
  | .fin a, .fin b => .fin (a + b)

/-- Minimum on the ingot path (Table 7-3). -/
def ingotMin : Ingot → Ingot → Ingot
  | .nan, _ => .nan
  | _, .nan => .nan
  | .negInf, _ => .negInf
  | _, .negInf => .negInf
  | .posInf, x => x
  | x, .posInf => x
  | .fin a, .fin b => .fin (min a b)

/-- Maximum on the ingot path (Table 7-3). -/
def ingotMax : Ingot → Ingot → Ingot
  | .nan, _ => .nan
  | _, .nan => .nan
  | .posInf, _ => .posInf
  | _, .posInf => .posInf
  | .negInf, x => x
  | x, .negInf => x
  | .fin a, .fin b => .fin (max a b)

/-- The operation of a collective: 0 sum, 1 min, 2 max (Table 7-11). -/
def ingotOp (op : Nat) : Ingot → Ingot → Ingot :=
  if op = 1 then ingotMin else if op = 2 then ingotMax else ingotSum

/-- The 320-bit encoding of an ingot (R270, R271). -/
def encodeIngot : Ingot → BitVec 320
  | .nan => 1#320 <<< 319
  | .posInf => (BitVec.allOnes 320) >>> 1
  | .negInf => (1#320 <<< 319) ||| 1#320
  | .fin v => BitVec.ofInt 320 v

/-- The ingot that 320 bits stand for (R271). -/
def decodeIngot (b : BitVec 320) : Ingot :=
  if b = encodeIngot .nan then .nan
  else if b = encodeIngot .posInf then .posInf
  else if b = encodeIngot .negInf then .negInf
  else .fin b.toInt

/-! ## Rounding an output -/

/-- One step of the generator (R276). -/
def mix (z : BitVec 64) : BitVec 64 :=
  let z := z + 0x9E3779B97F4A7C15#64
  let z := (z ^^^ (z >>> 30)) * 0xBF58476D1CE4E5B9#64
  let z := (z ^^^ (z >>> 27)) * 0x94D049BB133111EB#64
  z ^^^ (z >>> 31)

/-- The generator value of an output element (R276). -/
def drawFor (seed : BitVec 64) (collId : BitVec 32) (step index : BitVec 64) : BitVec 64 :=
  mix (mix (mix (seed ^^^ collId.setWidth 64) ^^^ step) ^^^ index)

/-- How an output is rounded: to nearest even, or stochastically with a generator value (R275). -/
inductive Rounding where
  | nearest
  | stochastic (r : BitVec 64)
deriving DecidableEq, Repr

/-- num / 2^k rounded to an integer under R275: lo is the floor, and the tie goes to the even integer. -/
def roundDiv (mode : Rounding) (num : Int) (k : Nat) : Int :=
  let d : Int := 2 ^ k
  let lo := num / d
  let rem := num - lo * d
  if rem = 0 then lo
  else
    match mode with
    | .nearest => if 2 * rem < d then lo else if d < 2 * rem then lo + 1 else if lo % 2 = 0 then lo else lo + 1
    | .stochastic r => if (r.toNat : Int) < 2 ^ 64 * rem / d then lo + 1 else lo

/-- Number of bits of a magnitude. -/
def bitLen (n : Nat) : Nat := if n = 0 then 0 else Nat.log2 n + 1

/-- The code of sign, significand and unit exponent (above the least) in a float format. -/
def packFloat (f : FloatFmt) (neg : Bool) (q u : Nat) : Nat :=
  let fw := f.p - 1
  let s := if neg then 2 ^ (fw + f.expW) else 0
  let (q, u) := if q = 2 ^ f.p then (2 ^ fw, u + 1) else (q, u)
  if q < 2 ^ fw then s + q else s + (u + 1) * 2 ^ fw + (q - 2 ^ fw)

/-- Largest finite value of a float format as significand and unit exponent (Table 7-4; 448 for FP8 E4M3). -/
def maxFloat (fmt : Nat) (f : FloatFmt) : Nat × Nat :=
  if fmt = 4 then (14, 2 ^ f.expW - 2) else (2 ^ f.p - 1, 2 ^ f.expW - 3)

/-- What forming one output gives: its code, and whether it counts as saturated or as a NaN (Table 7-4, Table 7-6); for
swage the last marks the element whose block takes OVF. -/
structure OutElem where
  code : Nat
  sat  : Bool
  nan  : Bool
deriving DecidableEq, Repr

/-- Quiet NaN codes (Table 7-4). -/
def quietNan (fmt : Nat) : Nat :=
  match fmt with
  | 1 => 0x7FC00000 | 2 => 0x7FC0 | 3 => 0x7E00 | 5 => 0x7E | 4 => 0x7F | _ => 0

/-- The code of an infinity of a sign; FP8 E4M3 has none and takes 0x7F (Table 7-4). -/
def infCode (fmt : Nat) (f : FloatFmt) (neg : Bool) : Nat :=
  if fmt = 4 then 0x7F
  else (if neg then 2 ^ (f.p - 1 + f.expW) else 0) + (2 ^ f.expW - 1) * 2 ^ (f.p - 1)

/-- Round a total in units of 2^-(149 + fine) to a float format (R275, R277, Table 7-4). -/
def roundFloat (mode : Rounding) (fmt : Nat) (f : FloatFmt) (v : Int) (fine : Nat) : OutElem :=
  let shift := (f.umin + 149).toNat + fine
  let neg := decide (v < 0)
  let mag := v.natAbs
  let (mq, mu) := maxFloat fmt f
  let top := mq * 2 ^ (mu + shift)
  let half := 2 ^ (mu + shift) / 2
  if v = 0 then { code := 0, sat := false, nan := false }
  else if top + half ≤ mag then
    if fmt = 4 then { code := packFloat f neg mq mu, sat := true, nan := false }
    else { code := infCode fmt f neg, sat := false, nan := false }
  else if top < mag then { code := packFloat f neg mq mu, sat := false, nan := false }
  else
    let u := max shift (bitLen mag - f.p)
    let q := (roundDiv mode v u).natAbs
    { code := packFloat f neg q (u - shift), sat := false, nan := false }

/-- Clamp to a range of integers. -/
def clampInt (lo hi v : Int) : Int := if v < lo then lo else if hi < v then hi else v

/-- Round a total to an integer of `w` bits (R275, Table 7-4). -/
def roundInt (mode : Rounding) (w : Nat) (v : Int) (scale : Int) : OutElem :=
  let hi : Int := 2 ^ (w - 1) - 1
  let lo : Int := -(2 ^ (w - 1))
  let k := (scale + 149).toNat
  if hi * 2 ^ k < v ∨ v < lo * 2 ^ k then
    { code := (BitVec.ofInt w (if 0 < v then hi else lo)).toNat, sat := true, nan := false }
  else { code := (BitVec.ofInt w (clampInt lo hi (roundDiv mode v k))).toNat, sat := false, nan := false }

/-- Form one output element from the exact total (R275, R277). For swage output, `scale` is OUT_SCALE. -/
def formOutput (mode : Rounding) (fmt : Nat) (scale : Int) (v : Ingot) : OutElem :=
  match floatFmt fmt, v with
  | some _, .nan => { code := quietNan fmt, sat := false, nan := true }
  | some f, .posInf => { code := infCode fmt f false, sat := false, nan := fmt == 4 }
  | some f, .negInf => { code := infCode fmt f true, sat := false, nan := fmt == 4 }
  | some f, .fin x => roundFloat mode fmt f x 0
  | none, .nan => { code := 0, sat := false, nan := true }
  | none, .posInf =>
    let w := 8 * fmtBytes fmt
    { code := 2 ^ (w - 1) - 1, sat := true, nan := false }
  | none, .negInf =>
    let w := 8 * fmtBytes fmt
    { code := 2 ^ (w - 1), sat := true, nan := false }
  | none, .fin x => roundInt mode (8 * fmtBytes fmt) x (if fmt = 8 then scale else 0)

/-- The smaller and larger PLEN rules of results (R564): the smallest PLEN that covers some bytes, odd for swage. -/
def resultPlen (fmt bytes : Nat) : BitVec 4 :=
  let n := (bytes + 255) / 256
  let n := if fmt = 8 ∧ n % 2 = 1 then n + 1 else n
  BitVec.ofNat 4 (max 1 n - 1)

end Sys2Proof.Machine
end

