-- ==== Sys2Proof/Machine/Wire.lean ====
section
/-! DEFINITION. Packets, frames and cells as bytes, with their check fields (02_fabric_protocol.md, R56 to R70). -/

namespace Sys2Proof.Machine

open Sys2Proof

/-! ## Checks -/

/-- One bit of a CRC that shifts toward its most significant bit. -/
def crcUpBit {w : Nat} (poly c : BitVec w) (b : Bool) : BitVec w :=
  if c.msb != b then (c <<< 1) ^^^ poly else c <<< 1

/-- One bit of a CRC that shifts toward its least significant bit; `poly` is the reversed polynomial. -/
def crcDownBit {w : Nat} (poly c : BitVec w) (b : Bool) : BitVec w :=
  if c.getLsbD 0 != b then (c >>> 1) ^^^ poly else c >>> 1

/-- A CRC without reflection: each byte's most significant bit first. -/
def crcUp {w : Nat} (poly init : BitVec w) (bytes : List Byte) : BitVec w :=
  bytes.foldl (fun c b => (List.range 8).foldl (fun d i => crcUpBit poly d (b.getMsbD i)) c) init

/-- A CRC with reflection: each byte's least significant bit first. -/
def crcDown {w : Nat} (poly init : BitVec w) (bytes : List Byte) : BitVec w :=
  bytes.foldl (fun c b => (List.range 8).foldl (fun d i => crcDownBit poly d (b.getLsbD i)) c) init

/-- FW_CRC: polynomial 0x07, initial value zero (Table 2-2). -/
def crc8 (bytes : List Byte) : BitVec 8 := crcUp 0x07#8 0 bytes

/-- The hop check: the CRC-32 of IEEE 802.3 (R59; bit order and final inversion, log entry 20). -/
def crc32 (bytes : List Byte) : BitVec 32 := crcDown 0xEDB88320#32 0xFFFFFFFF#32 bytes ^^^ 0xFFFFFFFF#32

/-- CRC-32C (R64, R66; bit order and final inversion, log entry 20). -/
def crc32c (bytes : List Byte) : BitVec 32 := crcDown 0x82F63B78#32 0xFFFFFFFF#32 bytes ^^^ 0xFFFFFFFF#32

/-- What a difference in the covered bytes adds to a CRC-32C: the CRC is linear (R106). -/
def crc32cDelta (diff : List Byte) : BitVec 32 := crcDown 0x82F63B78#32 0 diff

/-- CRC-64, ECMA-182 polynomial, initial value zero, no reflection (R66). -/
def crc64 (bytes : List Byte) : BitVec 64 := crcUp 0x42F0E1EBA9EA3693#64 0 bytes

/-! ## The packet -/

/-- CLASS of a packet: true for a billet (Table 2-3). -/
def isBillet (p : Pkt) : Bool :=
  match p.body with
  | .tally _ _ => false
  | .billet _ _ _ _ => true

/-- The common word (Table 2-3). -/
def commonWord (c : Common) (billet : Bool) : BitVec 64 :=
  BitVec.ofBool c.mcast ++ c.tryNo ++ c.type ++ c.src ++ c.dst ++ BitVec.ofBool billet ++ BitVec.ofBool c.baton ++
    c.epoch ++ c.laneKey

/-- Bytes 12 to 59 of a billet header (Table 2-6). -/
def billetWord (h : BilletHdr) : BitVec 384 :=
  h.rsvE ++ h.ovf ++ h.scale ++ h.rsvD ++ h.part ++ h.rank ++ h.chunk ++ h.step ++ h.collId ++ h.mmask ++ h.rsvC ++
    BitVec.ofBool h.mresync ++ h.mgroup ++ h.rsvB ++ BitVec.ofBool h.run ++ h.runId ++ h.rsvA ++
    BitVec.ofBool h.recomp ++ h.pfmt ++ h.plen

/-- Bytes 0 to 59 of a billet header, which HDR_CRC covers. -/
def hdrBytes (c : Common) (seq : Seq) (h : BilletHdr) : List Byte :=
  bvBytes (commonWord c true) ++ bvBytes seq ++ bvBytes (billetWord h)

/-- Bytes 0 to 27 of a tally, which TCRC covers (Table 2-4). -/
def tallyBytes (c : Common) (seq : Seq) (body : BitVec 128) : List Byte :=
  bvBytes (commonWord c false) ++ bvBytes seq ++ bvBytes body

/-- The bytes of a packet as they cross a link. -/
def pktBytes (p : Pkt) : List Byte :=
  match p.body with
  | .tally body tcrc => tallyBytes p.c p.seq body ++ bvBytes tcrc
  | .billet h hc payload crc => hdrBytes p.c p.seq h ++ bvBytes hc ++ payload ++ bvBytes crc

/-- The check fields of a packet, computed afresh (R97). -/
def withChecks (p : Pkt) : Pkt :=
  match p.body with
  | .tally body _ => { p with body := .tally body (crc32c (tallyBytes p.c p.seq body)) }
  | .billet h _ payload _ =>
    let hc := crc32c (hdrBytes p.c p.seq h)
    { p with body := .billet h hc payload (crc64 (hdrBytes p.c p.seq h ++ bvBytes hc ++ payload)) }

/-- The check of the packet's own header: TCRC of a tally, HDR_CRC of a billet (R92). -/
def headOk (p : Pkt) : Bool :=
  match p.body with
  | .tally body tcrc => tcrc == crc32c (tallyBytes p.c p.seq body)
  | .billet h hc _ _ => hc == crc32c (hdrBytes p.c p.seq h)

/-- The CRC-64 of a billet (R92); a tally has none. -/
def dataOk (p : Pkt) : Bool :=
  match p.body with
  | .tally _ _ => true
  | .billet h hc payload crc => crc == crc64 (hdrBytes p.c p.seq h ++ bvBytes hc ++ payload)

/-- Payload bytes that PLEN gives (Table 2-6). -/
def plenBytes (plen : BitVec 4) : Nat := (plen.toNat + 1) * 256

/-- Frame length in cells that the packet's own header implies (R59, R61): 44 bytes, or the payload and 84. -/
def pktCells (p : Pkt) : Nat :=
  match p.body with
  | .tally _ _ => 2
  | .billet h _ _ _ => (plenBytes h.plen + 84 + 31) / 32

def pktHdr (p : Pkt) : Option BilletHdr :=
  match p.body with
  | .tally _ _ => none
  | .billet h _ _ _ => some h

def pktTally (p : Pkt) : BitVec 128 :=
  match p.body with
  | .tally b _ => b
  | .billet _ _ _ _ => 0

def pktPayload (p : Pkt) : List Byte :=
  match p.body with
  | .tally _ _ => []
  | .billet _ _ d _ => d

/-- A packet restricted to some positions (R106): MMASK narrowed, HDR_CRC and CRC-64 updated by the change alone. -/
def restrictMask (p : Pkt) (mask : BitVec 16) : Pkt :=
  match p.body with
  | .tally _ _ => p
  | .billet h hc payload crc =>
    let h' := { h with mmask := h.mmask &&& mask }
    let diff := List.zipWith (· ^^^ ·) (hdrBytes p.c p.seq h) (hdrBytes p.c p.seq h')
    let hc' := hc ^^^ crc32cDelta diff
    let diff64 := diff ++ bvBytes (hc ^^^ hc') ++ List.replicate payload.length 0
    { p with body := .billet h' hc' payload (crc ^^^ crc64 diff64) }

/-! ## Frames and cells -/

/-- The frame word (Table 2-2) with its FW_CRC. -/
def frameWord (vc : BitVec 2) (cells : BitVec 8) (sent : BitVec 16) (kind : BitVec 2) : BitVec 64 :=
  let hi : BitVec 56 := 0#28 ++ kind ++ sent ++ cells ++ vc
  hi ++ crc8 (bvBytes hi)

def fwVc (w : BitVec 64) : BitVec 2 := field w 8 2

def fwLen (w : BitVec 64) : Nat := (field w 10 8).toNat

def fwSent (w : BitVec 64) : BitVec 16 := field w 18 16

def fwKind (w : BitVec 64) : BitVec 2 := field w 34 2

/-- FW_CRC holds (Table 2-2). -/
def fwOk (w : BitVec 64) : Bool := field w 0 8 == crc8 (bvBytes (field w 8 56))

/-- The hop check of a frame (R59). -/
def hopCheck (word : BitVec 64) (p : Pkt) : BitVec 32 := crc32 (bvBytes word ++ pktBytes p)

/-- The frame as sent on a channel. -/
def frameOf (p : Pkt) (vc : BitVec 2) (sent : BitVec 16) : BitVec 64 × BitVec 32 :=
  let w := frameWord vc (BitVec.ofNat 8 (pktCells p)) sent 0
  (w, hopCheck w p)

/-- The hop check of a control cell, over bytes 0 to 27 (R60). -/
def cellHop (c : CtlCell) : BitVec 32 :=
  crc32 (bvBytes c.word ++ [c.csub, c.rsv] ++ bvBytes c.freed ++ bvBytes c.data)

/-- A control cell as a port sends it (R60). -/
def mkCell (csub : BitVec 8) (freed : BitVec 64) (data : BitVec 80) : CtlCell :=
  let c : CtlCell := { word := frameWord 0 1 0 1, csub := csub, rsv := 0, freed := freed, data := data, hop := 0, fecOk := true }
  { c with hop := cellHop c }

/-- A control cell that can be taken: FEC could correct it, its frame word names a control cell, and it checks. -/
def cellOk (c : CtlCell) : Bool :=
  c.fecOk && fwOk c.word && fwKind c.word == 1 && c.hop == cellHop c && c.rsv == 0

/-! ## Types and reserved settings -/

def tAck : BitVec 8 := 0x01
def tNak : BitVec 8 := 0x02
def tPaceArrive : BitVec 8 := 0x03
def tPaceRelease : BitVec 8 := 0x04
def tCtrl : BitVec 8 := 0x05
def tCtrlReply : BitVec 8 := 0x06
def tLinkEvent : BitVec 8 := 0x07
def tFenceAck : BitVec 8 := 0x08
def tMgrBusy : BitVec 8 := 0x09
def tResendFail : BitVec 8 := 0x0A
def tEndpointReport : BitVec 8 := 0x0B
def tShortMsg : BitVec 8 := 0x0C
def tDiscoverQuery : BitVec 8 := 0x0D
def tDiscoverReply : BitVec 8 := 0x0E

def bMessage : BitVec 8 := 0x01
def bContrib : BitVec 8 := 0x02
def bResult : BitVec 8 := 0x03
def bTable : BitVec 8 := 0x04
def bState : BitVec 8 := 0x05

/-- The lane key of manager traffic (Table 2-10). -/
def mgrKey : LaneKey := 0x002

/-- The tenant lane key of a tenant (R74). -/
def tenantKey (t : Nat) : LaneKey := BitVec.ofNat 12 (4 * t)

/-- The transit lane key of a tenant (R74). -/
def transitKey (t : Nat) : LaneKey := BitVec.ofNat 12 (4 * t + 1)

/-- The manager EID of module slot `i` (R71). -/
def mgrEidOf (slot : Nat) : Eid := BitVec.ofNat 18 (0x3F000 + 0x100 * slot)

/-- An EID of the hub range (Table 2-9). -/
def isHubEid (e : Eid) : Bool := 0x3F000 ≤ e.toNat && e.toNat ≤ 0x3FFFE

def noEid : Eid := 0x3FFFF

/-- Where a hop out of a Chrohar port stands in a path: no agent has this entry number. -/
def chroharHop : Nat := noEid.toNat

/-- A tally of an acknowledged type, or a billet (Tables 2-5, 2-8). -/
def acknowledged (p : Pkt) : Bool :=
  isBillet p || (p.c.type != tAck && p.c.type != tNak && p.c.type != tMgrBusy && p.c.type != tDiscoverQuery &&
    p.c.type != tDiscoverReply)

/-- Scale `k` of a scale vector. -/
def scaleAt (v : BitVec 128) (k : Nat) : BitVec 16 := v.extractLsb' (16 * k) 16

/-- The raw marker (R261). -/
def rawMark : BitVec 16 := 0x7FFF

/-- A valid swage scale, or the raw marker (R261). -/
def scaleOk (x : BitVec 16) : Bool := x == rawMark || (-149 ≤ x.toInt && x.toInt ≤ 80)

/-- Bits of a tally body outside the fields of its type (Tables 2-12, 3-7, 3-8, 5-9, 6-2, 7-8, 9-5, 9-7): the mask of
the bits in use. A CTRL body is judged by its agent (R70), and a SHORT_MSG body is user data. -/
def bodyMask (type : BitVec 8) (page : Nat) : BitVec 128 :=
  let low (n : Nat) : BitVec 128 := BitVec.ofNat 128 (2 ^ n - 1)
  if type = tAck then low 113
  else if type = tNak then low 57 &&& ~~~(BitVec.ofNat 128 (2 ^ 35))
  else if type = tPaceArrive then low 77
  else if type = tPaceRelease then low 128
  else if type = tCtrlReply then low 38
  else if type = tLinkEvent then low 38 ||| (low 128 &&& ~~~(low 48))
  else if type = tFenceAck then low 77
  else if type = tMgrBusy then low 56 &&& ~~~(BitVec.ofNat 128 (2 ^ 35))
  else if type = tResendFail then low 91
  else if type = tDiscoverQuery then low 63
  else if type = tDiscoverReply then (if page = 0 then low 103 else low 96)
  else low 128

/-- A packet that its destination drops without acknowledgement and without NAK (R70). -/
def reservedPacket (p : Pkt) : Bool :=
  match p.body with
  | .tally body _ =>
    p.c.type == 0 || 0x0E < p.c.type.toNat || p.c.mcast ||
      (body &&& ~~~(bodyMask p.c.type (field body 16 5).toNat)) != 0 ||
      (!acknowledged p && (p.c.baton || p.seq != 0))
  | .billet h _ _ _ =>
    p.c.type == 0 || 5 < p.c.type.toNat || h.rsvA != 0 || h.rsvB != 0 || h.rsvC != 0 || h.rsvD != 0 || h.rsvE != 0 ||
      0xA ≤ h.pfmt.toNat || (h.pfmt == 8 && (List.range 8).any fun k => !scaleOk (scaleAt h.scale k)) ||
      (p.c.mcast && h.run)

/-- A tally of one's own, with its checks. -/
def mkTally (c : Common) (seq : Seq) (body : BitVec 128) : Pkt := withChecks { c := c, seq := seq, body := .tally body 0 }

/-- A header of zeros. -/
def zeroHdr : BilletHdr :=
  { plen := 0, pfmt := 0, recomp := false, rsvA := 0, runId := 0, run := false, rsvB := 0, mgroup := 0,
    mresync := false, rsvC := 0, mmask := 0, collId := 0, step := 0, chunk := 0, rank := 0, part := 0, rsvD := 0,
    scale := 0, ovf := 0, rsvE := 0 }

/-- The PLEN that covers some bytes, at least one block of 256 (Table 2-6). -/
def plenFor (n : Nat) : BitVec 4 := BitVec.ofNat 4 ((n + 255) / 256 - 1)

/-- A billet of one's own, its payload zero padded to PLEN, with its checks. -/
def mkBillet (c : Common) (seq : Seq) (h : BilletHdr) (payload : List Byte) : Pkt :=
  withChecks { c := c, seq := seq, body := .billet h 0 (padTo (plenBytes h.plen) payload) 0 }

/-- A common word with TRY 0 and BATON 0. -/
def common (key : LaneKey) (epoch : BitVec 2) (src dst : Eid) (type : BitVec 8) : Common :=
  { laneKey := key, epoch := epoch, baton := false, dst := dst, src := src, type := type, tryNo := 0, mcast := false }

end Sys2Proof.Machine
end

