-- ==== Sys2Proof/Machine/Flow.lean ====
section
/-! DEFINITION. The flow layer (02_fabric_protocol.md, R88 to R102, R107 to R109, R562): source and destination records,
the same at an agent and at a hub unit. Nothing here knows where the flow stands. -/

namespace Sys2Proof.Machine

open Sys2Proof

/-! ## Sources -/

/-- The identity of the flow that a packet belongs to (R88). -/
def flowKeyOf (p : Pkt) : FlowKey :=
  match p.c.mcast, pktHdr p with
  | true, some h => { src := p.c.src, mcast := true, peer := h.mgroup.setWidth 18, laneKey := p.c.laneKey }
  | _, _ => { src := p.c.src, mcast := false, peer := p.c.dst, laneKey := p.c.laneKey }

/-- A source record as it begins (R88, R90). -/
def freshSrc (key : FlowKey) (baseUs : Nat) : SrcFlow :=
  { key := key, next := 0, latest := 0xFFFFFFFF, copies := [], waiting := [], failed := false, baseUs := baseUs,
    fenced := 0, lastSet := none }

/-- The record of a flow, or a fresh one. -/
def srcOf (fs : List SrcFlow) (key : FlowKey) (baseUs : Nat) : SrcFlow :=
  (fs.find? fun f => f.key == key).getD (freshSrc key baseUs)

/-- Positions of a flow among fence notices. -/
def noticed (ns : List (FlowKey × BitVec 16)) (key : FlowKey) : BitVec 16 :=
  ((ns.find? fun n => n.1 == key).map (·.2)).getD 0

/-- Keep a fence notice of a position, or take it back (R108). -/
def putNotice (ns : List (FlowKey × BitVec 16)) (key : FlowKey) (pos : Nat) (lifted : Bool) : List (FlowKey × BitVec 16) :=
  let m := if lifted then noticed ns key &&& ~~~(1#16 <<< pos) else noticed ns key ||| (1#16 <<< pos)
  let rest := ns.filter fun n => n.1 != key
  if m = 0 then rest else rest ++ [(key, m)]

/-- The record of a flow, or a fresh one that takes some positions as fenced from its start (R108). -/
def srcFrom (fs : List SrcFlow) (key : FlowKey) (baseUs : Nat) (fenced : BitVec 16) : SrcFlow :=
  (fs.find? fun f => f.key == key).getD { freshSrc key baseUs with fenced := fenced }

/-- Put a source record in place of the one with its key. -/
def putSrc : List SrcFlow → SrcFlow → List SrcFlow
  | [], f => [f]
  | g :: r, f => if g.key = f.key then f :: r else g :: putSrc r f

/-- Put the record of a flow that exists; a flow without a record stays without one. -/
def modSrc (fs : List SrcFlow) (key : FlowKey) (f : SrcFlow → SrcFlow) : List SrcFlow :=
  modFirst (fun g => g.key == key) f fs

/-- MMASK of a packet, zero when it has none. -/
def pktMask (p : Pkt) : BitVec 16 :=
  match pktHdr p with
  | some h => if p.c.mcast then h.mmask else 0
  | none => 0

/-- The packet with another MMASK and MRESYNC. -/
def withMask (p : Pkt) (mask : BitVec 16) (mresync : Bool) : Pkt :=
  match p.body with
  | .tally _ _ => p
  | .billet h hc d crc => { p with body := .billet { h with mmask := mask, mresync := mresync } hc d crc }

/-- A TABLE billet (Table 2-8). -/
def isTable (p : Pkt) : Bool := isBillet p && p.c.type == bTable

/-- The packet of a try: its epoch, its TRY and its checks (R97, R110). -/
def stampTry (epoch : BitVec 2) (tryNo : Nat) (p : Pkt) : Pkt :=
  withChecks { p with c := { p.c with epoch := epoch, tryNo := BitVec.ofNat 3 tryNo } }

/-- The epoch of a first try: the current one, but for a TABLE billet the one being loaded, which it was made with (R172). A
resend carries the current epoch always (R97). -/
def firstEpoch (epoch : BitVec 2) (p : Pkt) : BitVec 2 := if isTable p then p.c.epoch else epoch

/-- The window of R90: at most 64 copies, and the next number within 64 of the latest ACK or completion. -/
def windowOpen (f : SrcFlow) : Bool :=
  f.copies.length < 64 && 1 ≤ (f.next - f.latest).toNat && (f.next - f.latest).toNat ≤ 64

/-- The position set of a packet that a multicast flow is about to send (R562). -/
def positionSet (f : SrcFlow) (p : Pkt) : BitVec 16 := pktMask p &&& ~~~f.fenced

/-- The position set differs from that of the flow's previous packet (R562). -/
def setChanged (f : SrcFlow) (p : Pkt) : Bool :=
  f.key.mcast && (match f.lastSet with
    | some m => m != positionSet f p
    | none => false)

/-- What a source ends a packet with: its TAG, the completion code, the bitmap, and the packet. -/
structure Finished where
  tag    : Option (BitVec 16)
  code   : BitVec 8
  bitmap : BitVec 16
  pkt    : Pkt
deriving DecidableEq, Repr

/-- What an act of a source record does: the record, the packets it sends, and the packets it ends. -/
structure SrcStep where
  flow : SrcFlow
  send : List Pkt
  done : List Finished
deriving DecidableEq, Repr

/-- The first try of a packet now: it takes the next number (R88, R95, R562). -/
def sendFirst (epoch : BitVec 2) (f : SrcFlow) (p : Pkt) (tag : Option (BitVec 16)) (desc : Option Desc := none) : SrcStep :=
  let m := positionSet f p
  let q := if f.key.mcast then withMask p m (setChanged f p) else p
  let q := stampTry (firstEpoch epoch p) 0 { q with seq := f.next }
  { flow := { f with next := f.next + 1
                     lastSet := if f.key.mcast then some m else none
                     copies := f.copies ++ [{ pkt := q, tries := 1, timer := true, busy := none, mask := pktMask p,
                                              acked := 0, fenced := pktMask p &&& f.fenced, tag := tag, desc := desc }] }
    send := [q], done := [] }

/-- A packet that may go now: the window is open, and a changed position set waits for every earlier packet. -/
def mayGo (f : SrcFlow) (p : Pkt) : Bool := windowOpen f && (!setChanged f p || f.copies.isEmpty)

/-- A source takes a packet: it sends it, or keeps it waiting; an empty position set sends nothing (R90, R562). R562 does not
say how such a packet ends at its descriptor: it ends at once with DONE and bitmap 0, as a packet of which no position is
outstanding (DESIGN CHOICE, log entry 139). -/
def srcOffer (epoch : BitVec 2) (f : SrcFlow) (p : Pkt) (tag : Option (BitVec 16)) (desc : Option Desc := none) : SrcStep :=
  if f.failed then { flow := f, send := [], done := [{ tag := tag, code := 0x01, bitmap := 0, pkt := p }] }
  else if f.key.mcast && positionSet f p == 0 && f.waiting.isEmpty then
    { flow := f, send := [], done := [{ tag := tag, code := 0x00, bitmap := 0, pkt := p }] }
  else if f.waiting.isEmpty && mayGo f p then sendFirst epoch f p tag desc
  else { flow := { f with waiting := f.waiting ++ [{ pkt := p, tag := tag, desc := desc }] }, send := [], done := [] }

/-- The first waiting packet goes, if it may and if its position set has (`changed`) or has not changed. -/
def srcRelease (epoch : BitVec 2) (changed : Bool) (f : SrcFlow) : SrcStep :=
  match f.waiting with
  | [] => { flow := f, send := [], done := [] }
  | w :: r =>
    if f.key.mcast && positionSet f w.pkt == 0 then
      { flow := { f with waiting := r }, send := [], done := [{ tag := w.tag, code := 0x00, bitmap := 0, pkt := w.pkt }] }
    else if setChanged f w.pkt == changed && mayGo f w.pkt then sendFirst epoch { f with waiting := r } w.pkt w.tag w.desc
    else { flow := f, send := [], done := [] }

/-- An ACK covers a number: up to ACK_SEQ, or by its SACK bit (Table 2-12). -/
def ackCovers (ackSeq : Seq) (sack : BitVec 64) (s : Seq) : Bool :=
  !seqLater s ackSeq || ((s - ackSeq).toNat ≤ 64 && sack.getLsbD ((s - ackSeq).toNat - 1))

/-- Positions of a copy that are still outstanding (R107). -/
def outstanding (c : Copy) : BitVec 16 := c.mask &&& ~~~(c.acked ||| c.fenced)

/-- A multicast packet is complete (R109). -/
def mcastComplete (c : Copy) : Bool := outstanding c == 0

/-- End every complete packet of a multicast flow and advance its window (R90, R109). -/
def settleMcast (f : SrcFlow) : SrcStep :=
  let done := f.copies.filter mcastComplete
  let left := f.copies.filter fun c => !mcastComplete c
  { flow := { f with copies := left
                     latest := (match left with
                       | c :: _ => c.pkt.seq - 1
                       | [] => f.next - 1) }
    send := []
    done := done.map fun c => { tag := c.tag, code := 0x00, bitmap := c.acked, pkt := c.pkt } }

/-- An ACK of a flow with one destination (R90). -/
def srcAck (f : SrcFlow) (ackSeq : Seq) (sack : BitVec 64) : SrcStep :=
  let done := f.copies.filter fun c => ackCovers ackSeq sack c.pkt.seq
  { flow := { f with copies := f.copies.filter fun c => !ackCovers ackSeq sack c.pkt.seq
                     latest := if seqLater ackSeq f.latest then ackSeq else f.latest }
    send := []
    done := done.map fun c => { tag := c.tag, code := 0x00, bitmap := 0, pkt := c.pkt } }

/-- An ACK of one position of a multicast flow (R107, R108): it counts where the position is outstanding. -/
def srcAckAt (f : SrcFlow) (ackSeq : Seq) (sack : BitVec 64) (pos : Nat) : SrcStep :=
  let count (c : Copy) : Copy :=
    if ackCovers ackSeq sack c.pkt.seq && (outstanding c).getLsbD pos then { c with acked := c.acked ||| (1#16 <<< pos) }
    else c
  settleMcast { f with copies := f.copies.map count }

/-- A fence notice of a position, or its lifting (R108, R562). -/
def srcFence (f : SrcFlow) (pos : Nat) (lifted : Bool) : SrcStep :=
  if lifted then { flow := { f with fenced := f.fenced &&& ~~~(1#16 <<< pos) }, send := [], done := [] }
  else
    settleMcast { f with
      fenced := f.fenced ||| (1#16 <<< pos)
      copies := f.copies.map fun c =>
        if (outstanding c).getLsbD pos then { c with fenced := c.fenced ||| (1#16 <<< pos) } else c }

/-- The packet of a copy's next sending with a given TRY, limited to outstanding positions (R97, R107). -/
def resendPkt (epoch : BitVec 2) (f : SrcFlow) (c : Copy) (tryNo : Nat) : Pkt :=
  let p := match f.key.mcast, pktHdr c.pkt with
    | true, some h => withMask c.pkt (outstanding c) h.mresync
    | _, _ => c.pkt
  stampTry epoch tryNo p

/-- The next try of a copy (R95). -/
def nextTry (epoch : BitVec 2) (f : SrcFlow) (c : Copy) : Copy :=
  { c with pkt := resendPkt epoch f c c.tries, tries := c.tries + 1, timer := true, busy := none }

/-- The copy of a number. -/
def copyOf (f : SrcFlow) (s : Seq) : Option Copy := f.copies.find? fun c => c.pkt.seq == s

def modCopy (f : SrcFlow) (s : Seq) (g : Copy → Copy) : SrcFlow :=
  { f with copies := modFirst (fun c => c.pkt.seq == s) g f.copies }

/-- A NAK that names the latest try brings the next try at once; any other is ignored (R95). -/
def srcNak (epoch : BitVec 2) (f : SrcFlow) (s : Seq) (tryNo : Nat) : SrcStep :=
  match copyOf f s with
  | some c =>
    if c.tries - 1 = tryNo ∧ c.tries < 8 then
      { flow := modCopy f s (nextTry epoch f), send := [(nextTry epoch f c).pkt], done := [] }
    else { flow := f, send := [], done := [] }
  | none => { flow := f, send := [], done := [] }

/-- A MGR_BUSY for the latest try stops that packet's timer for HOLD_US (R99). -/
def srcBusy (f : SrcFlow) (s : Seq) (tryNo : Nat) (holdUs : Nat) : SrcFlow :=
  match copyOf f s with
  | some c => if c.tries - 1 = tryNo then modCopy f s fun d => { d with timer := false, busy := some holdUs } else f
  | none => f

/-- HOLD_US later the packet goes again with the same TRY, uncounted (R99). -/
def srcHoldEnd (epoch : BitVec 2) (f : SrcFlow) (s : Seq) : SrcStep :=
  match copyOf f s with
  | some c =>
    match c.busy with
    | some _ =>
      let q := resendPkt epoch f c (c.tries - 1)
      { flow := modCopy f s fun d => { d with pkt := q, timer := true, busy := none }, send := [q], done := [] }
    | none => { flow := f, send := [], done := [] }
  | none => { flow := f, send := [], done := [] }

/-- The eighth try of a packet has been sent and its timer runs (R95, R98). -/
def lastTry (f : SrcFlow) (s : Seq) : Bool :=
  match copyOf f s with
  | some c => c.timer && 8 ≤ c.tries
  | none => false

/-- A try's timer expires before the eighth try: the next try goes (R95). -/
def srcExpire (epoch : BitVec 2) (f : SrcFlow) (s : Seq) : SrcStep :=
  match copyOf f s with
  | some c =>
    if c.timer && c.tries < 8 then
      { flow := modCopy f s (nextTry epoch f), send := [(nextTry epoch f c).pkt], done := [] }
    else { flow := f, send := [], done := [] }
  | none => { flow := f, send := [], done := [] }

/-- The flow fails (R98): every unacknowledged packet is discarded, and further packets are refused. -/
def srcFail (f : SrcFlow) : SrcStep :=
  { flow := { f with copies := [], waiting := [], failed := true }
    send := []
    done := (f.copies.map fun c => { tag := c.tag, code := 0x01, bitmap := c.acked, pkt := c.pkt }) ++
      f.waiting.map fun w => { tag := w.tag, code := 0x01, bitmap := 0, pkt := w.pkt } }

/-- Every copy is discarded with DISCARDED, as by a fence, by ASSIGNED 0 or by FLOW_CLEAR (Table 9-9). -/
def discarded (f : SrcFlow) : List Finished :=
  (f.copies.map fun c => { tag := c.tag, code := 0x07, bitmap := c.acked, pkt := c.pkt }) ++
    f.waiting.map fun w => { tag := w.tag, code := 0x07, bitmap := 0, pkt := w.pkt }

/-- Body of the RESEND_FAIL of a packet that exhausted its tries (Table 2-12). -/
def resendFailBody (f : SrcFlow) (c : Copy) : BitVec 128 :=
  at' 128 0 c.pkt.seq ||| at' 128 32 (if f.key.mcast then noEid else f.key.peer) ||| at' 128 50 f.key.laneKey |||
    (if f.key.mcast then at' 128 62 (f.key.peer.setWidth 12) ||| at' 128 74 (outstanding c) ||| at' 128 90 1#1 else 0)

/-! ## Destinations -/

/-- A destination record as it begins (R89). -/
def freshDst (key : FlowKey) (position : BitVec 4) : DstFlow :=
  { key := key, ackSeq := 0xFFFFFFFF, arrivals := 0, sinceAck := 0, timer := false, held := [], position := position,
    stamp := none }

def findDst (ds : List DstFlow) (key : FlowKey) : Option DstFlow := ds.find? fun d => d.key == key

/-- Put a destination record in place of the one with its key. -/
def putDst : List DstFlow → DstFlow → List DstFlow
  | [], d => [d]
  | e :: r, d => if e.key = d.key then d :: r else e :: putDst r d

/-- A packet with MRESYNC 1 first moves ACK_SEQ to just before it, if that is later (R562). -/
def dstResync (d : DstFlow) (p : Pkt) : DstFlow :=
  match pktHdr p with
  | some h => if h.mresync && seqLater (p.seq - 1) d.ackSeq then { d with ackSeq := p.seq - 1, arrivals := 0 } else d
  | none => d

/-- Already received (R89, R92). -/
def dstSeen (d : DstFlow) (s : Seq) : Bool :=
  !seqLater s d.ackSeq || ((s - d.ackSeq).toNat ≤ 64 && d.arrivals.getLsbD ((s - d.ackSeq).toNat - 1))

/-- Beyond ACK_SEQ + 64 (R90). -/
def dstBeyond (d : DstFlow) (s : Seq) : Bool := 64 < (s - d.ackSeq).toNat

/-- Move ACK_SEQ over the packets that have arrived without a gap. -/
def advanceAck : Nat → Seq → BitVec 64 → Seq × BitVec 64
  | 0, a, r => (a, r)
  | fuel + 1, a, r => if r.getLsbD 0 then advanceAck fuel (a + 1) (r >>> 1) else (a, r)

/-- Insert a held packet by sequence order. -/
def insertHeld (p : Pkt) : List Pkt → List Pkt
  | [] => [p]
  | q :: r => if seqLater q.seq p.seq then p :: q :: r else q :: insertHeld p r

/-- A held packet whose turn has come: ACK_SEQ has reached SEQ − 1 (R100). -/
def heldReady (ackSeq : Seq) (p : Pkt) : Bool := !seqLater (p.seq - 1) ackSeq

/-- Accept a packet (R92, R93, R100): it is recorded, and what may now be delivered comes out in order. `ordered` holds
a packet like a baton packet (R352: an agent applies the manager's flow in sequence). -/
def dstAccept (d : DstFlow) (p : Pkt) (ordered : Bool) : DstFlow × List Pkt :=
  let arrivals := d.arrivals ||| (1#64 <<< ((p.seq - d.ackSeq).toNat - 1))
  let adv := advanceAck 64 d.ackSeq arrivals
  let hold := p.c.baton || ordered
  let held := if hold then insertHeld p d.held else d.held
  ({ d with ackSeq := adv.1, arrivals := adv.2, sinceAck := d.sinceAck + 1, timer := true,
            held := held.filter fun q => !heldReady adv.1 q
            stamp := if isTable p then some p.c.epoch else none },
   (if hold then [] else [p]) ++ held.filter (heldReady adv.1))

/-- The ACK of a flow (R93, Table 2-12), from the EID it was received under. -/
def ackPkt (d : DstFlow) (own : Eid) (epoch : BitVec 2) : Pkt :=
  mkTally (common d.key.laneKey epoch own d.key.src tAck) 0
    (at' 128 0 d.ackSeq ||| at' 128 32 d.arrivals |||
      (if d.key.mcast then at' 128 96 (d.key.peer.setWidth 12) ||| at' 128 108 d.position ||| at' 128 112 1#1 else 0))

/-- The NAK of a packet whose CRC-64 failed (R92, Table 2-12). -/
def nakPkt (p : Pkt) (own : Eid) (position : BitVec 4) (epoch : BitVec 2) : Pkt :=
  mkTally (common p.c.laneKey epoch own p.c.src tNak) 0
    (at' 128 0 p.seq ||| at' 128 32 p.c.tryNo ||| at' 128 36 1#4 |||
      (match p.c.mcast, pktHdr p with
        | true, some h => at' 128 40 h.mgroup ||| at' 128 52 position ||| at' 128 56 1#1
        | _, _ => 0))

/-- An ACK has been sent. -/
def acked (d : DstFlow) : DstFlow := { d with sinceAck := 0, timer := false }

/-- What a destination does with a packet whose checks hold (R90, R92, R562). -/
inductive DstVerdict where
  | duplicate (d : DstFlow)
  | beyond
  | accept (d : DstFlow)
deriving DecidableEq, Repr

/-- Judge a packet against its flow's record. -/
def dstJudge (d : DstFlow) (p : Pkt) : DstVerdict :=
  let d := dstResync d p
  if dstSeen d p.seq then .duplicate d else if dstBeyond d p.seq then .beyond else .accept d

/-- The flow that an ACK or NAK answers at its source: SRC_EID and DST_EID are exchanged (R93). -/
def answeredKey (p : Pkt) (mcast : Bool) (group : BitVec 12) : FlowKey :=
  { src := p.c.dst, mcast := mcast, peer := if mcast then group.setWidth 18 else p.c.src, laneKey := p.c.laneKey }

end Sys2Proof.Machine
end

