-- ==== Sys2Proof/Machine/Agent.lean ====
section
/-! DEFINITION. What every happening at a GA-2 agent is built from (09_goson_agent.md): its tables, how it chooses a way
and a channel, how it sends for itself, and the rings of the endpoint interface. -/

namespace Sys2Proof.Machine

open Sys2Proof

/-- What a happening at an agent answers: the agent after it and what it puts out. -/
abbrev AgentStep := Agent × List Emission

/-! ## Widths and states as codes -/

/-- Lanes of a width code (Table 3-3); reserved codes count as none. -/
def widthOfCode (c : BitVec 3) : Nat :=
  match c.toNat with
  | 1 => 1 | 2 => 2 | 3 => 4 | 4 => 6 | 5 => 8 | _ => 0

/-- Width code of a number of lanes (Table 3-3). -/
def codeOfWidth (w : Nat) : BitVec 3 :=
  if w = 1 then 1 else if w = 2 then 2 else if w = 4 then 3 else if w = 6 then 4 else if w = 8 then 5 else 0

/-- STATE code of a port (Table 3-5). -/
def stateCode : PortState → BitVec 3
  | .untrained => 0 | .training => 1 | .up => 2 | .noLane => 3 | .belowMin => 4 | .held => 5 | .idChanged => 6

/-- State code of a table slot (Table 9-5). -/
def slotCode : SlotState → BitVec 2
  | .empty => 0 | .staged => 1 | .current => 2 | .draining => 3

def Port.isUp (q : Port) : Bool := q.state == .up

/-! ## Tables -/

/-- An entry of the lane key table (R209): 0 to 15 the ports, 16 the local port, 17 the assignment. -/
def Agent.keyEntry (g : Agent) (n : Nat) : BitVec 256 := (tget g.keys n).getD 0

/-- A lane key that no port passes: kind 0b11, or kind manager with a tenant (R76). -/
def keyBad (k : LaneKey) : Bool := field k 0 2 == 3 || (field k 0 2 == 2 && k != mgrKey)

/-- A key that a valid slot of a port entry holds (Table 5-6). -/
def keyHeld (e : BitVec 256) (k : LaneKey) : Bool :=
  (List.range 16).any fun i => e.getLsbD (192 + i) && field e (12 * i) 12 == k

/-- The allowed set of a port entry: always 0x002, and the keys it holds (R76). -/
def keyAllowed (e : BitVec 256) (k : LaneKey) : Bool := k == mgrKey || (!keyBad k && keyHeld e k)

def Agent.assignment (g : Agent) : BitVec 256 := g.keyEntry 17

def Agent.assigned (g : Agent) : Bool := g.assignment.getLsbD 0

def Agent.fenced (g : Agent) : Bool := g.assignment.getLsbD 1

def Agent.tenant (g : Agent) : Nat := (field g.assignment 2 10).toNat

/-- RESEND_BASE of the endpoint's flows (R96): RESEND_US of the assignment, 20 where there is none. -/
def Agent.resendUs (g : Agent) : Nat :=
  if field g.assignment 24 8 == 0 then 20 else (field g.assignment 24 8).toNat

/-- The slot that is CURRENT. -/
def Agent.current (g : Agent) : Option Slot :=
  if g.slot0.state = .current then some g.slot0 else if g.slot1.state = .current then some g.slot1 else none

/-- The slot whose epoch a packet names (R110, R169): any slot that is not empty. -/
def Agent.slotOf (g : Agent) (e : BitVec 2) : Option Slot :=
  if g.slot0.state ≠ .empty ∧ g.slot0.epoch = e then some g.slot0
  else if g.slot1.state ≠ .empty ∧ g.slot1.epoch = e then some g.slot1
  else none

/-- The epoch the agent stamps (R110): the current one; before its first flip, that of its STAGED slot, or 0. -/
def Agent.epochNow (g : Agent) : BitVec 2 :=
  match g.current with
  | some t => t.epoch
  | none => if g.slot0.state = .staged then g.slot0.epoch else if g.slot1.state = .staged then g.slot1.epoch else 0

def Slot.blank (t : Slot) : Bool := t.routes.isEmpty && t.hubs.isEmpty && t.groups.isEmpty

/-- The epoch with which an agent without a CURRENT slot is loaded (R174, R251): that of its STAGED slot. -/
def Agent.installEpoch (g : Agent) : BitVec 2 :=
  if g.slot0.state = .staged then g.slot0.epoch else if g.slot1.state = .staged then g.slot1.epoch else 1

/-- The agent holds a route table (R73, R174): a slot that is CURRENT or DRAINING, or a STAGED one with entries. -/
def Agent.hasTable (g : Agent) : Bool :=
  g.slot0.state == .current || g.slot0.state == .draining || g.slot1.state == .current || g.slot1.state == .draining ||
    !g.slot0.blank || !g.slot1.blank

/-- Route or hub route entry of a destination (R164, Table 4-5). -/
def Slot.routeOf (t : Slot) (d : Eid) : BitVec 8 :=
  if isHubEid d then (if d.toNat - 0x3F000 < 1024 then (tget t.hubs (d.toNat - 0x3F000)).getD 0 else 0)
  else if d.toNat < 8192 then (tget t.routes d.toNat).getD 0 else 0

/-- A valid bridge entry of the spare side with this alias (R375). -/
def Agent.aliasOf (g : Agent) (e : Eid) : Bool :=
  g.bridge.any fun b => b.2.getLsbD 0 && b.2.getLsbD 1 && field b.2 32 18 == e

/-- An EID that the agent answers for: its own, or an alias (R375). -/
def Agent.isOwn (g : Agent) (e : Eid) : Bool := g.eid == some e || g.aliasOf e

def Agent.own (g : Agent) : Eid := g.eid.getD 0

/-! ## Ways -/

/-- Where a packet goes next: to this agent, out of a port, to this agent and copies out of ports, or nowhere. -/
inductive Way where
  | here
  | out (port : Nat)
  | many (own : Bool) (copies : List (Nat × BitVec 16))
  | drop
deriving DecidableEq, Repr

def entryWay (e : BitVec 8) : Way :=
  if !e.getLsbD 0 then .drop else if e.getLsbD 1 then .here else .out (field e 2 4).toNat

/-- The way by a run entry (R103, Table 4-7). -/
def runWay (e : BitVec 32) : Way :=
  if !e.getLsbD 0 then .drop else if e.getLsbD 1 then .here else .out (field e 2 4).toNat

/-- The way by a group entry (R106, Table 4-6): the own position and the two ports with their positions. -/
def groupWay (e : BitVec 64) (mask : BitVec 16) : Way :=
  if !e.getLsbD 0 then .drop
  else
    let own := e.getLsbD 1 && mask.getLsbD (field e 2 4).toNat
    let copies := [((field e 6 4).toNat, field e 10 16), ((field e 26 4).toNat, field e 30 16)]
    .many own (copies.filter fun c => c.2 &&& mask != 0)

/-- A discovery tally. -/
def isDiscovery (p : Pkt) : Bool := !isBillet p && (p.c.type == tDiscoverQuery || p.c.type == tDiscoverReply)

/-- TABLE billets and CTRL tallies on the manager's flow (R351). -/
def isFromManager (g : Agent) (p : Pkt) : Bool :=
  p.c.laneKey == mgrKey && g.mgrEid == some p.c.src && !p.c.mcast &&
    (isTable p || (!isBillet p && p.c.type == tCtrl))

/-- The first route table is being installed (R174): no slot has been CURRENT, so the agent takes what its manager sends to
its own EID although its new table may hold no entry for that EID yet (log entry 39). A TABLE billet must carry the epoch of
the STAGED slot, 1 or the one that TBL_SEED named (R251). -/
def Agent.installing (g : Agent) (p : Pkt) : Bool :=
  g.slot0.state != .current && g.slot0.state != .draining && g.slot1.state != .current && g.slot1.state != .draining &&
    isFromManager g p && g.eid == some p.c.dst && (!isTable p || p.c.epoch == g.installEpoch)

/-- The way of a packet at an agent (R72, R73, R103, R105, R110, R133, R174). -/
def Agent.tableWay (g : Agent) (p : Pkt) : Way :=
  if g.installing p then .here
  else if !g.hasTable then
    if isDiscovery p then .here else .drop
  else
    match pktHdr p with
    | some h =>
      if h.run && !p.c.mcast then runWay ((tget g.runs h.runId.toNat).getD 0)
      else
        match g.slotOf p.c.epoch with
        | none => .drop
        | some t =>
          if p.c.mcast then groupWay ((tget t.groups h.mgroup.toNat).getD 0) h.mmask
          else entryWay (t.routeOf p.c.dst)
    | none =>
      match g.slotOf p.c.epoch with
      | none => .drop
      | some t => entryWay (t.routeOf p.c.dst)

/-- The way of a packet as its agent takes it: one addressed to the alias of a valid bridge entry is for this agent (R375). -/
def Agent.wayOf (g : Agent) (p : Pkt) : Way := if !p.c.mcast && g.hasTable && g.aliasOf p.c.dst then .here else g.tableWay p

/-- AXIS, DATELINE of a port (Table 4-8). -/
def Agent.axisOf (g : Agent) (p : Nat) : BitVec 2 := field ((tget g.attrs p).getD 0) 0 2

def Agent.dateline (g : Agent) (p : Nat) : Bool := ((tget g.attrs p).getD 0).getLsbD 2

/-- The channel within the class at an output port (R80). -/
def Agent.channel (g : Agent) (origin : Option (Nat × BitVec 2)) (out : Nat) : Bool :=
  if g.axisOf out == 0 then false
  else
    match origin with
    | none => g.dateline out
    | some (inPort, inVc) =>
      if g.axisOf inPort != g.axisOf out then g.dateline out else inVc.getLsbD 0 || g.dateline out

/-- Credit counters of a channel (Table 2-2 codes). -/
def Vcs.get (v : Vcs) (vc : BitVec 2) : Credit :=
  if vc = 0 then v.t0 else if vc = 1 then v.t1 else if vc = 2 then v.b0 else v.b1

def Vcs.set (v : Vcs) (vc : BitVec 2) (c : Credit) : Vcs :=
  if vc = 0 then { v with t0 := c } else if vc = 1 then { v with t1 := c } else if vc = 2 then { v with b0 := c }
  else { v with b1 := c }

/-- Count cells as freed at a port (R84). -/
def Port.freeCells (q : Port) (vc : BitVec 2) (n : Nat) : Port :=
  { q with vcs := q.vcs.set vc { q.vcs.get vc with freed := (q.vcs.get vc).freed + BitVec.ofNat 16 n } }

/-- Return the cells that a packet occupied at its input port. -/
def Agent.release (g : Agent) (origin : Option (Nat × BitVec 2)) (p : Pkt) : Agent :=
  match origin with
  | none => g
  | some (port, vc) => { g with ports := tmod g.ports port fun q => q.freeCells vc (pktCells p) }

/-- A packet that shares its input cells under a number still waits here. -/
def Agent.holdsCells (g : Agent) (h : Nat) : Bool :=
  (g.ports.any fun e => e.2.queue.any fun x => x.hold == some h) || g.arrived.any fun x => x.hold == some h

/-- A packet leaves: its input cells return, unless a copy of the same billet still occupies them (R84, R86). -/
def Agent.free (g : Agent) (origin : Option (Nat × BitVec 2)) (hold : Option Nat) (p : Pkt) : Agent :=
  if hold.any g.holdsCells then g else g.release origin p

/-- Where an arrived packet's cells are still to be returned. -/
def Arrived.origin (x : Arrived) : Option (Nat × BitVec 2) := if x.owed then some (x.port, x.vc) else none

/-- An arrived packet has been taken off the list: its cells return. -/
def Agent.freeArrived (g : Agent) (x : Arrived) : Agent := g.free x.origin x.hold x.pkt

/-- Put a packet into the queue of an output port, on the channel of R80; a port that the build does not have takes
nothing. -/
def Agent.place (g : Agent) (out : Nat) (p : Pkt) (origin : Option (Nat × BitVec 2)) (hold : Option Nat) : Agent :=
  match tget g.ports out with
  | none => g
  | some q =>
    let vc : BitVec 2 := BitVec.ofBool (isBillet p) ++ BitVec.ofBool (g.channel origin out)
    g.setPort out { q with queue := q.queue ++ [{ pkt := p, vc := vc, void := false, origin := origin, hold := hold }] }

/-- Queue a packet at an output port; at a port that the build does not have its cells return at once. -/
def Agent.enqueue (g : Agent) (out : Nat) (p : Pkt) (origin : Option (Nat × BitVec 2)) : Agent :=
  if (tget g.ports out).isNone then g.release origin p else g.place out p origin none

/-- Queue the copies of a multicast billet, each restricted to its port's positions (R106); they share its cells. -/
def Agent.placeCopies (g : Agent) (p : Pkt) (origin : Option (Nat × BitVec 2)) (copies : List (Nat × BitVec 16)) : Agent :=
  copies.foldl (fun g c => g.place c.1 (restrictMask p c.2) origin (some g.holds)) g

/-- A lane-key drop is counted, saturating, and the first failing key is kept (R77). -/
def countFence (drops : BitVec 32) (first : LaneKey) (k : LaneKey) : BitVec 32 × LaneKey :=
  (if drops == BitVec.allOnes 32 then drops else drops + 1, if drops == 0 then k else first)

/-- A lane-key drop at the local port (R76, R77). -/
def Agent.localDrop (g : Agent) (k : LaneKey) : Agent :=
  { g with localDrops := (countFence g.localDrops g.localFirst k).1, localFirst := (countFence g.localDrops g.localFirst k).2 }

/-- Packets that the local port toward the endpoint checks: all that the agent delivers to the endpoint or combines for it,
but not what the agent consumes itself (R76, R369; log entry 26). -/
def forEndpoint (p : Pkt) : Bool :=
  if isBillet p then !isTable p
  else acknowledged p && p.c.type != tCtrl

/-- Packets that an agent takes at all (R338): a switch build only tables, control and discovery, and the answers to its
own flow; an endpoint build everything. -/
def Agent.takes (g : Agent) (p : Pkt) : Bool :=
  !g.isSwitch || isTable p ||
    (!isBillet p && (p.c.type == tCtrl || p.c.type == tAck || p.c.type == tNak || p.c.type == tMgrBusy || isDiscovery p))

/-- An arriving packet for this agent is checked at the local port where it is for the endpoint (R76), and dropped where
the build takes no such packet (R338). Otherwise it waits to be taken. -/
def Agent.arrive (g : Agent) (x : Arrived) : Agent :=
  if !g.takes x.pkt then g.freeArrived x
  else if forEndpoint x.pkt && !keyAllowed (g.keyEntry 16) x.pkt.c.laneKey then
    (g.freeArrived x).localDrop x.pkt.c.laneKey
  else { g with arrived := g.arrived ++ [x] }

/-- Send a packet of this place on by its way; a packet for this agent arrives, and the local port checks it like any other
(R76). -/
def Agent.sendOwn (g : Agent) (p : Pkt) : Agent :=
  let here (g : Agent) : Agent :=
    g.arrive { port := 16, vc := BitVec.ofBool (isBillet p) ++ 0#1, pkt := p, hold := none, owed := false }
  match g.wayOf p with
  | .drop => g
  | .out o => g.enqueue o p none
  | .here => here g
  | .many own copies =>
    let g := copies.foldl (fun g c => g.enqueue c.1 (restrictMask p c.2) none) g
    if own then here g else g

/-- Send a packet of the agent's own: by its table, or, before it holds one, by its uplink port (log entry 25). -/
def Agent.transmit (g : Agent) (p : Pkt) : Agent :=
  if g.hasTable then g.sendOwn p
  else
    match g.uplink with
    | some u => g.enqueue u p none
    | none => g

/-! ## The endpoint interface -/

/-- Entries of a ring: 0 inject, 1 completion, 2 free, 3 delivery, 4 tally delivery (RING_SIZE, Table 9-12). -/
def Rings.entries (r : Rings) (i : Nat) : Nat := 2 ^ (field r.live.size (4 * i) 4).toNat

/-- PHASE after a record is written at an index: it changes when a pass of the ring ends (R363). -/
def nextPhase (phase : Bool) (tail : BitVec 64) (entries : Nat) : Bool :=
  if (tail.toNat + 1) % entries = 0 then !phase else phase

/-- Set a bit of INT_STAT (Table 9-15). -/
def Rings.raise (r : Rings) (bit : Nat) : Rings := { r with intStat := r.intStat ||| (1#64 <<< bit) }

def Agent.lapNow (g : Agent) : BitVec 64 := g.lapSync.lap

/-- Write a completion record (Table 9-10); without RINGS_EN the agent uses no ring. -/
def Agent.complete (g : Agent) (a : Nat) (tag : BitVec 16) (code : BitVec 8) (bitmap : BitVec 16) : AgentStep :=
  if g.rings.en then
    let r := g.rings
    ({ g with rings := ({ r with cplTail := r.cplTail + 1
                                 cplPhase := nextPhase r.cplPhase r.cplTail (r.entries 1) }).raise 0 },
     [.completion a r.cplTail tag code r.cplPhase bitmap g.lapNow])
  else (g, [])

/-- Free buffers left in the free ring. -/
def Rings.freeBufs (r : Rings) : Nat := (r.freeTail - r.freeHead).toNat

def Rings.dlvRoom (r : Rings) : Bool := r.en && r.freeBufs != 0 && (r.dlvTail - r.dlvHead).toNat < r.entries 3

def Rings.tdlvRoom (r : Rings) : Bool := r.en && (r.tdlvTail - r.tdlvHead).toNat < r.entries 4

/-- Whether a delivery uses the delivery ring (a billet) or the tally delivery ring. -/
def Deliv.isBillet : Deliv → Bool
  | .packet p => Machine.isBillet p
  | .notice _ _ => false

/-- The buffer that a baton billet has kept since it was accepted (R368). -/
def Agent.bufferOf (g : Agent) (p : Pkt) : Option (BitVec 64) :=
  (g.buffers.find? fun b => b.1 == flowKeyOf p && b.2.1 == p.seq).map (·.2.2)

def Deliv.keepsBuffer (g : Agent) : Deliv → Bool
  | .packet p => (g.bufferOf p).isSome
  | .notice _ _ => false

/-- There is room to write a delivery: a record in its ring, and for a billet that keeps no buffer a free one (R368). -/
def Agent.roomFor (g : Agent) (d : Deliv) : Bool :=
  if d.isBillet then
    g.rings.dlvRoom || (g.rings.en && d.keepsBuffer g && (g.rings.dlvTail - g.rings.dlvHead).toNat < g.rings.entries 3)
  else g.rings.tdlvRoom

/-- Address of the next free buffer, by its place in the free ring. -/
def Rings.nextBuffer (r : Rings) : BitVec 64 := r.live.freeBase + BitVec.ofNat 64 (8 * (r.freeHead.toNat % r.entries 2))

/-- A buffer is taken: FREE_HEAD advances, and FREE_LOW is set when fewer than 64 remain (Table 9-15). -/
def Rings.takeBuffer (r : Rings) : Rings :=
  let r := { r with freeHead := r.freeHead + 1 }
  if r.freeBufs < 64 then r.raise 3 else r

/-- An accepted baton billet that is held takes its buffer now, and keeps it (R368). -/
def Agent.keepBuffer (g : Agent) (p : Pkt) : Agent :=
  { g with buffers := g.buffers ++ [(flowKeyOf p, p.seq, g.rings.nextBuffer)], rings := g.rings.takeBuffer }

/-- Buffers of packets that are held no more and wait nowhere are no longer kept; the free ring belongs to the endpoint, so they
do not return to it (log entry 163). -/
def Agent.trimBuffers (g : Agent) : Agent :=
  { g with buffers := g.buffers.filter fun b =>
      (g.dsts.any fun d => d.key == b.1 && d.held.any fun p => p.seq == b.2.1) ||
        g.room.any fun d => match d with
          | .packet p => flowKeyOf p == b.1 && p.seq == b.2.1
          | .notice _ _ => false }

/-- Write one delivery record (Table 9-10, R368): a billet with the buffer that it keeps or the next free one, a tally or a
notice. -/
def Agent.writeDeliv (g : Agent) (a : Nat) (d : Deliv) : AgentStep :=
  let r := g.rings
  match d with
  | .packet p =>
    if Machine.isBillet p then
      let written (r : Rings) : Rings :=
        ({ r with dlvTail := r.dlvTail + 1, dlvPhase := nextPhase r.dlvPhase r.dlvTail (r.entries 3) }).raise 1
      match g.bufferOf p with
      | some buffer =>
        ({ g with rings := written r, buffers := g.buffers.filter fun b => !(b.1 == flowKeyOf p && b.2.1 == p.seq) },
         [.delivered a r.dlvTail buffer p r.dlvPhase g.lapNow])
      | none => ({ g with rings := written r.takeBuffer }, [.delivered a r.dlvTail r.nextBuffer p r.dlvPhase g.lapNow])
    else
      ({ g with rings := ({ r with tdlvTail := r.tdlvTail + 1
                                   tdlvPhase := nextPhase r.tdlvPhase r.tdlvTail (r.entries 4) }).raise 2 },
       [.talliedTo a r.tdlvTail p r.tdlvPhase g.lapNow])
  | .notice kind words =>
    ({ g with rings := ({ r with tdlvTail := r.tdlvTail + 1
                                 tdlvPhase := nextPhase r.tdlvPhase r.tdlvTail (r.entries 4) }).raise 2 },
     [.noticeTo a r.tdlvTail kind words r.tdlvPhase g.lapNow])

/-- A delivery is a baton packet, and the other belongs to its flow: it goes only after it (R100, R101). -/
def Deliv.follows (d e : Deliv) : Bool :=
  match d, e with
  | .packet p, .packet q => p.c.baton && flowKeyOf p == flowKeyOf q
  | _, _ => false

/-- Of what waits, in order, that which waits for its ring alone, not for an earlier packet of its flow. -/
def ringLine : List Deliv → List Deliv → List Deliv
  | _, [] => []
  | before, d :: r => if before.any d.follows then ringLine (before ++ [d]) r else d :: ringLine (before ++ [d]) r

/-- A delivery can be written now: there is room, nothing waits longer for the same ring, and as a baton packet it comes
after no packet of its flow that still waits (R100, R368, R369). -/
def Agent.mayDeliver (g : Agent) (d : Deliv) : Bool :=
  g.roomFor d && !(g.room.any d.follows) && !((ringLine [] g.room).any fun e => e.isBillet == d.isBillet)

/-- Deliver to the endpoint, or wait. -/
def Agent.deliver (g : Agent) (a : Nat) (d : Deliv) : AgentStep :=
  if g.mayDeliver d then g.writeDeliv a d else ({ g with room := g.room ++ [d] }, [])

/-- The first delivery of a list that can be written, and the list without it. -/
def nextDeliv (g : Agent) : List Deliv → List Deliv → Option (Deliv × List Deliv)
  | _, [] => none
  | before, d :: rest =>
    if g.roomFor d && !(before.any d.follows) then some (d, before ++ rest) else nextDeliv g (before ++ [d]) rest

/-- Write what waits, in order, while there is room (R368, R369). -/
def Agent.drainRoom (a : Nat) : Nat → Agent → AgentStep
  | 0, g => (g, [])
  | fuel + 1, g =>
    match nextDeliv g [] g.room with
    | none => (g, [])
    | some (d, rest) =>
      let one := ({ g with room := rest } : Agent).writeDeliv a d
      let more := Agent.drainRoom a fuel one.1
      (more.1, one.2 ++ more.2)

/-- Post a notice (R363): 1 retry, 2 timed release, 3 assignment, which also sets ASSIGN_CHG. A switch build has no endpoint to
post one to (R337). -/
def Agent.notice (g : Agent) (a : Nat) (kind : Nat) (words : List (BitVec 128)) : AgentStep :=
  if g.isSwitch then (g, []) else
  let g := if kind = 3 then { g with rings := g.rings.raise 4 } else g
  g.deliver a (.notice kind words)

/-- An assignment notice carries bits [70:0] of the assignment entry (Table 9-10). -/
def Agent.assignNotice (g : Agent) (a : Nat) : AgentStep :=
  g.notice a 3 [(field g.assignment 0 71).setWidth 128]

/-! ## Sending as a source -/

/-- Post the completions of packets that came from descriptors (R367). -/
def Agent.finish (a : Nat) : List Finished → Agent → AgentStep
  | [], g => (g, [])
  | d :: r, g =>
    let one := match d.tag with
      | some t => g.complete a t d.code d.bitmap
      | none => (g, [])
    let more := Agent.finish a r one.1
    (more.1, one.2 ++ more.2)

/-- A packet of a flow enters the agent at its local port, which checks its lane key; the manager's key always passes (R76). -/
def Agent.enter (g : Agent) (p : Pkt) : Agent :=
  if keyAllowed (g.keyEntry 16) p.c.laneKey then g.transmit p else g.localDrop p.c.laneKey

/-- Put the outcome of a source record: the record, what it sends and what it ends. -/
def Agent.launch (g : Agent) (a : Nat) (st : SrcStep) : AgentStep :=
  let g := { g with srcs := putSrc g.srcs st.flow }
  let g := st.send.foldl Agent.enter g
  Agent.finish a st.done g

/-- Source records (Table 9-1). -/
def Agent.srcLimit (g : Agent) : Nat := if g.isSwitch then 64 else 1024

/-- A packet needs a new source record, and none is free (Tables 9-1, 9-9). -/
def Agent.noRecord (g : Agent) (k : FlowKey) : Bool :=
  g.srcLimit ≤ g.srcs.length && !(g.srcs.any fun f => f.key == k)

/-- Offer a packet to its flow. One that needs a record where none is free ends with FLOW_FULL and is not sent (R337,
Table 9-9); the manual says so of a descriptor, and the model takes it for a tally of the agent's own too (log entry 131). -/
def Agent.offer (g : Agent) (a : Nat) (p : Pkt) (baseUs : Nat) (tag : Option (BitVec 16)) (desc : Option Desc := none) :
    AgentStep :=
  if g.noRecord (flowKeyOf p) then Agent.finish a [{ tag := tag, code := 0x09, bitmap := 0, pkt := p }] g
  else g.launch a (srcOffer g.epochNow (srcFrom g.srcs (flowKeyOf p) baseUs (noticed g.groupFences (flowKeyOf p))) p tag desc)

/-- A tally that the agent sends its manager on its flow (R75, R360). -/
def Agent.tellManager (g : Agent) (a : Nat) (type : BitVec 8) (body : BitVec 128) : AgentStep :=
  match g.mgrEid with
  | none => (g, [])
  | some m => g.offer a (mkTally (common mgrKey g.epochNow g.own m type) 0 body) 20 none

/-- The flow from an agent to its manager, which never fails (R362). -/
def Agent.isMgrFlow (g : Agent) (key : FlowKey) : Bool :=
  !key.mcast && key.laneKey == mgrKey && g.mgrEid == some key.peer

/-! ## Link events -/

/-- Body of a LINK_EVENT (Table 9-7). -/
def Agent.linkEventBody (g : Agent) (p : Nat) : BitVec 128 :=
  let q := g.port p
  at' 128 0 (BitVec.ofNat 4 p) ||| at' 128 4 (codeOfWidth q.width) ||| at' 128 7 (stateCode q.state) |||
    at' 128 10 (BitVec.ofBool q.idChanged) ||| at' 128 11 (BitVec.ofBool (q.state == .belowMin)) |||
    at' 128 12 q.nbr.strap ||| at' 128 28 q.nbr.port ||| at' 128 36 q.nbr.kind |||
    at' 128 48 (field g.stamp 0 32) ||| at' 128 80 (field g.stamp 32 16) ||| at' 128 96 (field q.changedAt 16 32)

/-- A LINK_EVENT of a port. -/
def isLinkEvent (port : Nat) (p : Pkt) : Bool :=
  p.c.type == tLinkEvent && !isBillet p && (field (pktTally p) 0 4).toNat == port

/-- A frame of this place that belongs to a copy of a flow. -/
def frameOfCopy (key : FlowKey) (s : Seq) (x : QFrame) : Bool := x.origin.isNone && flowKeyOf x.pkt == key && x.pkt.seq == s

/-- No cell of a packet has left: it is on its first try, and every frame of it still waits at a port (Table 9-6). -/
def Agent.unsent (g : Agent) (f : SrcFlow) (c : Copy) : Bool :=
  let frames := g.ports.flatMap fun e => e.2.queue.filter (frameOfCopy f.key c.pkt.seq)
  c.tries == 1 && !frames.isEmpty && frames.foldl (fun m x => m ||| pktMask x.pkt) 0 == pktMask c.pkt

/-- Put another packet into some frames of a port. -/
def Port.replaceFrames (r : Port) (hit : QFrame → Bool) (p : Pkt) : Port :=
  { r with queue := r.queue.map fun x => if hit x then { x with pkt := p } else x }

/-- Another packet takes the place of one that has not left, under its number. -/
def Agent.amend (g : Agent) (f : SrcFlow) (c : Copy) (p : Pkt) : Agent :=
  let q := withChecks { p with seq := c.pkt.seq }
  { g with
    srcs := putSrc g.srcs (modCopy f c.pkt.seq fun d => { d with pkt := q })
    ports := tmap (fun _ r => r.replaceFrames (frameOfCopy f.key c.pkt.seq) q) g.ports }

/-- Report a port's state to the manager, under the present stamp (R357, R361); a LINK_EVENT of the port that has not begun to
leave takes the latest state instead (Table 9-6). -/
def Agent.linkEvent (g : Agent) (a : Nat) (p : Nat) : AgentStep :=
  match g.mgrEid with
  | none => (g, [])
  | some m =>
    let pkt := mkTally (common mgrKey g.epochNow g.own m tLinkEvent) 0 (g.linkEventBody p)
    match g.srcs.find? fun f => f.key == flowKeyOf pkt with
    | none => g.offer a pkt 20 none
    | some f =>
      if f.waiting.any fun w => isLinkEvent p w.pkt then
        let late (w : Waiting) : Waiting := { w with pkt := pkt }
        let f := { f with waiting := modFirst (fun w => isLinkEvent p w.pkt) late f.waiting }
        ({ g with srcs := putSrc g.srcs f }, [])
      else
        match f.copies.find? fun c => isLinkEvent p c.pkt && g.unsent f c with
        | some c => (g.amend f c pkt, [])
        | none => g.offer a pkt 20 none

/-- Pn_IDLE as a port changes: a level that changes is put out. -/
def idleChange (site : Site) (p : Nat) (before after : Port) : List Emission :=
  if before.idle = after.idle then [] else [.portIdle site p after.idle]

/-- What a LINK_EVENT reports of a port: WIDTH, STATE, the neighbour and ID_CHANGED (R361). -/
def Port.sameLink (q r : Port) : Bool :=
  q.width == r.width && q.state == r.state && q.nbrSeen == r.nbrSeen && q.nbr == r.nbr && q.idChanged == r.idChanged

/-- Every field of PORT_STAT is as it was (Table 9-17). -/
def Port.sameStat (q r : Port) : Bool := q.sameLink r && q.laneOk == r.laneOk && q.held == r.held

/-- A port as it changes: what a LINK_EVENT reports of it carries the LAP of its last change (Table 9-7). -/
def Port.since (was q : Port) (lap : BitVec 64) : Port := if was.sameLink q then q else { q with changedAt := lap }

/-- A port changes: PORT_CHG is set with any field of PORT_STAT (Table 9-15), the lap counter enters HOLDOVER when the port to
its parent goes down (R295), and an agent that holds a route table reports a changed WIDTH, STATE, neighbour or ID_CHANGED
(R361). -/
def Agent.changePort (g : Agent) (a : Nat) (p : Nat) (q : Port) : AgentStep :=
  let was := g.port p
  let q := was.since q g.lapNow
  let g := g.setPort p q
  let g := if was.sameStat q then g else { g with rings := g.rings.raise 5 }
  let g := if was.isUp && !q.isUp && g.lapSync.parent == some p then
      { g with lapSync := { g.lapSync with lock := .holdover } } else g
  let r : AgentStep := if g.hasTable && !was.sameLink q then g.linkEvent a p else (g, [])
  (r.1, idleChange (.agent a) p was q ++ r.2)

/-- The lap parent's port: the port of the CURRENT slot's hub route entry for the manager EID (R376). -/
def Agent.lapParent (g : Agent) : Option Nat :=
  match g.current, g.mgrEid with
  | some t, some m =>
    match entryWay (t.routeOf m) with
    | .out p => some p
    | _ => none
  | _, _ => none

/-- Record destinations at most (Table 9-1). -/
def Agent.dstLimit (g : Agent) : Nat := if g.isSwitch then 64 else 1024

def Agent.portCount (g : Agent) : Nat := if g.isSwitch then 16 else 8

end Sys2Proof.Machine
end

