-- ==== Sys2Proof/Machine/Recorder.lean ====
section
/-! DEFINITION. The event recorder (14_event_recorder.md): notices, counts and samples of the open window, its records
at the close, checkpoints, and the two areas of the recorder flash. -/

namespace Sys2Proof.Machine

open Sys2Proof

/-- Operating seconds now. -/
def State.opS (s : State) : Nat := s.trust.operatingS.toNat

/-! ## The open window -/

/-- Codes that give every occurrence a record of its own (Table 14-4, each). -/
def noteEach (code : BitVec 16) : Bool := code == 0x1407 || code == 0x1408

/-- Occurrences of one code and INSTANCE in one window share a record with the detail of the first (R504). -/
def addNote (code unit : BitVec 16) (at1 : Nat) (detail : List Byte) (ns : List Note) : List Note :=
  let fresh : Note := { code := code, unit := unit, count := 1, first := at1, last := at1, detail := detail }
  if !noteEach code && ns.any (fun n => n.code == code && n.unit == unit) then
    modFirst (fun n => n.code == code && n.unit == unit) (fun n => { n with count := n.count + 1, last := at1 }) ns
  else ns ++ [fresh]

/-- Record a happening as a notice (R504). Before the recorder starts, the trust die keeps it in its own flash (R508). -/
def State.note (s : State) (code unit : BitVec 16) (detail : List Byte) : State :=
  if s.rcd.running then
    { s with rcd := { s.rcd with win := { s.rcd.win with notes := addNote code unit s.opS detail s.rcd.win.notes } } }
  else { s with trust := { s.trust with ownNotes := s.trust.ownNotes ++
    [{ code := code, unit := unit, count := 1, first := s.opS, last := s.opS, detail := detail }] } }

/-- A tongs session's notice carries the times of its opening and closing (Table 14-4); the trust die keeps it while the recorder
does not run (R508). -/
def State.noteSpan (s : State) (code unit : BitVec 16) (first last : Nat) (detail : List Byte) : State :=
  let n : Note := { code := code, unit := unit, count := 1, first := first, last := last, detail := detail }
  if s.rcd.running then { s with rcd := { s.rcd with win := { s.rcd.win with notes := s.rcd.win.notes ++ [n] } } }
  else { s with trust := { s.trust with ownNotes := s.trust.ownNotes ++ [n] } }

/-- Add occurrences to a count of the open window. -/
def addCount (series unit : BitVec 16) (k : Nat) (cs : List Count) : List Count :=
  if k = 0 then cs
  else if cs.any (fun c => c.series == series && c.unit == unit) then
    modFirst (fun c => c.series == series && c.unit == unit)
      (fun c => { c with total := c.total + k, now := c.now + k }) cs
  else cs ++ [{ series := series, unit := unit, total := k, peak := 0, peakAt := 0, now := k }]

/-- Count occurrences of a COUNT series of Table 14-3. -/
def State.tally (s : State) (series unit : BitVec 16) (k : Nat) : State :=
  if s.rcd.running then
    { s with rcd := { s.rcd with win := { s.rcd.win with counts := addCount series unit k s.rcd.win.counts } } }
  else s

/-- A second ends: PEAK is the most occurrences in any one second, PEAK_AT the first second that reached it. -/
def Count.endSecond (second : Nat) (c : Count) : Count :=
  if c.peak < c.now then { c with peak := c.now, peakAt := second, now := 0 } else { c with now := 0 }

/-! ## Samples -/

/-- LO and W of a series with linear bins (Table 14-3). -/
def linearBins (series : BitVec 16) : Option (Int × Int) :=
  if series = 0x0001 then some (30, 5) else if series = 0x0002 then some (500, 300) else none

/-- The first `i` from 1 with value below 4 to the `i`, at most 15. -/
def logBin (v : Int) : Nat → Nat → Nat
  | 0, i => i
  | fuel + 1, i => if v < 4 ^ i then i else logBin v fuel (i + 1)

/-- Bin of a sample (R502). -/
def binOf (series : BitVec 16) (v : Int) : Nat :=
  match linearBins series with
  | some (lo, w) => if v < lo then 0 else if lo + 14 * w ≤ v then 15 else ((v - lo) / w).toNat + 1
  | none => if v ≤ 0 then 0 else logBin v 14 1

/-- Put a sample into the summary of its series and instance. -/
def Hist.add (second : Nat) (v : Int) (h : Hist) : Hist :=
  { h with
    bins := h.bins.set (binOf h.series v) ((h.bins[binOf h.series v]?).getD 0 + 1)
    min := if h.n = 0 ∨ v < h.min then v else h.min
    minAt := if h.n = 0 ∨ v < h.min then second else h.minAt
    max := if h.n = 0 ∨ h.max < v then v else h.max
    maxAt := if h.n = 0 ∨ h.max < v then second else h.maxAt
    sum := h.sum + v
    n := h.n + 1 }

def emptyHist (series unit : BitVec 16) : Hist :=
  { series := series, unit := unit, bins := List.replicate 16 0, min := 0, minAt := 0, max := 0, maxAt := 0, sum := 0,
    n := 0 }

def addSample (second : Nat) (x : Sample) (hs : List Hist) : List Hist :=
  if hs.any fun h => h.series == x.series && h.unit == x.unit then
    modFirst (fun h => h.series == x.series && h.unit == x.unit) (Hist.add second x.value) hs
  else hs ++ [Hist.add second x.value (emptyHist x.series x.unit)]

/-- A junction of the compute domain (R508): the Anvil, the Crucibles, the Hearths and the tier P piles. -/
def computeJunction (unit : BitVec 16) : Bool :=
  unit.toNat ≤ 4 || (13 ≤ unit.toNat && unit.toNat ≤ 28) || 32 ≤ unit.toNat

/-- A link with a trained port (Table 14-3, FEC_CORRECTED). -/
def LinkTiles.linkTrained (l : LinkTiles) (link : Nat) : Bool := l.ports.any fun e => e.1 / 4 == link && e.2.width != 0

/-- A sample that the recorder takes: of a sampled series and one of its instances, and not of the compute domain while
hub service is paused (R502, R503, R508). -/
def State.takesSample (s : State) (x : Sample) : Bool :=
  match x.series.toNat with
  | 0x0001 => x.unit.toNat < 48 && !(s.boot.paused && computeJunction x.unit)
  | 0x0002 => x.unit == 0
  | 0x0003 => 1 ≤ x.unit.toNat && x.unit.toNat ≤ 5
  | 0x0010 => x.unit.toNat < 64 && s.link.linkTrained x.unit.toNat
  | _ => false

/-- A count that the memories bring: corrected and uncorrectable words (R31). -/
def countSample (x : Sample) : Bool := (x.series == 0x0020 || x.series == 0x0021) && x.unit.toNat < 88

/-- Put every sample and every count of a second into the open window. -/
def Win.take (second : Nat) (w : Win) (xs cs : List Sample) : Win :=
  { w with
    hists := xs.foldl (fun hs x => addSample second x hs) w.hists
    counts := (cs.foldl (fun cs x => addCount x.series x.unit x.value.toNat cs) w.counts).map (Count.endSecond second) }

/-- The hottest of some junction samples. -/
def hottestOf (xs : List Sample) (now : Int) : Int :=
  match (xs.filter fun x => x.series == 0x0001).map (·.value) with
  | [] => now
  | v :: r => r.foldl max v

/-- A boundary of an operating second: the count advances, and every sampled series takes one sample (R502). The hottest
junction and the input power of DEV_STATUS are the last ones sampled. No write of the boot record or of the recorder outlasts it
(log entry 88). -/
def State.sample (s : State) (xs : List Sample) : State :=
  let good := xs.filter s.takesSample
  let second := s.opS
  { s with
    trust := { s.trust with operatingS := s.trust.operatingS + 1 }
    fw := { s.fw with writing := false }
    boot := { s.boot with
      hottest := hottestOf good s.boot.hottest
      inputWatts := ((good.find? fun x => x.series == 0x0002).map fun x => x.value.toNat).getD s.boot.inputWatts }
    rcd := if s.rcd.running then
        { s.rcd with win := s.rcd.win.take second good (xs.filter countSample), writing := none, ckptWriting := false }
      else s.rcd }

/-- RECORDER_SAMPLE (R502): nothing counts seconds before power-on. -/
def execRecorderSample (samples : List Sample) (s : State) : Host.Outcome State Fault Refusal :=
  .next (if s.boot.stage = .off then s else s.sample samples)

/-! ## Records -/

/-- The number that bytes spell, as a field of a record body. -/
def bodyBytes (bytes : List Byte) : Int := leNat (bytesAt bytes 0 16)

/-- A record without SEQ. -/
def recOf (w : Win) (cut : Bool) (dur kind : Nat) (series unit : BitVec 16) (body : List Int) : Rec :=
  { seq := 0, opS := w.start, pcc := w.pcc, kind := kind, cut := cut, series := series, unit := unit, body := body,
    duration := dur }

/-- The summary of an instance, empty when it took no sample. -/
def Win.hist (w : Win) (series unit : BitVec 16) : Hist :=
  (w.hists.find? fun h => h.series == series && h.unit == unit).getD (emptyHist series unit)

/-- Body of an EXTREME record; what it says of no sample at all is open (log entry 32). -/
def extremeBody (h : Hist) : List Int :=
  if h.n = 0 then
    [Config.emptyExtreme 0, Config.emptyExtreme 1, Config.emptyExtreme 2, Config.emptyExtreme 3, 0, 0]
  else [h.min, h.minAt, h.max, h.maxAt, h.sum, h.n]

/-- The instances of which every window writes HIST or EXTREME records (R503, Table 14-3). -/
def histUnits (l : LinkTiles) (w : Win) : List (BitVec 16 × BitVec 16) :=
  (List.range 48).map (fun i => (0x0001#16, BitVec.ofNat 16 i)) ++ [(0x0002#16, 0#16)] ++
    ((List.range 64).filter fun i =>
      l.linkTrained i || w.hists.any fun h => h.series == 0x0010 && h.unit == BitVec.ofNat 16 i).map
        fun i => (0x0010#16, BitVec.ofNat 16 i)

def extremeUnits : List (BitVec 16 × BitVec 16) :=
  (List.range 48).map (fun i => (0x0001#16, BitVec.ofNat 16 i)) ++ [(0x0002#16, 0#16)] ++
    (List.range 5).map fun i => (0x0003#16, BitVec.ofNat 16 (i + 1))

def countLe (a b : Count) : Bool := a.series.toNat * 65536 + a.unit.toNat ≤ b.series.toNat * 65536 + b.unit.toNat

def noteLe (a b : Note) : Bool := a.code.toNat * 65536 + a.unit.toNat ≤ b.code.toNat * 65536 + b.unit.toNat

/-- The records of a window, in ascending order of KIND, SERIES and INSTANCE (R503 to R505). -/
def Win.allRecords (l : LinkTiles) (w : Win) (cut : Bool) (dur : Nat) : List Rec :=
  (histUnits l w).map (fun u => recOf w cut dur 1 u.1 u.2 ((w.hist u.1 u.2).bins.map Int.ofNat)) ++
    extremeUnits.map (fun u => recOf w cut dur 2 u.1 u.2 (extremeBody (w.hist u.1 u.2))) ++
    (sortBy countLe w.counts).map (fun c =>
      let c' := c.endSecond (w.start + dur)
      recOf w cut dur 3 c.series c.unit [c'.total, c'.peak, c'.peakAt]) ++
    (sortBy noteLe w.notes).map fun n =>
      recOf w cut dur 4 n.code n.unit [n.count, n.first, n.last, bodyBytes n.detail]

/-- At most 1,024 records: when more are due, the first 1,023 and a WINDOW_FULL notice (R506). -/
def Win.records (l : LinkTiles) (w : Win) (cut : Bool) (dur : Nat) : List Rec :=
  let rs := w.allRecords l cut dur
  if rs.length ≤ 1024 then rs
  else rs.take 1023 ++ [recOf w cut dur 4 0x140A 0 [1, w.start + dur, w.start + dur, (rs.length - 1023 : Nat)]]

/-! ## The bytes of a record -/

/-- Field widths of a body, by KIND (Table 14-2); a CLEAR body's reserved bytes 26 and 27 are a field of zero. -/
def bodyWidths : Nat → List Nat
  | 1 => List.replicate 16 2
  | 2 => [4, 4, 4, 4, 8, 4]
  | 3 => [8, 4, 4]
  | 4 => [4, 4, 4, 16]
  | 5 => [1, 1, 2, 8, 8, 4]
  | _ => []

/-- Bytes 0 to 59 of a record (Table 14-1). -/
def recHead (r : Rec) : List Byte :=
  let body := (List.zipWith (fun w v => bvBytes (BitVec.ofInt (8 * w) v)) (bodyWidths r.kind) r.body).flatten
  leBytes 8 r.seq ++ leBytes 4 r.opS ++ leBytes 4 r.pcc ++ leBytes 1 r.kind ++ leBytes 1 (if r.cut then 1 else 0) ++
    bvBytes r.series ++ bvBytes r.unit ++ leBytes 2 0 ++ padTo 32 body ++ leBytes 2 r.duration ++ leBytes 2 0

/-- The 64 bytes of a record (Table 14-1). -/
def recBytes (r : Rec) : List Byte := recHead r ++ bvBytes r.check

/-- CHECK holds (R500). -/
def Rec.good (r : Rec) : Bool := r.check == crc32c (recHead r)

/-- A record with its CHECK. -/
def Rec.sealed (r : Rec) : Rec := { r with check := crc32c (recHead r) }

/-- A record whose write was cut short: its CHECK fails (Table 14-5). -/
def Rec.torn (r : Rec) : Rec := { r with check := ~~~crc32c (recHead r) }

/-! ## Writing -/

/-- Write one record: it takes the next SEQ and its CHECK, goes into the last area, and into the first while that has room
(R499 to R501). -/
def Recorder.write (r : Recorder) (x : Rec) : Recorder :=
  let y := Rec.sealed { x with seq := r.nextSeq }
  { r with
    nextSeq := r.nextSeq + 1
    first := if r.first.length < 8192 then r.first ++ [y] else r.first
    last := (if r.last.length < 65536 then r.last else r.last.drop 1) ++ [y] }

/-- Write records in order; until the write has ended, a power loss can cut it short. -/
def Recorder.writeAll (r : Recorder) (xs : List Rec) : Recorder :=
  let w : RecWrite := { first := r.first, last := r.last, ckpt := r.ckpt, older := r.older, seq := r.nextSeq, batch := xs }
  { xs.foldl Recorder.write r with writing := some w }

/-- Tear the newest record of an area. -/
def tearNewest (xs : List Rec) : List Rec := xs.dropLast ++ (xs.getLast?.map Rec.torn).toList

/-- Power is lost with `k` of a write's records written: the next one is torn, those after it are not written, and what the write
would have replaced stands as it was (Table 14-5, R507). -/
def Recorder.cutAt (r : Recorder) (w : RecWrite) (k : Nat) : Recorder :=
  let old : Recorder := { r with first := w.first, last := w.last, ckpt := w.ckpt, older := w.older, nextSeq := w.seq }
  let whole := (w.batch.take k).foldl Recorder.write old
  match w.batch[k]? with
  | none => r
  | some x =>
    let t := whole.write x
    { t with
      first := if t.first.length = whole.first.length then t.first else tearNewest t.first
      last := tearNewest t.last }

/-- What a power loss leaves of the recorder's writes; how far each had come is an open value. A checkpoint that was cut short is no
valid one, and the other copy is the newest (R507). -/
def State.cutRecorder (s : State) : State :=
  let r := s.rcd
  let n := Config.freeNat s.free
  let r := match r.writing with
    | some w => r.cutAt w (n % (w.batch.length + 1))
    | none => r
  let r : Recorder := if r.ckptWriting && Config.freeNat (s.free + 1) % 2 == 1 then { r with ckpt := r.older, older := none } else r
  { s with free := s.free + 2, rcd := { r with writing := none, ckptWriting := false } }

/-- A window that begins now. -/
def State.freshWin (s : State) : Win :=
  { start := s.opS, pcc := s.trust.powerCycles.toNat, hists := [], counts := [], notes := [] }

/-- RECORDER_WINDOW_CLOSE (R505): at a multiple of 3,600 operating seconds the records of the window are written and
the next window begins; its checkpoints are of no further use (R507). -/
def execRecorderWindowClose (s : State) : Host.Outcome State Fault Refusal :=
  .next (if s.rcd.running && s.opS % 3600 == 0 && s.opS != s.rcd.win.start then
    { s with rcd := { s.rcd.writeAll (s.rcd.win.records s.link false (s.opS - s.rcd.win.start)) with
      win := s.freshWin, ckpt := none, older := none } }
  else s)

/-- RECORDER_CHECKPOINT (R507): the open window's records as they stand go into the copy that does not hold the newest
valid checkpoint, and take no SEQ. -/
def execRecorderCheckpoint (s : State) : Host.Outcome State Fault Refusal :=
  .next (if s.rcd.running then
    let rs := s.rcd.win.records s.link false (s.opS - s.rcd.win.start)
    { s with rcd := { s.rcd with older := s.rcd.ckpt, ckpt := some rs, ckptWriting := true } }
  else s)

/-- The recorder starts at step 3 of power-on or after a clock-loss restart (R505, R507, R508): the newest checkpoint is
written as closed records with CUT and discarded, a window opens, and the trust die's own notices enter it, those that Table 14-4 gives a
code. -/
def State.startRecorder (s : State) : State :=
  let r := match s.rcd.ckpt with
    | some rs => s.rcd.writeAll (rs.map fun x : Rec => ({ x with cut := true } : Rec))
    | none => s.rcd
  let known := s.trust.ownNotes.filter fun n => n.code != 0
  let notes := known.foldl (fun ns n => if noteEach n.code then ns ++ [n] else addNote n.code n.unit n.first n.detail ns) []
  { s with
    rcd := { r with running := true, win := { s.freshWin with notes := notes }, ckpt := none, older := none }
    trust := { s.trust with ownNotes := s.trust.ownNotes.filter fun n => n.code == 0 } }

/-- The recorder loses its open window, as in a power loss (R507). -/
def State.stopRecorder (s : State) : State :=
  { s with rcd := { s.rcd with running := false, win := Win.reset } }

end Sys2Proof.Machine
end

