-- ==== Sys2Proof/Machine/Ports.lean ====
section
/-! DEFINITION. Fabric ports at agents and on the link tiles: reset of an agent, training and respare, neighbour
discovery, forget and lap exchange cells (03_discovery_topology.md R112 to R131, R142; 07_collectives.md R292 to R297;
09_goson_agent.md R340 to R348). -/

namespace Sys2Proof.Machine

open Sys2Proof

/-- Nothing happens inside an agent that is held in reset (R343). -/
def whileLive (f : Agent → AgentStep) (g : Agent) : AgentStep := if g.inReset then (g, []) else f g

/-! ## Both kinds of port -/

/-- The port at a place. -/
def State.portAt (s : State) (site : Site) (p : Nat) : Port :=
  match site with
  | .agent a => (s.agent a).port p
  | .chrohar => s.link.port p

/-- A port of the link tiles changes, and its tile logs the change for the manager (Table 6-1, R439). -/
def LinkTiles.change (l : LinkTiles) (p : Nat) (q : Port) : LinkTiles := { l.setPort p q with log := l.log ++ [p] }

/-- A port changes its state, width or neighbour. -/
def State.changePortAt (s : State) (site : Site) (p : Nat) (q : Port) : State :=
  match site with
  | .agent a => s.onAgent a (whileLive fun g => g.changePort a p q)
  | .chrohar => ({ s with link := s.link.change p q } : State).emit (idleChange .chrohar p (s.link.port p) q)

/-- Put a port back without a change that anyone reports. -/
def State.putPortAt (s : State) (site : Site) (p : Nat) (q : Port) : State :=
  match site with
  | .agent a => s.onAgent a (whileLive fun g => (g.setPort p q, []))
  | .chrohar => { s with link := s.link.setPort p q }

/-- The port exists: an agent build has it, or a link's split code gives it. -/
def State.hasPort (s : State) (site : Site) (p : Nat) : Bool :=
  match site with
  | .agent a => !(s.agent a).inReset && (tget (s.agent a).ports p).isSome
  | .chrohar => (tget s.link.ports p).isSome

/-! ## Widths -/

/-- The allowed widths of an installed width, largest first (R118). -/
def allowedWidths (inst : Nat) : List Nat := [8, 6, 4, 2, 1].filter (· ≤ inst)

/-- The slot of an ordinary slot by its number among its kind, counted from training: 19 to each control slot (R57). -/
def slotNo (k : Nat) : Nat := k / 19 * 20 + k % 19

/-- The slot of a control slot by its number among its kind (R57). -/
def ctlSlot (k : Nat) : Nat := 20 * k + 19

/-- The trained width: the largest allowed width that the trained lanes cover (R118), zero for none. -/
def trainedWidth (inst lanes : Nat) : Nat := ((allowedWidths inst).find? (· ≤ lanes)).getD 0

/-- First lane and number of lanes of a lane group (Table 3-2). -/
def splitGroup (split g : Nat) : Nat × Nat :=
  match split, g with
  | 0, 0 => (0, 8)
  | 1, 0 => (0, 6) | 1, 1 => (6, 2)
  | 2, 0 => (0, 4) | 2, 1 => (4, 4)
  | 3, 0 => (0, 4) | 3, 1 => (4, 2) | 3, 2 => (6, 2)
  | 4, 0 => (0, 2) | 4, 1 => (2, 2) | 4, 2 => (4, 2) | 4, 3 => (6, 2)
  | _, _ => (0, 0)

/-- Split code of a link in the record (R117); without a record, or for a link that the record does not list, one port of
eight lanes (DESIGN CHOICE, log entry 30). -/
def splitOf (r : Option InstRecord) (link : Nat) : Nat :=
  match r with
  | none => 0
  | some r => ((r.links.find? fun l => l.link == link).map (·.split)).getD 0

/-- Lanes of a Chrohar port on its link: first lane and number. -/
def lanesOf (r : Option InstRecord) (port : Nat) : Nat × Nat := splitGroup (splitOf r (port / 4)) (port % 4)

/-- Minimum width of a Chrohar port (Table 3-1), 2 where there is no record or it does not list the link (DESIGN CHOICE, log
entry 30). -/
def minOfPort (r : Option InstRecord) (port : Nat) : Nat :=
  match r with
  | none => 2
  | some r =>
    (((r.links.find? fun l => l.link == port / 4).bind fun l => l.ports[port % 4]?).map (·.2)).getD 2

/-- The ports that the record gives the link tiles (R117), each untrained (R127). -/
def installedPorts (r : Option InstRecord) : Tab Port :=
  ((List.range 256).filter fun p => (lanesOf r p).2 != 0).map fun p =>
    (p, { Port.reset with instW := (lanesOf r p).2, minW := minOfPort r p })

/-- Number of lanes set in a mask. -/
def countLanes (m : BitVec 8) : Nat := ((List.range 8).filter fun i => m.getLsbD i).length

/-- The mask of a run of lanes. -/
def laneMask (lo n : Nat) : BitVec 8 := BitVec.ofNat 8 ((2 ^ n - 1) * 2 ^ lo)

/-- A port takes its trained width (R118): down without a lane (R123), or below its minimum, and then its transmitters stay
in electrical idle (R122, R347). -/
def Port.atWidth (q : Port) (lanes : BitVec 8) : Port :=
  let w := trainedWidth q.instW (countLanes lanes)
  { q with width := w, laneOk := lanes, idle := w < q.minW
           state := if w = 0 then .noLane else if w < q.minW then .belowMin else .up }

/-- The port after training with some of its lanes trained at both ends (R118, R122, R123); credits, the sent stream (at slot
0, log entry 133) and the neighbour start afresh. -/
def Port.trained (q : Port) (lanes : BitVec 8) (spares : Nat) : Port :=
  { q.atWidth lanes with
    spareIn := spares, vcs := Vcs.reset, resync := false, tx := TxStream.reset
    nbrSeen := false, candCount := 0, diffCount := 0, meas := 0x80000000#32, nbrDepth := 31 }

/-- Frames whose input cells lie at a port that has trained afresh return none of them (R84: FREED_CUM counts since
training). -/
def Port.forgetOrigin (p : Nat) (q : Port) : Port :=
  { q with queue := q.queue.map fun x => if x.origin.any (·.1 == p) then { x with origin := none } else x }

def forgetOwed (p : Nat) (l : List Arrived) : List Arrived :=
  l.map fun x => if x.port = p then { x with owed := false } else x

def Agent.forgetOrigins (g : Agent) (p : Nat) : Agent :=
  { g with ports := tmap (fun _ q => q.forgetOrigin p) g.ports, arrived := forgetOwed p g.arrived }

/-! ## Reset of an agent -/

/-- A present port begins to train at once (R342); one tied to no lanes is absent (R345). -/
def startPort (inst minw : BitVec 3) : Port :=
  let w := if 2 ≤ inst.toNat ∧ inst.toNat ≤ 5 then widthOfCode inst else 0
  { Port.reset with instW := w, minW := widthOfCode minw, state := if w = 0 then .untrained else .training }

/-- AGENT_RST_N deasserts (R342): straps and widths are latched, and every present port trains. -/
def releaseAgent (strap : BitVec 16) (switchBuild : Bool) (instW minW : List (BitVec 3)) : Agent :=
  { Agent.reset with
    inReset := false, isSwitch := switchBuild, strap := strap
    ports := (List.range (if switchBuild then 16 else 8)).map fun n =>
      (n, startPort ((instW[n]?).getD 0) ((minW[n]?).getD 0)) }

def presentPorts (g : Agent) : List Nat := (g.ports.filter fun e => e.2.instW != 0).map (·.1)

/-- AGENT_RST_N_ASSERT (R343). -/
def execAgentRstNAssert (a : Nat) (s : State) : Host.Outcome State Fault Refusal :=
  .next (s.onAgent a fun _ => (Agent.reset, []))

/-- AGENT_RST_N_DEASSERT (R342). -/
def execAgentRstNDeassert (a : Nat) (strap : BitVec 16) (switchBuild : Bool) (instW minW : List (BitVec 3))
    (s : State) : Host.Outcome State Fault Refusal :=
  .next (s.onAgent a fun g =>
    if g.inReset then
      let n := releaseAgent strap switchBuild instW minW
      (n, (presentPorts n).map fun p => .portTrain (.agent a) p)
    else (g, []))

/-! ## Training -/

/-- A port that may start an attempt: down, not held, and not down for a changed identity (R130, R348, R431). -/
def Port.mayTrain (q : Port) : Bool :=
  q.instW != 0 && !q.held && !q.shut && (q.state == .untrained || q.state == .noLane || q.state == .belowMin)

/-- An attempt begins: the transmitters leave electrical idle (R347). -/
def Port.training (q : Port) : Port := { q with state := .training, idle := false }

/-- A new attempt takes the port's own pairs back out of the tile's pool (R125, log entry 31). -/
def LinkTiles.reclaim (l : LinkTiles) (r : Option InstRecord) (port : Nat) : LinkTiles :=
  let own := (List.range (lanesOf r port).2).map fun i => (port / 4 % 8) * 8 + (lanesOf r port).1 + i
  { l with pools := tmod l.pools (port / 32) fun pool => pool.filter fun x => !own.contains x }

/-- A module drives its fabric links only while it holds the grant (R516). -/
def State.drives (s : State) (site : Site) : Bool :=
  match site with
  | .agent _ => true
  | .chrohar => s.ember.grant

/-- The calibration set that a training takes: the stored one, or, when that failed its check, the built-in default (R409). -/
def Cfg.calSet (c : Cfg) : List Byte := if c.calValid then c.cal else []

/-- What trains now, or reads its offsets now, uses the set that is stored now (R409). -/
def State.useCal (s : State) (user : Nat) : State := { s with cfg := { s.cfg with calUsed := tset s.cfg.calUsed user s.cfg.calSet } }

/-- Start an attempt at a port that may; an agent reports that STATE changes (R361). -/
def State.startTraining (s : State) (site : Site) (p : Nat) : State :=
  if s.drives site && s.hasPort site p && (s.portAt site p).mayTrain then
    let q := s.portAt site p
    match site with
    | .agent _ => (s.changePortAt site p q.training).emit [.portTrain site p]
    | .chrohar =>
      let s := (s.putPortAt site p q.training).emit (idleChange site p q q.training ++ [.portTrain site p])
      (({ s with link := s.link.reclaim s.mgr.record p } : State).useCal p).tally 0x0012 (BitVec.ofNat 16 (p / 4)) 1
  else s

/-- TRAINING_ATTEMPT_START (R348, R431). -/
def execTrainingAttemptStart (site : Site) (p : Nat) (s : State) : Host.Outcome State Fault Refusal :=
  .next (s.startTraining site p)

/-- Respare of one port (R125): the lanes that failed, in ascending order, are tried on the lowest pairs of the pool.
Answers the lanes now trained, the pairs put on lanes, and the pool. -/
def respare (link : Nat) (spareOk : BitVec 8) : List Nat → BitVec 8 → Tab Nat → List Nat → BitVec 8 × Tab Nat × List Nat
  | [], ok, onSpare, pool => (ok, onSpare, pool)
  | lane :: rest, ok, onSpare, pool =>
    match pool with
    | [] => (ok, onSpare, pool)
    | x :: left =>
      if spareOk.getLsbD lane then
        respare link spareOk rest (ok ||| (1#8 <<< lane)) (tset onSpare (link * 8 + lane) x) left
      else respare link spareOk rest ok onSpare pool

/-- The failed lanes of a port that fail on a spare too: faults outside the die (R126). -/
def failedSpared (spareOk : BitVec 8) (failed pool : List Nat) : List Nat :=
  if pool.isEmpty then []
  else
    let good := failed.filter fun i => spareOk.getLsbD i
    match good[pool.length - 1]? with
    | some last => failed.filter fun i => !spareOk.getLsbD i && i < last
    | none => failed.filter fun i => !spareOk.getLsbD i

/-- Add numbers that a list does not hold yet. -/
def addNew (l more : List Nat) : List Nat := l ++ more.filter fun x => !l.contains x

/-- Insert pairs into a pool in ascending order. -/
def addPairs (pool more : List Nat) : List Nat := sortNat (pool ++ more)

/-- The pairs that serve a port's lanes: a lane's spare, or its own pair (R125). -/
def pairsOf (onSpare : Tab Nat) (link lo n : Nat) : List Nat :=
  (List.range n).map fun i => (tget onSpare (link * 8 + lo + i)).getD (link % 8 * 8 + lo + i)

/-- Lanes of a link whose own pair is bad: they count as failed at the first attempt (R425). -/
def badLanes (bad : List Nat) (link : Nat) : BitVec 8 :=
  (List.range 8).foldl (fun m i => if bad.contains (link % 8 * 8 + i) then m ||| (1#8 <<< i) else m) 0

/-- The pairs of a port go to its tile's pool (R122): none of its lanes is trained or spared any more, and a bad pair stays
out (R425). WIDTH and STATE stay as they are reported. -/
def LinkTiles.releasePairs (r : Option InstRecord) (bad : Nat → List Nat) (l : LinkTiles) (port : Nat) : LinkTiles :=
  let (lo, n) := lanesOf r port
  let own := (pairsOf l.onSpare (port / 4) lo n).filter fun x => !(bad (port / 32)).contains x
  { l with
    ports := tmod l.ports port fun q => { q with laneOk := 0, spareIn := 0 }
    onSpare := (List.range n).foldl (fun t i => tdel t (port / 4 * 8 + lo + i)) l.onSpare
    pools := tset l.pools (port / 32) (addPairs ((tget l.pools (port / 32)).getD []) own) }

/-- One pass of R125 over one port in training. The first pass begins from the lanes that trained; the second retries
the failed lanes of a port that was not released. A bad pair serves no lane, and no pool (R425). A lane that trains on a
spare is recorded as a fault in the die, one that fails on it as a fault outside (R126). -/
def LinkTiles.trainPort (r : Option InstRecord) (bad : Nat → List Nat) (second : Bool) (l : LinkTiles) (rep : LaneReport) :
    LinkTiles :=
  let q := l.port rep.port
  let link := rep.port / 4
  let tile := rep.port / 32
  let (lo, n) := lanesOf r rep.port
  let begun := if second then q.laneOk else rep.ok &&& laneMask lo n &&& ~~~(badLanes (bad tile) link)
  let failed := ((List.range n).map (lo + ·)).filter fun i => !begun.getLsbD i
  let pool := (tget l.pools tile).getD []
  let onSpare := if second then l.onSpare else ((List.range n).foldl (fun t i => tdel t (link * 8 + lo + i)) l.onSpare)
  let freed := if second then [] else (List.range n).filterMap fun i => tget l.onSpare (link * 8 + lo + i)
  let start := addPairs pool freed
  let (ok, onSpare, pool) := respare link rep.spareOk failed begun onSpare start
  let spared := ((List.range n).map fun i => link * 8 + lo + i).filter fun x => (tget onSpare x).isSome
  let q' := q.trained ok spared.length
  let l := { l with
    ports := tset l.ports rep.port q', onSpare := onSpare, pools := tset l.pools tile pool
    dieFaults := addNew l.dieFaults spared
    outFaults := addNew l.outFaults ((failedSpared rep.spareOk failed start).map (link * 8 + ·)) }
  if q'.width < q'.minW then l.releasePairs r bad rep.port else l

/-- The window closes on the link tiles: both passes of R125 over the ports in training, in ascending port order. -/
def LinkTiles.closeWindow (r : Option InstRecord) (bad : Nat → List Nat) (l : LinkTiles) (reps : List LaneReport) :
    LinkTiles :=
  let reps := sortBy (fun x y => x.port ≤ y.port) (reps.filter fun x => (l.port x.port).state == .training)
  let l1 := reps.foldl (LinkTiles.trainPort r bad false) l
  let again := reps.filter fun x =>
    (l1.port x.port).minW ≤ (l1.port x.port).width && (l1.port x.port).laneOk != laneMask (lanesOf r x.port).1 (lanesOf r x.port).2
  let l2 := again.foldl (LinkTiles.trainPort r bad true) l1
  { l2 with
    log := l2.log ++ reps.map (·.port)
    ports := tmap (fun _ q => reps.foldl (fun q x => q.forgetOrigin x.port) q) l2.ports }

/-- The window closes at an agent: each reported port in training takes its width (R118, R122). -/
def Agent.closeWindow (a : Nat) : List LaneReport → Agent → AgentStep
  | [], g => (g, [])
  | x :: r, g =>
    let q := g.port x.port
    let one := if q.state == .training then
        (g.forgetOrigins x.port).changePort a x.port (q.trained (x.ok &&& laneMask 0 q.instW) 0) else (g, [])
    let more := Agent.closeWindow a r one.1
    (more.1, one.2 ++ more.2)

/-! ## Lanes and identification -/

/-- The lanes of a trained port change (R361): its width follows R118, or it goes down (R122). R82 grants credits at training
and says nothing of a lane lost or gained afterwards: the counters stay and the grant becomes that of the new width (DESIGN
CHOICE, log entry 134). -/
def Port.lanesChange (q : Port) (lanes : BitVec 8) : Port := q.atWidth lanes

/-- The lanes of a port on its link. -/
def State.portLanes (s : State) (site : Site) (p : Nat) : BitVec 8 :=
  match site with
  | .agent _ => laneMask 0 (s.portAt site p).instW
  | .chrohar => laneMask (lanesOf s.mgr.record p).1 (lanesOf s.mgr.record p).2

/-- IDENTIFY_TIMEOUT (R131): a trained port that is not identified within 10 ms counts as not trained. -/
def execIdentifyTimeout (site : Site) (p : Nat) (s : State) : Host.Outcome State Fault Refusal :=
  .next (if s.hasPort site p && (s.portAt site p).isUp && !(s.portAt site p).nbrSeen then
    s.changePortAt site p { s.portAt site p with state := .noLane, width := 0 } else s)

/-! ## Control cells -/

/-- A received control cell tells what the peer has freed on each channel (R84). -/
def Port.takeFreed (q : Port) (freed : BitVec 64) : Port :=
  { q with vcs := { t0 := { q.vcs.t0 with freedSeen := field freed 0 16 }
                    t1 := { q.vcs.t1 with freedSeen := field freed 16 16 }
                    b0 := { q.vcs.b0 with freedSeen := field freed 32 16 }
                    b1 := { q.vcs.b1 with freedSeen := field freed 48 16 } } }

/-- FREED_CUM of T0, T1, B0 and B1 (R60). -/
def Port.freedWord (q : Port) : BitVec 64 := q.vcs.b1.freed ++ q.vcs.b0.freed ++ q.vcs.t1.freed ++ q.vcs.t0.freed

/-- A cell of a subtype can be taken at a port that carries traffic. -/
def State.takesCell (s : State) (site : Site) (p : Nat) (c : CtlCell) (csub : BitVec 8) : Bool :=
  s.hasPort site p && (s.portAt site p).isUp && cellOk c && c.csub == csub

/-- IDLE_CELL (R60, R84): FREED_CUM counts whatever the subtype, so a cell of a reserved CSUB acts as an idle one. -/
def execIdleCell (site : Site) (p : Nat) (c : CtlCell) (s : State) : Host.Outcome State Fault Refusal :=
  .next (if (c.csub == 0 || 3 < c.csub.toNat) && s.takesCell site p c c.csub then
    s.putPortAt site p ((s.portAt site p).takeFreed c.freed) else s)

/-- UNIT_KIND that a place reports (Table 3-6). -/
def Agent.unitKind (g : Agent) : BitVec 2 := if g.isSwitch then 1 else 0

/-- Neighbour discovery data that an agent's port sends (Table 3-6). -/
def Agent.nbrData (g : Agent) (p : Nat) : BitVec 80 :=
  at' 80 0 g.strap ||| at' 80 16 (BitVec.ofNat 8 p) ||| at' 80 24 g.unitKind |||
    at' 80 29 (codeOfWidth (g.port p).width) ||| at' 80 32 0x02#8

/-- The module's slot in its quad: the low two bits of its slot number (R129). -/
def State.quadSlot (s : State) : Nat := (field s.boot.strap 0 2).toNat

/-- Neighbour discovery data that a Chrohar port sends (Table 3-6). -/
def State.nbrData (s : State) (p : Nat) : BitVec 80 :=
  at' 80 0 s.boot.strap ||| at' 80 16 (BitVec.ofNat 8 p) ||| at' 80 24 2#2 |||
    at' 80 26 (BitVec.ofNat 3 (splitOf s.mgr.record (p / 4))) ||| at' 80 29 (codeOfWidth (s.link.port p).width) |||
    at' 80 40 (BitVec.ofNat 2 s.quadSlot) |||
    at' 80 42 (BitVec.ofNat 5 ((s.mgr.record.map (·.quadN)).getD 0))

/-- Lock state code (Table 7-9). -/
def lockCode : LapLock → BitVec 3
  | .free => 0 | .stepping => 1 | .locking => 2 | .locked => 3 | .holdover => 4

/-- DEPTH as an agent sends it: 31 with no parent (R377). -/
def LapSync.depthSent (l : LapSync) : Nat := if l.parent.isSome then l.depth else 31

/-- Lap exchange data (Table 7-9). -/
def lapData (lap : BitVec 64) (meas : BitVec 32) (lock : BitVec 3) (depth : Nat) : BitVec 80 :=
  at' 80 0 (field lap 0 40) ||| at' 80 40 meas ||| at' 80 72 lock ||| at' 80 75 (BitVec.ofNat 5 depth)

/-- The control cells that are due once in 16 FEC blocks at a port: lap exchange, neighbour discovery, and forget while its
place sends forget cells (R128, R142, R293). A peer link sends no forget cell. The root sends LSTATE 3, LOCKED, at every time: the manual
names the states for agents alone (DESIGN CHOICE, log entry 179). -/
def State.dueCells (s : State) (site : Site) (p : Nat) : List (BitVec 8 × BitVec 80) :=
  match site with
  | .agent a =>
    let g := s.agent a
    [(1, lapData g.lapNow (g.port p).meas (lockCode g.lapSync.lock) g.lapSync.depthSent), (2, g.nbrData p)] ++
      (if g.forgetting then [(3, g.discTag.setWidth 80)] else [])
  | .chrohar =>
    [(1, lapData s.lap (s.link.port p).meas 3 0), (2, s.nbrData p)] ++
      (if s.link.forgetting && !(s.mgr.record.any fun r => r.peers.any fun x => x.1 == p / 4) then
        [(3, s.mgr.disc.tag.setWidth 80)] else [])

/-- The control cell that a control slot carries. Of every 64 control slots, those of 16 FEC blocks, at least one carries each
cell that is due (R128, R142, R293): when no more slots are left than cells still to go, the next of them goes. Otherwise the
manual leaves open which of the due cells or an idle one a slot carries (R60): `pick` is an open value (log entry 11). -/
def State.cellFor (s : State) (site : Site) (p : Nat) (pick : Nat) : BitVec 8 × BitVec 80 :=
  let due := s.dueCells site p
  let t := (s.portAt site p).tx
  let still := due.filter fun c => !t.sent.contains c.1
  if 64 - t.ctl % 64 ≤ still.length then (still[0]?).getD (0, 0)
  else ((due ++ [(0, 0)])[pick % (due.length + 1)]?).getD (0, 0)

/-- The header of an FEC block (R56): FSP, or 0xFF where no frame begins in it, and BSEQ, the block's number since training
(log entry 133). -/
def TxStream.header (t : TxStream) (block : Nat) : BitVec 80 :=
  at' 80 0 (BitVec.ofNat 8 ((tget t.fsps block).getD 0xFF)) ||| at' 80 8 (BitVec.ofNat 8 block)

/-- The next control slot is sent: the ordinary slots before it have passed, and with the fourth of a block the block ends
(R57). -/
def TxStream.takeCtl (t : TxStream) (csub : BitVec 8) : TxStream :=
  { next := max t.next (19 * (t.ctl + 1)), ctl := t.ctl + 1
    fsps := if t.ctl % 4 = 3 then tdel t.fsps (t.ctl / 4) else t.fsps
    sent := if t.ctl % 64 = 63 then [] else csub :: t.sent }

/-- The header of the block that a control slot ends. -/
def TxStream.ended (t : TxStream) (site : Site) (p : Nat) : List Emission :=
  if t.ctl % 4 = 3 then [.block site p (t.header (t.ctl / 4))] else []

/-- CONTROL_CELL_SEND (R57, R60): the next control slot carries its cell. The block's header is put out with the block's last
slot, when FSP is settled. -/
def execControlCellSend (site : Site) (p : Nat) (s : State) : Host.Outcome State Fault Refusal :=
  .next (if s.hasPort site p && (s.portAt site p).isUp then
    let q := s.portAt site p
    let d := s.draw
    let c := s.cellFor site p d.1
    (d.2.putPortAt site p { q with tx := q.tx.takeCtl c.1 }).emit
      ([.cell site p (ctlSlot q.tx.ctl) (mkCell c.1 q.freedWord c.2)] ++ q.tx.ended site p)
  else s)

/-! ## Neighbours -/

/-- What a neighbour cell says (Table 3-6). -/
def nbrOf (c : CtlCell) : Nbr := { strap := field c.data 0 16, port := field c.data 16 8, kind := field c.data 24 2 }

/-- R130: three matching cells in a row identify a port; two differing cells in a row take an identified one down. -/
def Port.takeNbr (q : Port) (n : Nbr) : Port :=
  if q.nbrSeen then
    if n = q.nbr then { q with diffCount := 0 }
    else if q.diffCount = 0 then { q with diffCount := 1 }
    else { q with diffCount := 0, state := .idChanged, idChanged := true, shut := true, nbrSeen := false, width := 0 }
  else
    let k := if n = q.cand ∧ q.candCount ≠ 0 then q.candCount + 1 else 1
    if 3 ≤ k then { q with cand := n, candCount := 0, diffCount := 0, nbr := n, nbrSeen := true }
    else { q with cand := n, candCount := k }

/-- The peer link of a Chrohar port disagrees with the quad section (R145). -/
def peerMismatch (r : InstRecord) (ownSlot : Nat) (p : Nat) (c : CtlCell) : Bool :=
  match r.peers.find? fun x => x.1 == p / 4 with
  | none => false
  | some x =>
    (nbrOf c).kind != 2 || (field c.data 40 2).toNat != x.2 || x.2 == ownSlot || (field c.data 42 5).toNat != r.quadN

/-- A port is held down: STATE 5, no neighbour, its transmitters in electrical idle (R348, Table 9-4). -/
def Port.hold (q : Port) : Port :=
  { q with held := true, state := .held, width := 0, nbrSeen := false, candCount := 0, idle := true }

/-- Hold every peer link down with STATE 5 (R145, R146). -/
def State.refusePeers (s : State) (r : InstRecord) : State :=
  let hold (p : Nat) (q : Port) : Port :=
    if r.peers.any fun x => x.1 == p / 4 then q.hold else q
  { s with link := { s.link with ports := tmap hold s.link.ports }, mgr := { s.mgr with peersRefused := true } }

/-- NEIGHBOUR_DISCOVERY_CELL (R130, R145). -/
def execNeighbourDiscoveryCell (site : Site) (p : Nat) (c : CtlCell) (s : State) :
    Host.Outcome State Fault Refusal :=
  .next (if s.takesCell site p c 2 then
    let q := (s.portAt site p).takeFreed c.freed
    let q' := q.takeNbr (nbrOf c)
    let s := if q'.nbrSeen != q.nbrSeen || q'.state != q.state then s.changePortAt site p q' else s.putPortAt site p q'
    match site, s.mgr.record with
    | .chrohar, some r => if q'.nbrSeen && !q.nbrSeen && peerMismatch r s.quadSlot p c then s.refusePeers r else s
    | _, _ => s
  else s)

/-! ## Forget cells -/

/-- Return the cells of what is discarded, once for packets that share them. -/
def Agent.freeEach (g : Agent) : List (Option (Nat × BitVec 2) × Option Nat × Pkt) → Agent
  | [] => g
  | (origin, hold, p) :: r =>
    if hold.isSome && r.any fun x => x.2.1 == hold then g.freeEach r else (g.release origin p).freeEach r

/-- Discard every packet held: what has arrived, what waits at ports, what has been accepted and waits to be applied or
delivered. Input cells return (R84); notices wait on (R369). -/
def Agent.discardHeld (g : Agent) : Agent :=
  let held := (g.arrived.map fun x => (x.origin, x.hold, x.pkt)) ++
    g.ports.flatMap fun e => e.2.queue.map fun x => (x.origin, x.hold, x.pkt)
  ({ g with
    arrived := [], inbox := [], ports := tmap (fun _ q => { q with queue := [] }) g.ports
    room := g.room.filter fun d => d matches .notice _ _ } : Agent).freeEach held

/-- What an agent loses with its tables, flows and held packets, both when it forgets (R142) and when it is isolated (R237): the
endpoint's copies end DISCARDED and a notice tells it where ASSIGNED or FENCED changes (R363, Table 9-9). Its EID, its stamp
and its ports are not touched here. -/
def Agent.lose (g : Agent) (a : Nat) : AgentStep :=
  let was := field g.assignment 0 2
  let done := (g.srcs.filter fun f => f.key.laneKey != mgrKey).flatMap discarded
  let one := Agent.finish a done { g.discardHeld with
    buffers := []
    mgrEid := none, uplink := none, discTab := [], slot0 := Slot.reset, slot1 := Slot.reset, runs := [], attrs := []
    keys := [], fencedKeys := 0, groupFences := [], bridge := [], rejected := 0, srcs := [], dsts := [], chunks := [], guards := [] }
  if was = 0 then one
  else
    let two := one.1.assignNotice a
    (two.1, one.2 ++ two.2)

/-- A port that was down for a changed identity may train again: a new discovery has begun (R130). -/
def Port.reopen (q : Port) : Port :=
  { q with shut := false, state := if q.state = .idChanged then .noLane else q.state }

/-- The lap counter of an agent without a route table: no parent, and FREE (R376). -/
def LapSync.alone (l : LapSync) : LapSync := { l with lock := .free, parent := none, depth := 31, offsets := [] }

/-- An agent forgets (R142): as after reset, but its straps, its trained ports, its kept tag and its lap counter stay; the
counter enters FREE with no parent. The rings of its endpoint stay as they are. -/
def Agent.forget (g : Agent) (a : Nat) : AgentStep :=
  let r := g.lose a
  let reopened := tmap (fun _ q => q.since q.reopen g.lapNow) r.1.ports
  ({ r.1 with
    eid := none, stamp := 0, ports := reopened
    rings := if r.1.ports.all fun e => e.2.sameStat e.2.reopen then r.1.rings else r.1.rings.raise 5
    lapSync := r.1.lapSync.alone }, r.2)

/-- FORGET_CELL (R60, R142): a tag other than the kept one makes an agent keep it, forget, and pass it on for 20 ms. A
Chrohar port takes FREED_CUM and no more. -/
def execForgetCell (site : Site) (p : Nat) (c : CtlCell) (s : State) : Host.Outcome State Fault Refusal :=
  .next (if s.takesCell site p c 3 then
    match site with
    | .chrohar => s.putPortAt .chrohar p ((s.link.port p).takeFreed c.freed)
    | .agent a =>
      s.onAgent a fun g =>
        let g := g.setPort p ((g.port p).takeFreed c.freed)
        if field c.data 0 64 != g.discTag then
          let r := g.forget a
          ({ r.1 with discTag := field c.data 0 64, forgetting := true }, r.2)
        else (g, [])
  else s)

/-- FORGET_SEND_END (R142). -/
def execForgetSendEnd (a : Nat) (s : State) : Host.Outcome State Fault Refusal :=
  .next (s.onAgent a fun g => ({ g with forgetting := false }, []))

/-! ## The lap counter of an agent -/

/-- Sum of the kept offsets. -/
def LapSync.total (l : LapSync) : Int := l.offsets.foldl (· + ·) 0

/-- The mean offset lies below 0.5 ns, which is 12.8 sixteenths of a tick (R295). Until 64 exchanges with the parent are held
it is the mean of those held (DESIGN CHOICE, log entry 135). -/
def LapSync.close (l : LapSync) : Bool := l.total.natAbs * 10 < 128 * l.offsets.length

/-- A difference of two 40-bit counts as a signed value (R294). -/
def lapDiff (x y : BitVec 40) : Int := (x - y).toInt

/-- Offset and delay of an exchange with the parent (R294): own LAP at receipt, the parent's TX_LAP and MEAS. The halves are
rounded down, which the manual leaves open (log entry 135). -/
def lapOffset (own tx : BitVec 40) (meas : BitVec 32) : Int := lapDiff (own - tx) (meas.signExtend 40) / 2

def lapDelay (own tx : BitVec 40) (meas : BitVec 32) : Int := ((own - tx) + meas.signExtend 40).toInt / 2

/-- 1 µs in sixteenths of a tick. -/
def lapUs : Nat := 25600

/-- An offset to the parent (R294, R295): beyond 1 µs the counter is set and STEPPING; otherwise it joins the mean of
the last 64. In HOLDOVER it counts for nothing before the next epoch sets a new parent. -/
def LapSync.takeOffset (l : LapSync) (offset : Int) : LapSync :=
  if l.lock = .holdover then l
  else if lapUs < offset.natAbs then
    { l with lap := l.lap - BitVec.ofInt 64 offset, lock := .stepping, offsets := [] }
  else
    let l := { l with offsets := (l.offsets ++ [offset]).drop (l.offsets.length + 1 - 64) }
    { l with lock := if l.close then .locked else .locking }

/-- A Chrohar link is a peer link of the record (R145). -/
def State.isPeerPort (s : State) (p : Nat) : Bool := s.mgr.record.any fun r => r.peers.any fun x => x.1 == p / 4

/-- LAP_EXCHANGE_CELL (R293, R294): MEAS, the low 32 bits of the difference (log entry 135), and DEPTH of the peer are kept,
and a cell from the parent gives an offset and a delay. After a takeover the module's own counter takes its start from the
first exchange with a neighbour of its pod (R297). -/
def execLapExchangeCell (site : Site) (p : Nat) (c : CtlCell) (s : State) : Host.Outcome State Fault Refusal :=
  .next (if s.takesCell site p c 1 then
    let tx := field c.data 0 40
    let meas := field c.data 40 32
    let depth := (field c.data 75 5).toNat
    let taken (lap : BitVec 64) (q : Port) : Port :=
      { q.takeFreed c.freed with meas := (BitVec.ofInt 32 (lapDiff (field lap 0 40) tx)), nbrDepth := depth }
    match site with
    | .chrohar =>
      let s := s.putPortAt .chrohar p (taken s.lap (s.link.port p))
      if s.ember.lapWait && !s.isPeerPort p && meas != 0x80000000#32 then
        { s with lap := s.lap - BitVec.ofInt 64 (lapOffset (field s.lap 0 40) tx meas), ember := { s.ember with lapWait := false } }
      else s
    | .agent a =>
      s.onAgent a fun g =>
        let own := field g.lapNow 0 40
        let g := g.setPort p (taken g.lapNow (g.port p))
        if g.lapSync.parent == some p then
          let l := { g.lapSync with depth := min 31 (depth + 1) }
          if meas == 0x80000000#32 then ({ g with lapSync := l }, [])
          else ({ g with lapSync := { l with delay := lapDelay own tx meas }.takeOffset (lapOffset own tx meas) }, [])
        else (g, [])
  else s)

/-- One sixteenth of a tick is added or withheld toward the parent, at most once in 64 ticks (R295). In HOLDOVER the last
correction is repeated: the manual says that it is kept, and names no other measure of it. The offsets held are lowered by each
correction, so that their mean is the offset still left: the manual does not say (both DESIGN CHOICE, log entry 135). -/
def LapSync.slew (l : LapSync) : LapSync :=
  if l.sinceSlew < 64 then l
  else if l.lock = .holdover then { l with lap := l.lap - BitVec.ofInt 64 l.correction, sinceSlew := 0 }
  else if (l.lock = .locking ∨ l.lock = .locked) ∧ l.total ≠ 0 then
    let d : Int := if 0 < l.total then 1 else -1
    let l := { l with lap := l.lap - BitVec.ofInt 64 d, offsets := l.offsets.map (· - d), correction := d, sinceSlew := 0 }
    { l with lock := if l.close then .locked else .locking }
  else l

/-- LAP_SLEW (R295). -/
def execLapSlew (a : Nat) (s : State) : Host.Outcome State Fault Refusal :=
  .next (s.onAgent a (whileLive fun g => ({ g with lapSync := g.lapSync.slew }, [])))

/-! ## Isolation -/

/-- An isolated agent keeps its EID and ADMIT_STAMP alone (R237, R374); it has no lap parent and is FREE (R376). -/
def Agent.isolate (g : Agent) (a : Nat) : AgentStep :=
  let r := g.lose a
  ({ r.1 with lapSync := r.1.lapSync.alone }, r.2)

/-- AGENT_ISOLATION_TIMEOUT (R237). -/
def execAgentIsolationTimeout (a : Nat) (s : State) : Host.Outcome State Fault Refusal :=
  .next (s.onAgent a (whileLive fun g =>
    if g.ports.all fun e => !e.2.isUp then g.isolate a else (g, [])))

end Sys2Proof.Machine
end

