-- ==== Sys2Proof/Machine/Frames.lean ====
section
/-! DEFINITION. Frames at a port, in and out (02_fabric_protocol.md R59 to R62, R76 to R86; 04_routing.md R171, R180,
R185): the checks of a received frame, credits, and the arbitration of an output port. -/

namespace Sys2Proof.Machine

open Sys2Proof

/-! ## Receiving -/

/-- What a port makes of a received frame. -/
inductive Received where
  /-- Discarded while the port looks for the next frame start (R62). -/
  | skipped
  /-- Dropped and counted toward the link's error rate (R61). -/
  | dropped
  /-- Taken: credits are reconciled and counted. -/
  | taken
deriving DecidableEq, Repr

/-- The checks of R61 and R62, in the order in which a port can make them. -/
def judgeFrame (q : Port) (f : Frame) : Received :=
  if q.resync && !f.atFsp then .skipped
  else if !f.fecOk || !fwOk f.word || fwKind f.word != 0 || f.hop != hopCheck f.word f.pkt ||
      fwLen f.word != pktCells f.pkt || (fwVc f.word).getLsbD 1 != isBillet f.pkt then .dropped
  else .taken

/-- Cells that SENT_CUM shows lost before this frame (R85), by the serial order of a 16-bit count. -/
def lostCells (c : Credit) (sent : BitVec 16) : BitVec 16 :=
  if (sent - c.received).toNat < 2 ^ 15 then sent - c.received else 0

/-- A channel takes a frame: lost cells count as received and freed, then the frame's cells as received (R85). -/
def Credit.take (c : Credit) (sent : BitVec 16) (cells : Nat) : Credit :=
  { c with received := c.received + lostCells c sent + BitVec.ofNat 16 cells, freed := c.freed + lostCells c sent }

/-- The port after a frame (R61, R62, R85). -/
def Port.receive (q : Port) (f : Frame) : Port :=
  match judgeFrame q f with
  | .skipped => q
  | .dropped => { q with errCount := q.errCount + 1, resync := !fwOk f.word }
  | .taken =>
    { q with resync := false
             vcs := q.vcs.set (fwVc f.word) ((q.vcs.get (fwVc f.word)).take (fwSent f.word) (pktCells f.pkt)) }

def Port.fenceDrop (q : Port) (k : LaneKey) : Port :=
  { q with fenceDrops := (countFence q.fenceDrops q.fenceFirst k).1
           fenceFirst := (countFence q.fenceDrops q.fenceFirst k).2 }

/-- A DISCOVER_REPLY at an agent without a route table goes up through the uplink port, and the agent learns the way
back to its sender (R133). -/
def Agent.replyUp (g : Agent) (p : Pkt) (port : Nat) (vc : BitVec 2) : Agent :=
  let g := { g with discTab := tset g.discTab p.c.src.toNat port }
  match g.uplink with
  | some u => g.enqueue u p (some (port, vc))
  | none => g.release (some (port, vc)) p

/-- A multicast billet goes on as restricted copies, and arrives where the own position is addressed (R106). The copies keep
to the channel rule of R80, and the billet's cells return when the last of them has left (R86). -/
def Agent.routeCopies (g : Agent) (p : Pkt) (port : Nat) (vc : BitVec 2) (own : Bool) (copies : List (Nat × BitVec 16)) :
    Agent :=
  let h := g.holds
  let g := { g.placeCopies p (some (port, vc)) copies with holds := h + 1 }
  if own then g.arrive { port := port, vc := vc, pkt := p, hold := some h, owed := true }
  else g.free (some (port, vc)) (some h) p

/-- A packet that passed its port goes on, or arrives (R72, R103, R106, R133). -/
def Agent.route (g : Agent) (p : Pkt) (port : Nat) (vc : BitVec 2) : Agent :=
  if !g.hasTable && isDiscovery p && p.c.type == tDiscoverReply then g.replyUp p port vc
  else
  match g.wayOf p with
  | .here => g.arrive { port := port, vc := vc, pkt := p, hold := none, owed := true }
  | .many own copies => g.routeCopies p port vc own copies
  | .out o => g.enqueue o p (some (port, vc))
  | .drop => g.release (some (port, vc)) p

/-- FRAME_RECEIVE at an agent (R61, R62, R76, R85). -/
def Agent.receive (g : Agent) (port : Nat) (f : Frame) : AgentStep :=
  let q := g.port port
  if !q.isUp then (g, [])
  else
    let q' := q.receive f
    match judgeFrame q f with
    | .taken =>
      if keyAllowed (g.keyEntry port) f.pkt.c.laneKey then ((g.setPort port q').route f.pkt port (fwVc f.word), [])
      else (g.setPort port ((q'.fenceDrop f.pkt.c.laneKey).freeCells (fwVc f.word) (pktCells f.pkt)), [])
    | _ => (g.setPort port q', [])

/-! ## Sending -/

/-- Buffer cells that a receiver grants at a trained width (Table 2-11). -/
def grantCells (vc : BitVec 2) (width : Nat) : Nat :=
  if vc.getLsbD 1 then max 8192 (32768 * width / 8) / 32 else max 1024 (4096 * width / 8) / 32

/-- Credits of a channel (R84). -/
def Port.credits (q : Port) (vc : BitVec 2) : Nat :=
  grantCells vc q.width - ((q.vcs.get vc).sent - (q.vcs.get vc).freedSeen).toNat

/-- A frame may start: its channel holds credits for every cell (R83). -/
def Port.ready (q : Port) (x : QFrame) : Bool := pktCells x.pkt ≤ q.credits x.vc

/-- The entity of a billet frame at an output port: its run, or 4,096 for the general pool (R185). -/
def entityOf (p : Pkt) : Nat :=
  match pktHdr p with
  | some h => if h.run then h.runId.toNat else 4096
  | none => 4096

/-- The line that a frame waits in: 0 for T0, 1 for T1, and for billets two to each entity, one on B0 and one on B1. -/
def lineOf (x : QFrame) : Nat :=
  if isBillet x.pkt then 2 + 2 * entityOf x.pkt + (x.vc.getLsbD 0).toNat else (x.vc.getLsbD 0).toNat

/-- The frame at the head of a line. -/
def headOf (line : Nat) (q : Port) : Option QFrame := q.queue.find? fun x => lineOf x == line

/-- The head frame of an entity whose channel holds credits (R185): of its two lines, the one whose head has waited longer,
where both are ready (log entry 132). -/
def entityHead (entity : Nat) (q : Port) : Option QFrame :=
  q.queue.find? fun x => isBillet x.pkt && entityOf x.pkt == entity && headOf (lineOf x) q == some x && q.ready x

/-- Remove the head of a line. -/
def popLine (line : Nat) (q : Port) : Port :=
  match takeFirst (fun x => lineOf x == line) q.queue with
  | some (_, rest) => { q with queue := rest }
  | none => q

/-- Weight of an entity (R185): a run's share, and for the pool the trained width less the shares. -/
def weightOf (shares : List (Nat × Nat)) (width : Nat) (entity : Nat) : Nat :=
  if entity = 4096 then max 1 (width - (shares.map (·.2)).sum) else ((shares.lookup entity).getD 1)

/-- One round of deficit round robin over entities in order (R185): the deficits after it, and the line served. -/
def serveRound (q : Port) (shares : List (Nat × Nat)) : List Nat → Tab Nat → Tab Nat × Option Nat
  | [], d => (d, none)
  | x :: rest, d =>
    match entityHead x q with
    | none => serveRound q shares rest (tset d x 0)
    | some h =>
      let have' := (tget d x).getD 0 + weightOf shares q.width x * 131
      if pktCells h.pkt ≤ have' then (tset d x (have' - pktCells h.pkt), some x)
      else serveRound q shares rest (tset d x have')

/-- The entities of a port in the order of the round: ascending, the pool last, starting after the last served. A run
whose entry has gone while its frames still wait counts with weight 1. -/
def roundOrder (q : Port) (shares : List (Nat × Nat)) : List Nat :=
  let last := q.lastServed
  let waiting := (q.queue.filter fun x => isBillet x.pkt).map fun x => entityOf x.pkt
  let ids : List Nat := shares.map fun x => x.1
  let all : List Nat := (sortNat (ids ++ waiting ++ [4096])).eraseDups
  all.filter (last < ·) ++ all.filter (· ≤ last)

/-- Tally channel to send on: T0 and T1 in turn, whichever is ready (R185). -/
def tallyLine (q : Port) : Option Nat :=
  let ready (l : Nat) : Bool := match headOf l q with
    | some h => q.ready h
    | none => false
  if q.tallyTurn then (if ready 1 then some 1 else if ready 0 then some 0 else none)
  else (if ready 0 then some 0 else if ready 1 then some 1 else none)

/-- What leaves a port at a frame boundary: the frame, and the port after it. -/
def Port.choose (q : Port) (shares : List (Nat × Nat)) : Option QFrame × Port :=
  match tallyLine q with
  | some l => (headOf l q, { popLine l q with tallyTurn := l == 0 })
  | none =>
    match serveRound q shares (roundOrder q shares) q.deficits with
    | (d, some x) =>
      match entityHead x q with
      | some h => (some h, { popLine (lineOf h) q with deficits := d, lastServed := x })
      | none => (none, { q with deficits := d })
    | (d, none) => (none, { q with deficits := d })

/-- A frame takes the next free ordinary slots, and its block's FSP where it is the first to begin there (R56, R57). -/
def TxStream.takeFrame (t : TxStream) (cells : Nat) : TxStream :=
  let block := slotNo t.next / 80
  { t with next := t.next + cells
           fsps := if (tget t.fsps block).isSome then t.fsps else tset t.fsps block (slotNo t.next % 80) }

/-- The frame starts: its cells count as sent (R83, R84), SENT_CUM is the count before it (Table 2-2), and the cells take
the next slots that are no control slots (R57). -/
def Port.sendFrame (q : Port) (x : QFrame) : Port × (BitVec 64 × BitVec 32) :=
  let c := q.vcs.get x.vc
  ({ q with vcs := q.vcs.set x.vc { c with sent := c.sent + BitVec.ofNat 16 (pktCells x.pkt) }
            tx := q.tx.takeFrame (pktCells x.pkt) },
   frameOf x.pkt x.vc c.sent)

/-- Frames that leave a queue without being sent, as they reach the heads of their lines: void ones (R171), and every one
at a port that is down (R180). `kept` lists the lines whose head stays. -/
def shedsFrom (up : Bool) : List Nat → List QFrame → List QFrame
  | _, [] => []
  | kept, x :: r =>
    if kept.contains (lineOf x) then shedsFrom up kept r
    else if x.void || !up then x :: shedsFrom up kept r
    else shedsFrom up (lineOf x :: kept) r

def sheds (q : Port) : List QFrame := shedsFrom q.isUp [] q.queue

/-- Run shares at an output port of an agent (Table 4-7). -/
def Agent.shares (g : Agent) (port : Nat) : List (Nat × Nat) :=
  (g.runs.filter fun r => r.2.getLsbD 0 && !r.2.getLsbD 1 && (field r.2 2 4).toNat == port).map fun r =>
    (r.1, (field r.2 6 4).toNat)

/-- Drop a line's head without sending it: its cells return, and at a dead port it is counted (R171, R180). -/
def Agent.shed (port : Nat) (g : Agent) (x : QFrame) : Agent :=
  let q := popLine (lineOf x) (g.port port)
  let q := if x.void then q else { q with deadDrops := q.deadDrops + 1 }
  (g.setPort port q).free x.origin x.hold x.pkt

/-- FRAME_SEND at an agent (R83, R171, R180, R185). -/
def Agent.sendFrame (g : Agent) (a port : Nat) : AgentStep :=
  let g := (sheds (g.port port)).foldl (Agent.shed port) g
  let q := g.port port
  if !q.isUp then (g, [])
  else
    match q.choose (g.shares port) with
    | (none, q') => (g.setPort port q', [])
    | (some x, q') =>
      let sent := q'.sendFrame x
      ((g.setPort port sent.1).free x.origin x.hold x.pkt,
       [.frame (.agent a) port (slotNo q'.tx.next) sent.2.1 x.pkt sent.2.2])

/-! ## The link tiles -/

/-- Run shares at a Chrohar port: those of the runs from the hub that leave by it (R183, R185). -/
def State.tileShares (s : State) (port : Nat) : List (Nat × Nat) :=
  (s.mgr.runs.filter fun r => r.2.path.contains (chroharHop, port)).map fun r => (r.1, r.2.share)

/-- The allowed set of a Chrohar port: 0x002, and the tenant keys of its bitmap (R76, R211). -/
def LinkTiles.allows (l : LinkTiles) (port : Nat) (k : LaneKey) : Bool :=
  k == mgrKey || (field k 0 2 == 0 && ((tget l.bitmaps port).getD []).contains (k.toNat / 4))

/-- The link tiles' table of an epoch (R165). -/
def LinkTiles.tableOf (l : LinkTiles) (e : BitVec 2) : Option TileTable :=
  if l.current.epoch = e then some l.current else if l.other.epoch = e then some l.other else none

/-- A hub EID of this module (R71). -/
def State.isOwnHub (s : State) (e : Eid) : Bool :=
  isHubEid e && (e.toNat - 0x3F000) / 0x100 == s.quadSlot

/-- Queue a packet at a Chrohar port; Chrohar's links are no torus, so it takes channel 0 (R80). -/
def LinkTiles.enqueue (l : LinkTiles) (port : Nat) (p : Pkt) (origin : Option (Nat × BitVec 2)) : LinkTiles :=
  match tget l.ports port with
  | none => l
  | some q =>
    l.setPort port { q with queue := q.queue ++
      [{ pkt := p, vc := BitVec.ofBool (isBillet p) ++ 0#1, void := false, origin := origin, hold := none }] }

/-- Return a packet's cells at a Chrohar port. -/
def LinkTiles.release (l : LinkTiles) (origin : Option (Nat × BitVec 2)) (p : Pkt) : LinkTiles :=
  match origin with
  | none => l
  | some (port, vc) => { l with ports := tmod l.ports port fun q => q.freeCells vc (pktCells p) }

/-- FRAME_RECEIVE at a Chrohar port: a packet for a hub EID of this module waits for its unit; one for another module's
hub goes out by the tiles' table (R155, R165); anything else is dropped. -/
def State.receiveAtTile (s : State) (port : Nat) (f : Frame) : State :=
  let q := s.link.port port
  if !(s.hasPort .chrohar port && q.isUp) then s
  else
    let q' := q.receive f
    match judgeFrame q f with
    | .taken =>
      let l := s.link.setPort port q'
      let vc := fwVc f.word
      if !s.link.allows port f.pkt.c.laneKey then
        { s with link := l.setPort port ((q'.fenceDrop f.pkt.c.laneKey).freeCells vc (pktCells f.pkt)) }
      else if s.isOwnHub f.pkt.c.dst && !f.pkt.c.mcast then
        { s with link := l, hub := { s.hub with arrived := s.hub.arrived ++ [{ port := port, vc := vc, pkt := f.pkt, hold := none, owed := true }] } }
      else
        match (l.tableOf f.pkt.c.epoch).bind fun t => tget t.dest f.pkt.c.dst.toNat with
        | some out => { s with link := l.enqueue out f.pkt (some (port, vc)) }
        | none => { s with link := l.release (some (port, vc)) f.pkt }
    | _ => { s with link := s.link.setPort port q' }

def LinkTiles.shed (port : Nat) (l : LinkTiles) (x : QFrame) : LinkTiles :=
  let q := popLine (lineOf x) (l.port port)
  let q := if x.void then q else { q with deadDrops := q.deadDrops + 1 }
  (l.setPort port q).release x.origin x.pkt

/-- FRAME_SEND at a Chrohar port (R83, R180, R185). -/
def LinkTiles.sendFrame (l : LinkTiles) (shares : List (Nat × Nat)) (port : Nat) : LinkTiles × List Emission :=
  let l := (sheds (l.port port)).foldl (LinkTiles.shed port) l
  let q := l.port port
  if !q.isUp then (l, [])
  else
    match q.choose shares with
    | (none, q') => (l.setPort port q', [])
    | (some x, q') =>
      let sent := q'.sendFrame x
      ((l.setPort port sent.1).release x.origin x.pkt, [.frame .chrohar port (slotNo q'.tx.next) sent.2.1 x.pkt sent.2.2])

/-- FRAME_RECEIVE (R61). -/
def execFrameReceive (site : Site) (port : Nat) (f : Frame) (s : State) : Host.Outcome State Fault Refusal :=
  .next (match site with
    | .agent a => s.onAgent a (whileLive fun g => g.receive port f)
    | .chrohar =>
      let t := s.receiveAtTile port f
      t.tally 0x0011 (BitVec.ofNat 16 (port / 4))
        ((t.link.port port).errCount.toNat - (s.link.port port).errCount.toNat))

/-- FRAME_SEND (R185). -/
def execFrameSend (site : Site) (port : Nat) (s : State) : Host.Outcome State Fault Refusal :=
  .next (match site with
    | .agent a => s.onAgent a (whileLive fun g => g.sendFrame a port)
    | .chrohar =>
      if s.hasPort .chrohar port then
        let r := s.link.sendFrame (s.tileShares port) port
        ({ s with link := r.1 } : State).emit r.2
      else s)

end Sys2Proof.Machine
end

