-- ==== Sys2Proof/Machine/Arrival.lean ====
section
/-! DEFINITION. Packets that have reached a GA-2 agent: acceptance, acknowledgement, the source side of its flows, and
discovery queries (02_fabric_protocol.md R70, R88 to R102; 03_discovery_topology.md R132 to R134; 09_goson_agent.md R362,
R367 to R369, R373). -/

namespace Sys2Proof.Machine

open Sys2Proof

/-! ## Acceptance -/

/-- A swage part of a reduction tree, addressed to the agent (R372). -/
def isTreePart (p : Pkt) : Bool :=
  match pktHdr p with
  | some h => p.c.type == bContrib && h.pfmt == 8 && !p.c.mcast
  | none => false

/-- A step completion billet (R281). -/
def isStepEnd (p : Pkt) : Bool :=
  match pktHdr p with
  | some h => p.c.type == bResult && h.pfmt == 0 && h.chunk == 0xFFFFFFFF
  | none => false

/-- The chunk record of a part or a descriptor: keyed by COLL_ID, STEP, CHUNK and scale vector (R372). -/
def chunkMatches (collId : BitVec 32) (step : BitVec 64) (chunk : BitVec 32) (scale : BitVec 128) (c : ChunkRec) : Bool :=
  c.collId == collId && c.step == step && c.chunk == chunk && samePass c.scale scale

/-- A record and a slot are at hand for a part (R373): its record exists, or 4,096 records and 16 slots are not used. -/
def Agent.chunkRoom (g : Agent) (collId : BitVec 32) (step : BitVec 64) (chunk : BitVec 32) (scale : BitVec 128) : Bool :=
  g.chunks.any (chunkMatches collId step chunk scale) ||
    (g.chunks.length < 4096 && (g.chunks.filter (·.slot)).length < 16)

/-- The flow record of a packet at its destination. -/
def dstOf (ds : List DstFlow) (p : Pkt) (position : BitVec 4) : DstFlow :=
  (findDst ds (flowKeyOf p)).getD (freshDst (flowKeyOf p) position)

/-- The agent's own position in a packet's group, from the group entry of the packet's epoch (R106). -/
def Agent.position (g : Agent) (p : Pkt) : BitVec 4 :=
  match p.c.mcast, pktHdr p, g.slotOf p.c.epoch with
  | true, some h, some t => field ((tget t.groups h.mgroup.toNat).getD 0) 2 4
  | _, _, _ => 0

/-- The packet would be new to its flow (R92). -/
def isNew (ds : List DstFlow) (p : Pkt) : Bool :=
  match dstJudge (dstOf ds p 0) p with
  | .accept _ => true
  | _ => false

/-- A billet waits in its input buffer, credits withheld, while what it needs is missing: a buffer and a record in the
delivery ring (R368), or a chunk record and a slot (R373). -/
def Agent.billetWaits (g : Agent) (p : Pkt) : Bool :=
  match pktHdr p with
  | none => false
  | some h =>
    if isTable p then false
    else if !isNew g.dsts p then false
    else if isTreePart p then !g.chunkRoom h.collId h.step h.chunk h.scale
    else !g.rings.dlvRoom

/-- The arrived packets that PACKET_ARRIVAL may take: of an acknowledged type, and not waiting for room. -/
def Agent.mayTake (g : Agent) (x : Arrived) : Bool := acknowledged x.pkt && !g.billetWaits x.pkt

/-- The first packet that may be taken: a billet that waits stands at the head of its input buffer, and later packets of its port
and channel wait behind it (R368, R373). `shut` lists the buffers whose head waits. -/
def Agent.pick (g : Agent) : List (Nat × BitVec 2) → List Arrived → Option (Arrived × List Arrived)
  | _, [] => none
  | shut, x :: r =>
    if g.mayTake x && !shut.contains (x.port, x.vc) then some (x, r)
    else
      match g.pick (if g.billetWaits x.pkt then (x.port, x.vc) :: shut else shut) r with
      | some (y, q) => some (y, x :: q)
      | none => none

/-- Send the ACK of a record (R93): under the EID that the flow names, with the epoch of a TABLE billet where that was
the last packet accepted (R173). A flow of which nothing was accepted keeps no record (R91). -/
def Agent.sendAck (g : Agent) (d : DstFlow) : Agent :=
  let own := if d.key.mcast then g.own else d.key.peer
  let dsts := if (findDst g.dsts d.key).isSome then putDst g.dsts (acked d) else g.dsts
  ({ g with dsts := dsts } : Agent).transmit (ackPkt d own (d.stamp.getD g.epochNow))

/-- A step completion billet frees every chunk record of its COLL_ID at its step or earlier (R373). -/
def Agent.endStep (g : Agent) (p : Pkt) : Agent :=
  match pktHdr p with
  | some h => { g with chunks := g.chunks.filter fun c => !(c.collId == h.collId && c.step.toNat ≤ h.step.toNat) }
  | none => g

/-- Deliver an accepted packet (R352, R368, R372, R373): the manager's packets, tree parts and releases wait for their
own rows; a step completion billet first frees its records; the rest goes to the endpoint. -/
def Agent.handOver (g : Agent) (a : Nat) (p : Pkt) : AgentStep :=
  if isFromManager g p || isTreePart p || (!isBillet p && p.c.type == tPaceRelease) then
    ({ g with inbox := g.inbox ++ [p] }, [])
  else if isStepEnd p then (g.endStep p).deliver a (.packet p)
  else g.deliver a (.packet p)

/-- Deliver several packets in order. -/
def Agent.handAll (a : Nat) : List Pkt → Agent → AgentStep
  | [], g => (g, [])
  | p :: r, g =>
    let one := g.handOver a p
    let more := Agent.handAll a r one.1
    (more.1, one.2 ++ more.2)

/-- A chunk record as a part or a descriptor opens it, with its slot (R372). -/
def openChunk (collId : BitVec 32) (step : BitVec 64) (chunk : BitVec 32) (scale : BitVec 128) : ChunkRec :=
  { collId := collId, step := step, chunk := chunk, scale := scale, own := none, rank := 0, children := [], parts := [],
    dest := 0, plen := 0, tag := 0, sent := none, slot := true }

/-- An accepted part finds or opens its chunk record (R372). -/
def Agent.openFor (g : Agent) (p : Pkt) : Agent :=
  match isTreePart p, pktHdr p with
  | true, some h =>
    if g.chunks.any (chunkMatches h.collId h.step h.chunk h.scale) then g
    else { g with chunks := g.chunks ++ [openChunk h.collId h.step h.chunk h.scale] }
  | _, _ => g

/-- A billet that goes into a buffer of the endpoint (R368). -/
def toBuffer (p : Pkt) : Bool := isBillet p && !isTable p && !isTreePart p

/-- Record, deliver and acknowledge a packet that is accepted (R92, R93): a billet that is held takes its buffer (R368), and an
ACK goes at once with the eighth packet. -/
def Agent.acceptNew (g : Agent) (a : Nat) (d : DstFlow) (p : Pkt) : AgentStep :=
  let r := dstAccept d p (isFromManager g p)
  let g := ({ g with dsts := putDst g.dsts r.1 } : Agent).openFor p
  let g := if toBuffer p && r.1.held.contains p then g.keepBuffer p else g
  let h := Agent.handAll a r.2 g
  if 8 ≤ r.1.sinceAck then (h.1.sendAck r.1, h.2) else h

/-- A tally for the endpoint finds no room in the tally delivery ring, or something waits for that room (R369). -/
def Agent.tallyFull (g : Agent) (p : Pkt) : Bool :=
  !isBillet p && forEndpoint p && (!g.rings.tdlvRoom || (ringLine [] g.room).any fun e => !e.isBillet)

/-- A packet of a flow without a record finds every destination record in use (R91). -/
def Agent.dstFullFor (g : Agent) (p : Pkt) : Bool :=
  (findDst g.dsts (flowKeyOf p)).isNone && g.dstLimit ≤ g.dsts.length

/-- What becomes of an arrived packet of an acknowledged type (R70, R90 to R93, R351, R369, R562). A packet whose header
passes its check but whose flow can have no record is dropped and counted before anything is answered (R91). -/
def Agent.judge (g : Agent) (a : Nat) (p : Pkt) : AgentStep :=
  if reservedPacket p || !headOk p then (g, [])
  else if (isTable p || (!isBillet p && p.c.type == tCtrl)) && !isFromManager g p then (g, [])
  else if g.dstFullFor p then ({ g with dstFull := g.dstFull + 1 }, [])
  else if !dataOk p then (g.transmit (nakPkt p (if p.c.mcast then g.own else p.c.dst) (g.position p) g.epochNow), [])
  else
    match dstJudge (dstOf g.dsts p (g.position p)) p with
    | .beyond => (g, [])
    | .duplicate d => (g.sendAck d, [])
    | .accept d => if g.tallyFull p then (g, []) else g.acceptNew a d p

/-- PACKET_ARRIVAL at an agent: the first packet that may be taken. -/
def Agent.takeArrival (a : Nat) (g : Agent) : AgentStep :=
  match g.pick [] g.arrived with
  | none => (g, [])
  | some (x, rest) => (({ g with arrived := rest } : Agent).freeArrived x).judge a x.pkt

/-- ACK_TIMER_EXPIRE at an agent (R93). -/
def Agent.ackTimer (key : FlowKey) (g : Agent) : AgentStep :=
  match findDst g.dsts key with
  | some d => if d.timer then (g.sendAck d, []) else (g, [])
  | none => (g, [])

/-! ## Payloads at ADDR (R365, R366) -/

/-- The descriptor presents its input as swage (R365). -/
def Desc.asSwage (d : Desc) : Bool := !d.convert && d.pfmt == 8

/-- The payload as it is sent (R365): converted on the swage lanes, or as it stands at ADDR. -/
def descSwage (d : Desc) (payload : List Byte) : Swage :=
  let n := plenBytes d.plen / 8
  if d.convert then toSwage d.scale ((payloadCodes d.inFmt.toNat payload n).map (decodeElem d.inFmt.toNat))
  else { elems := swageElems payload n, ovf := d.ovf, scale := d.scale }

/-- The payload bytes of a descriptor's billet, from the bytes at ADDR (R365). -/
def descData (d : Desc) (input : List Byte) : List Byte :=
  if d.convert || Desc.asSwage d then swageBytes (descSwage d input).elems else bytesAt input 0 (plenBytes d.plen)

/-- Bytes that a descriptor reads at ADDR at most. -/
def descReads (d : Desc) : Nat := if d.billet then plenBytes d.plen else 16

/-- A descriptor has shown what stands at its ADDR; an older record of no more bytes from the same address is of no more use. -/
def Agent.seeInput (g : Agent) (d : Desc) (bytes : List Byte) : Agent :=
  { g with input := (d.addr, bytesAt bytes 0 (descReads d)) :: g.input.filter fun x => x.1 != d.addr || descReads d < x.2.length }

/-- The byte at an address as the newest record of it has it. -/
def inputByte (input : List (BitVec 48 × List Byte)) (addr : Nat) : Byte :=
  match input.find? fun x => x.1.toNat ≤ addr && addr < x.1.toNat + x.2.length with
  | some x => (x.2[addr - x.1.toNat]?).getD 0
  | none => 0

/-- What stands at a descriptor's ADDR now. -/
def Agent.inputOf (g : Agent) (d : Desc) : List Byte :=
  (List.range (descReads d)).map fun i => inputByte g.input (d.addr.toNat + i)

/-- The body of a tally read again: the fields that the agent wrote itself, TIMED of an arrival and the stamp of a report, stay
on chip (R291, R364, R366). -/
def rereadBody (type : BitVec 8) (old new : BitVec 128) : BitVec 128 :=
  if type = tPaceArrive then putField new 76 (field old 76 1)
  else if type = tEndpointReport then putField new 16 (field old 16 48)
  else new

/-- The packet of a descriptor with the bytes that stand at ADDR now; its header stays (R366). -/
def reread (p : Pkt) (d : Desc) (input : List Byte) : Pkt :=
  match p.body with
  | .tally b crc => { p with body := .tally (rereadBody p.c.type b (BitVec.ofNat 128 (natAt input 0 16))) crc }
  | .billet h hc _ crc => { p with body := .billet h hc (descData d input) crc }

/-- Each try reads its payload from ADDR (R366). -/
def Agent.fresh (g : Agent) (f : SrcFlow) : SrcFlow :=
  { f with copies := f.copies.map fun c =>
      match c.desc with
      | some d => { c with pkt := reread c.pkt d (g.inputOf d) }
      | none => c }

/-! ## Answers at the source -/

/-- Take the first arrived tally of a type that passes its checks; one that fails them is dropped (R70, R92). -/
def takeTally (type : BitVec 8) (l : List Arrived) : Option (Arrived × List Arrived) :=
  takeFirst (fun x => !isBillet x.pkt && x.pkt.c.type == type) l

def tallyGood (p : Pkt) : Bool := !reservedPacket p && headOk p

/-- The partial sum of a chunk record: a tree part with its key and its parent. -/
def isSumOf (c : ChunkRec) (p : Pkt) : Bool :=
  isTreePart p && p.c.dst == c.dest && (pktHdr p).any fun h =>
    chunkMatches h.collId h.step h.chunk h.scale c && h.rank == c.rank

/-- A partial sum that its parent has acknowledged gives back its slot, whichever of its sendings was acknowledged (R372). -/
def freeSlots (done : List Finished) (cs : List ChunkRec) : List ChunkRec :=
  cs.map fun c => if c.sent.isSome && done.any fun d => d.code == 0 && isSumOf c d.pkt then { c with slot := false } else c

/-- The outcome of an ACK at an agent's source record. -/
def Agent.settle (g : Agent) (a : Nat) (st : SrcStep) : AgentStep :=
  ({ g with chunks := freeSlots st.done g.chunks } : Agent).launch a st

/-- Take an arrived answer of a type and act on the source record it names. -/
def Agent.answer (g : Agent) (a : Nat) (type : BitVec 8) (act : Pkt → SrcFlow → SrcStep) (key : Pkt → FlowKey) :
    AgentStep :=
  match takeTally type g.arrived with
  | none => (g, [])
  | some (x, rest) =>
    let g := ({ g with arrived := rest } : Agent).freeArrived x
    if !tallyGood x.pkt then (g, [])
    else
      match g.srcs.find? fun f => f.key == key x.pkt with
      | none => (g, [])
      | some f => g.settle a (act x.pkt (g.fresh f))

/-- What an ACK does to its source record (R90, R107, Table 2-12). -/
def ackAct (p : Pkt) (f : SrcFlow) : SrcStep :=
  let b := pktTally p
  if b.getLsbD 112 then srcAckAt f (field b 0 32) (field b 32 64) (field b 108 4).toNat
  else srcAck f (field b 0 32) (field b 32 64)

def ackKey (p : Pkt) : FlowKey := answeredKey p ((pktTally p).getLsbD 112) (field (pktTally p) 96 12)

/-- What a NAK does to its source record (R95, Table 2-12). -/
def nakAct (epoch : BitVec 2) (p : Pkt) (f : SrcFlow) : SrcStep :=
  srcNak epoch f (field (pktTally p) 0 32) (field (pktTally p) 32 3).toNat

def nakKey (p : Pkt) : FlowKey := answeredKey p ((pktTally p).getLsbD 56) (field (pktTally p) 40 12)

/-- What a MGR_BUSY does to its source record (R99, Table 2-12). -/
def busyAct (p : Pkt) (f : SrcFlow) : SrcStep :=
  { flow := srcBusy f (field (pktTally p) 0 32) (field (pktTally p) 32 3).toNat (field (pktTally p) 36 20).toNat
    send := [], done := [] }

def busyKey (p : Pkt) : FlowKey := answeredKey p false 0

/-- A flow act at an agent by the flow's key. -/
def Agent.onFlow (g : Agent) (a : Nat) (key : FlowKey) (act : SrcFlow → SrcStep) : AgentStep :=
  match g.srcs.find? fun f => f.key == key with
  | none => (g, [])
  | some f => g.settle a (act (g.fresh f))

/-- FENCE_NOTICE at an agent (R108): kept for later records of the flow too, and acted on at the one there is. -/
def Agent.fenceNotice (g : Agent) (a : Nat) (key : FlowKey) (pos : Nat) (lifted : Bool) : AgentStep :=
  ({ g with groupFences := putNotice g.groupFences key pos lifted } : Agent).onFlow a key fun f => srcFence f pos lifted

/-- RESEND_TIMER_EXPIRE at an agent (R95, R98, R362): the next try; after the eighth the flow fails and the manager is
told, but a flow to the manager waits 100 ms with its timer stopped. -/
def Agent.resendTimer (a : Nat) (key : FlowKey) (seq : Seq) (g : Agent) : AgentStep :=
  match g.srcs.find? fun f => f.key == key with
  | none => (g, [])
  | some f =>
    if !lastTry f seq then g.launch a (srcExpire g.epochNow (g.fresh f) seq)
    else if g.isMgrFlow key then
      ({ g with srcs := putSrc g.srcs (modCopy f seq fun c => { c with timer := false }) }, [])
    else
      match copyOf f seq with
      | none => (g, [])
      | some c =>
        let one := g.launch a (srcFail f)
        let two := one.1.tellManager a tResendFail (resendFailBody f c)
        (two.1, one.2 ++ two.2)

/-- MGR_FLOW_RESTART (R362): the schedule begins again at try 1 with the same SEQ. -/
def Agent.mgrRestart (a : Nat) (key : FlowKey) (seq : Seq) (g : Agent) : AgentStep :=
  if g.isMgrFlow key then
    g.onFlow a key fun f =>
      match copyOf f seq with
      | some c =>
        if !c.timer && c.tries == 8 then
          let q := resendPkt g.epochNow f c 0
          { flow := modCopy f seq fun d => { d with pkt := q, tries := 1, timer := true }, send := [q], done := [] }
        else { flow := f, send := [], done := [] }
      | none => { flow := f, send := [], done := [] }
  else (g, [])

/-- MGR_FLOW_RESTART (R362). -/
def execMgrFlowRestart (a : Nat) (key : FlowKey) (seq : Seq) (s : State) : Host.Outcome State Fault Refusal :=
  .next (s.onAgent a (whileLive (Agent.mgrRestart a key seq)))

/-- DELIVERY_ROOM_RESUME (R368, R369). -/
def execDeliveryRoomResume (a : Nat) (s : State) : Host.Outcome State Fault Refusal :=
  .next (s.onAgent a (whileLive fun g => Agent.drainRoom a g.room.length g))

/-- A billet waits for a buffer (R379). -/
def Agent.stalled (g : Agent) : Bool :=
  g.room.any Deliv.isBillet || g.arrived.any fun x => g.billetWaits x.pkt && !isTreePart x.pkt

/-- DLV_STALL (R379, Table 9-15). -/
def execDlvStall (a : Nat) (s : State) : Host.Outcome State Fault Refusal :=
  .next (s.onAgent a (whileLive fun g => (if g.stalled then { g with rings := g.rings.raise 7 } else g, [])))

/-! ## Discovery queries -/

/-- Adoption (R133, R169, R351): NEW_EID, the uplink port and the manager EID are taken, and a slot is STAGED, empty,
with epoch 1. -/
def Agent.adopt (g : Agent) (p : Pkt) (port : Nat) : Agent :=
  { g with
    eid := some (field (pktTally p) 21 18), mgrEid := some p.c.src, uplink := some port
    slot0 := { Slot.reset with state := .staged, epoch := 1 }, slot1 := Slot.reset }

/-- Page 0 of a reply (Table 3-8). -/
def Agent.page0 (a : Nat) (g : Agent) (q : BitVec 128) (adopted : Bool) : BitVec 128 :=
  at' 128 0 (field q 0 16) ||| at' 128 21 g.strap ||| at' 128 37 g.unitKind ||| at' 128 39 0x02#8 |||
    at' 128 47 (BitVec.ofNat 4 (g.portCount - 1)) ||| at' 128 51 (BitVec.ofBool adopted) |||
    at' 128 52 (BitVec.ofBool (field q 47 16 != g.strap)) ||| at' 128 53 g.own |||
    at' 128 71 (field (Config.agentSerial a) 0 32)

/-- Page of port `k` (Table 3-8). -/
def Agent.pagePort (g : Agent) (q : BitVec 128) (k : Nat) : BitVec 128 :=
  let r := g.port k
  at' 128 0 (field q 0 16) ||| at' 128 16 (BitVec.ofNat 5 (k + 1)) ||| at' 128 21 r.nbr.strap |||
    at' 128 37 r.nbr.port ||| at' 128 45 r.nbr.kind ||| at' 128 47 (codeOfWidth r.width) |||
    at' 128 50 (BitVec.ofBool r.nbrSeen) ||| at' 128 51 (BitVec.ofBool (r.state == .belowMin)) |||
    at' 128 52 r.fenceDrops ||| at' 128 84 r.fenceFirst

/-- Answer a query (R77, R132, R133): the page asked for, or page 0 beyond the last; the reply of a port's page clears
its fence counts. -/
def Agent.answerQuery (a : Nat) (g : Agent) (p : Pkt) (adopted : Bool) : Agent :=
  let q := pktTally p
  let page := (field q 16 5).toNat
  let epoch := if g.hasTable then g.epochNow else p.c.epoch
  let reply (b : BitVec 128) : Pkt := mkTally (common mgrKey epoch g.own p.c.src tDiscoverReply) 0 b
  if page = 0 ∨ g.portCount < page then g.transmit (reply (g.page0 a q adopted))
  else
    let k := page - 1
    let b := g.pagePort q k
    ({ g with ports := tmod g.ports k fun r => { r with fenceDrops := 0, fenceFirst := 0 } } : Agent).transmit (reply b)

/-- Relay a query (R133): a fresh one on OUT_PORT for NEW_EID, and NEW_EID is recorded against that port. -/
def Agent.relayQuery (g : Agent) (p : Pkt) : Agent :=
  let q := pktTally p
  let out := (field q 39 8).toNat
  let fresh := mkTally { p.c with dst := field q 21 18 } 0 (putField q 39 0xFF#8)
  ({ g with discTab := tset g.discTab (field q 21 18).toNat out } : Agent).enqueue out fresh none

/-- A query at an agent (R133): it adopts, and then answers, relays, forwards or drops. An agent that kept its EID through
isolation takes the query's source as its manager and its arrival port as its uplink (log entry 27). -/
def Agent.query (a : Nat) (g : Agent) (x : Arrived) : Agent :=
  let p := x.pkt
  let adopted := g.eid.isSome
  let g := if !adopted then g.adopt p x.port else g
  let g := if !g.hasTable && g.uplink.isNone then { g with uplink := some x.port, mgrEid := some p.c.src } else g
  if g.eid == some p.c.dst then
    if field (pktTally p) 39 8 == 0xFF then g.answerQuery a p adopted else g.relayQuery p
  else
    match tget g.discTab p.c.dst.toNat with
    | some out => g.enqueue out p none
    | none => g

/-- DISCOVER_QUERY at an agent: the first one that has arrived and passes its checks. -/
def Agent.takeQuery (a : Nat) (g : Agent) : AgentStep :=
  match takeTally tDiscoverQuery g.arrived with
  | none => (g, [])
  | some (x, rest) =>
    let g := ({ g with arrived := rest } : Agent).freeArrived x
    if tallyGood x.pkt && x.pkt.c.laneKey == mgrKey then (g.query a x, []) else (g, [])

/-- DISCOVER_QUERY (R133). -/
def execDiscoverQuery (a : Nat) (s : State) : Host.Outcome State Fault Refusal :=
  .next (s.onAgent a (whileLive (Agent.takeQuery a)))

end Sys2Proof.Machine
end

