-- ==== Sys2Proof/Machine/Cipher.lean ====
section
/-! DEFINITION. Words and data units as SRAM and the memory tiers hold them: check bits, encryption, and the key pairs of the trust
die (01_architecture.md R30, R32; 12_security.md R443, R462). -/

namespace Sys2Proof

def Machine.Tier.no : Machine.Tier → Nat
  | .p => 0 | .b => 1 | .c => 2

end Sys2Proof

namespace Sys2Proof.Machine

open Sys2Proof

/-- A word as SRAM, a tier or a link between dies carries it: its check bits above its data bits (R30). -/
def codedWord (w : BitVec 64) : BitVec 72 := Config.checkBits w ++ w

/-- The eight coded words of a data unit: the check bits cover the ciphertext (R462). -/
def codedUnit (cipher : BitVec 512) : List (BitVec 72) := (List.range 8).map fun k => codedWord (field cipher (64 * k) 64)

/-- The XTS tweak of a data unit (R462). -/
def xtsTweak (t : Tier) (unit : Nat) : BitVec 128 := at' 128 120 (BitVec.ofNat 8 t.no) ||| at' 128 0 (BitVec.ofNat 48 unit)

/-- Number of the module key among the keys (Table 15-3). -/
def moduleKeyNo : Nat := 0xFFFFFFFF

/-- A fresh pair of 256-bit keys, from two draws of the random bit generator (R464, Table 12-1). -/
def freshPair (draw : Nat) : BitVec 512 := Config.random (draw + 1) ++ Config.random draw

/-- A key pair that the trust die holds, by its number. -/
def State.keyAt (s : State) (key : Nat) : BitVec 512 := (tget s.trust.keys key).getD 0

/-- The key pair of a generation of a tenant. -/
def State.keyPair (s : State) (tenant gen : Nat) : BitVec 512 := s.keyAt (4 * tenant + gen)

/-- A data unit as a tier holds it: ciphertext under the key of its page's tag (R32, R462). -/
def State.cipher (s : State) (t : Tier) (unit tenant gen : Nat) (data : BitVec 512) : BitVec 512 :=
  Config.xts (s.keyPair tenant gen) (xtsTweak t unit) data

/-- The data units of an object of the module in tier C, as ciphertext under the module key (Table 12-1, R462). -/
def State.moduleUnits (s : State) (object : BitVec 64) (bytes : List Byte) : List (BitVec 512) :=
  (List.range ((bytes.length + 63) / 64)).map fun k =>
    Config.xts (s.keyAt moduleKeyNo) (xtsTweak .c (Config.moduleUnit object k)) (BitVec.ofNat 512 (natAt bytes (64 * k) 64))

/-- An object of the module as tier C holds it: coded words of ciphertext (R30, R462). -/
def State.moduleWords (s : State) (object : BitVec 64) (bytes : List Byte) : List (BitVec 72) :=
  (s.moduleUnits object bytes).flatMap codedUnit

/-- The ciphertext of an object of the module, as bytes (Table 15-3). -/
def State.moduleText (s : State) (object : BitVec 64) (bytes : List Byte) : List Byte := (s.moduleUnits object bytes).flatMap bvBytes

/-- A key pair that the trust die takes up goes into every key slot of the memory controllers (R443, R465). -/
def State.holdKey (s : State) (key : Nat) (pair : BitVec 512) : State :=
  { s with trust := { s.trust with keys := tset s.trust.keys key pair }, mem := { s.mem with slots := tset s.mem.slots key pair } }

/-- A key is destroyed, in the trust die and in the key slots (R466). -/
def State.dropKey (s : State) (key : Nat) : State :=
  { s with trust := { s.trust with keys := tdel s.trust.keys key }, mem := { s.mem with slots := tdel s.mem.slots key } }

/-- The trust die loads the key slots anew (R463). -/
def State.loadSlots (s : State) : State := { s with mem := { s.mem with slots := s.trust.keys } }

end Sys2Proof.Machine
end

