-- ==== Sys2Proof/Machine/Flags.lean ====
section
/-! DEFINITION. The status and identity registers that are read from the state: the words of Tables 3-4, 9-13 to 9-17,
10-3, 11-8 and 12-6, and the writes that clear their W1C bits (R12). -/

namespace Sys2Proof.Machine

open Sys2Proof

def bit (b : Bool) : BitVec 1 := BitVec.ofBool b

/-- PORT_STAT of an agent's port (Table 9-17) and LINK_STAT of a Chrohar port (Table 3-4), which share a layout but for
SPARE_IN and HELD. -/
def Port.word (q : Port) (spares held : Bool) : BitVec 64 :=
  at' 64 0 (codeOfWidth q.width) ||| at' 64 3 (codeOfWidth q.instW) ||| at' 64 6 (codeOfWidth q.minW) |||
    at' 64 9 (stateCode q.state) ||| at' 64 12 q.laneOk |||
    (if spares then at' 64 20 (BitVec.ofNat 3 (min 4 q.spareIn)) else 0) ||| at' 64 23 (bit (q.width == 1)) |||
    at' 64 24 (bit q.nbrSeen) ||| at' 64 25 (bit q.idChanged) ||| (if held then at' 64 26 (bit q.held) else 0) |||
    at' 64 32 q.nbr.strap ||| at' 64 48 q.nbr.port ||| at' 64 56 q.nbr.kind

def Port.portStat (q : Port) : BitVec 64 := q.word false true

def Port.linkStat (q : Port) : BitVec 64 := q.word true false

/-- A write of PORT_STAT or LINK_STAT: only ID_CHANGED is W1C (R12). -/
def Port.clearStat (q : Port) (v : BitVec 64) : Port := if v.getLsbD 25 then { q with idChanged := false } else q

/-- AGENT_ID (Table 9-13). -/
def Agent.idWord (g : Agent) : BitVec 64 :=
  at' 64 0 0x02#8 ||| at' 64 8 (bit g.isSwitch) ||| at' 64 9 (if g.isSwitch then 15#4 else 7#4) |||
    at' 64 13 (if g.isSwitch then 0#3 else 4#3)

/-- A packet is held after a MGR_BUSY (Table 9-14). -/
def Agent.busyHold (g : Agent) : Bool := g.srcs.any fun f => f.copies.any fun c => c.busy.isSome

/-- AGENT_STAT (Table 9-14). -/
def Agent.statWord (g : Agent) : BitVec 64 :=
  at' 64 0 g.own ||| at' 64 18 (bit g.eid.isSome) ||| at' 64 19 (slotCode g.slot0.state) ||| at' 64 21 g.slot0.epoch |||
    at' 64 23 (slotCode g.slot1.state) ||| at' 64 25 g.slot1.epoch ||| at' 64 27 (bit g.assigned) |||
    at' 64 28 (bit g.fenced) ||| at' 64 29 (BitVec.ofNat 10 g.tenant) ||| at' 64 39 (field g.assignment 12 12) |||
    at' 64 51 (bit g.busyHold)

/-- LAP_STAT (Table 9-16). The mean of the offsets held is cut off toward zero at a sixteenth, and reads 0 while none is held:
the manual does not say how it is rounded (DESIGN CHOICE, log entry 165). -/
def LapSync.word (l : LapSync) : BitVec 64 :=
  at' 64 0 (lockCode l.lock) ||| at' 64 3 (BitVec.ofNat 5 l.depth) ||| at' 64 8 (BitVec.ofNat 4 (l.parent.getD 0)) |||
    at' 64 12 (bit l.parent.isSome) |||
    at' 64 13 (BitVec.ofInt 32 (if l.offsets.isEmpty then 0 else l.total.tdiv l.offsets.length))

/-- INT_STAT is W1C (Table 9-15). -/
def Rings.clearInts (r : Rings) (v : BitVec 64) : Rings := { r with intStat := r.intStat &&& ~~~v }

/-- FN_ID (Table 10-3). -/
def fnId (n : Nat) : BitVec 64 :=
  at' 64 0 (BitVec.ofNat 11 n) ||| at' 64 11 (bit (n != 0)) ||| at' 64 12 (BitVec.ofNat 10 (n - 1))

/-- FN_CTL (Table 10-3). -/
def Fn.ctl (f : Fn) : BitVec 64 := at' 64 0 (bit f.cmdEn) ||| at' 64 1 (bit f.evtEn)

/-- FN_STAT (Table 10-3); PAUSED is the same in every function (R405). -/
def Fn.stat (f : Fn) (paused : Bool) : BitVec 64 :=
  at' 64 0 (bit f.commitErr) ||| at' 64 1 f.commitField ||| at' 64 4 (bit f.enableErr) ||| at' 64 5 (bit f.dmaErr) |||
    at' 64 6 (bit paused)

/-- A write of FN_STAT clears the W1C bits written as 1 (Table 10-3). -/
def Fn.clearStat (f : Fn) (v : BitVec 64) : Fn :=
  { f with commitErr := f.commitErr && !v.getLsbD 0, enableErr := f.enableErr && !v.getLsbD 4
           dmaErr := f.dmaErr && !v.getLsbD 5 }

/-- SLOTS_BUSY (Table 10-2). -/
def Fn.slotsBusy (f : Fn) : BitVec 64 := f.busy.foldl (fun w i => w ||| (1#64 <<< i)) 0

/-- Unplanned partial resets in the last 10 minutes, by operating seconds (R441, Table 11-8). -/
def State.unplannedNow (s : State) : Nat := (s.boot.unplanned.filter fun t => s.opS < t + 600).length

/-- BRINGUP_STAT (Table 11-8). -/
def State.bringupStat (s : State) : BitVec 64 :=
  let b := s.boot
  at' 64 0 (BitVec.ofNat 4 b.wave) ||| at' 64 4 (bit b.halted) ||| at' 64 5 (BitVec.ofNat 3 b.haltRail) |||
    at' 64 8 (bit b.retried) ||| at' 64 9 (bit b.pllLock) ||| at' 64 10 (bit b.fuseOk) ||| at' 64 11 (bit b.linkTest) |||
    at' 64 12 (bit b.computeTest) ||| at' 64 13 (bit b.grade) ||| at' 64 14 (bit b.partialReset.isSome) |||
    at' 64 15 (BitVec.ofNat 3 (min 5 b.prPhase)) ||| at' 64 18 (BitVec.ofNat 2 b.prCause) |||
    at' 64 20 (BitVec.ofNat 4 (min 15 s.unplannedNow)) ||| at' 64 24 (bit b.computeHeld) ||| at' 64 32 b.restarts

/-- A mailbox request is queued or being signed (Table 12-6). -/
def Trust.mailPending (t : Trust) : Bool := t.quotes.any fun q => q.asker == .mailbox

/-- TD_STAT (Table 12-6). -/
def Trust.stat (t : Trust) : BitVec 64 :=
  at' 64 0 (bit t.done) ||| at' 64 1 (bit t.busy) ||| at' 64 2 (bit t.lenErr) ||| at' 64 3 (bit t.dmaErr) |||
    at' 64 4 (bit t.mailPending)

/-- A write of TD_STAT (R12). -/
def Trust.clearStat (t : Trust) (v : BitVec 64) : Trust :=
  { t with done := t.done && !v.getLsbD 0, busy := t.busy && !v.getLsbD 1, lenErr := t.lenErr && !v.getLsbD 2
           dmaErr := t.dmaErr && !v.getLsbD 3 }

end Sys2Proof.Machine
end

