-- ==== Sys2Proof/Machine/Operands.lean ====
section
/-! DEFINITION. The operand forms of the host commands: the command slot, its parameters by opcode, the sources that may
send it, the status codes and the answers (10_host_commands.md, Tables 10-5 to 10-8). -/

namespace Sys2Proof.Machine

open Sys2Proof

/-! ## Status codes (Table 10-7) -/

def sOk : BitVec 16 := 0x0000
def sBadArg : BitVec 16 := 0x0001
def sBusy : BitVec 16 := 0x0002
def sShortMemory : BitVec 16 := 0x0003
def sFenced : BitVec 16 := 0x0004
def sStale : BitVec 16 := 0x0005
def sDataError : BitVec 16 := 0x0006
def sTopology : BitVec 16 := 0x0007
def sNoRoute : BitVec 16 := 0x0008
def sTableFull : BitVec 16 := 0x0009
def sQuota : BitVec 16 := 0x000A
def sNoPlace : BitVec 16 := 0x000B
def sAborted : BitVec 16 := 0x000C
def sNotCached : BitVec 16 := 0x000D
def sDenied : BitVec 16 := 0x000E
def sHostError : BitVec 16 := 0x000F
def sBadCheck : BitVec 16 := 0x0010
def sBadSignature : BitVec 16 := 0x0011
def sVersion : BitVec 16 := 0x0012
def sNoIndex : BitVec 16 := 0x0013

/-! ## Answers -/

/-- What a command ends with: STATUS, ARG_OFFSET, DATA_BYTES, the RESULT bytes, and what goes into the data buffer. -/
structure Ans where
  status : BitVec 16
  arg    : BitVec 16
  bytes  : Nat
  result : List Byte
  data   : List Byte
deriving DecidableEq, Repr

/-- S_OK with a result. -/
def ok (result : List Byte) : Ans := { status := sOk, arg := 0xFFFF, bytes := 0, result := result, data := [] }

/-- A status without a failing field. -/
def fail (status : BitVec 16) : Ans := { status := status, arg := 0xFFFF, bytes := 0, result := [], data := [] }

/-- S_BAD_ARG that names the slot byte of the failing field. -/
def bad (off : Nat) : Ans := { status := sBadArg, arg := BitVec.ofNat 16 off, bytes := 0, result := [], data := [] }

/-- What a command's data buffer holds: in a session the data follow the slot in the same message (R394, R453). -/
def Cmd.buffer (c : Cmd) (data : List Byte) : List Byte :=
  match c.src with
  | .session _ => c.data
  | .fn _ => data

/-- S_OK with a result and data for the buffer; a buffer shorter than the data takes nothing, and DATA_BYTES tells the
length needed (R394). -/
def okData (c : Cmd) (result data : List Byte) : Ans :=
  if c.dataLen < data.length then { bad 24 with bytes := data.length }
  else { ok result with bytes := data.length, data := data }

/-! ## The slot -/

/-- The bytes of a slot's parameters by slot byte offset (32 to 255). -/
def Cmd.num (c : Cmd) (off n : Nat) : Nat := natAt c.param (off - 32) n

def Cmd.bytes (c : Cmd) (off n : Nat) : List Byte := bytesAt c.param (off - 32) n

/-- Bit `i` of a parameter byte. -/
def Cmd.bit (c : Cmd) (off i : Nat) : Bool := Nat.testBit (c.num off 1) i

/-- A 32-byte parameter as a hash. -/
def Cmd.hash (c : Cmd) (off : Nat) : BitVec 256 := BitVec.ofNat 256 (c.num off 32)

def Cmd.ordered (c : Cmd) : Bool := c.flags.getLsbD 0

def Cmd.noIrq (c : Cmd) : Bool := c.flags.getLsbD 1

/-- The sources that Table 10-8 marks: V, P, M (R399; an unmarked source gets S_DENIED, log entry 36). -/
def sourcesOf (op : BitVec 16) : Option (Bool × Bool × Bool) :=
  match op.toNat with
  | 0x0101 => some (true, true, true)
  | 0x0102 | 0x0103 | 0x0104 | 0x0105 => some (false, true, true)
  | 0x0201 | 0x0202 | 0x0203 | 0x0204 | 0x0205 | 0x0206 | 0x0207 | 0x0208 | 0x0209 => some (false, true, true)
  | 0x0301 | 0x0302 | 0x0303 => some (false, true, true)
  | 0x0401 | 0x0402 | 0x0403 | 0x0404 | 0x0405 | 0x0406 => some (true, true, false)
  | 0x0407 => some (false, true, true)
  | 0x0408 => some (true, true, true)
  | 0x0501 | 0x0502 | 0x0503 | 0x0504 | 0x0505 | 0x0506 => some (true, true, false)
  | 0x0601 | 0x0602 | 0x0603 | 0x0604 | 0x0605 => some (true, true, false)
  | 0x0701 => some (true, true, true)
  | 0x0702 | 0x0703 => some (false, true, true)
  | 0x0801 | 0x0802 | 0x0803 => some (true, true, true)
  | 0x0804 => some (false, true, true)
  | 0x0805 => some (false, false, true)
  | 0x0901 | 0x0903 | 0x0904 => some (false, false, true)
  | 0x0902 => some (false, true, true)
  | 0x0A01 | 0x0A02 => some (false, true, true)
  | 0x0A03 => some (false, false, true)
  | 0x0B01 | 0x0B02 => some (false, true, true)
  | 0x0B03 | 0x0B04 => some (false, false, true)
  | _ => none

/-- The named parameter fields of an opcode (Table 10-8), as slot byte offset and bits; every other parameter bit is
reserved (R389, R399). SEC_QUOTE ignores TENANT on a VF. -/
def fieldsOf (op : BitVec 16) (vf : Bool) : List (Nat × Nat) :=
  match op.toNat with
  | 0x0103 | 0x0105 | 0x0203 => [(32, 1)]
  | 0x0201 | 0x0202 | 0x0401 => [(32, 64)]
  | 0x0205 => [(32, 16), (34, 1)]
  | 0x0206 | 0x0208 | 0x0209 => [(32, 16)]
  | 0x0207 | 0x0302 | 0x0702 => [(32, 32)]
  | 0x0402 | 0x0504 => [(32, 12), (34, 1)]
  | 0x0403 | 0x0404 => [(32, 12), (36, 16)]
  | 0x0405 | 0x0503 | 0x0605 => [(32, 12)]
  | 0x0406 | 0x0408 | 0x0505 | 0x0601 | 0x0802 | 0x0803 => [(32, 10)]
  | 0x0407 => [(32, 10), (40, 64)]
  | 0x0501 => [(32, 12), (34, 2), (35, 8), (40, 64), (48, 64), (56, 64)]
  | 0x0502 => [(32, 12), (34, 2), (35, 8), (40, 64), (48, 64), (56, 64), (64, 256)]
  | 0x0506 => [(32, 10), (64, 256)]
  | 0x0602 => [(32, 10), (56, 64)]
  | 0x0603 => [(32, 12), (34, 8), (40, 64), (48, 64)]
  | 0x0604 => [(32, 12), (34, 8), (40, 64), (48, 64), (56, 64)]
  | 0x0703 => [(32, 8), (33, 8)]
  | 0x0801 => [(32, 256), (64, if vf then 16 else 10)]
  | 0x0901 => [(32, 32), (36, 32), (40, 32), (44, 32), (64, 256)]
  | 0x0903 | 0x0904 => [(32, 32)]
  | 0x0A02 => [(32, 8), (40, 64), (48, 32)]
  | 0x0A03 => [(32, 2)]
  | 0x0B03 | 0x0B04 => [(32, 1)]
  | _ => []

/-- The bits of a slot byte that some field names. -/
def namedBits (fs : List (Nat × Nat)) (off : Nat) : Byte :=
  fs.foldl (fun m f =>
    if off < f.1 ∨ f.2 ≤ 8 * (off - f.1) then m
    else m ||| BitVec.ofNat 8 (2 ^ (min 8 (f.2 - 8 * (off - f.1))) - 1)) 0

/-- The first slot byte with a reserved bit set (R11): a FLAGS bit, bytes 7 to 15, or a parameter bit. -/
def Cmd.reservedAt (c : Cmd) (vf : Bool) : Option Nat :=
  if 4 ≤ c.flags.toNat then some 6
  else if c.rsv then some 7
  else
    ((List.range 224).find? fun i =>
      ((c.param[i]?).getD 0) &&& ~~~(namedBits (fieldsOf c.opcode vf) (32 + i)) != 0).map (32 + ·)

/-- Opcodes that read a data buffer; a length of zero ends them with S_BAD_ARG (R404). -/
def readsBuffer (op : BitVec 16) : Bool := [0x0105, 0x0201, 0x0501, 0x0603].contains op.toNat

/-- Opcodes behind a journal record (R438): heat, topology, tenant, plan and cache changes, manager fences, service
states and epoch switches. -/
def journaledOp (op : BitVec 16) : Bool :=
  [0x0204, 0x0205, 0x0206, 0x0301, 0x0401, 0x0402, 0x0403, 0x0404, 0x0407, 0x0501, 0x0502, 0x0503, 0x0504, 0x0506, 0x0602,
    0x0603, 0x0702].contains op.toNat

/-- What a halt at wave 5 to 8 leaves served (Table 11-5): DEV_IDENTIFY, DEV_STATUS, and the recorder and firmware
groups. -/
def servedWhenHalted (op : BitVec 16) : Bool :=
  op == 0x0101 || op == 0x0102 || op.toNat / 256 == 0x0A || op.toNat / 256 == 0x09

/-- A VF acts for one tenant (R382); PF0 and a session for any (R383). -/
def Source.mayNameTenant (src : Source) (t : Nat) : Bool :=
  match src with
  | .fn 0 => true
  | .fn n => n == t + 1
  | .session _ => true

def Source.isVf (src : Source) : Bool :=
  match src with
  | .fn 0 => false
  | .fn _ => true
  | .session _ => false

end Sys2Proof.Machine
end

