-- ==== Sys2Proof/Machine/HostIf.lean ====
section
/-! DEFINITION. The host interface: function registers, the notice of command slots, replies, MSI-X and events
(10_host_commands.md R381 to R397, R405; 16_module_signals_electrical.md R551), and what every command starts and ends
with. -/

namespace Sys2Proof.Machine

open Sys2Proof

/-! ## Functions -/

/-- A function; an absent VF is at reset. -/
def State.fn (s : State) (n : Nat) : Fn := (tget s.hif.fns n).getD (Fn.reset false)

def State.setFn (s : State) (n : Nat) (f : Fn) : State := { s with hif := { s.hif with fns := tset s.hif.fns n f } }

/-- Change a function that is present. -/
def State.modFn (s : State) (n : Nat) (g : Fn → Fn) : State :=
  { s with hif := { s.hif with fns := tmod s.hif.fns n g } }

/-- The PCIe port answers: PERST_N is not asserted, wave 1 has brought up P0, and the module holds the grant (R516, R551,
Table 11-4). -/
def State.pcieUp (s : State) : Bool := !s.boot.perst && 1 ≤ s.boot.wave && s.ember.grant

/-- The host reaches a function's registers. -/
def State.reaches (s : State) (n : Nat) : Bool := s.pcieUp && (tget s.hif.fns n).isSome

/-- Hub service runs: the manager is ready, and neither a pause nor COMPUTE_HELD stands (R390, R405, R441). -/
def State.service (s : State) : Bool := s.boot.mgrReady && !s.boot.paused && !s.boot.computeHeld

/-- Phase 5 of a partial reset: the manager restores and reconciles (R439). -/
def State.reconciling (s : State) : Bool :=
  s.boot.mgrReady && !s.boot.computeHeld && s.boot.partialReset.any fun p => p.phase == 5

/-- The manager is at work: in service, or reconciling. -/
def State.mgrRuns (s : State) : Bool := s.service || s.reconciling

/-- Whether the next access to host memory fails on PCIe: the world outside decides (log entry 33), and the link of a module
without the grant is idle (R516). -/
def State.hostFails (s : State) : Bool × State := (!s.ember.grant || Config.hostFails s.free, { s with free := s.free + 1 })

/-! ## MSI-X -/

def Fn.irqGap (f : Fn) : Nat := (field f.live.eventCfg 4 8).toNat

def Fn.irq (f : Fn) (vector : Nat) : Irq := if vector = 0 then f.irq0 else f.irq1

def Fn.setIrq (f : Fn) (vector : Nat) (q : Irq) : Fn := if vector = 0 then { f with irq0 := q } else { f with irq1 := q }

/-- A message is due on a vector: at most one in each IRQ_GAP_US interval, and at once with IRQ_GAP_US 0 (R396). A module without
the grant sends none (R516). -/
def State.interrupt (s : State) (n vector : Nat) : State :=
  let f := s.fn n
  if !s.ember.grant then s
  else if f.irqGap = 0 then s.emit [.msix n vector]
  else if (f.irq vector).gapOpen then s.modFn n fun f => f.setIrq vector { gapOpen := true, due := true }
  else (s.modFn n fun f => f.setIrq vector { gapOpen := true, due := false }).emit [.msix n vector]

/-- IRQ_GAP_EXPIRE (R396): a message at the end of the interval covers everything written during it, and begins the
next interval. -/
def execIrqGapExpire (n vector : Nat) (s : State) : Host.Outcome State Fault Refusal :=
  .next (
    let q := (s.fn n).irq vector
    if !q.gapOpen then s
    else if q.due && s.ember.grant then
      (s.modFn n fun f => f.setIrq vector { gapOpen := true, due := false }).emit [.msix n vector]
    else s.modFn n fun f => f.setIrq vector { gapOpen := false, due := false })

/-! ## Events -/

/-- Entries of a function's event ring (EVENT_LOG2, Table 10-2). -/
def Fn.ring (f : Fn) : Nat := 2 ^ (field f.live.eventCfg 0 4).toNat

/-- The ring is full when EVENT_TAIL + 1 equals EVENT_HEAD modulo its size (R397). -/
def Fn.full (f : Fn) : Bool := (f.evTail + 1) % f.ring == f.evHead % f.ring

/-- An event record, PHASE apart (Table 10-7a). -/
structure Event where
  code   : Nat
  heat   : Nat
  tenant : Nat
  step   : Nat
  detail : List Byte
deriving DecidableEq, Repr

/-- A record as bytes. -/
def eventBytes (e : Event) (phase : Bool) : List Byte :=
  leBytes 2 e.code ++ leBytes 1 (if phase then 1 else 0) ++ leBytes 1 0 ++ leBytes 2 e.heat ++ leBytes 2 e.tenant ++
    leBytes 8 e.step ++ bytesAt e.detail 0 16

/-- The header of a session message (Table 12-3): its TYPE, its count in its direction, and the bytes of its body. -/
def sessHeader (type counter len : Nat) : List Byte :=
  leBytes 4 0x48534D4C ++ leBytes 1 type ++ leBytes 3 0 ++ leBytes 8 counter ++ leBytes 4 len ++ leBytes 12 0

/-- A message goes out in a session: its count in that direction advances (Table 12-3). -/
def Session.sent (x : Session) : Session := { x with outCount := x.outCount + 1 }

/-- The frame of a message on the tongs port; none on a management port (R556). -/
def tongsFrame (tongs : Bool) (message : List Byte) : List Emission :=
  if tongs then [.tongsFrame message (crc32c message)] else []

/-- A protected message of the module: body and tag under the key of its direction, with the header as associated data (R451,
R452). -/
def Session.message (x : Session) (type : Nat) (body : List Byte) : List Emission :=
  let h := sessHeader type x.outCount body.length
  let wire := Config.seal x.outKey x.outCount h body
  [.sessionMsg x.id h body wire] ++ tongsFrame x.tongs (h ++ wire)

/-- Change the sessions that fit. -/
def Trust.onSessions (t : Trust) (p : Session → Bool) (f : Session → Session) : Trust :=
  { t with sessions := t.sessions.map fun x => if p x then f x else x }

/-- The module drives its management ports: it holds the grant (R516), or still has the RED_TAKEOVER reply of its successor to
deliver (R534). -/
def State.drivesMgmt (s : State) : Bool := s.ember.grant || s.ember.taking.isSome

/-- A session's port carries messages: the tongs port does in either role (R556), a management port while it is driven. -/
def State.carries (s : State) (x : Session) : Bool := x.tongs || s.drivesMgmt

/-- Send one message in every session that fits and whose port carries it. -/
def State.sendSessions (s : State) (p : Session → Bool) (type : Nat) (body : List Byte) : State :=
  let q (x : Session) : Bool := p x && s.carries x
  ({ s with trust := s.trust.onSessions q Session.sent } : State).emit
    ((s.trust.sessions.filter q).flatMap fun x => x.message type body)

/-- A session that set EVENTS receives each record that PF0's ring receives, as an EVENT message (R453). -/
def State.postSessions (s : State) (n : Nat) (record : List Byte) : State :=
  if n = 0 then s.sendSessions (fun x => x.opened && x.events) 6 record else s

/-- Write one record at EVENT_TAIL and advance it; PHASE changes with each pass (R397). A write that fails on PCIe sets
HOST_DMA_ERR (Table 10-3); EVENT_TAIL advances and vector 1 is due all the same (DESIGN CHOICE, log entry 176). -/
def State.writeEvent (s : State) (n : Nat) (e : Event) : State :=
  let f := s.fn n
  let w := (s.postSessions n (eventBytes e f.phase)).hostFails
  let next := (f.evTail + 1) % f.ring
  let s1 := w.2.modFn n fun f =>
    { f with evTail := next, phase := if next = 0 then !f.phase else f.phase, dmaErr := f.dmaErr || w.1 }
  let s2 := if w.1 then s1 else s1.emit [.event n (f.live.eventBase + BitVec.ofNat 64 (32 * f.evTail)) (eventBytes e f.phase)]
  s2.interrupt n 1

/-- One EVENTS_LOST record goes before any later event once there is space (R397). -/
def State.writeLost (s : State) (n : Nat) : State :=
  let f := s.fn n
  if f.lostSince = 0 ∨ f.full ∨ !f.evtEn then s
  else
    (s.writeEvent n { code := 0x0008, heat := 0, tenant := 0, step := 0, detail := leBytes 4 f.lostSince }).modFn n
      fun f => { f with lostSince := 0 }

/-- Opcodes whose effect posts an event of a code (Table 10-7b): a carve or release CAPACITY, a discovery FABRIC_STATE, a hold or
readmission ENTRY_STATE, and a partial reset or activation its alarm. -/
def causes (op : BitVec 16) (code : Nat) : Bool :=
  match code with
  | 0x0001 => op == 0x0401 || op == 0x0402
  | 0x0101 => op == 0x0204
  | 0x0102 => op == 0x0205 || op == 0x0206
  | 0x0103 => op == 0x0103 || op == 0x0903
  | _ => false

/-- An event comes of a command that a function had sent before its reset: it is discarded for that function (R384). Which events
come of which command is DEDUCED from Table 10-7b (log entry 180). -/
def State.discards (s : State) (n code : Nat) : Bool :=
  s.hif.cmds.any fun c => c.mute && c.src == .fn n && causes c.opcode code

/-- Post an event to a function's ring: an absent VF's is dropped and counted in DEV_STATUS (R384); EVT_EN 0 writes
none; a full ring drops it and counts it in EVT_LOST (R397). -/
def State.post (s : State) (n : Nat) (e : Event) : State :=
  let lost (s : State) : State := s.tally 0x0034 (BitVec.ofNat 16 n) 1
  if (tget s.hif.fns n).isNone then lost { s with hif := { s.hif with dropped := s.hif.dropped + 1 } }
  else if !(s.fn n).evtEn || s.discards n e.code then s
  else
    let s := s.writeLost n
    if (s.fn n).full then lost (s.modFn n fun f => { f with evtLost := f.evtLost + 1, lostSince := f.lostSince + 1 })
    else s.writeEvent n e

/-- An event for PF0, and with it for every session that hears PF0's events. -/
def State.postPf (s : State) (e : Event) : State := s.post 0 e

/-- An event of a heat goes to its tenant's VF, and a copy to PF0 (R397). -/
def State.postHeat (s : State) (e : Event) : State := (s.post (e.tenant + 1) e).postPf e

/-- A DEVICE_ALARM event, recorded as a notice with bytes 16 to 31 of the event (R430, Table 14-4). -/
def State.alarm (s : State) (code : Nat) (detail : List Byte) : State :=
  let d := leBytes 2 code ++ detail
  (s.note (BitVec.ofNat 16 code) 0 d).postPf { code := 0x0103, heat := 0, tenant := 0, step := 0, detail := d }

/-- A FABRIC_STATE event at a change of FABRIC_STATE (Table 10-7b). -/
def State.setFabric (s : State) (v : Nat) : State :=
  if s.mgr.fabricState = v then s
  else
    ({ s with mgr := { s.mgr with fabricState := v } } : State).postPf
      { code := 0x0101, heat := 0, tenant := 0, step := 0, detail := leBytes 1 v }

/-! ## Replies -/

/-- The 256 bytes of a reply (Table 10-6). -/
def replyBytes (c : Cmd) (a : Ans) (lap : BitVec 64) : List Byte :=
  bvBytes c.seq ++ bvBytes c.opcode ++ bvBytes a.status ++ bvBytes a.arg ++ leBytes 1 c.slot ++ leBytes 5 0 ++ bvBytes lap ++
    leBytes 8 a.bytes ++ bytesAt a.result 0 224

/-- Where a function's replies stand: slot `i` at REPLY_BASE + 256 × i (R395). -/
def Fn.replyAt (f : Fn) (slot : Nat) : BitVec 64 := f.live.replyBase + BitVec.ofNat 64 (256 * slot)

/-- The two writes of a reply: bytes 4 to 255, and then bytes 0 to 3 (R395). -/
def replyWrites (n : Nat) (addr : BitVec 64) (bytes : List Byte) : List Emission :=
  [.reply n (addr + 4) (bytes.drop 4), .reply n addr (bytes.take 4)]

/-- Write a function's reply (R395, R396): data first, then the reply, then MSI-X vector 0 unless NO_IRQ. A PCIe error on
the data ends the command with S_HOST_ERROR (R394); one on the reply sets HOST_DMA_ERR (Table 10-11). -/
def State.writeReply (s : State) (n : Nat) (c : Cmd) (a : Ans) : State :=
  let d := if a.data.isEmpty then (false, s) else s.hostFails
  let a := if d.1 then { fail sHostError with result := [] } else a
  let s := if d.1 || a.data.isEmpty then d.2 else d.2.emit [.dma c.dataAddr a.data]
  let w := s.hostFails
  if w.1 then w.2.modFn n fun f => { f with dmaErr := true }
  else
    let s := w.2.emit (replyWrites n ((s.fn n).replyAt c.slot) (replyBytes c a s.lap))
    if c.noIrq then s else s.interrupt n 0

/-- A reply in a session, with its data in the same message (R394, R453); none in a session that has closed. -/
def State.sessionReply (s : State) (i : Nat) (c : Cmd) (a : Ans) : State :=
  s.sendSessions (fun x => x.id == i && x.opened) 5 (replyBytes c a s.lap ++ a.data)

/-! ## Notice -/

/-- The bytes of a slot in a function's window. -/
def Fn.slotBytes (f : Fn) (slot : Nat) : List Byte :=
  (List.range 256).map fun i => (tget f.window (256 * slot + i)).getD 0

def Fn.slotSeq (f : Fn) (slot : Nat) : Seq := BitVec.ofNat 32 (natAt (f.slotBytes slot) 0 4)

/-- The copy of a slot (R391, Table 10-5). -/
def slotCmd (id : Nat) (src : Source) (slot : Nat) (b : List Byte) : Cmd :=
  { id := id, src := src, slot := slot, seq := BitVec.ofNat 32 (natAt b 0 4), opcode := BitVec.ofNat 16 (natAt b 4 2)
    flags := BitVec.ofNat 8 (natAt b 6 1), rsv := (bytesAt b 7 9).any (· != 0)
    dataAddr := BitVec.ofNat 64 (natAt b 16 8), dataLen := natAt b 24 8, param := bytesAt b 32 224
    started := false, mute := false }

/-- Accept a command: it joins the others in order of acceptance (R392). -/
def State.accept (s : State) (c : Cmd) : State :=
  { s with hif := { s.hif with cmds := s.hif.cmds ++ [c], nextId := s.hif.nextId + 1 } }

/-- Notice one slot that is not busy (R390, R391). -/
def State.notice (s : State) (n slot : Nat) : State :=
  let f := s.fn n
  let last := (tget f.lastSeq slot).getD 0
  let seq := f.slotSeq slot
  if seq = last then s
  else
    let c := slotCmd s.hif.nextId (.fn n) slot (f.slotBytes slot)
    let s := s.modFn n fun f => { f with lastSeq := tset f.lastSeq slot seq }
    if seq = last + 1 then (s.modFn n fun f => { f with busy := sortNat (slot :: f.busy) }).accept c
    else ({ s with hif := { s.hif with nextId := s.hif.nextId + 1 } } : State).writeReply n c (bad 0)

/-- A command of group 0x09 that PF0 sends is noticed during a pause and while COMPUTE_HELD stands (R476). -/
def State.servesSlot (s : State) (n slot : Nat) : Bool :=
  s.service || (n == 0 && (s.boot.mgrReady || s.boot.computeHeld) && natAt ((s.fn n).slotBytes slot) 5 1 == 0x09)

/-- A write has touched the SEQ field of a slot: it is noticed now, or once the slot has replied or service returns
(R390, R391, R405). -/
def State.touch (s : State) (n slot : Nat) : State :=
  let f := s.fn n
  if !f.cmdEn then s
  else if f.busy.contains slot || !s.servesSlot n slot then
    s.modFn n fun f => if f.later.contains slot then f else { f with later := sortNat (slot :: f.later) }
  else s.notice n slot

/-- Notice what has waited and is served now, in ascending function number and slot index (R392, R405, R476). -/
def State.noticeLater (s : State) : State :=
  (s.hif.fns.flatMap fun e => e.2.later.map fun slot => (e.1, slot)).foldl (fun s x =>
    if (s.fn x.1).busy.contains x.2 || !s.servesSlot x.1 x.2 then s
    else (s.modFn x.1 fun f => { f with later := f.later.filter (· != x.2) }).notice x.1 x.2) s

/-! ## Commands from start to reply -/

def State.cmd (s : State) (id : Nat) : Option Cmd := s.hif.cmds.find? fun c => c.id == id

def State.dropCmd (s : State) (id : Nat) : State :=
  { s with hif := { s.hif with cmds := s.hif.cmds.filter fun c => c.id != id } }

/-- End a command with its reply: its slot is busy no longer, and a SEQ written meanwhile is noticed (R391). Nothing
leaves for a function that was reset since (R384). -/
def State.reply (s : State) (id : Nat) (a : Ans) : State :=
  match s.cmd id with
  | none => s
  | some c =>
    let s := s.dropCmd id
    if c.mute then s
    else
      match c.src with
      | .session i => s.sessionReply i c a
      | .fn n =>
        let s := (s.writeReply n c a).modFn n fun f => { f with busy := f.busy.filter (· != c.slot) }
        if (s.fn n).later.contains c.slot && s.servesSlot n c.slot then
          (s.modFn n fun f => { f with later := f.later.filter (· != c.slot) }).notice n c.slot
        else s

/-- The active streams to a paired standby that is not LOST (R524). -/
def Ember.streams (e : Ember) : Bool := e.active && e.paired && e.state != .none && e.state != .lost

/-- A packet for the ember links; SEQ, its check and the counts of its link are given when it is sent. -/
def emberPkt (type : BitVec 8) (object offset : BitVec 64) (payload : List Byte) : EmberPkt :=
  { type := type, last := true, seq := 0, object := object, offset := offset, srcUnit := 0, payload := payload, crc := 0, sent := 0
    freed := 0 }

/-- An object of the ember links in pieces of 4,096 bytes, in order; an empty one is one empty packet (Tables 15-2, 15-3). -/
def emberPieces (type : BitVec 8) (object : BitVec 64) (bytes : List Byte) : List EmberPkt :=
  let n := max 1 ((bytes.length + 4095) / 4096)
  (List.range n).map fun i =>
    { (emberPkt type object (BitVec.ofNat 64 (4096 * i)) ((bytes.drop (4096 * i)).take 4096)) with
      last := decide (i + 1 = n) }

/-- The journal record of a change of the manager's model: it is written to tier C, and streamed at once to a paired standby
(R438, R524). -/
def State.journal (s : State) : State :=
  let e := s.ember
  let record := Config.journalBytes e.imageNo e.journalIx
  let words := s.moduleWords e.imageNo record
  let more := if e.streams then [emberPkt 0x02 e.imageNo e.journalIx record] else []
  { s with ember := { e with
    journalIx := e.journalIx + 1, ownJournal := e.ownJournal ++ [words], urgent := e.urgent ++ more } }

/-- End a command: its journal record is written first (R438), and the reply waits until a paired standby has acknowledged that
(R524). -/
def State.finish (s : State) (id : Nat) (a : Ans) : State :=
  match s.cmd id with
  | none => s
  | some c =>
    if a.status = sOk ∧ journaledOp c.opcode ∧ a.data.isEmpty then
      let ix := s.ember.journalIx
      let s := s.journal
      if !s.ember.streams then s.reply id a else
      { s with ember := { s.ember with waits := s.ember.waits ++ [.cmd s.ember.imageNo ix id a.bytes a.result] } }
    else s.reply id a

/-- A command that P0 and the trust die carry out, whatever hub service does: a SEC_QUOTE in a session (R457), and those of
the firmware and recorder groups (R476, Table 14-5). -/
def Cmd.atTrustDie (c : Cmd) : Bool :=
  (c.opcode == 0x0801 && (c.src matches .session _)) || c.opcode.toNat / 256 == 0x09 || c.opcode.toNat / 256 == 0x0A

/-- Commands that act in order of acceptance whoever sent them: those of the heat queue with TENANT_SET (R192, R193, R392), and
CACHE_DROP with PLAN_LOAD_CACHED (Table 10-11). -/
def orderClass (op : BitVec 16) : Nat :=
  if op == 0x0401 || op == 0x0402 || op == 0x0403 || op == 0x0404 || op == 0x0407 then 1
  else if op == 0x0502 || op == 0x0506 then 2 else 0

/-- A command of the same class was accepted earlier and has not started. -/
def State.outOfTurn (s : State) (c : Cmd) : Bool :=
  orderClass c.opcode != 0 && s.hif.cmds.any fun d => d.id < c.id && orderClass d.opcode == orderClass c.opcode && !d.started

/-- The earlier commands of a command's source that it comes after. What P0 and the trust die carry out waits for no command of hub
service, which may stand still (R457, R476). -/
def State.before (s : State) (c : Cmd) : List Cmd :=
  s.hif.cmds.filter fun d => d.src == c.src && d.id < c.id && (s.service || !c.atTrustDie || d.atTrustDie)

/-- Whether a command may start: commands of one source start in order of acceptance, an ORDERED one after every earlier
one has replied (R393), and none while service is paused (R405); a second RED_TAKEOVER is answered during the first (Table 15-6). -/
def State.mayStart (s : State) (c : Cmd) : Bool :=
  let earlier := s.before c
  !c.started && earlier.all (·.started) && (!c.ordered || earlier.isEmpty) && !s.outOfTurn c &&
    (s.service || c.atTrustDie || (c.opcode == 0x0B03 && s.ember.taking.isSome))

/-- A claim session runs only DEV_IDENTIFY and SEC_CRED_SET (R456). -/
def State.claimOnly (s : State) (i : Nat) : Bool :=
  !(s.trust.sessions.any fun x => x.id == i && x.cred.isSome)

/-- The source may send the opcode (R382, R383, R456). -/
def State.allowed (s : State) (c : Cmd) : Bool :=
  match sourcesOf c.opcode, c.src with
  | none, _ => true
  | some (v, p, _), .fn n => if n = 0 then p else v
  | some (_, _, m), .session i => m && (!s.claimOnly i || c.opcode == 0x0101 || c.opcode == 0x0805)

/-- What every command is checked for before its own meaning (R11, R383, R394, R404, Table 11-5). -/
def State.precheck (s : State) (c : Cmd) : Option Ans :=
  if !s.allowed c then some (fail sDenied)
  else
    match c.reservedAt c.src.isVf with
    | some off => some (bad off)
    | none =>
      if s.boot.halted && !servedWhenHalted c.opcode && !c.atTrustDie then some (fail sBusy)
      else if readsBuffer c.opcode && c.dataLen == 0 then some (bad 24)
      else none

def Cmd.start (c : Cmd) : Cmd := { c with started := true }

def State.markStarted (s : State) (id : Nat) : State :=
  { s with hif := { s.hif with cmds := s.hif.cmds.map fun c => if c.id = id then c.start else c } }

/-- Run a command of an opcode: its body answers now, or leaves it to reply later. A data buffer that it reads comes over
PCIe first, and an error there leaves it without effect (R394). -/
def State.run (s : State) (op : BitVec 16) (id : Nat) (body : Cmd → State → State × Option Ans) : State :=
  match s.cmd id with
  | none => s
  | some c =>
    if c.opcode != op || !s.mayStart c then s
    else
      let s := s.markStarted id
      match s.precheck c with
      | some a => s.reply id a
      | none =>
        let r := if readsBuffer op && (c.src matches .fn _) then s.hostFails else (false, s)
        if r.1 then r.2.reply id (fail sHostError)
        else
          let b := body c r.2
          match b.2 with
          | some a => b.1.finish id a
          | none => b.1

/-- A command whose body only answers. -/
def State.ask (s : State) (op : BitVec 16) (id : Nat) (body : Cmd → State → Ans) : State :=
  s.run op id fun c s => (s, some (body c s))

/-- UNLISTED_OPCODE (R399): a reserved encoding ends with S_BAD_ARG; ARG_OFFSET names the OPCODE field. -/
def execUnlistedOpcode (id : Nat) (s : State) : Host.Outcome State Fault Refusal :=
  .next (match s.cmd id with
    | some c => if (sourcesOf c.opcode).isNone && s.mayStart c then (s.markStarted id).reply id (bad 4) else s
    | none => s)

/-! ## Function registers -/

/-- The shadows of a function pass a check (R386): 1 REPLY_BASE, 2 EVENT_BASE, 3 EVENT_CFG, 4 overlap, none when all
hold. The order is that of R386: EVENT_LOG2 is judged with EVENT_BASE. -/
def FnCfg.fault (k : FnCfg) : Option (BitVec 3) :=
  let log2 := (field k.eventCfg 0 4).toNat
  let size := 32 * 2 ^ log2
  let r := k.replyBase.toNat
  let e := k.eventBase.toNat
  if r = 0 ∨ r % 16384 ≠ 0 then some 1
  else if log2 < 6 ∨ 14 < log2 then some 3
  else if e = 0 ∨ e % size ≠ 0 then some 2
  else if r < e + size ∧ e < r + 16384 then some 4
  else none

/-- A commit of the shadowed registers (R386). -/
def Fn.commit (f : Fn) (v : BitVec 64) : Fn :=
  if !v.getLsbD 0 then f
  else
    match f.shadow.fault with
    | some k => { f with commitErr := true, commitField := k }
    | none => { f with live := f.shadow, committed := true, evHead := 0, evTail := 0, phase := true }

/-- CFG_COMMIT (R386). -/
def execCfgCommit (n : Nat) (v : BitVec 64) (s : State) : Host.Outcome State Fault Refusal :=
  .next (if s.reaches n then s.modFn n fun f => f.commit v else s)

/-- A write of CMD_EN (R387, R392): enabling notices every slot whose SEQ differs from LAST_SEQ. -/
def State.writeCmdEn (s : State) (n : Nat) (v : Bool) : State :=
  if !v then s.modFn n fun f => { f with cmdEn := false }
  else if !(s.fn n).committed then s.modFn n fun f => { f with enableErr := true }
  else if (s.fn n).cmdEn then s
  else
    let s := s.modFn n fun f => { f with cmdEn := true }
    (List.range 64).foldl (fun s slot =>
      if (s.fn n).slotSeq slot = (tget (s.fn n).lastSeq slot).getD 0 then s else s.touch n slot) s

/-- CMD_EN_WRITE (R387). -/
def execCmdEnWrite (n : Nat) (v : Bool) (s : State) : Host.Outcome State Fault Refusal :=
  .next (if s.reaches n then s.writeCmdEn n v else s)

/-- A write of EVT_EN (R387). -/
def Fn.writeEvtEn (f : Fn) (v : Bool) : Fn :=
  if !v then { f with evtEn := false } else if f.committed then { f with evtEn := true } else { f with enableErr := true }

/-- EVT_EN_WRITE (R387). -/
def execEvtEnWrite (n : Nat) (v : Bool) (s : State) : Host.Outcome State Fault Refusal :=
  .next (if s.reaches n then s.modFn n fun f => f.writeEvtEn v else s)

/-- A write of EVENT_HEAD (R397): ring space returns, and an EVENTS_LOST record goes first. -/
def State.writeEventHead (s : State) (n : Nat) (v : BitVec 64) : State :=
  (s.modFn n fun f => { f with evHead := v.toNat }).writeLost n

/-- EVENT_HEAD_WRITE (R397). -/
def execEventHeadWrite (n : Nat) (v : BitVec 64) (s : State) : Host.Outcome State Fault Refusal :=
  .next (if s.reaches n then s.writeEventHead n v else s)

/-- EVT_LOST_READ (R12): the count is returned and cleared. -/
def execEvtLostRead (n : Nat) (s : State) : Host.Outcome State Fault Refusal :=
  .next (if s.reaches n then
    (s.modFn n fun f => { f with evtLost := 0 }).emit [.regRead (s.fn n).evtLost]
  else s)

/-! ## Resets of the PCIe side -/

/-- A function-level reset of one function (R384): registers, window and sequence records return to reset, and the
commands that it has under way lose their replies. -/
def State.resetFn (s : State) (n : Nat) : State :=
  if (tget s.hif.fns n).isNone then s
  else
    let s := s.setFn n (Fn.reset true)
    { s with hif := { s.hif with cmds := s.hif.cmds.map fun c => if c.src = .fn n then { c with mute := true } else c } }

/-- FUNCTION_LEVEL_RESET (R384). -/
def execFunctionLevelReset (n : Nat) (s : State) : Host.Outcome State Fault Refusal := .next (s.resetFn n)

/-- PERST_N (R551): the PCIe port resets, and every function is reset; nothing else is. -/
def execPerstN (s : State) : Host.Outcome State Fault Refusal :=
  .next (
    let s := (tkeys s.hif.fns).foldl State.resetFn s
    { s with boot := { s.boot with perst := true } })

/-- PERST_N_DEASSERT (R551). -/
def execPerstNDeassert (s : State) : Host.Outcome State Fault Refusal :=
  .next { s with boot := { s.boot with perst := false } }

/-- VF Enable and NumVFs (R381, R384): VFs 1 to `count` are present; a VF that goes away is as after a function-level
reset, and one that comes is at reset (log entry 34). Heats stay open. -/
def State.setVfs (s : State) (enable : Bool) (count : Nat) : State :=
  let n := if enable then min count 1024 else 0
  let s := ((tkeys s.hif.fns).filter fun i => n < i).foldl State.resetFn s
  let kept := s.hif.fns.filter fun e => e.1 ≤ n
  { s with hif := { s.hif with fns := ((List.range n).map (· + 1)).foldl (fun t i =>
      if (tget t i).isSome then t else tset t i (Fn.reset true)) kept } }

end Sys2Proof.Machine
end

