-- ==== Sys2Proof/Machine/Open.lean ====
section
/-! DEFINITION. Byte forms that the manual does not give, of things the state holds: opaque functions with no body, named
in the assumption log. -/

namespace Sys2Proof.Machine

open Sys2Proof

/-- The form of a stored configuration as bytes (log entry 41). -/
opaque storedForm : Stored → List Byte

/-- The body bytes of a configuration slot: a slot is 4 MiB, its header 32 bytes of it (R406). -/
def storedBytes (x : Stored) : List Byte := (storedForm x).take (2 ^ 22 - 32)

/-- The stored configuration that slot bytes spell, at a standby (R523). -/
opaque storedOf : List Byte → Option Stored

/-- What a fabric image holds (R23, R438, R525, R531): the manager's model, with each heat's plan and MIRRORED_STEP, the open
collective and barrier steps of the hub, the last SEQ that each agent has acknowledged, by entry, the page
tags (R463) and the saved states that are kept (R533). -/
structure FabricModel where
  mgr      : Mgr
  steps    : List HubStep
  barriers : List Barrier
  acks     : Tab Seq
  sets     : List PageSet := []
  saved    : List Saved := []
deriving DecidableEq, Repr

/-- The bytes of a fabric image. -/
opaque imageBytes : FabricModel → List Byte

/-- The model that a complete fabric image and the journal records after it restore (R438, R530). -/
opaque modelOf : List (BitVec 64 × List Byte) → List EmberPkt → Option FabricModel

/-- The n-th data unit of 64 bytes of a saved state, with the plan image that travels with it (R303, R462, R524): the manual gives
its layout nowhere. -/
opaque savedUnit : Saved → Nat → BitVec 512

/-- The index records that go with the credential set (R455, Table 15-3): the highest index accepted per entry, and back. -/
opaque indexBytes : Tab Nat → List Byte

opaque indexOf : List Byte → Tab Nat

/-- The saved state that mirrored pages spell (R532). -/
opaque savedOf : List (BitVec 64 × List Byte × BitVec 64) → Option Saved

end Sys2Proof.Machine
end

