-- ==== Sys2Proof/Machine/Security.lean ====
section
/-! DEFINITION. Signing keys, management sessions, credentials and quotes (12_security.md R443 to R461, R472, R473). -/

namespace Sys2Proof.Machine

open Sys2Proof

/-- The operator credential whose session sends a command (R452, R509). -/
def State.sessionCred (s : State) (src : Source) : Option Nat :=
  match src with
  | .session i => (s.trust.sessions.find? fun x => x.id == i).bind (·.cred)
  | .fn _ => none

/-! ## Signature indices -/

/-- Bytes 0 to 23 of an index record, which CHECK covers (Table 12-2). -/
def indexHead (key : BitVec 8) (seq last : Nat) : List Byte :=
  leBytes 4 0x58444958 ++ bvBytes key ++ leBytes 3 0 ++ leBytes 8 seq ++ leBytes 8 last

/-- A record as it is written, with its CHECK. -/
def indexRec (key : BitVec 8) (seq last : Nat) : IndexRec := { seq := seq, last := last, check := crc64 (indexHead key seq last) }

def IndexRec.good (key : BitVec 8) (r : IndexRec) : Bool := r.check == crc64 (indexHead key r.seq r.last)

/-- The one with the higher SEQ; the first when both are equal. -/
def IndexRec.later (a b : Option IndexRec) : Option IndexRec :=
  match a, b with
  | some x, some y => if x.seq < y.seq then some y else some x
  | some x, none => some x
  | none, y => y

/-- The valid record of an area: the one with the highest SEQ whose CHECK holds (R445). -/
def validRec (key : BitVec 8) (area : Tab IndexRec) : Option IndexRec :=
  area.foldl (fun best e => if e.2.good key then IndexRec.later best (some e.2) else best) none

/-- The copy whose valid record is in force: true for B (R445). -/
def KeyIndex.inB (k : KeyIndex) : Bool :=
  match validRec k.key k.areaA, validRec k.key k.areaB with
  | some a, some b => a.seq < b.seq
  | none, some _ => true
  | _, none => false

/-- The record in force (R445). -/
def KeyIndex.inForce (k : KeyIndex) : Option IndexRec := IndexRec.later (validRec k.key k.areaA) (validRec k.key k.areaB)

/-- BLOCK_END of the record in force; no index is reserved without one (log entry 4). -/
def KeyIndex.blockEnd (k : KeyIndex) : Nat := (k.inForce.map (·.last)).getD 0

/-- Reserve the next block in the copy that is not in force, at its next position that reads back right, wrapping after position
4,095; refused past 2^60 (R446, R448). -/
def KeyIndex.reserve (k : KeyIndex) (skips : Nat) : Option KeyIndex :=
  let e := k.blockEnd
  let r := indexRec k.key ((k.inForce.map (·.seq)).getD 0 + 1) (e + 1024)
  let pos := ((if k.inB then k.posA else k.posB) + skips) % 4096
  let after := (pos + 1) % 4096
  if 2 ^ 60 < e + 1024 then none
  else if k.inB then some { k with areaA := tset k.areaA pos r, posA := after, next := e, fresh := false }
  else some { k with areaB := tset k.areaB pos r, posB := after, next := e, fresh := false }

/-- Take an index to sign with: a reservation goes first after power-on, and when the next index is 64 short of the
block's end (R446, R447). -/
def KeyIndex.take (k : KeyIndex) (skips : Nat) : Option (Nat × KeyIndex) :=
  if k.fresh ∨ k.blockEnd ≤ k.next + 64 then
    match k.reserve skips with
    | some r => some (r.next, { r with next := r.next + 1 })
    | none => none
  else some (k.next, { k with next := k.next + 1 })

/-- Index positions that fail in the next reservation: an open value. -/
def State.skips (s : State) : Nat := Config.badPositions s.free

/-- At power-on the next index is BLOCK_END of the record in force (R447). -/
def KeyIndex.powerOn (k : KeyIndex) : KeyIndex := { k with next := k.blockEnd, fresh := true }

/-! ## Sessions -/

/-- P0 serves its management and tongs ports: wave 1 has settled, or a standby's one wave (R457, R517, R556). -/
def State.p0Up (s : State) : Bool := 1 ≤ s.boot.wave || s.boot.standbyUp

/-- The IPv6 link-local address of a management port: fe80::/64 with the modified EUI-64 of its MAC address (R450, RFC 4291). -/
def linkLocal (port : Nat) : BitVec 128 :=
  let m := Config.mgmtMac port
  at' 128 112 0xFE80#16 ||| at' 128 40 (field m 24 24 ^^^ 0x020000#24) ||| at' 128 24 0xFFFE#16 ||| at' 128 0 (field m 0 24)

/-- A session's path is open: the tongs port, in either role (R556), or, on a module that holds the grant (R516), one of the two
management ports at its link-local address or an address that stored configuration gives it (R34, R450). -/
def State.reached (s : State) (path : SessPath) : Bool :=
  s.p0Up && match path with
  | .tongs => true
  | .mgmt port dest => s.ember.grant && port < 2 && (dest == linkLocal port || ((tget s.cfg.live.addrs port).getD []).contains dest)

/-! ## The credential set (R454, R455) -/

/-- The record in force of an entry's highest accepted index, as of two copies (R445, R455); the record's KEY is the entry's number
(DESIGN CHOICE, log entry 182). -/
def Trust.acceptedRec (t : Trust) (i : Nat) : Option IndexRec :=
  let good (tab : Tab IndexRec) : Option IndexRec := (tget tab i).filter (IndexRec.good (BitVec.ofNat 8 i))
  IndexRec.later (good t.acceptedA) (good t.acceptedB)

/-- The highest index accepted from an entry's key: zero when none has been. -/
def Trust.lastIndex (t : Trust) (i : Nat) : Nat := ((t.acceptedRec i).map (·.last)).getD 0

/-- A new index goes into the copy that is not in force (R446, R455). -/
def Trust.setIndex (t : Trust) (i index : Nat) : Trust :=
  let r := indexRec (BitVec.ofNat 8 i) (((t.acceptedRec i).map (·.seq)).getD 0 + 1) index
  if tget t.acceptedA i = t.acceptedRec i then { t with acceptedB := tset t.acceptedB i r } else { t with acceptedA := tset t.acceptedA i r }

/-- The records of some entries start at zero. -/
def Trust.clearIndices (t : Trust) (gone : Nat → Bool) : Trust :=
  { t with acceptedA := t.acceptedA.filter fun e => !gone e.1, acceptedB := t.acceptedB.filter fun e => !gone e.1 }

/-- The index records by entry, as they go to a standby, and as one takes them up (Table 15-3). -/
def Trust.indices (t : Trust) : Tab Nat :=
  (List.range 16).filterMap fun i => (t.acceptedRec i).map fun r => (i, r.last)

def Trust.setIndices (t : Trust) (x : Tab Nat) : Trust :=
  x.foldl (fun t e => t.setIndex e.1 e.2) (t.clearIndices fun _ => true)

/-- The credential set is written into both copies, each read back (R407, R454); a copy that reads back wrong is written again (log entry
95). -/
def Trust.writeCreds (t : Trust) (new : List Cred) : Trust := { t with creds := new, creds2 := new }

/-- A credential entry, when valid (R454). -/
def Trust.credOf (t : Trust) (i : Nat) : Option Cred := (t.creds[i]?).filter (·.valid)

def Trust.noCreds (t : Trust) : Bool := !(t.creds.any (·.valid))

/-- The address bytes of a session notice (Table 14-4). -/
def addrBytes (a : BitVec 128) : List Byte := bvBytes a

/-- Record why a session or a handshake failed (R450, R452, Table 14-4). -/
def State.noteFail (s : State) (reason : Nat) (source : BitVec 128) : State :=
  s.note 0x1406 (BitVec.ofNat 16 reason) (addrBytes source)

/-- A handshake fails: it is recorded, and the eighth within 60 s makes the module ignore the address (R450). -/
def State.failHandshake (s : State) (reason : Nat) (source : BitVec 128) : State :=
  let s := s.noteFail reason source
  let fs := (s.trust.failures ++ [(source, s.ticks)]).filter fun f => s.ticks < f.2 + 60 * tickPerS
  let s := { s with trust := { s.trust with failures := fs } }
  if 8 ≤ (fs.filter fun f => f.1 == source).length then
    ({ s with trust := { s.trust with blocked := s.trust.blocked ++ [source]
                                      failures := fs.filter fun f => f.1 != source } } : State).noteFail 6 source
  else s

/-- A session ends; a tongs session is recorded with its times, credential entry and pages read (R473). -/
def State.endSession (s : State) (i : Nat) : State :=
  match s.trust.sessions.find? fun x => x.id == i with
  | none => s
  | some x =>
    let s := { s with trust := { s.trust with sessions := s.trust.sessions.filter fun y => y.id != i } }
    if x.tongs && x.opened then
      s.noteSpan 0x1407 (BitVec.ofNat 16 s.trust.tongsCount) x.openAt s.opS
        (leBytes 1 (x.cred.getD 0) ++ leBytes 3 0 ++ leBytes 4 x.pages)
    else s

/-- Every session ends. -/
def State.endSessions (s : State) (p : Session → Bool) : State :=
  ((s.trust.sessions.filter p).map (·.id)).foldl State.endSession s

/-- Bytes of CLIENT_HELLO (Tables 12-3, 12-4). -/
def helloBytes (credIndex : BitVec 8) (events : Bool) (nonce : BitVec 256) : List Byte :=
  sessHeader 1 0 40 ++ bvBytes credIndex ++ leBytes 1 (if events then 1 else 0) ++ leBytes 6 0 ++ bvBytes nonce

/-- Bytes of SERVER_HELLO up to its signature (Tables 12-3, 12-4). -/
def serverBytes (draw : Nat) : List Byte :=
  sessHeader 2 0 12980 ++ bvBytes (Config.random draw) ++ Config.encapKey draw ++ bvBytes Config.serial ++ Config.endorsement

/-- CLIENT_HELLO names a key that may open a session: a valid entry, or a claim while it may (R452, R456); a tongs session
admits no claim (R472). -/
def State.helloAllowed (s : State) (tongs : Bool) (credIndex : BitVec 8) : Bool :=
  if credIndex = 0xFF then !tongs && s.trust.noCreds && s.trust.claimOpen
  else credIndex.toNat < 16 && (s.trust.credOf credIndex.toNat).isSome

/-- Begin a handshake: a fresh ML-KEM key, and the identity key's signature over T2 (R452). CLIENT_HELLO and SERVER_HELLO are message
0 of their directions (Table 12-3). -/
def State.beginSession (s : State) (path : SessPath) (source : BitVec 128) (credIndex : BitVec 8) (events : Bool)
    (nonce : BitVec 256) : State :=
  match s.trust.identity.take s.skips with
  | none => s
  | some (i, k) =>
    let d := s.trust.draws
    let m1 := helloBytes credIndex events nonce
    let m2 := serverBytes d
    let sig := Config.sign 1 i (bvBytes (Config.shake256 (m1 ++ m2)))
    let x : Session :=
      { id := s.trust.nextSession, port := path.port, source := source, cred := if credIndex = 0xFF then none else some credIndex.toNat
        events := events, opened := false, tongs := path.isTongs, hello := m1 ++ m2 ++ sig, draw := d, inKey := 0, outKey := 0
        ident := 0, inCount := 1, outCount := 1, openAt := s.opS, pages := 0 }
    ({ s with free := s.free + 1, trust := { s.trust with
      identity := k, draws := d + 1, nextSession := s.trust.nextSession + 1, sessions := s.trust.sessions ++ [x] } } : State).emit
        ([.serverHello x.id m2 sig] ++ tongsFrame x.tongs (m2 ++ sig))

/-- The module ignores an address for 60 s after its eighth failed handshake (R450). -/
def State.ignores (s : State) (source : BitVec 128) : Bool := s.trust.blocked.contains source

/-- CLIENT_HELLO (R450, R452): ignored at another address, from a blocked source, and while 16 sessions are held. -/
def execClientHello (path : SessPath) (source : BitVec 128) (credIndex : BitVec 8) (events : Bool) (nonce : BitVec 256)
    (rsv : Nat) (s : State) : Host.Outcome State Fault Refusal :=
  .next (
    if !s.reached path || s.ignores source || 16 ≤ s.trust.sessions.length then s
    else if rsv ≠ 0 then s.failHandshake 5 source
    else if !s.helloAllowed path.isTongs credIndex then s.failHandshake 2 source
    else s.beginSession path source credIndex events nonce)

/-- A session that a step names, when it stands in a given stage. -/
def State.session (s : State) (i : Nat) (opened : Bool) : Option Session :=
  s.trust.sessions.find? fun x => x.id == i && x.opened == opened

/-- T3 (R452): the hash of messages 1 and 2 and of the ciphertext. -/
def Session.t3 (x : Session) (ct : List Byte) : BitVec 256 := Config.shake256 (x.hello ++ ct)

/-- The client's signature holds under its entry, with an index above every one accepted (R452, R455). -/
def State.clientSigned (s : State) (x : Session) (ct : List Byte) (sigIndex : Nat) (sig : List Byte) : Bool :=
  match x.cred with
  | none => sig.isEmpty
  | some i =>
    match s.trust.credOf i with
    | none => false
    | some c =>
      s.trust.lastIndex i < sigIndex && Config.sigVerifies c.oid c.root c.seed (x.t3 ct) sig

/-- The bytes of the credential set (R454). -/
def credBytes (cs : List Cred) : List Byte :=
  (List.range 16).flatMap fun i =>
    let c := (cs[i]?).getD { valid := false, oid := 0, root := 0, seed := 0 }
    leBytes 1 (if c.valid then 1 else 0) ++ leBytes 3 0 ++ bvBytes c.oid ++ bvBytes c.root ++ bvBytes c.seed

/-- The credential set with its index records goes to a paired standby after each change (R524). -/
def State.streamCreds (s : State) : State :=
  if s.ember.streams then { s with ember := { s.ember with
    urgent := s.ember.urgent ++ emberPieces 0x07 1 (credBytes s.trust.creds ++ indexBytes s.trust.indices) } }
  else s

/-- Open a session: its keys and its identifier come from the shared secret and T3 (R452), the accepted index is written (R455), and a tongs
session marks the module as debugged (R473). -/
def State.openSession (s : State) (x : Session) (ct : List Byte) (sigIndex : Nat) : State :=
  let w := Config.shake256Wide (Config.decapsulate x.draw ct ++ bvBytes (x.t3 ct))
  let y := { x with opened := true, inKey := field w 0 256, outKey := field w 256 256, ident := field w 512 256, inCount := x.inCount + 1, openAt := s.opS }
  let t := match x.cred with
    | some i => s.trust.setIndex i sigIndex
    | none => s.trust
  let s : State := { s with trust := { t with
    sessions := modFirst (fun z => z.id == x.id) (fun _ => y) s.trust.sessions
    debugged := s.trust.debugged || x.tongs
    tongsCount := if x.tongs then s.trust.tongsCount + 1 else s.trust.tongsCount } }
  if x.cred.isSome then s.streamCreds else s

/-- CLIENT_AUTH (R452): ignored from a blocked source. The row gives no COUNTER: the message is taken as the next of its direction (log
entry 182). -/
def execClientAuth (session : Nat) (ciphertext : List Byte) (sigIndex : Nat) (signature : List Byte) (rsv : Nat)
    (s : State) : Host.Outcome State Fault Refusal :=
  .next (match s.session session false with
    | none => s
    | some x =>
      if s.ignores x.source then s
      else if rsv ≠ 0 then (s.endSession session).failHandshake 5 x.source
      else if s.clientSigned x ciphertext sigIndex signature then s.openSession x ciphertext sigIndex
      else (s.endSession session).failHandshake 1 x.source)

/-- Why a protected message of a TYPE closes its session (R452, Table 14-4): 5 a reserved field, 4 the counter, 3 the tag, which
covers the header too (R451). -/
def Session.msgFault (x : Session) (type : Nat) (m : SessMsg) : Option Nat :=
  if m.rsv ≠ 0 then some 5
  else if m.counter ≠ x.inCount then some 4
  else if !Config.tagHolds x.inKey m.counter (sessHeader type m.counter m.body.length) m.body m.tag then some 3
  else none

/-- A message of a session has come: its count in that direction advances (Table 12-3). -/
def State.countIn (s : State) (x : Session) : State :=
  { s with trust := s.trust.onSessions (fun y => y.id == x.id) fun y => { y with inCount := y.inCount + 1 } }

/-- A COMMAND body is a slot and its data (R453): it is accepted in order of arrival. -/
def State.takeCommand (s : State) (x : Session) (body : List Byte) : State :=
  s.accept { (slotCmd s.hif.nextId (.session x.id) 0 (bytesAt body 0 256)) with data := body.drop 256 }

/-- SESSION_CLOSE (R452). On the tongs port a frame whose CRC failed never reached the counter, so that the next message closes the
session (R556). -/
def execSessionClose (session : Nat) (m : SessMsg) (s : State) : Host.Outcome State Fault Refusal :=
  .next (match s.session session true with
    | none => s
    | some x =>
      if s.ignores x.source then s else
      match x.msgFault 7 m with
      | some r => (s.endSession session).noteFail r x.source
      | none => s.endSession session)

/-- SESSION_IDLE_TIMEOUT (R452): 10 minutes without a message, 24 hours, or 2^32 messages. -/
def execSessionIdleTimeout (session : Nat) (s : State) : Host.Outcome State Fault Refusal :=
  .next (s.endSession session)

/-- SESSION_BLOCK_EXPIRE (R450). -/
def execSessionBlockExpire (source : BitVec 128) (s : State) : Host.Outcome State Fault Refusal :=
  .next { s with trust := { s.trust with blocked := s.trust.blocked.filter (· != source) } }

/-- CLAIM_OPEN (R456): closing the window ends any claim session. -/
def execClaimOpen (isOpen : Bool) (s : State) : Host.Outcome State Fault Refusal :=
  .next (
    let s := { s with trust := { s.trust with claimOpen := isOpen } }
    if isOpen then s else s.endSessions fun x => x.cred.isNone)

/-- CRED_CLEAR (R456): accepted only while no heat is open; recorded; every session closes. -/
def execCredClear (s : State) : Host.Outcome State Fault Refusal :=
  .next (
    if s.mgr.heats.isEmpty then
      ({ s with trust := (s.trust.writeCreds []).clearIndices fun _ => true } : State).endSessions (fun _ => true)
        |>.note 0x1408 0 [] |>.streamCreds
    else s.note 0x1408 1 [])

/-- The credential set that SEC_CRED_SET stores is acceptable (R454). -/
def credsOk (cs : List Cred) : Bool :=
  cs.length == 16 && cs.any (·.valid) && cs.all fun c => !c.valid || c.oid == Config.oidXmss || c.oid == Config.oidXmssMt

/-- Entries that a new set removes or changes (R454). -/
def changedCreds (old new : List Cred) : List Nat := (List.range 16).filter fun i => old[i]? != new[i]?

/-- Entries whose key a new set replaces with a different one (R455). -/
def changedKeys (old new : List Cred) : List Nat :=
  let key (c : Cred) : BitVec 32 × BitVec 256 × BitVec 256 := (c.oid, c.root, c.seed)
  (List.range 16).filter fun i => (old[i]?).map key != (new[i]?).map key

/-- SEC_CRED_SET (R454): both copies are replaced, the records of entries with a different key start at zero (R455), the reply is sent,
and then the sessions of the entries that are removed or changed and the claim sessions close. -/
def State.setCreds (s : State) (c : Cmd) (new : List Cred) : State :=
  let changed := changedCreds s.trust.creds new
  let s := { s with trust := (s.trust.clearIndices (changedKeys s.trust.creds new).contains).writeCreds new }
  let s := s.streamCreds
  (s.reply c.id (ok [])).endSessions fun x =>
    match x.cred with
    | some i => changed.contains i
    | none => true

/-- Credential entries from their bytes: VALID, three reserved bytes, OID, root and seed (R454). -/
def credsOf (b : List Byte) : List Cred :=
  (List.range 16).map fun i =>
    { valid := natAt b (72 * i) 1 == 1, oid := BitVec.ofNat 32 (natAt b (72 * i + 4) 4)
      root := BitVec.ofNat 256 (natAt b (72 * i + 8) 32), seed := BitVec.ofNat 256 (natAt b (72 * i + 40) 32) }

/-- A credential set in a session message is of its form: 16 entries, VALID 0 or 1, and no reserved byte set (R11, R454). -/
def credForm (b : List Byte) : Bool :=
  b.length == 1152 && (List.range 16).all fun i => natAt b (72 * i) 1 ≤ 1 && natAt b (72 * i + 1) 3 == 0

/-- SEC_CRED_SET (R454), with the set that comes in the session message. -/
def execSecCredSet (id : Nat) (data : List Byte) (s : State) : Host.Outcome State Fault Refusal :=
  .next (s.run 0x0805 id fun c s =>
    let set := c.buffer data
    if credForm set && credsOk (credsOf set) then (s.setCreds c (credsOf set), none) else (s, some (fail sBadArg)))

/-! ## The configuration slot in force (R406) -/

/-- Bytes 0 to 23 of the header of a configuration slot or of the calibration area. -/
def slotHead (seq length : Nat) : List Byte := leBytes 4 0x4C434647 ++ leBytes 4 1 ++ leBytes 8 seq ++ leBytes 4 length ++ leBytes 4 0

/-- A slot as flash holds it: header with CHECK, and body. -/
def slotBytes (seq : Nat) (body : List Byte) : List Byte :=
  slotHead seq body.length ++ bvBytes (crc64 (slotHead seq body.length ++ body)) ++ body

/-- A slot is valid: MAGIC, FORMAT, LENGTH and CHECK all hold. -/
def slotValid (b : List Byte) : Bool :=
  let n := natAt b 16 4
  natAt b 0 4 == 0x4C434647 && natAt b 4 4 == 1 && n ≤ 2 ^ 22 - 32 && 32 + n ≤ b.length &&
    bvBytes (crc64 (bytesAt b 0 24 ++ bytesAt b 32 n)) == bytesAt b 24 8

/-- A slot with its header. -/
def CfgSlot.of (seq : Nat) (body : Stored) : CfgSlot :=
  { seq := seq, body := body, head := bytesAt (slotBytes seq (storedBytes body)) 0 32 }

/-- A configuration slot is valid (R406). -/
def CfgSlot.valid (x : CfgSlot) : Bool := slotValid (x.head ++ storedBytes x.body)

/-- The slot in force: the valid one with the higher CFG_SEQ, slot 0 when both are equal. -/
def Cfg.newest (c : Cfg) : Option CfgSlot :=
  match c.flashA.filter CfgSlot.valid, c.flashB.filter CfgSlot.valid with
  | some a, some b => if a.seq < b.seq then some b else some a
  | some a, none => some a
  | none, b => b

/-- The bytes of the configuration slot in force, header and body; none when neither slot is valid (R406, R458). -/
def Cfg.slotInForce (c : Cfg) : List Byte := (c.newest.map fun x => x.head ++ storedBytes x.body).getD []

/-! ## Quotes -/

/-- Live generations of a tenant as bits (Table 12-5). -/
def Trust.genBits (t : Trust) (tenant : Nat) : Nat :=
  ((tget t.gens tenant).getD []).foldl (fun b g => b ||| 2 ^ g) 0

/-- A complete and verified image is staged (Table 12-7). -/
def Fw.verified (f : Fw) : Option Staging := f.staging.filter fun g => g.state == 3

/-- The bytes of a staged image, piece by piece. -/
def Staging.image (g : Staging) : List Byte := g.held.flatMap fun e => e.2.2

/-- Version in an image header, bytes 8 to 11 (Table 13-3). -/
def imageVersion (b : List Byte) : Nat := natAt b 8 4

/-- Quote FLAGS (Table 12-7). -/
def State.quoteFlags (s : State) : BitVec 16 :=
  at' 16 0 (bit s.fw.verified.isSome) ||| at' 16 1 (bit s.fw.activating.isSome) |||
    at' 16 2 (bit s.boot.partialReset.isSome) ||| at' 16 3 (bit (s.fw.record.confirm == 1)) |||
    at' 16 4 (bit s.fw.fallback) ||| at' 16 5 (bit s.boot.computeHeld) ||| at' 16 6 (bit s.boot.grade) |||
    at' 16 7 (bit (!s.cfg.calFactory)) ||| at' 16 8 (bit s.trust.debugged) |||
    at' 16 9 (bit (s.ember.state != .none && s.ember.state != .taking))

/-- The signed bytes 0 to 255 of a quote (Table 12-5), sampled once (R459). -/
def State.quoteBody (s : State) (q : QuoteReq) (index : Nat) : List Byte :=
  let staged := s.fw.verified.map Staging.image
  leBytes 4 0x51544843 ++ leBytes 2 1 ++ bvBytes s.quoteFlags ++ bvBytes Config.serial ++ bvBytes q.nonce ++
    bvBytes ((s.fw.running.map (·.1)).getD 0) ++ bvBytes ((staged.map Config.shake256).getD 0) ++
    bvBytes ((s.fw.running.map (·.2)).getD 0) ++ leBytes 4 ((staged.map imageVersion).getD 0) ++ bvBytes s.fw.fuse ++
    bvBytes s.trust.powerCycles ++ bvBytes s.trust.operatingS ++ bvBytes s.lap ++
    bvBytes (Config.shake256 s.cfg.slotInForce) ++ bvBytes (Config.shake256 (credBytes s.trust.creds)) ++
    bvBytes q.fnNo ++ leBytes 2 q.tenant ++ leBytes 1 (s.trust.genBits q.tenant) ++ leBytes 1 (min 5 s.boot.prPhase) ++
    leBytes 2 0 ++ leBytes 8 index ++ leBytes 32 0

/-- TD_GO (R460, R461): BUSY when the queue is full or a request is pending, LEN_ERR when the buffer is short; otherwise
the request joins the queue. -/
def State.tdGo (s : State) (v : BitVec 64) : State :=
  let t := s.trust
  if !v.getLsbD 0 then s
  else if 64 ≤ t.quotes.length ∨ t.mailPending then
    ({ s with trust := { t with busy := true } } : State).tally 0x0033 0 1
  else if t.quoteLen.toNat < 11628 then { s with trust := { t with lenErr := true } }
  else
    let q : QuoteReq :=
      { asker := .mailbox, nonce := BitVec.ofNat 256 (leNat (t.nonce.flatMap bvBytes)), fnNo := 0xFFFF
        tenant := (field t.quoteTenant 0 10).toNat }
    { s with trust := { t with quotes := t.quotes ++ [q] } }

/-- TD_GO (R461). -/
def execTdGo (v : BitVec 64) (s : State) : Host.Outcome State Fault Refusal :=
  .next (if s.pcieUp then s.tdGo v else s)

/-- SEC_QUOTE (R458, R460). -/
def secQuote (c : Cmd) (s : State) : State × Option Ans :=
  if c.dataLen < 11628 then (s, some { bad 24 with bytes := 11628 })
  else if 64 ≤ s.trust.quotes.length then (s.tally 0x0033 0 1, some (fail sBusy))
  else
    let named := c.num 64 2 % 1024
    let (fnNo, tenant) := match c.src with
      | .fn 0 => (0, named)
      | .fn n => (n, n - 1)
      | .session _ => (0xFFFF, named)
    let q : QuoteReq := { asker := .cmd c.id, nonce := c.hash 32, fnNo := BitVec.ofNat 16 fnNo, tenant := tenant }
    ({ s with trust := { s.trust with quotes := s.trust.quotes ++ [q] } }, none)

/-- SEC_QUOTE (R458). -/
def execSecQuote (id : Nat) (s : State) : Host.Outcome State Fault Refusal := .next (s.run 0x0801 id secQuote)

/-- Deliver a signed quote (R457, R461): to the command's buffer with its reply, in the reply message of a session (R394, R453), or to
the mailbox buffer with DONE and then MSI-X vector 1 of PF0. A failed write to host memory ends the command with S_HOST_ERROR, or sets
DMA_ERR. -/
def State.deliverQuote (s : State) (q : QuoteReq) (quote : List Byte) (dmaOk : Bool) : State :=
  match q.asker with
  | .mailbox =>
    if dmaOk then
      (({ s with trust := { s.trust with done := true } } : State).emit [.quote s.trust.quoteAddr quote]).interrupt 0 1
    else { s with trust := { s.trust with dmaErr := true } }
  | .cmd id =>
    match s.cmd id with
    | none => s
    | some c =>
      let done : Ans := { ok (leBytes 4 11628) with bytes := 11628 }
      if c.mute then s.dropCmd id
      else if c.src matches .session _ then s.reply id { done with data := quote }
      else if dmaOk then
        (s.emit [.quote c.dataAddr quote]).reply id done
      else s.reply id (fail sHostError)

/-- QUOTE_DONE (R460): the request that came first is signed and delivered; without an index to sign with, it ends with
S_NO_INDEX (R448). -/
def execQuoteDone (dmaOk : Bool) (s : State) : Host.Outcome State Fault Refusal :=
  .next (match s.trust.quotes with
    | [] => s
    | q :: rest =>
      match s.trust.attest.take s.skips with
      | none =>
        let s := { s with trust := { s.trust with quotes := rest } }
        (match q.asker with
          | .cmd id => s.reply id (fail sNoIndex)
          | .mailbox => s)
      | some (i, k) =>
        let body := s.quoteBody q i
        let quote := body ++ Config.sign 2 i body ++ Config.endorsement
        (({ s with free := s.free + 1, trust := { s.trust with quotes := rest, attest := k } } : State).tally 0x0032 0 1).deliverQuote
          q quote dmaOk)

/-- SEC_INDEX_STATE (R448): next index, end of the reserved block, and indices that remain below 2^60. -/
def secIndexState (_c : Cmd) (s : State) : Ans :=
  let k := s.trust.attest
  ok (leBytes 8 k.next ++ leBytes 8 k.blockEnd ++ leBytes 8 (2 ^ 60 - k.next))

/-- SEC_INDEX_STATE (R448). -/
def execSecIndexState (id : Nat) (s : State) : Host.Outcome State Fault Refusal := .next (s.ask 0x0804 id secIndexState)

end Sys2Proof.Machine
end

