-- ==== Sys2Proof/Machine/Firmware.lean ====
section
/-! DEFINITION. Firmware images, the boot record and what the trust die does with them (13_firmware_update.md R477 to
R495). -/

namespace Sys2Proof.Machine

open Sys2Proof

/-! ## Images (Table 13-2) -/

/-- The image hash (R478). -/
def imageHash (b : List Byte) : BitVec 256 := Config.shake256 b

def imageSec (b : List Byte) : Nat := natAt b 7 1

/-- Bits set in the fuse word (R480). -/
def fusedVersion (fuse : BitVec 64) : Nat := ((List.range 64).filter fun i => fuse.getLsbD i).length

/-- Bytes from one offset up to another are zero. -/
def zeroBytes (b : List Byte) (lo hi : Nat) : Bool := (bytesAt b lo (hi - lo)).all (· == 0)

/-- Check 1 of Table 13-5, and the zeros of R479. -/
def headerOk (b : List Byte) : Bool :=
  natAt b 0 4 == 0x57464843 && natAt b 4 2 == 1 && natAt b 6 1 == 0x11 && imageSec b ≤ 64 && zeroBytes b 12 16 &&
    zeroBytes b 56 256 && zeroBytes b 3076 4096 && 1 ≤ natAt b 16 8 && 4096 + natAt b 16 8 ≤ 2 ^ 26 &&
    4096 + natAt b 16 8 == b.length

/-- Check 2: Lenyon's signature over the header. -/
def signedByLenyon (b : List Byte) : Bool :=
  Config.sigVerifies Config.oidXmss Config.lenyonRoot Config.lenyonSeed (Config.shake256 (b.take 256)) (bytesAt b 256 2820)

/-- Check 3: the hash of the body. -/
def bodyGood (b : List Byte) : Bool := bvBytes (Config.shake256 (b.drop 4096)) == bytesAt b 24 32

/-- Verification in the order of Table 13-5. -/
def verifyImage (fuse : BitVec 64) (b : List Byte) : BitVec 16 :=
  if !headerOk b then sBadArg
  else if !signedByLenyon b || !bodyGood b then sBadSignature
  else if imageSec b < fusedVersion fuse then sVersion
  else sOk

/-! ## The boot record (Table 13-1) -/

/-- ROLES code of a role. -/
def AreaRole.code (r : AreaRole) : Nat :=
  match r with
  | .free => 0
  | .current => 1
  | .fallback => 2
  | .staging => 3

/-- Bytes 0 to 55 of a record. -/
def BootRec.head (r : BootRec) : List Byte :=
  leBytes 4 0x42524843 ++ leBytes 4 0 ++ leBytes 8 r.seq ++
    leBytes 1 ((r.roles.take 3).zipIdx.map fun x => x.1.code * 4 ^ x.2).sum ++ leBytes 1 r.confirm ++ leBytes 1 r.starts ++
    leBytes 1 0 ++ leBytes 4 r.deadline ++ bvBytes r.hash

/-- The 64 bytes of a record as the trust die's flash holds it, with CHECK over the first 56 (Table 13-1). -/
def BootRec.bytes (r : BootRec) : List Byte := r.head ++ bvBytes (crc64 r.head)

/-- The lowest area with a role. -/
def BootRec.areaOf (r : BootRec) (role : AreaRole) : Option Nat := (List.range 3).find? fun i => r.roles[i]? == some role

def BootRec.setRole (r : BootRec) (area : Nat) (role : AreaRole) : BootRec := { r with roles := r.roles.set area role }

/-- Give every area of one role another. -/
def BootRec.turn (r : BootRec) (old new : AreaRole) : BootRec :=
  { r with roles := r.roles.map fun x => if x = old then new else x }

/-- A record as it is written, with its CHECK. -/
def BootRec.copy (r : BootRec) : BootCopy := { body := r, check := crc64 r.head }

def BootCopy.good (c : BootCopy) : Bool := c.check == crc64 c.body.head

/-- The copy in force: a valid one with the higher SEQ, as in R445; true for B. -/
def Fw.inB (f : Fw) : Bool :=
  match f.copyA.filter BootCopy.good, f.copyB.filter BootCopy.good with
  | some a, some b => a.body.seq < b.body.seq
  | none, some _ => true
  | _, none => false

/-- The record in force as the copies give it; that of the factory where none is valid. -/
def Fw.select (f : Fw) : BootRec :=
  (((if f.inB then f.copyB else f.copyA).filter BootCopy.good).map (·.body)).getD BootRec.reset

/-- Write the record into the copy that is not in force, and read it back; then it is in force (R478). -/
def Fw.write (f : Fw) (r : BootRec) : Fw :=
  let r := { r with seq := f.record.seq + 1 }
  if f.inB || (f.copyA.filter BootCopy.good).isNone then { f with copyA := some r.copy, record := r }
  else { f with copyB := some r.copy, record := r }

/-- Power fails during a write: the copy written last is torn, so that its CHECK fails (R478). -/
def BootCopy.tear (c : BootCopy) : BootCopy := { c with check := ~~~(crc64 c.body.head) }

def Fw.tear (f : Fw) : Fw := if f.inB then { f with copyB := f.copyB.map BootCopy.tear } else { f with copyA := f.copyA.map BootCopy.tear }

/-- What a power loss leaves of a write and of a fuse burn (R478, R492): whether the write had ended, and how many bits had been burned,
are open values. -/
def State.cutWrite (s : State) : State :=
  let f := s.fw
  let n := Config.freeNat s.free
  let kept : BitVec 64 := BitVec.ofNat 64 (2 ^ (n % 65) - 1)
  let f : Fw := match f.burning with
    | some all => { f with fuse := f.fuse ||| (all &&& kept) }
    | none => f
  let f := if f.writing && n % 2 == 1 then f.tear else f
  { s with free := s.free + 1, fw := { f with writing := false, burning := none } }

/-- The bytes of an area. -/
def Fw.area (f : Fw) (i : Nat) : List Byte := (tget f.areas i).getD []

/-- The image in the area of a role. -/
def Fw.imageIn (f : Fw) (role : AreaRole) : Option (List Byte) := (f.record.areaOf role).map f.area

/-- An image that may run: it verifies, and its hash is what it should be (R480, R487). -/
def Fw.mayRun (f : Fw) (b : List Byte) (hash : BitVec 256) : Bool := verifyImage f.fuse b == sOk && imageHash b == hash

/-- An image is what runs: RUNNING_MEAS and its version (R487). -/
def Fw.runs (f : Fw) (b : List Byte) : Fw := { f with running := some (imageHash b, BitVec.ofNat 32 (imageVersion b)) }

/-- The record of a fallback (R494): FALLBACK becomes CURRENT, the failed area FREE, CONFIRM 2. -/
def Fw.fallRecord (f : Fw) (b : List Byte) : BootRec :=
  { ((f.record.turn .current .free).turn .fallback .current) with confirm := 2, starts := 0, hash := imageHash b }

/-- Fall back, when a FALLBACK area holds an image that may run (R480, R494). -/
def Fw.fallBack (f : Fw) : Option (Fw × List Byte) :=
  match f.imageIn .fallback with
  | none => none
  | some b => if verifyImage f.fuse b = sOk then some ({ f.write (f.fallRecord b) with fallback := true }, b) else none

/-- The staged image takes the place of a failing CURRENT one (R495). -/
def Fw.useStaged (f : Fw) : Option (Fw × List Byte) :=
  match f.verified, f.imageIn .staging with
  | some _, some b =>
    if verifyImage f.fuse b = sOk then
      some ({ f.write { ((f.record.turn .current .free).turn .staging .current) with
        confirm := 0, starts := 0, hash := imageHash b } with staging := none }, b)
    else none
  | _, _ => none

/-! ## Alarms (Table 13-8) -/

/-- FW_FALLBACK with its cause and the version restored. -/
def State.fellBack (s : State) (cause : Nat) (b : List Byte) : State :=
  s.alarm 0x1303 (leBytes 2 cause ++ leBytes 4 (imageVersion b))

/-- FW_NO_IMAGE (R495): no image runs, the compute domain stays in reset, and the firmware group serves (R476). -/
def State.noImageRuns (s : State) : State :=
  (({ s with fw := { s.fw with running := none, noImage := true }, boot := { s.boot with computeHeld := true } } : State).alarm
    0x1304 []).noticeLater

/-- The fallback of R493 with a cause: the record is written and the alarm raised; the copy step judges the image. -/
def State.fallBackFor (s : State) (cause : Nat) : State :=
  match s.fw.imageIn .fallback with
  | some b => ({ s with fw := { s.fw.write (s.fw.fallRecord b) with fallback := true } } : State).fellBack cause b
  | none => s

/-! ## The copy step (R487, R488, R494, R495) -/

/-- The CURRENT image is verified again and copied; a failing one gives way to FALLBACK with cause 3, and with neither no
image runs. At a power-on a verified STAGING image goes before FALLBACK (R495). No fabric image has been written under it yet (Table
13-7). -/
def State.copyImage (s : State) (powerOn : Bool) : State :=
  let cur := (s.fw.imageIn .current).getD []
  let go (f : Fw) (b : List Byte) : State := { s with fw := { f.runs b with noImage := false, imageSaved := false } }
  if s.fw.mayRun cur s.fw.record.hash then go s.fw cur
  else
    match (if powerOn then s.fw.useStaged else none), s.fw.fallBack with
    | some (f, b), _ => go f b
    | none, some (f, b) => (go f b).fellBack 3 b
    | none, none => s.noImageRuns

/-! ## At power-on (R492, R493) -/

/-- A power loss has cut a confirmation after the fuse had advanced (R492): the FALLBACK image can no longer be run. -/
def Fw.cutConfirm (f : Fw) : Bool :=
  f.record.confirm == 1 && (f.imageIn .fallback).any fun b => imageSec b < fusedVersion f.fuse

/-- The record of a confirmed image (R492). -/
def BootRec.confirmed (r : BootRec) : BootRec := { r.turn .fallback .free with confirm := 0, starts := 0 }

/-- Step 1 of a confirmation (R492): the fuse bits up to SEC_VER − 1 of the running image are burned, and each is read back. -/
def Fw.burn (f : Fw) : Fw :=
  let b := (f.imageIn .current).getD []
  { f with burning := some (f.fuse ||| BitVec.ofNat 64 (2 ^ imageSec b - 1)) }

/-- Every bit of the burn reads back as burned. -/
def Fw.burnt (f : Fw) : Fw := { f with fuse := f.fuse ||| f.burning.getD 0, burning := none }

/-- Steps 2 and 3: the record, and FW_CONFIRMED (R492). -/
def State.writeConfirm (s : State) : State :=
  let f := s.fw.burnt
  let b := (f.imageIn .current).getD []
  ({ s with fw := { f.write f.record.confirmed with health := 0 } } : State).alarm 0x1302
    (leBytes 2 (fusedVersion f.fuse) ++ leBytes 4 (imageVersion b))

/-- Confirm the running image (R492). The record is written with the act that follows the burn, so that power may fail between them
(DESIGN CHOICE, log entry 184). -/
def State.confirmImage (s : State) : State := if s.fw.burning.isSome then s.writeConfirm else { s with fw := s.fw.burn }

/-- What a power-on does with the boot record: the copies are read (R445, R478), a confirmation that was cut is completed, with the bits
that are still to be burned (R492, Table 13-9), and a pending image falls back or is counted (R493). -/
def State.powerOnImage (s : State) : State :=
  let f : Fw := { s.fw with record := s.fw.select }
  let s : State := { s with fw := f }
  if f.cutConfirm then ({ s with fw := f.burn } : State).writeConfirm
  else if f.record.confirm ≠ 1 then s
  else if 2 ≤ f.record.starts then s.fallBackFor 2
  else { s with fw := { f.write { f.record with starts := f.record.starts + 1 } with writing := true } }

end Sys2Proof.Machine
end

