-- ==== Sys2Proof/Machine/Routing.lean ====
section
/-! DEFINITION. Routes, hub paths, group trees and the tables they give, computed from the manager's model alone
(04_routing.md R148 to R165, R168). -/

namespace Sys2Proof

/-! ## The pod -/

def Axis.no : Axis → Nat
  | .x => 0 | .y => 1 | .z => 2

/-- A position of the torus. -/
abbrev Pos := Nat × Nat × Nat

def Pos.on (c : Pos) : Axis → Nat
  | .x => c.1 | .y => c.2.1 | .z => c.2.2

def Pos.put (c : Pos) (a : Axis) (v : Nat) : Pos :=
  match a with
  | .x => (v, c.2.1, c.2.2) | .y => (c.1, v, c.2.2) | .z => (c.1, c.2.1, v)

def InstRecord.extent (r : InstRecord) : Axis → Nat
  | .x => r.ex | .y => r.ey | .z => r.ez

/-- The endpoint entry at a position (R112). -/
def InstRecord.at (r : InstRecord) (c : Pos) : Option Nat :=
  r.agents.findIdx? fun e => !e.isSwitch && e.x == c.1 && e.y == c.2.1 && e.z == c.2.2

/-- The position of an endpoint entry. -/
def InstRecord.posOf (r : InstRecord) (e : Nat) : Option Pos :=
  (r.agents[e]?).bind fun x => if x.isSwitch then none else some (x.x, x.y, x.z)

def InstRecord.isSwitch (r : InstRecord) (e : Nat) : Bool := (r.agents[e]?).any (·.isSwitch)

end Sys2Proof

namespace Sys2Proof.Machine

open Sys2Proof

def axes : List Axis := [.x, .y, .z]

/-- What a computation works on (R148): the record, the widths of agent ports and of Chrohar ports that are up, the
entries that nothing is routed through, the one of them that the first epoch of its readmission gives a hub path (R250), the
open heats and the module's slot. -/
structure Net where
  r     : InstRecord
  up    : Tab Nat
  ch    : Tab Nat
  out   : List Nat
  leaf  : Option Nat
  heats : Tab Heat
  slot  : Nat
deriving DecidableEq, Repr

/-- An entry that is routed through: reached, not refused, and in service or FAILED_FORWARDING (Table 6-4). -/
def Entry.forwards (e : Entry) : Bool :=
  e.reached && !e.absent && !e.refused && !e.hubless && (e.service == .inService || e.service == .failedForwarding)

/-- A Chrohar port is to be trained again once no epoch uses it (R113). -/
def State.retraining (s : State) (p : Nat) : Bool := s.mgr.jobs.any fun j => j.steps.contains (.retrain p)

/-- A Chrohar port that is up faces what the record names: its switch port, or a peer link that has been identified. -/
def State.chGood (s : State) (r : InstRecord) (p : Nat) (q : Port) : Bool :=
  q.isUp && !s.retraining p && q.nbrSeen &&
    ((r.peers.any fun x => 4 * x.1 == p) || r.edges.any fun w => w.far == .chrohar p && w.port == q.nbr.port.toNat &&
      q.nbr.kind.toNat == 1 && (r.agents[w.sw]?).any fun a => a.strap == q.nbr.strap)

/-- The model that a computation works on; an entry that is readmitted counts as routed through once its tables are seeded
(R250 step 4). -/
def State.net (s : State) : Option Net :=
  s.mgr.record.map fun r =>
    { r := r, up := s.mgr.widths
      ch := tmap (fun _ q => q.width) (s.link.ports.filter fun e => s.chGood r e.1 e.2)
      out := (List.range r.agents.length).filter fun e =>
        !((tget s.mgr.entries e).any Entry.forwards) && !(s.mgr.seeded && s.mgr.readmit == some e)
      leaf := if s.mgr.seeded then none else s.mgr.readmit
      heats := s.mgr.heats.filter fun e => !e.2.leaving, slot := s.quadSlot }

def Net.chWidth (n : Net) (port : Nat) : Nat := (tget n.ch port).getD 0

/-- Trained width of the port that a hop leaves by. -/
def Net.width (n : Net) (e port : Nat) : Nat :=
  if e = chroharHop then n.chWidth port else if n.out.contains e then 0 else (tget n.up (16 * e + port)).getD 0

/-- No path (Table 4-1). -/
def inf : Nat := 0xFFFFFFFF

/-- Min-plus multiplication: addition that saturates (Table 4-1). -/
def addCost (a b : Nat) : Nat := min inf (a + b)

/-- Cost of a width (R150). -/
def costOf (w : Nat) : Nat := if w = 0 then inf else 24 / w

/-- Port of an endpoint by axis and direction (R114). -/
def torusPort (a : Axis) (plus : Bool) : Nat := 2 * a.no + (if plus then 0 else 1)

/-- The next coordinate on a ring. -/
def stepOn (ext c : Nat) (plus : Bool) : Nat := if plus then (c + 1) % ext else (c + ext - 1) % ext

def Net.next (n : Net) (c : Pos) (a : Axis) (plus : Bool) : Pos := Pos.put c a (stepOn (n.r.extent a) (Pos.on c a) plus)

/-- Width of the link out of a position: the lesser of its two ends, zero when an end is down. -/
def Net.linkWidth (n : Net) (c : Pos) (a : Axis) (plus : Bool) : Nat :=
  match n.r.at c, n.r.at (n.next c a plus) with
  | some e, some f => min (n.width e (torusPort a plus)) (n.width f (torusPort a !plus))
  | _, _ => 0

/-- Cost of some hops in one direction (R150). -/
def Net.pathCost (n : Net) (a : Axis) (plus : Bool) : Nat → Pos → Nat
  | 0, _ => 0
  | k + 1, c => addCost (costOf (n.linkWidth c a plus)) (n.pathCost a plus k (n.next c a plus))

/-- Hops from one coordinate to another in a direction. -/
def hopsTo (ext c t : Nat) (plus : Bool) : Nat := if plus then (t + ext - c) % ext else (c + ext - t) % ext

def Net.costTo (n : Net) (c : Pos) (a : Axis) (t : Nat) (plus : Bool) : Nat :=
  n.pathCost a plus (hopsTo (n.r.extent a) (Pos.on c a) t plus) c

/-! ## Heats as boxes -/

def Heat.lo (h : Heat) : Axis → Nat
  | .x => h.ox | .y => h.oy | .z => h.oz

def Heat.ext (h : Heat) : Axis → Nat
  | .x => h.kx | .y => h.ky | .z => h.kz

/-- A position lies in the box (R190). -/
def Heat.holds (h : Heat) (c : Pos) : Bool := axes.all fun a => h.lo a ≤ Pos.on c a && Pos.on c a < h.lo a + h.ext a

/-- The positions of a box, X fastest. -/
def Heat.cells (h : Heat) : List Pos :=
  (List.range h.kz).flatMap fun z => (List.range h.ky).flatMap fun y => (List.range h.kx).map fun x =>
    (h.ox + x, h.oy + y, h.oz + z)

/-- The heat whose box holds a position. -/
def Net.heatAt (n : Net) (c : Pos) : Option Heat := (n.heats.find? fun e => e.2.holds c).map (·.2)

/-- A heat owns an axis whole (R191). -/
def Net.owns (n : Net) (h : Heat) (a : Axis) : Bool := h.ext a == n.r.extent a

/-! ## Directions and segments -/

/-- R152: the direction of a segment on a whole ring. -/
def Net.ringDir (n : Net) (c : Pos) (a : Axis) (t : Nat) : Option Bool :=
  let p := n.costTo c a t true
  let m := n.costTo c a t false
  if p = inf ∧ m = inf then none else some (p ≤ m)

/-- R153: inside a heat, the ring rule on an owned axis, and otherwise the direction that stays inside the box. -/
def Net.dirTo (n : Net) (box : Option Heat) (c : Pos) (a : Axis) (t : Nat) : Option Bool :=
  match box with
  | none => n.ringDir c a t
  | some h =>
    if n.owns h a then n.ringDir c a t
    else
      let plus := Pos.on c a < t
      if n.costTo c a t plus = inf then none else some plus

/-- A hop of a path: an agent's entry and the port that it sends on. -/
abbrev Hop := Nat × Nat

/-- The hops of a segment, and where it ends. -/
def Net.walk (n : Net) (a : Axis) (plus : Bool) : Nat → Pos → List Hop × Pos
  | 0, c => ([], c)
  | k + 1, c =>
    let rest := n.walk a plus k (n.next c a plus)
    (((n.r.at c).getD 0, torusPort a plus) :: rest.1, rest.2)

/-- One segment to a coordinate (R151). -/
def Net.segment (n : Net) (box : Option Heat) (c : Pos) (a : Axis) (t : Nat) : Option (List Hop × Pos) :=
  if Pos.on c a = t then some ([], c)
  else (n.dirTo box c a t).map fun plus => n.walk a plus (hopsTo (n.r.extent a) (Pos.on c a) t plus) c

/-- A route between two endpoints: X, then Y, then Z (R151). -/
def Net.route (n : Net) (box : Option Heat) (c d : Pos) : Option (List Hop) :=
  (n.segment box c .x (Pos.on d .x)).bind fun x =>
    (n.segment box x.2 .y (Pos.on d .y)).bind fun y =>
      (n.segment box y.2 .z (Pos.on d .z)).map fun z => x.1 ++ y.1 ++ z.1

/-! ## Hub paths -/

/-- Ports of a switch that lead to a Chrohar port, both up: switch port and Chrohar port, ascending (R154, R155). -/
def Net.switchUps (n : Net) (sw : Nat) : List (Nat × Nat) :=
  sortBy (fun p q => p.1 ≤ q.1) (n.r.edges.filterMap fun w =>
    match w.far with
    | .chrohar c => if w.sw = sw ∧ n.width sw w.port ≠ 0 ∧ n.chWidth c ≠ 0 then some (w.port, c) else none
    | _ => none)

/-- Connections of an endpoint to switches, both ends up: edge port, switch, switch port, by edge port. -/
def Net.edgeUps (n : Net) (e : Nat) : List (Nat × Nat × Nat) :=
  sortBy (fun p q => p.1 ≤ q.1) (n.r.edges.filterMap fun w =>
    match w.far with
    | .entry f k =>
      if f = e ∧ n.width e k ≠ 0 ∧ n.width w.sw w.port ≠ 0 ∧ n.switchUps w.sw ≠ [] then some (k, w.sw, w.port) else none
    | _ => none)

def Net.isGateway (n : Net) (e : Nat) : Bool := n.edgeUps e != []

/-- A gateway that a Z segment can reach: cost, direction, and its position. -/
structure Reach where
  cost : Nat
  plus : Bool
  at'  : Pos
deriving DecidableEq, Repr

/-- The gateways of an endpoint's Z line with both ways to each (R154); inside a heat, only in its box. -/
def Net.reaches (n : Net) (box : Option Heat) (c : Pos) : List Reach :=
  ((List.range n.r.ez).filter fun z => z != Pos.on c .z).flatMap fun z =>
    let g := Pos.put c .z z
    if (n.r.at g).any n.isGateway && box.all (fun h => h.holds g) then
      ([true, false].filter fun plus => match box with
        | some h => n.owns h .z || plus == decide (Pos.on c .z < z)
        | none => true).map fun plus => { cost := n.costTo c .z z plus, plus := plus, at' := g }
    else []

/-- The upward Z segment of an endpoint and its gateway (R154): least cost, minus first on a tie. -/
def Net.upSeg (n : Net) (c : Pos) : Option (List Hop × Pos) :=
  match n.r.at c with
  | none => none
  | some e =>
    if n.isGateway e then some ([], c)
    else
      let rs := (n.reaches (n.heatAt c) c).filter fun x => x.cost < inf
      let least := rs.foldl (fun m x => min m x.cost) inf
      let best := (rs.find? fun x => x.cost == least && !x.plus).or (rs.find? fun x => x.cost == least)
      best.map fun x => n.walk .z x.plus (hopsTo n.r.ez (Pos.on c .z) (Pos.on x.at' .z) x.plus) c

/-- The endpoint has a hub path (R156). -/
def Net.hubPath (n : Net) (e : Nat) : Bool :=
  !n.out.contains e && (if n.r.isSwitch e then n.switchUps e != []
    else match n.r.posOf e with
      | some c => (n.upSeg c).isSome
      | none => false)

/-- Hub distance of an agent (R172). -/
def Net.hubDist (n : Net) (e : Nat) : Nat :=
  if n.r.isSwitch e then 1
  else
    match (n.r.posOf e).bind n.upSeg with
    | some seg => 2 + seg.1.length
    | none => 0

/-- Item `i` of a list, by index modulo its length (R155). -/
def pick {α : Type} (l : List α) (i : Nat) : Option α := l[i % l.length]?

/-- Chrohar ports whose switch reaches an endpoint's edge ports, with the switch, in ascending order of the Chrohar port's number;
R155 names no order there (DESIGN CHOICE, log entry 142). -/
def Net.downPorts (n : Net) (g : Nat) : List (Nat × Nat) :=
  let sws := ((n.edgeUps g).map (·.2.1)).eraseDups
  sortBy (fun p q => p.1 ≤ q.1) (sws.flatMap fun sw => (n.switchUps sw).map fun x => (x.2, sw))

/-- The down path to an entry: the Chrohar port, and the hops from the switch on (R154, R155). The switch's candidates, its own
ports that lead to the gateway's edge ports, are taken in ascending order of the switch's port number; R155 names no order
there (DESIGN CHOICE, log entry 142). -/
def Net.downPath (n : Net) (d : Nat) : Option (Nat × List Hop) :=
  if n.out.contains d then none
  else if n.r.isSwitch d then
    (pick (sortNat ((n.switchUps d).map (·.2))) d).map fun p => (p, [])
  else
    (n.r.posOf d).bind fun c =>
      (n.upSeg c).bind fun seg =>
        let gpos := seg.2
        (n.r.at gpos).bind fun g =>
          (pick (n.downPorts g) d).bind fun x =>
            let ports := sortNat (((n.edgeUps g).filter fun u => u.2.1 == x.2).map (·.2.2))
            (pick ports d).map fun sp =>
              let down := ((n.segment (n.heatAt c) gpos .z (Pos.on c .z)).map (·.1)).getD []
              (x.1, (x.2, sp) :: down)

/-! ## Ranks -/

/-- Rank of a torus hop at a coordinate and channel (Table 4-2). -/
def torusRank (ext : Nat) (a : Axis) (plus : Bool) (x : Nat) (ch1 : Bool) : Nat :=
  100 + 32 * a.no +
    (if plus then (if !ch1 then x else if x = ext - 1 then ext else ext + 1 + x)
     else (if !ch1 then ext - 1 - x else if x = 0 then ext else ext + (ext - x)))

/-- A hop out of an endpoint's torus port leaves over the dateline (R160). -/
def datelineAt (ext x : Nat) (plus : Bool) : Bool := if plus then x == ext - 1 else x == 0

/-- Rank, axis and channel of a hop (Table 4-2), after a hop on an axis and channel. -/
def Net.hopRank (n : Net) (x : Hop) (ax : Nat) (ch1 : Bool) : Nat × Nat × Bool :=
  if x.1 = chroharHop then (0, 3, false)
  else
    match n.r.posOf x.1 with
    | none => (if n.r.edges.any fun w => w.sw == x.1 && w.port == x.2 && (w.far matches .chrohar _) then 201 else 1, 3, false)
    | some c =>
      if 6 ≤ x.2 then (200, 3, false)
      else
        let a : Axis := if x.2 / 2 = 0 then .x else if x.2 / 2 = 1 then .y else .z
        let plus := x.2 % 2 == 0
        let ch := (a.no == ax && ch1) || datelineAt (n.r.extent a) (Pos.on c a) plus
        (torusRank (n.r.extent a) a plus (Pos.on c a) ch, a.no, ch)

/-- The first hop of a path whose rank does not rise strictly (R160), from a least rank on; the last axis and channel come in. -/
def Net.rankBreak (n : Net) : List Hop → Nat → Nat → Bool → Option Hop
  | [], _, _, _ => none
  | x :: r, least, ax, ch1 =>
    let k := n.hopRank x ax ch1
    if k.1 < least then some x else n.rankBreak r (k.1 + 1) k.2.1 k.2.2

/-! ## Entries -/

/-- One entry of an agent's tables: the agent, the key 65,536 × kind + index, and the value. -/
abbrev Item := Nat × Nat × BitVec 64

/-- A route entry that forwards out of a port, and one that delivers (Table 4-5). -/
def forwardEntry (port : Nat) : BitVec 64 := BitVec.ofNat 64 (1 + 4 * (port % 16))

def localEntry : BitVec 64 := 3

/-- Unit values of the hub units (Table 2-9). -/
def hubUnits : List Nat := [0] ++ (List.range 4).map (0x10 + ·) ++ (List.range 16).map (0x20 + ·)

def routeItem (d : Nat) (h : Hop) : Item := (h.1, 65536 + d, forwardEntry h.2)

/-- Entries of the down path to an agent and of its own delivery (R159). -/
def Net.downItems (n : Net) (d : Nat) : List Item :=
  match n.downPath d with
  | some p => (d, 65536 + d, localEntry) :: p.2.map (routeItem d)
  | none => []

/-- Hub route entries along an agent's hub path (R155, R159). -/
def Net.upItems (n : Net) (e : Nat) : List Item :=
  let item (a u port : Nat) : Item := (a, 2 * 65536 + (0x100 * n.slot + u), forwardEntry port)
  let switchItems (sw : Nat) : List Item :=
    hubUnits.filterMap fun u => (pick (n.switchUps sw) u).map fun x => item sw u x.1
  if n.r.isSwitch e then switchItems e
  else
    match (n.r.posOf e).bind n.upSeg with
    | none => []
    | some seg =>
      match n.r.at seg.2 with
      | none => []
      | some g =>
        seg.1.flatMap (fun h => hubUnits.map fun u => item h.1 u h.2) ++
          hubUnits.filterMap (fun u => (pick (n.edgeUps g) u).map fun x => item g u x.1) ++
          ((n.edgeUps g).map (·.2.1)).eraseDups.flatMap switchItems

/-- Entries of the routes inside a heat (R153, R159). -/
def Net.heatItems (n : Net) (h : Heat) : List Item :=
  h.cells.flatMap fun d =>
    match n.r.at d with
    | none => []
    | some de => h.cells.flatMap fun c => ((n.route (some h) c d).getD []).map (routeItem de)

/-- Entries along a bridging run between a spare and a neighbour: EID routes to its end follow the run (R244), and on a run toward
the spare so do those to the failed endpoint's EID, for the tallies that neighbours address to it (R375). At an agent of the
hub's own path to that endpoint they lead to the endpoint, which goes on as a forwarding agent (DESIGN CHOICE, log entry 174).
`failed` gives the failed endpoint in whose place the end of a run stands. -/
def Net.bridgeItems (n : Net) (failed : Run → Option Nat) (runs : Tab Run) : List Item :=
  (runs.filter fun e => e.2.bridge).flatMap fun e => e.2.path.map (routeItem e.2.dest) ++
    match failed e.2 with
    | some f =>
      let down := ((n.downPath f).map fun p => p.2.map fun x => x.1).getD []
      (e.2.path.filter fun x => !down.contains x.1).map (routeItem f)
    | none => []

/-- Port attributes of an agent (R160, Table 4-8). -/
def Net.attrItems (n : Net) (e : Nat) : List Item :=
  (List.range 16).map fun p =>
    let v : BitVec 8 := match n.r.posOf e with
      | none => 0
      | some c =>
        if 6 ≤ p then 0
        else
          let a : Axis := if p / 2 = 0 then .x else if p / 2 = 1 then .y else .z
          let plus := p % 2 == 0
          at' 8 0 (BitVec.ofNat 2 (a.no + 1)) ||| at' 8 2 (bit (datelineAt (n.r.extent a) (Pos.on c a) plus)) |||
            at' 8 3 (bit plus)
    (e, 5 * 65536 + p, v.setWidth 64)

/-! ## Groups -/

/-- The positions of a group's line inside its heat, as pod positions (R157). -/
def lineCells (h : Heat) (g : PlanGroup) : List Pos :=
  let place (i : Nat) : Pos := match g.axis with
    | .x => (h.ox + i, h.oy + g.at1, h.oz + g.at2)
    | .y => (h.ox + g.at1, h.oy + i, h.oz + g.at2)
    | .z => (h.ox + g.at1, h.oy + g.at2, h.oz + i)
  (List.range (h.ext g.axis)).map place

/-- The gateway that roots a group the hub sends to: the one lowest along the line (R157). -/
def Net.hubRoot (n : Net) (h : Heat) (g : PlanGroup) : Option Nat :=
  ((lineCells h g).filterMap n.r.at).find? n.isGateway

/-- A group entry (Table 4-6). -/
def groupEntry (own : Option Nat) (a b : Option (Nat × BitVec 16)) : BitVec 64 :=
  let portField (lo : Nat) (x : Option (Nat × BitVec 16)) : BitVec 64 := match x with
    | some (p, m) => at' 64 lo (BitVec.ofNat 4 p) ||| at' 64 (lo + 4) m
    | none => 0
  at' 64 0 1#1 ||| at' 64 1 (bit own.isSome) ||| at' 64 2 (BitVec.ofNat 4 (own.getD 0)) ||| portField 6 a ||| portField 26 b

/-- Mask of positions. -/
def maskOf (ps : List Nat) : BitVec 16 := ps.foldl (fun m i => m ||| (1#16 <<< i)) 0

/-- For one agent of a tree: the positions reached through a port. -/
def maskThrough (paths : List (Nat × List Hop)) (e port : Nat) : BitVec 16 :=
  maskOf ((paths.filter fun x => x.2.contains (e, port)).map (·.1))

/-- Entries of one group's tree (R157). -/
def Net.groupItems (n : Net) (id : Nat) (g : Group) : List Item :=
  match tget n.heats g.heat, n.r.posOf g.root with
  | some h, some rc =>
    let a := g.line.axis
    let cells := lineCells h g.line
    let paths := cells.filterMap fun c =>
      (n.segment (some h) rc a (Pos.on c a)).map fun sg => (Pos.on c a, sg.1)
    let key := 3 * 65536 + id
    let onLine := cells.filterMap fun c => (n.r.at c).map fun e =>
      let ports := [torusPort a true, torusPort a false].filterMap fun p =>
        let m := maskThrough paths e p
        if m = 0 then none else some (p, m)
      (e, key, groupEntry (some (Pos.on c a)) ports[0]? ports[1]?)
    let down := match g.line.sender, n.downPath g.root with
      | none, some p => p.2.map fun h => (h.1, key, groupEntry none (some (h.2, maskOf (paths.map (·.1)))) none)
      | _, _ => []
    onLine ++ down
  | _, _ => []

/-! ## Whole tables -/

/-- Put items into the agents' tables; the first item of a key stands. -/
def putItems (t : Tab (Tab (BitVec 64))) (xs : List Item) : Tab (Tab (BitVec 64)) :=
  xs.foldl (fun t x =>
    let a := (tget t x.1).getD []
    if (tget a x.2.1).isSome then t else tset t x.1 (tset a x.2.1 x.2.2)) t

/-- The model with the entry that is readmitted routed through, in no heat. -/
def Net.withLeaf (n : Net) (e : Nat) : Net :=
  { n with
    out := n.out.filter (· != e), leaf := none
    heats := match n.r.posOf e with
      | some c => n.heats.filter fun h => !h.2.holds c
      | none => n.heats }

/-- The entries of the hub path of the entry that is readmitted (R250 step 1): nothing else is routed through it yet. -/
def Net.leafItems (n : Net) : List Item :=
  match n.leaf with
  | none => []
  | some e => (n.withLeaf e).downItems e ++ (n.withLeaf e).upItems e

/-- The Chrohar port toward an entry. -/
def Net.downPort (n : Net) (d : Nat) : Option Nat :=
  ((if n.leaf = some d then n.withLeaf d else n).downPath d).map (·.1)

/-- Every table entry of every agent that is routed through. -/
def Net.tables (n : Net) (failed : Run → Option Nat) (runs : Tab Run) (groups : Tab Group) : Tab (Tab (BitVec 64)) :=
  let live := (List.range n.r.agents.length).filter fun e => !n.out.contains e
  let t := putItems [] (live.flatMap n.downItems)
  let t := putItems t (live.flatMap n.upItems ++ n.leafItems)
  let t := n.heats.foldl (fun t h => putItems t (n.heatItems h.2)) t
  let t := putItems t (n.bridgeItems failed runs)
  let t := groups.foldl (fun t g => putItems t (n.groupItems g.1 g.2)) t
  putItems t (live.flatMap n.attrItems)

/-- The link tiles' hub route table (R165): the Chrohar port of each EID, and of other modules' hub EIDs (R155). The peer links to
a slot are taken in ascending order of the port number; R155 names no order there (DESIGN CHOICE, log entry 142). -/
def Net.tileTable (n : Net) : Tab Nat :=
  let own := ((List.range n.r.agents.length).filterMap fun d => (n.downPort d).map fun p => (d, p))
  let peers := ((List.range 4).filter (· != n.slot)).flatMap fun sl =>
    let ports := ((n.r.peers.filter fun x => x.2 == sl).map fun x => 4 * x.1).filter fun p => n.chWidth p != 0
    hubUnits.filterMap fun u => (pick (sortNat ports) u).map fun p => (0x3F000 + 0x100 * sl + u, p)
  (own ++ peers).foldl (fun t x => tset t x.1 x.2) []

/-- Pairs of endpoints in one heat without a route, by entry (R168). -/
def Net.unrouted (n : Net) : List (Nat × Nat) :=
  n.heats.flatMap fun h => h.2.cells.flatMap fun c => h.2.cells.filterMap fun d =>
    match n.r.at c, n.r.at d with
    | some a, some b => if a ≠ b ∧ (n.route (some h.2) c d).isNone then some (a, b) else none
    | _, _ => none

/-- Endpoints without a hub path (R168). -/
def Net.unhubbed (n : Net) : List Nat :=
  (List.range n.r.agents.length).filter fun e => !n.r.isSwitch e && !n.hubPath e

/-- The down path of an entry from its Chrohar port on. -/
def Net.fromHub (n : Net) (d : Nat) : List Hop :=
  ((n.downPath d).map fun p => (chroharHop, p.1) :: p.2).getD []

/-- The up paths of an endpoint, to the Chrohar port. -/
def Net.toHub (n : Net) (e : Nat) : List (List Hop) :=
  match (n.r.posOf e).bind n.upSeg with
  | none => []
  | some sg =>
    match n.r.at sg.2 with
    | none => []
    | some g => (n.edgeUps g).flatMap fun u => (n.switchUps u.2.1).map fun x => sg.1 ++ [(g, u.1), (u.2.1, x.1)]

/-- Every path that the rank check looks at (R160), with the entry it starts at or leads to and its end: the routes inside
heats, the hub paths both ways, the trees and the run paths. -/
def Net.allPaths (n : Net) (runs : Tab Run) (groups : Tab Group) : List (Nat × Nat × List Hop) :=
  let entry (c : Pos) : Nat := (n.r.at c).getD chroharHop
  let es := List.range n.r.agents.length
  (n.heats.flatMap fun h => h.2.cells.flatMap fun c => h.2.cells.map fun d =>
    (entry c, entry d, (n.route (some h.2) c d).getD [])) ++
  (es.map fun e => (chroharHop, e, n.fromHub e)) ++ (es.flatMap fun e => (n.toHub e).map fun p => (e, chroharHop, p)) ++
  (groups.flatMap fun g => match tget n.heats g.2.heat, n.r.posOf g.2.root with
    | some h, some rc => (lineCells h g.2.line).map fun c =>
        let seg := ((n.segment (some h) rc g.2.line.axis (Pos.on c g.2.line.axis)).map (·.1)).getD []
        (g.2.root, entry c, (if g.2.line.sender.isNone then n.fromHub g.2.root else []) ++ seg)
    | _, _ => []) ++
  runs.map fun r => (((r.2.path.head?).map (·.1)).getD chroharHop, r.2.dest, r.2.path)

/-- The entries that fail the rank check (R168): the agent whose entry takes a path to a rank that does not rise, and where that path
leads. -/
def Net.rankFaults (n : Net) (runs : Tab Run) (groups : Tab Group) : List (Nat × Nat) :=
  ((n.allPaths runs groups).filterMap fun x => (n.rankBreak x.2.2 0 3 false).map fun h => (h.1, x.2.1)).eraseDups

/-- Groups with their roots as the model now stands (R157). -/
def Net.rooted (n : Net) (groups : Tab Group) : Tab Group :=
  tmap (fun _ g => match g.line.sender, tget n.heats g.heat with
    | none, some h => { g with root := (n.hubRoot h g.line).getD g.root }
    | _, _ => g) groups

end Sys2Proof.Machine
end

