-- ==== Sys2Proof/Machine/HubFlow.lean ====
section
/-! DEFINITION. What Chrohar's hub units send: packets out of the link tiles, flows of the hub units, and the manager's
TABLE billets and CTRL tallies (02_fabric_protocol.md R88 to R98; 04_routing.md R155, R163, R165, R172). -/

namespace Sys2Proof.Machine

open Sys2Proof

/-- EID of a hub unit of this module (Table 2-9). -/
def State.unitEid (s : State) (u : Nat) : Eid := BitVec.ofNat 18 (0x3F000 + 0x100 * s.quadSlot + u)

def State.mgrEid (s : State) : Eid := s.unitEid 0

/-- The epoch that hub units stamp; before the first flip after a discovery, that of the tables being loaded (R174). -/
def State.hubEpoch (s : State) : BitVec 2 :=
  if s.link.current.dest.isEmpty then s.link.other.epoch else s.link.current.epoch

/-- Where a hub unit's packet goes (R155, R157, R165): a multicast takes the down path of its group's root. -/
def State.hubDest (s : State) (p : Pkt) : Option Nat :=
  match p.c.mcast, pktHdr p with
  | true, some h => (tget s.mgr.groups h.mgroup.toNat).map (·.root)
  | _, _ => some p.c.dst.toNat

/-- Send a hub unit's packet out of its Chrohar port; one without an entry is dropped (R72). -/
def State.hubSend (s : State) (p : Pkt) : State :=
  match (s.hubDest p).bind fun d => (s.link.tableOf p.c.epoch).bind fun t => tget t.dest d with
  | some port => { s with link := s.link.enqueue port p none }
  | none => s

/-- Put the outcome of a hub source record: the record and what it sends. -/
def State.hubLaunch (s : State) (st : SrcStep) : State :=
  st.send.foldl State.hubSend { s with hub := { s.hub with srcs := putSrc s.hub.srcs st.flow } }

/-- Positions of a group that are fenced in the model (R108): a new record of a hub unit leaves them out from its start. -/
def State.groupFenced (s : State) (key : FlowKey) : BitVec 16 :=
  if !key.mcast then 0
  else
    match s.mgr.record, tget s.mgr.groups key.peer.toNat with
    | some r, some g =>
      match tget s.mgr.heats g.heat with
      | some h => maskOf (((lineCells h g.line).filter fun c => (r.at c).any h.fenced.contains).map fun c => Pos.on c g.line.axis)
      | none => 0
    | _, _ => 0

/-- Offer a packet to its hub flow: the state after, the number that the packet takes, and what ended at once. -/
def State.hubOffer (s : State) (p : Pkt) (baseUs : Nat) : State × Seq × List Finished :=
  let f := srcFrom s.hub.srcs (flowKeyOf p) baseUs (s.groupFenced (flowKeyOf p))
  let st := srcOffer s.hubEpoch f p none
  (s.hubLaunch st, f.next + BitVec.ofNat 32 f.waiting.length, st.done)

/-! ## The manager's packets -/

/-- A CTRL operation to an agent (Table 9-4). -/
def State.sendCtrl (s : State) (entry : Nat) (op : BitVec 8) (args : BitVec 128) : State :=
  (s.hubOffer (mkTally (common mgrKey s.hubEpoch s.mgrEid (BitVec.ofNat 18 entry) tCtrl) 0 (at' 128 0 op ||| args)) 20).1

/-- The TABLE descriptor (Table 4-3). -/
def tableWord (kind : Nat) (epoch : BitVec 2) (count first : Nat) : BitVec 128 :=
  at' 128 0 (BitVec.ofNat 4 kind) ||| at' 128 4 epoch ||| at' 128 16 (BitVec.ofNat 16 count) |||
    at' 128 32 (BitVec.ofNat 32 first)

/-- A TABLE billet to an agent (R163): consecutive entries of one kind, stamped with an epoch (R172). Its number. -/
def State.sendTable (s : State) (entry : Nat) (stamp : BitVec 2) (kind first : Nat) (vals : List (List Byte)) :
    State × Seq :=
  let slotEpoch := if kind ≤ 3 then stamp else 0
  let payload := bvBytes (tableWord kind slotEpoch vals.length first) ++ vals.flatten
  let p := mkBillet (common mgrKey stamp s.mgrEid (BitVec.ofNat 18 entry) bTable) 0
    { zeroHdr with plen := plenFor payload.length } payload
  let r := s.hubOffer p 20
  (r.1, r.2.1)

/-- Bytes of one entry by kind (Table 4-4). -/
def kindBytes (kind : Nat) : Nat := if kind = 3 then 8 else if kind = 4 then 4 else if kind = 6 then 32 else 1

/-- Split (index, value) pairs, in ascending order, into stretches of consecutive indices of at most `most` entries. -/
def stretches {α : Type} (most : Nat) : List (Nat × α) → List (Nat × List α)
  | [] => []
  | (i, v) :: r =>
    match stretches most r with
    | [] => [(i, [v])]
    | (j, vs) :: q => if j = i + 1 ∧ vs.length < most then (i, v :: vs) :: q else (i, [v]) :: (j, vs) :: q

/-- Entries of a kind that an agent's target has otherwise than it was last loaded; an entry that is gone becomes zero. -/
def changedEntries (kind : Nat) (old new : Tab (BitVec 64)) : List (Nat × BitVec 64) :=
  let keys := sortNat ((tkeys old ++ tkeys new).eraseDups.filter fun k => k / 65536 == kind)
  keys.filterMap fun k =>
    let v := (tget new k).getD 0
    if (tget old k).getD 0 = v then none else some (k % 65536, v)

/-- Send stretches of one kind, and gather the ACKs to wait for. -/
def State.sendStretches (s : State) (entry : Nat) (stamp : BitVec 2) (kind : Nat) (xs : List (Nat × List (BitVec 64))) :
    State × List Wait :=
  xs.foldl (fun r x =>
    let k := r.1.sendTable entry stamp kind x.1 (x.2.map fun v => bytesAt (bvBytes v) 0 (kindBytes kind))
    (k.1, r.2 ++ [.ack entry k.2])) (s, [])

/-- The hub route entries of an agent's first TABLE billet of a loading (R173): one stretch from the first that has changed to the
last, for the table holds 1,024 entries of a byte. -/
def hubStretch (old new : Tab (BitVec 64)) : List (Nat × List (BitVec 64)) :=
  let ks := (changedEntries 2 old new).map (·.1)
  match ks.head?, ks.getLast? with
  | some a, some b => [(a, (List.range (b - a + 1)).map fun i => (tget new (2 * 65536 + a + i)).getD 0)]
  | _, _ => []

/-- Load an agent's changed entries of a new epoch, the hub route entries first (R172, R173). -/
def State.loadAgent (s : State) (entry : Nat) (stamp : BitVec 2) : State × List Wait :=
  let old := (tget s.mgr.loaded entry).getD []
  let new := (tget s.mgr.target entry).getD []
  let r := [2, 1, 3, 5].foldl (fun r kind =>
    let xs := if kind = 2 then hubStretch old new
      else stretches ((4096 - 16) / kindBytes kind) (changedEntries kind old new)
    let k := r.1.sendStretches entry stamp kind xs
    (k.1, r.2 ++ k.2)) (s, [])
  let m := r.1.mgr
  ({ r.1 with mgr := { m with loaded := tset m.loaded entry new } }, r.2)

/-- Write run entries at an agent, outside any epoch (R186). -/
def State.sendRun (s : State) (entry run : Nat) (v : BitVec 32) : State × List Wait :=
  let k := s.sendTable entry s.hubEpoch 4 run [bvBytes v]
  (k.1, [.ack entry k.2])

/-- Write one entry of an agent's lane key table (R209), and keep it as loaded. -/
def State.sendKey (s : State) (entry index : Nat) (v : BitVec 256) : State × List Wait :=
  let k := s.sendTable entry s.hubEpoch 6 index [bvBytes v]
  let m := k.1.mgr
  ({ k.1 with mgr := { m with
    loadedKeys := tset m.loadedKeys entry (tset ((tget m.loadedKeys entry).getD []) index v) } }, [.ack entry k.2])

/-- Do something that sends for each item, and gather what to wait for. -/
def State.sendAll {α : Type} (f : State → α → State × List Wait) (s : State) (xs : List α) : State × List Wait :=
  xs.foldl (fun r x =>
    let k := f r.1 x
    (k.1, r.2 ++ k.2)) (s, [])

/-- Entries that the manager sends to: reached, not refused, and forwarding (Table 6-4), and one that is readmitted once
its tables are seeded (R250). -/
def State.liveEntries (s : State) : List Nat :=
  (s.mgr.entries.filter fun e => e.2.forwards || (s.mgr.seeded && s.mgr.readmit == some e.1)).map (·.1)

/-- A CTRL operation to every agent, and its replies to wait for. -/
def State.ctrlAll (s : State) (op : BitVec 8) (args : BitVec 128) : State × List Wait :=
  s.sendAll (fun s e => (s.sendCtrl e op args, [.reply e op])) s.liveEntries

/-! ## Clearing flows -/

/-- FLOW_CLEAR arguments (Table 9-4). -/
def clearArgs (peer : Eid) (key : LaneKey) (anyKey src dst : Bool) (group : Option (BitVec 12)) : BitVec 128 :=
  at' 128 8 peer ||| at' 128 26 key ||| at' 128 38 (bit anyKey) ||| at' 128 39 (bit src) ||| at' 128 40 (bit dst) |||
    at' 128 41 (bit group.isSome) ||| at' 128 42 (group.getD 0)

/-- Free hub flow records that fit, on both sides (R88, R102). -/
def State.dropHubFlows (s : State) (src : SrcFlow → Bool) (dst : DstFlow → Bool) : State :=
  { s with hub := { s.hub with srcs := s.hub.srcs.filter fun f => !src f, dsts := s.hub.dsts.filter fun d => !dst d } }

end Sys2Proof.Machine
end

