-- ==== Sys2Proof/Machine/Heats.lean ====
section
/-! DEFINITION. Heats: the carve request, the rank map, placement, transit runs, capacities, and the lane keys that the
manager gives every port (05_heats.md R190 to R211, R563). -/

namespace Sys2Proof

/-- A declared spare (R143): its row's index, or its plane. -/
def Spares.holds (sp : Spares) (r : InstRecord) (c : Pos) : Bool :=
  match sp with
  | .none => false
  | .row .x idx => idx[c.2.1 + r.ey * c.2.2]? == some c.1
  | .row .y idx => idx[c.1 + r.ex * c.2.2]? == some c.2.1
  | .row .z idx => idx[c.1 + r.ex * c.2.1]? == some c.2.2
  | .plane a k => Pos.on c a == k

def InstRecord.isSpare (r : InstRecord) (c : Pos) : Bool := r.spares.holds r c

end Sys2Proof

namespace Sys2Proof.Machine

open Sys2Proof

/-! ## Tenant records (Table 5-1) -/

/-- The tenant record of a tenant in a table of them; the default allows hosting and guesting and no carve. -/
def tenantRec (t : Tab (BitVec 64)) (n : Nat) : BitVec 64 := (tget t n).getD 0b110

def recEnabled (v : BitVec 64) : Bool := v.getLsbD 0
def recHostOk (v : BitVec 64) : Bool := v.getLsbD 1
def recGuestOk (v : BitVec 64) : Bool := v.getLsbD 2
def recHeats (v : BitVec 64) : Nat := (field v 16 13).toNat
def recEndpoints (v : BitVec 64) : Nat := (field v 32 13).toNat

/-- A record that TENANT_SET takes: no reserved bit and no limit above 4,096 (R193). -/
def recGood (v : BitVec 64) : Bool :=
  field v 3 13 == 0 && field v 29 3 == 0 && field v 45 19 == 0 && recHeats v ≤ 4096 && recEndpoints v ≤ 4096

/-! ## The carve request (Table 5-2) -/

def carveTenant (w : BitVec 64) : Nat := (field w 0 10).toNat

def carveExt (w : BitVec 64) (a : Axis) : Nat := (field w (10 + 5 * a.no) 5).toNat

def carveCode (w : BitVec 64) (a : Axis) : Nat := (field w (25 + 2 * a.no) 2).toNat

def carveOrder (w : BitVec 64) : Nat := (field w 31 3).toNat

def carveFlip (w : BitVec 64) (a : Axis) : Bool := w.getLsbD (34 + a.no)

def carvePlace (w : BitVec 64) : Bool := w.getLsbD 37

def carveOrigin (w : BitVec 64) (a : Axis) : Nat := (field w (38 + 4 * a.no) 4).toNat

/-! ## The rank map (R195) -/

/-- The axes from fastest to slowest varying. -/
def rankAxes (order : Nat) : Axis × Axis × Axis :=
  match order with
  | 0 => (.x, .y, .z)
  | 1 => (.x, .z, .y)
  | 2 => (.y, .x, .z)
  | 3 => (.y, .z, .x)
  | 4 => (.z, .x, .y)
  | _ => (.z, .y, .x)

/-- Heat-relative coordinate of a position on an axis. -/
def Heat.rel (h : Heat) (c : Pos) (a : Axis) : Nat :=
  let u := Pos.on c a - h.lo a
  if carveFlip h.codes a then h.ext a - 1 - u else u

def Heat.rankAt (h : Heat) (c : Pos) : Nat :=
  let o := rankAxes (carveOrder h.codes)
  h.rel c o.1 + h.ext o.1 * (h.rel c o.2.1 + h.ext o.2.1 * h.rel c o.2.2)

def Heat.size (h : Heat) : Nat := h.kx * h.ky * h.kz

/-- The position of a rank. -/
def Heat.cellOf (h : Heat) (r : Nat) : Pos :=
  let o := rankAxes (carveOrder h.codes)
  let place (c : Pos) (a : Axis) (u : Nat) : Pos :=
    Pos.put c a (h.lo a + (if carveFlip h.codes a then h.ext a - 1 - u else u))
  place (place (place (0, 0, 0) o.1 (r % h.ext o.1)) o.2.1 (r / h.ext o.1 % h.ext o.2.1)) o.2.2
    (r / (h.ext o.1 * h.ext o.2.1))

/-- The entry that carries a rank: a spare after a splice (R244), or the endpoint at the rank's position. -/
def Heat.entryOf (h : Heat) (r : InstRecord) (rank : Nat) : Option Nat :=
  match h.spliced.find? fun x => x.1 == rank with
  | some x => some x.2
  | none => if rank < h.size then r.at (h.cellOf rank) else none

/-- The rank that an entry carries. -/
def Heat.rankOf (h : Heat) (r : InstRecord) (e : Nat) : Option Nat :=
  match h.spliced.find? fun x => x.2 == e with
  | some x => some x.1
  | none =>
    (r.posOf e).bind fun c =>
      if h.holds c && !(h.spliced.any fun x => x.1 == h.rankAt c) then some (h.rankAt c) else none

/-- The endpoints that carry the heat's ranks. -/
def Heat.carriers (h : Heat) (r : InstRecord) : List Nat := (List.range h.size).filterMap (h.entryOf r)

/-- Ranks and spares of the splices that are done, and of the one under way (R244). -/
def Heat.splices (h : Heat) : List (Nat × Nat) := h.spliced ++ h.joining.toList

/-- The failed endpoint in whose place the end of a bridging run stands (R244). -/
def Net.replacedBy (n : Net) (r : Run) : Option Nat :=
  (tget n.heats r.heat).bind fun h => (h.splices.find? fun x => x.2 == r.dest).bind fun x => n.r.at (h.cellOf x.1)

/-- The endpoints of the heat: those at its positions, and the spares spliced into it or about to be. -/
def Heat.members (h : Heat) (r : InstRecord) : List Nat := h.cells.filterMap r.at ++ h.splices.map (·.2)

/-! ## Runs and shares (R183, R202, R203) -/

/-- Lanes that runs reserve on an output port, of the runs that fit. -/
def reservedBy (runs : Tab Run) (p : Run → Bool) (e port : Nat) : Nat :=
  ((runs.filter fun r => p r.2 && r.2.path.contains (e, port)).map (·.2.share)).sum

/-- Free lanes for runs on an output port: trained width less 1, less the shares in use (R183). -/
def Net.freeShare (n : Net) (runs : Tab Run) (h : Hop) : Nat := n.width h.1 h.2 - 1 - reservedBy runs (fun _ => true) h.1 h.2

def portAxis (p : Nat) : Axis := if p / 2 = 0 then .x else if p / 2 = 1 then .y else .z

/-- Where a torus hop arrives: entry and port. -/
def Net.hopEnd (n : Net) (h : Hop) : Option Hop :=
  (n.r.posOf h.1).bind fun c =>
    (n.r.at (n.next c (portAxis h.2) (h.2 % 2 == 0))).map fun e => (e, torusPort (portAxis h.2) (h.2 % 2 != 0))

/-- The link of a torus hop is up at both ends. -/
def Net.hopUp (n : Net) (h : Hop) : Bool :=
  n.width h.1 h.2 != 0 && (n.hopEnd h).any fun x => n.width x.1 x.2 != 0

/-- The two runs that close a line by transit (R202): hops and the position where each ends. -/
def Net.closers (n : Net) (h : Heat) (a : Axis) (c : Pos) : List (List Hop × Pos) :=
  let len := n.r.extent a - h.ext a + 1
  [n.walk a true len (Pos.put c a (h.lo a + h.ext a - 1)), n.walk a false len (Pos.put c a (h.lo a))]

/-- A line can be closed by transit (R203). -/
def Net.canClose (n : Net) (runs : Tab Run) (hostOk : Nat → Bool) (h : Heat) (a : Axis) (c : Pos) : Bool :=
  ((List.range (n.r.extent a)).filter fun v => v < h.lo a || h.lo a + h.ext a ≤ v).all (fun v =>
    match n.r.at (Pos.put c a v) with
    | some e => !n.out.contains e && (n.heatAt (Pos.put c a v)).all fun g => hostOk g.tenant
    | none => false) &&
  (n.closers h a c).all fun r => r.1.all fun x => n.hopUp x && 2 ≤ n.freeShare runs x

/-- One position of each line of a heat along an axis, in the order of R202. -/
def Heat.lines (h : Heat) (a : Axis) : List Pos := h.cells.filter fun c => Pos.on c a == h.lo a

/-! ## Placement (R200, R201) -/

/-- What the placement of one request works on: the model, the runs, the tenant records in force when the request entered
the queue, and which entries may be carved. -/
structure Placing where
  n       : Net
  runs    : Tab Run
  records : Tab (BitVec 64)
  able    : List Nat
deriving DecidableEq, Repr

/-- A closure code matters on an axis with 2 ≤ KA < EA only. -/
def Placing.closable (q : Placing) (w : BitVec 64) (a : Axis) : Bool := 2 ≤ carveExt w a && carveExt w a < q.n.r.extent a

/-- The axes that a pass closes by transit (R201). -/
def Placing.transits (q : Placing) (w : BitVec 64) (pass1 : Bool) : List Axis :=
  axes.filter fun a => q.closable w a && (carveCode w a == 1 || (carveCode w a == 2 && pass1))

/-- Runs that closing some axes takes: two for each line (R202). -/
def runsFor (w : BitVec 64) (as : List Axis) : Nat :=
  (as.map fun a => 2 * (carveExt w .x * carveExt w .y * carveExt w .z / carveExt w a)).sum

/-- The heat that a request gives at an origin. -/
def carveHeat (w : BitVec 64) (seq : Nat) (o : Pos) (closed : List Nat) : Heat :=
  { tenant := carveTenant w, seq := seq, ox := o.1, oy := o.2.1, oz := o.2.2, kx := carveExt w .x, ky := carveExt w .y
    kz := carveExt w .z, codes := w, closed := closed, caps := [0, 0, 0], runs := [], assigned := false, leaving := false
    fenced := [], spliced := [], joining := none, plan := none, state := 0, retries := [], fails := [], rollback := (0, 0), lost := []
    suspect := false, restore := false, keptId := 0, mirrored := none }

/-- At most one link of a ring is down (R200 condition 4). -/
def Net.ringWhole (n : Net) (a : Axis) (c : Pos) : Bool :=
  ((List.range (n.r.extent a)).filter fun v => n.linkWidth (Pos.put c a v) a true == 0).length ≤ 1

/-- Every link of a line inside the box is up (R200 condition 3). -/
def Net.lineWhole (n : Net) (h : Heat) (a : Axis) (c : Pos) : Bool :=
  (List.range (h.ext a - 1)).all fun i => n.linkWidth (Pos.put c a (h.lo a + i)) a true != 0

/-- Nobody else's transit run crosses a position (R200 condition 5). Only the runs that close a line count; whether another
tenant's bridging run, which R244 also gives TRANSIT 1, counts is left open (DESIGN CHOICE, log entry 143). -/
def Placing.uncrossed (q : Placing) (tenant : Nat) (e : Nat) : Bool :=
  !(q.runs.any fun r => r.2.transit.isSome && r.2.tenant != tenant && (r.2.dest == e || r.2.path.any fun x => x.1 == e))

/-- R200: a box is feasible. -/
def Placing.feasible (q : Placing) (h : Heat) (transits : List Axis) : Bool :=
  let n := q.n
  let boxed : Net := { n with heats := n.heats ++ [(4096, h)] }
  let mine := tenantRec q.records h.tenant
  h.cells.all (fun c =>
    (n.r.at c).any (fun e => q.able.contains e && boxed.hubPath e && (recHostOk mine || q.uncrossed h.tenant e)) &&
      !n.r.isSpare c && (n.heatAt c).isNone) &&
  axes.all fun a =>
    (h.lines a).all fun c =>
      if h.ext a = n.r.extent a then n.r.extent a < 2 || n.ringWhole a c
      else
        (h.ext a < 2 || n.lineWhole h a c) &&
          (!transits.contains a || n.canClose q.runs (fun t => recHostOk (tenantRec q.records t)) h a c)

/-- Candidate origins on an axis (R201). -/
def Placing.cand (q : Placing) (w : BitVec 64) (a : Axis) : List Nat :=
  if carvePlace w then [carveOrigin w a]
  else if carveExt w a = q.n.r.extent a then [0]
  else List.range (q.n.r.extent a - carveExt w a + 1)

/-- CLOSED codes of Table 5-4. -/
def Placing.closedCodes (q : Placing) (w : BitVec 64) (transits : List Axis) : List Nat :=
  axes.map fun a =>
    if carveExt w a = q.n.r.extent a then (if 2 ≤ q.n.r.extent a then 2 else 0) else if transits.contains a then 1 else 0

/-- One pass of the search, Z outermost and X innermost (R201). -/
def Placing.pass (q : Placing) (w : BitVec 64) (seq : Nat) (pass1 : Bool) : Option (Heat × List Axis) :=
  let ts := q.transits w pass1
  let soft := axes.any fun a => q.closable w a && carveCode w a == 2
  if pass1 && soft && (4096 - q.runs.length < runsFor w ts || !recGuestOk (tenantRec q.records (carveTenant w))) then none
  else
    let origins := (q.cand w .z).flatMap fun z => (q.cand w .y).flatMap fun y => (q.cand w .x).map fun x => ((x, y, z) : Pos)
    ((origins.map fun o => carveHeat w seq o (q.closedCodes w ts)).find? fun h => q.feasible h ts).map fun h => (h, ts)

/-- R201: the search, with a second pass when any closure code is 0b10. -/
def Placing.search (q : Placing) (w : BitVec 64) (seq : Nat) : Option (Heat × List Axis) :=
  match q.pass w seq true with
  | some x => some x
  | none => if axes.any fun a => carveCode w a == 2 then q.pass w seq false else none

/-- The transit runs of a placed heat in the order of R202. -/
def Net.transitRuns (n : Net) (no : Nat) (h : Heat) (transits : List Axis) : List Run :=
  (axes.filter transits.contains).flatMap fun a => (h.lines a).flatMap fun c => (n.closers h a c).map fun r =>
    { heat := no, tenant := h.tenant, transit := some a, bridge := false, share := 2, path := r.1
      dest := (n.r.at r.2).getD 0 }

/-- Give runs the lowest free RUN_IDs in order (R182). -/
def addRuns (runs : Tab Run) (new : List Run) : Tab Run × List Nat :=
  new.foldl (fun r x =>
    let id := lowestFree r.1 4096 0
    (tset r.1 id x, r.2 ++ [id])) (runs, [])

/-! ## Capacities (R206, R207) -/

/-- Capacity of a heat on an axis. -/
def Net.capacity (n : Net) (runs : Tab Run) (h : Heat) (a : Axis) : Nat :=
  if h.ext a = 1 then 0
  else
    (h.cells.flatMap fun c => [true, false].filterMap fun plus =>
      match n.r.at c with
      | some e =>
        if h.holds (n.next c a plus) then
          some (n.width e (torusPort a plus) - reservedBy runs (fun r => r.tenant != h.tenant) e (torusPort a plus))
        else none
      | none => none).foldl min 8

def Net.capacities (n : Net) (runs : Tab Run) (h : Heat) : List Nat := axes.map (n.capacity runs h)

/-- Change an open heat. -/
def State.modHeat (s : State) (no : Nat) (f : Heat → Heat) : State :=
  { s with mgr := { s.mgr with heats := tmod s.mgr.heats no f } }

/-- A procedure that carves or releases a heat is in hand: capacities that change meanwhile are posted at its last step (R212
step 6, R221 step 6). -/
def State.capsWait (s : State) : Bool :=
  s.mgr.jobs.head?.any fun j => j.steps.any fun x => x matches .carved _ _ | .released _ _ _ | .undone _ _

/-- Post the capacities that have changed (R207). Runs of a heat that is still being carved are not set up yet. -/
def State.recheckCaps (s : State) : State :=
  match s.net with
  | none => s
  | some n =>
    let ends (no : Nat) : Bool := s.mgr.jobs.any fun j => j.steps.any fun x => match x with
      | .released k _ _ => k == no
      | _ => false
    let runs := s.mgr.runs.filter fun r => (tget s.mgr.heats r.2.heat).any (·.assigned) || ends r.2.heat
    s.mgr.heats.foldl (fun s e =>
      let caps := n.capacities runs e.2
      if e.2.leaving || !e.2.assigned || caps = e.2.caps then s
      else (s.modHeat e.1 fun h => { h with caps := caps }).postHeat
        { code := 0x0001, heat := e.1, tenant := e.2.tenant, step := 0, detail := caps.map (BitVec.ofNat 8) }) s

/-! ## Lane keys (R208 to R211, Table 5-5) -/

/-- The endpoints by which a heat meets the hub: its members, and the gateways of spares spliced into it. -/
def Net.hubEnds (n : Net) (h : Heat) : List Nat :=
  h.members n.r ++ h.splices.filterMap fun x => ((n.r.posOf x.2).bind n.upSeg).bind fun sg => n.r.at sg.2

/-- Hub paths of the heat use a switch. -/
def Net.usesSwitch (n : Net) (h : Heat) (sw : Nat) : Bool :=
  (n.hubEnds h).any fun e => (n.edgeUps e).any fun u => u.2.1 == sw

/-- The hops of the Z segments of the spares spliced into a heat (log entry 37). -/
def Net.spareHops (n : Net) (h : Heat) : List Hop :=
  h.splices.flatMap fun x => (((n.r.posOf x.2).bind n.upSeg).map (·.1)).getD []

/-- Allowed keys of an endpoint's torus port (Table 5-5 rows 1 and 2). -/
def Net.torusKeys (n : Net) (runs : Tab Run) (e port : Nat) : List LaneKey :=
  if n.r.extent (portAxis port) < 2 then []
  else match n.r.posOf e, n.hopEnd (e, port) with
  | some c, some x =>
    let both := n.heats.filterMap fun h =>
      if h.2.holds c && h.2.holds ((n.r.posOf x.1).getD c) then some (tenantKey h.2.tenant)
      else if (n.spareHops h.2).contains (e, port) || (n.spareHops h.2).contains x then some (tenantKey h.2.tenant)
      else none
    let transit := runs.filterMap fun r =>
      if (r.2.transit.isSome || r.2.bridge) && r.2.path.contains x then some (transitKey r.2.tenant) else none
    both ++ transit
  | _, _ => []

/-- The entry that a port faces, by the record. -/
def Net.facing (n : Net) (e port : Nat) : Option Nat :=
  if !n.r.isSwitch e && port < 6 then (n.hopEnd (e, port)).map (·.1)
  else
    n.r.edges.findSome? fun w =>
      match w.far with
      | .entry f k => if w.sw = e ∧ w.port = port then some f else if f = e ∧ k = port then some w.sw else none
      | _ => none

def Net.facesChrohar (n : Net) (sw port : Nat) : Bool :=
  n.r.edges.any fun w => w.sw == sw && w.port == port && (w.far matches .chrohar _)

/-- Allowed keys of a port by Table 5-5, in ascending order; port 16 is the local port. `fenced` names the fenced
endpoints, `boundary` those fenced at the boundary (R218). A port that faces the entry in the first epoch of its readmission
allows 0x002 alone (R250 step 1). -/
def Net.allowed (n : Net) (runs : Tab Run) (fenced boundary : List Nat) (e port : Nat) : List LaneKey :=
  if n.leaf.isSome && n.facing e port == n.leaf then [] else
  let ofHeats (p : Heat → Bool) : List LaneKey := n.heats.filterMap fun h => if p h.2 then some (tenantKey h.2.tenant) else none
  let all :=
    if n.r.isSwitch e then
      match n.facing e port with
      | some f => ofHeats fun h => (n.hubEnds h).contains f
      | none => if n.facesChrohar e port then ofHeats fun h => n.usesSwitch h e else []
    else if port = 16 then
      if fenced.contains e then []
      else (n.heats.filter fun h => (h.2.members n.r).contains e).flatMap fun h =>
        [tenantKey h.2.tenant, transitKey h.2.tenant]
    else if port < 6 then n.torusKeys runs e port
    else if port < 8 && n.isGateway e then ofHeats fun h => (n.hubEnds h).contains e
    else []
  let barred : List Nat := match n.facing e port with
    | some f => if boundary.contains f then (n.heats.filter fun h => (h.2.members n.r).contains f).map (·.2.tenant) else []
    | none => []
  sortBy (fun a b => a ≤ b) ((all.filter fun k => !barred.contains (k.toNat / 4)).eraseDups)

/-- A port entry of the lane key table (Table 5-6). -/
def keyEntryOf (ks : List LaneKey) : BitVec 256 :=
  (ks.zipIdx.take 16).foldl (fun v x => v ||| at' 256 (12 * x.2) x.1 ||| at' 256 (192 + x.2) 1#1) 0

/-- Chrohar ports on the hub paths of an endpoint: the one down to it, and those that hub units' packets reach (R155). -/
def Net.hubPortsOf (n : Net) (e : Nat) : List Nat :=
  let gate := ((n.r.posOf e).bind n.upSeg).bind fun sg => n.r.at sg.2
  (n.downPort e).toList ++ (gate.map fun g => hubUnits.filterMap fun u =>
    (pick (n.edgeUps g) u).bind fun x => (pick (n.switchUps x.2.1) u).map (·.2)).getD []

/-- A run leaves by a Chrohar port, or arrives at it. -/
def Net.runAtPort (n : Net) (port : Nat) (r : Run) : Bool :=
  r.path.any fun x => x == (chroharHop, port) || n.r.edges.any fun w => (w.sw, w.port) == x && w.far == .chrohar port

/-- The hub paths, or the runs, of a heat use a Chrohar port (Table 5-5). -/
def Net.usesPort (n : Net) (runs : Tab Run) (no : Nat) (h : Heat) (port : Nat) : Bool :=
  ((h.members n.r).any fun e => (n.hubPortsOf e).contains port) ||
    runs.any fun r => r.2.heat == no && n.runAtPort port r.2

/-- Tenants that a Chrohar port allows (R211, Table 5-5). -/
def Net.bitmap (n : Net) (runs : Tab Run) (port : Nat) : List Nat :=
  if n.r.peers.any fun x => 4 * x.1 == port then List.range 1024
  else sortNat ((n.heats.filter fun h => n.usesPort runs h.1 h.2 port).map (·.2.tenant)).eraseDups

/-! ## Assignment entries (Table 5-7) -/

/-- The assignment entry of an endpoint that carries a rank of a heat. -/
def assignWord (no : Nat) (h : Heat) (runs : Tab Run) (fenced : Bool) (e : Nat) : BitVec 256 :=
  let resend := (h.plan.map (·.image.resendUs)).getD 20
  let closing (a : Axis) : Option Nat :=
    (runs.find? fun r => r.2.heat == no && r.2.transit == some a && (r.2.path.head?.any fun x => x.1 == e)).map (·.1)
  let closeField (a : Axis) : BitVec 256 := match closing a with
    | some id => at' 256 (32 + 13 * a.no) (BitVec.ofNat 12 id) ||| at' 256 (44 + 13 * a.no) 1#1
    | none => 0
  at' 256 0 1#1 ||| at' 256 1 (bit fenced) ||| at' 256 2 (BitVec.ofNat 10 h.tenant) ||| at' 256 12 (BitVec.ofNat 12 no) |||
    at' 256 24 (BitVec.ofNat 8 resend) ||| closeField .x ||| closeField .y ||| closeField .z

/-- Every endpoint that is fenced. -/
def State.fencedEntries (s : State) : List Nat := s.mgr.heats.flatMap fun h => h.2.fenced

def State.boundaryEntries (s : State) : List Nat := (s.mgr.entries.filter fun e => e.2.boundary).map (·.1)

/-- The keys that an entry as loaded holds. -/
def heldKeys (v : BitVec 256) : List LaneKey :=
  (List.range 16).filterMap fun k => if v.getLsbD (192 + k) then some (field v (12 * k) 12) else none

/-- An entry with the keys that it needs, and those that it holds for the time being. -/
def widened (held : BitVec 256) (ks : List LaneKey) : BitVec 256 :=
  let more := (heldKeys held).filter fun k => !ks.contains k
  keyEntryOf (sortBy (fun a b => a ≤ b) ((ks ++ more).take 16))

/-- Load every lane key entry that Table 5-5 gives otherwise than it was last loaded, and the Chrohar bitmaps; while keys
widen, none goes (R212, R221). Entry 16 is loaded at every endpoint of a heat that is released, a fenced one too (R221 step 5).
An entry that is readmitted takes its keys with its tables (R250 step 4). -/
def State.sendKeys (s : State) (widen : Bool) : State × List Wait :=
  match s.net with
  | none => (s, [])
  | some n =>
    let changed := s.liveEntries.flatMap fun e =>
      let held := (tget s.mgr.loadedKeys e).getD []
      (List.range 17).filterMap fun p =>
        let ks := n.allowed s.mgr.runs s.fencedEntries s.boundaryEntries e p
        let v := if widen then widened ((tget held p).getD 0) ks else keyEntryOf ks
        let again := !widen && p == 16 && s.mgr.heats.any fun h => h.2.leaving && (h.2.members n.r).contains e
        if (widen && s.mgr.seeded && s.mgr.readmit == some e) || ((tget held p).getD 0 == v && !again) then none
        else some (e, p, v)
    let maps := (List.range 256).filterMap fun p =>
      let old := if widen then (tget s.link.bitmaps p).getD [] else []
      let b := sortNat (n.bitmap s.mgr.runs p ++ old).eraseDups
      if b.isEmpty then none else some (p, b)
    let s := { s with link := { s.link with bitmaps := maps } }
    s.sendAll (fun s x => s.sendKey x.1 x.2.1 x.2.2) changed

/-! ## Queries -/

/-- A heat that a command may name: open, and of a tenant that its source may name (R215, R382). -/
def State.heatFor (s : State) (src : Source) (no : Nat) : Option Heat :=
  match tget s.mgr.heats no with
  | some h => if h.assigned && src.mayNameTenant h.tenant then some h else none
  | none => none

/-- Table 5-4. -/
def heatWord (no : Nat) (h : Heat) (runs : Nat) : BitVec 128 :=
  let cl (i : Nat) : BitVec 128 := at' 128 (28 + 2 * i) (BitVec.ofNat 2 ((h.closed[i]?).getD 0))
  let cap (i : Nat) : BitVec 128 := at' 128 (34 + 4 * i) (BitVec.ofNat 4 ((h.caps[i]?).getD 0))
  at' 128 0 (BitVec.ofNat 12 no) ||| at' 128 16 (BitVec.ofNat 4 h.ox) ||| at' 128 20 (BitVec.ofNat 4 h.oy) |||
    at' 128 24 (BitVec.ofNat 4 h.oz) ||| cl 0 ||| cl 1 ||| cl 2 ||| cap 0 ||| cap 1 ||| cap 2 |||
    at' 128 46 (BitVec.ofNat 12 runs) ||| at' 128 64 (BitVec.ofNat 64 h.seq)

/-- Transit runs that close a heat's rings. -/
def State.transitCount (s : State) (no : Nat) : Nat :=
  (s.mgr.runs.filter fun r => r.2.heat == no && r.2.transit.isSome).length

/-- The lowest step of a heat that is open at the hub. -/
def State.openStepOf (s : State) (no : Nat) : Nat :=
  match (s.hub.steps.filter fun x => x.heat == no).map (·.step.toNat) with
  | [] => 0
  | x :: r => r.foldl min x

/-- HEAT_QUERY's result (R197, R243). -/
def State.heatResult (s : State) (no : Nat) (h : Heat) : List Byte :=
  bvBytes (heatWord no h (s.transitCount no)) ++
    leBytes 2 (h.state + (if h.state == 1 && h.plan.any (·.held) then 4 else 0)) ++ leBytes 2 h.fenced.length ++ leBytes 4 h.tenant ++
    leBytes 8 (((h.plan.bind (·.lastSaved)).map (·.step)).getD 0) ++ leBytes 8 (s.openStepOf no)

/-- HEAT_QUERY (R197). -/
def execHeatQuery (id : Nat) (s : State) : Host.Outcome State Fault Refusal :=
  .next (s.ask 0x0405 id fun c s =>
    match s.heatFor c.src (c.num 32 2) with
    | some h => ok (s.heatResult (c.num 32 2) h)
    | none => bad 32)

/-- The open heats of a tenant, ascending. -/
def State.heatsOf (s : State) (t : Nat) : Tab Heat := s.mgr.heats.filter fun h => h.2.tenant == t && h.2.assigned

/-- HEAT_LIST (R399). -/
def execHeatList (id : Nat) (s : State) : Host.Outcome State Fault Refusal :=
  .next (s.ask 0x0406 id fun c s =>
    if !c.src.mayNameTenant (c.num 32 2) then bad 32
    else
      let hs := s.heatsOf (c.num 32 2)
      okData c (leBytes 4 hs.length) (hs.flatMap fun h => leBytes 2 h.1))

/-- TENANT_GET (R399). -/
def execTenantGet (id : Nat) (s : State) : Host.Outcome State Fault Refusal :=
  .next (s.ask 0x0408 id fun c s =>
    let t := c.num 32 2
    if !c.src.mayNameTenant t then bad 32
    else
      let hs := s.heatsOf t
      ok (leBytes 8 0 ++ bvBytes (tenantRec s.cfg.live.tenants t) ++ leBytes 2 hs.length ++
        leBytes 2 (hs.map fun h => h.2.size).sum))

end Sys2Proof.Machine
end

