-- ==== Sys2Proof/Machine/Lanes.lean ====
section
/-! DEFINITION. The arithmetic of an update lane: IEEE 754 binary32 with one rounding to nearest even per operation, the
binary64 stages of the step scalars, and the update instructions (08_hearth_update.md R308, R309, R313, R319). Every
operation is computed exactly and rounded once. -/

namespace Sys2Proof.Machine

open Sys2Proof

/-! ## Numbers -/

/-- binary32 and binary64. -/
def bin32 : FloatFmt := { p := 24, expW := 8, umin := -149 }

def bin64 : FloatFmt := { p := 53, expW := 11, umin := -1074 }

/-- A decoded number: the sign is kept for a zero. The magnitude is m × 2^e. -/
inductive Fl where
  | nan
  | inf (neg : Bool)
  | fin (neg : Bool) (m : Nat) (e : Int)
deriving DecidableEq, Repr

def Fl.decode (f : FloatFmt) (code : Nat) : Fl :=
  let fw := f.p - 1
  let frac := code % 2 ^ fw
  let ex := code / 2 ^ fw % 2 ^ f.expW
  let neg := code / 2 ^ (fw + f.expW) % 2 == 1
  if ex = 2 ^ f.expW - 1 then (if frac ≠ 0 then .nan else .inf neg)
  else if ex = 0 then .fin neg frac f.umin
  else .fin neg (2 ^ fw + frac) (f.umin + (ex - 1 : Nat))

/-- The code of an infinity, and of the quiet NaN (R308). -/
def infOf (f : FloatFmt) (neg : Bool) : Nat :=
  (if neg then 2 ^ (f.p - 1 + f.expW) else 0) + (2 ^ f.expW - 1) * 2 ^ (f.p - 1)

def nanOf (f : FloatFmt) : Nat := infOf f false + 2 ^ (f.p - 2)

def zeroOf (f : FloatFmt) (neg : Bool) : Nat := if neg then 2 ^ (f.p - 1 + f.expW) else 0

/-- Nearest integer to num / den, a tie to the even one. -/
def nearestDiv (num den : Nat) : Nat :=
  let lo := num / den
  let rem := num % den
  if 2 * rem < den then lo else if den < 2 * rem then lo + 1 else if lo % 2 = 0 then lo else lo + 1

/-- num / den × 2^e, not zero, rounded to nearest even in a format. -/
def roundRat (f : FloatFmt) (neg : Bool) (num den : Nat) (e : Int) : Nat :=
  let t := e - f.umin
  let num := if 0 ≤ t then num * 2 ^ t.toNat else num
  let den := if 0 ≤ t then den else den * 2 ^ (-t).toNat
  let u := bitLen (num / den) - f.p
  let q := nearestDiv num (den * 2 ^ u)
  let u' := if q = 2 ^ f.p then u + 1 else u
  if 2 ^ f.expW - 2 ≤ u' ∧ 2 ^ (f.p - 1) ≤ q then infOf f neg else packFloat f neg q u

/-- A sum of two magnitudes with signs, as a sign and a magnitude at the lesser exponent. -/
def addExact (m1 : Int) (e1 : Int) (m2 : Int) (e2 : Int) : Int × Int :=
  let e := min e1 e2
  (m1 * 2 ^ (e1 - e).toNat + m2 * 2 ^ (e2 - e).toNat, e)

def signed (neg : Bool) (m : Nat) : Int := if neg then -(m : Int) else m

/-- A sum that may be zero: an exact zero is −0 only when both parts are negative. -/
def roundSum (f : FloatFmt) (n1 n2 : Bool) (v : Int × Int) : Nat :=
  if v.1 = 0 then zeroOf f (n1 && n2) else roundRat f (decide (v.1 < 0)) v.1.natAbs 1 v.2

/-! ## Operations -/

/-- A × B + C with one rounding. -/
def fmaFl (f : FloatFmt) (a b c : Fl) : Nat :=
  match a, b, c with
  | .nan, _, _ | _, .nan, _ | _, _, .nan => nanOf f
  | .inf _, .fin _ 0 _, _ | .fin _ 0 _, .inf _, _ => nanOf f
  | .inf s, .inf t, .inf u => if (s != t) == u then infOf f u else nanOf f
  | .inf s, .fin t _ _, .inf u => if (s != t) == u then infOf f u else nanOf f
  | .fin s _ _, .inf t, .inf u => if (s != t) == u then infOf f u else nanOf f
  | .inf s, .inf t, .fin .. => infOf f (s != t)
  | .inf s, .fin t _ _, .fin .. => infOf f (s != t)
  | .fin s _ _, .inf t, .fin .. => infOf f (s != t)
  | .fin .., .fin .., .inf u => infOf f u
  | .fin s m e, .fin t n d, .fin u k g =>
    roundSum f (s != t) u (addExact (signed (s != t) (m * n)) (e + d) (signed u k) g)

def addFl (f : FloatFmt) (a b : Fl) : Nat := fmaFl f a (.fin false 1 0) b

def Fl.negate : Fl → Fl
  | .nan => .nan
  | .inf s => .inf !s
  | .fin s m e => .fin (!s) m e

/-- A × B with one rounding; a zero product takes the sign of its factors. -/
def mulFl (f : FloatFmt) (a b : Fl) : Nat :=
  match a, b with
  | .nan, _ | _, .nan => nanOf f
  | .inf _, .fin _ 0 _ | .fin _ 0 _, .inf _ => nanOf f
  | .inf s, .inf t | .inf s, .fin t _ _ | .fin s _ _, .inf t => infOf f (s != t)
  | .fin s m e, .fin t n d => if m * n = 0 then zeroOf f (s != t) else roundRat f (s != t) (m * n) 1 (e + d)

/-- A ÷ B, correctly rounded. -/
def divFl (f : FloatFmt) (a b : Fl) : Nat :=
  match a, b with
  | .nan, _ | _, .nan => nanOf f
  | .inf _, .inf _ => nanOf f
  | .inf s, .fin t _ _ => infOf f (s != t)
  | .fin s _ _, .inf t => zeroOf f (s != t)
  | .fin s m e, .fin t n d =>
    if n = 0 then (if m = 0 then nanOf f else infOf f (s != t))
    else if m = 0 then zeroOf f (s != t)
    else roundRat f (s != t) m n (e - d)

/-- Integer square root, bit by bit from bit `k - 1`. -/
def isqrt (n : Nat) : Nat → Nat → Nat
  | 0, r => r
  | k + 1, r => if (r + 2 ^ k) * (r + 2 ^ k) ≤ n then isqrt n k (r + 2 ^ k) else isqrt n k r

/-- √(m × 2^e), not zero, correctly rounded: two bits beyond the format, and a sticky bit below. -/
def roundRoot (f : FloatFmt) (m : Nat) (e : Int) : Nat :=
  let up := 2 * (f.p + 2) + (if (e - 2 * (f.p + 2 : Nat)) % 2 = 0 then 0 else 1)
  let n := m * 2 ^ up
  let r := isqrt n (bitLen n / 2 + 1) 0
  roundRat f false (2 * r + (if r * r = n then 0 else 1)) 1 ((e - up) / 2 - 1)

/-- √A, correctly rounded. -/
def sqrtFl (f : FloatFmt) (a : Fl) : Nat :=
  match a with
  | .nan => nanOf f
  | .inf s => if s then nanOf f else infOf f false
  | .fin s m e => if m = 0 then zeroOf f s else if s then nanOf f else roundRoot f m e

/-- Order of two numbers that are no NaN, −0 below +0 (Table 8-1). -/
def flLess (a b : Fl) : Bool :=
  match a, b with
  | .nan, _ | _, .nan => false
  | .inf s, .inf t => s && !t
  | .inf s, .fin .. => s
  | .fin .., .inf t => !t
  | .fin s m e, .fin t n d =>
    let v := addExact (signed s m) e (-(signed t n)) d
    if v.1 = 0 then s && !t else decide (v.1 < 0)

/-- A > 0. -/
def Fl.positive : Fl → Bool
  | .nan => false
  | .inf s => !s
  | .fin s m _ => !s && m != 0

/-! ## binary32 words -/

def fl32 (w : BitVec 32) : Fl := Fl.decode bin32 w.toNat

def to32 (n : Nat) : BitVec 32 := BitVec.ofNat 32 n

def one32 : BitVec 32 := 0x3F800000

/-- A word with any NaN as the one NaN of R308. -/
def quiet32 (w : BitVec 32) : BitVec 32 := if fl32 w = .nan then 0x7FC00000 else w

def mul32 (a b : BitVec 32) : BitVec 32 := to32 (mulFl bin32 (fl32 a) (fl32 b))

def fma32 (a b c : BitVec 32) : BitVec 32 := to32 (fmaFl bin32 (fl32 a) (fl32 b) (fl32 c))

def div32 (a b : BitVec 32) : BitVec 32 := to32 (divFl bin32 (fl32 a) (fl32 b))

/-- The result of an opcode of Table 8-1; a reserved opcode, which no loaded program holds, gives +0. -/
def lane32 (op : Nat) (a b c : BitVec 32) : BitVec 32 :=
  let x := fl32 a
  let y := fl32 b
  match op with
  | 1 => to32 (addFl bin32 x y)
  | 2 => to32 (addFl bin32 x y.negate)
  | 3 => mul32 a b
  | 4 => fma32 a b c
  | 5 => div32 a b
  | 6 => to32 (sqrtFl bin32 x)
  | 7 => if x = .nan ∨ y = .nan then 0x7FC00000 else if flLess y x then b else a
  | 8 => if x = .nan ∨ y = .nan then 0x7FC00000 else if flLess x y then b else a
  | 9 => if x = .nan then 0x7FC00000 else a &&& 0x7FFFFFFF
  | 10 => if x = .nan then 0x7FC00000 else a ^^^ 0x80000000
  | 11 =>
    if x = .nan then 0x7FC00000
    else if x.positive then one32 else if x.negate.positive then 0xBF800000 else 0
  | 12 => quiet32 (if (fl32 c).positive then a else b)
  | _ => 0

/-- Lane operations of an opcode; none for a reserved one (Table 8-1). -/
def laneCost (op : Nat) : Option Nat :=
  if op = 5 ∨ op = 6 then some 2 else if 1 ≤ op ∧ op ≤ 12 then some 1 else none

/-- Operands that an opcode uses: A, B, C. -/
def laneOperands (op : Nat) : Nat := if op = 4 ∨ op = 12 then 3 else if op = 6 ∨ op = 9 ∨ op = 10 ∨ op = 11 then 1 else 2

/-! ## Instructions (Table 8-1) -/

/-- The registers of a lane: L0 to L31. -/
abbrev Lane := Tab (BitVec 32)

/-- An operand by its code: a lane register, a step scalar, or a constant (R309). -/
def operand (l : Lane) (k : Nat → BitVec 32) (code : Nat) : BitVec 32 :=
  if code < 32 then (tget l code).getD 0
  else if code < 48 then k (code - 32)
  else match code with
    | 49 => one32
    | 50 => 0xBF800000
    | 51 => 0x3F000000
    | 52 => 0x40000000
    | _ => 0

def insOp (i : BitVec 32) : Nat := (field i 0 6).toNat
def insDst (i : BitVec 32) : Nat := (field i 6 5).toNat
def insA (i : BitVec 32) : Nat := (field i 11 6).toNat
def insB (i : BitVec 32) : Nat := (field i 17 6).toNat
def insC (i : BitVec 32) : Nat := (field i 23 6).toNat

/-- Run one instruction. -/
def runIns (k : Nat → BitVec 32) (l : Lane) (i : BitVec 32) : Lane :=
  tset l (insDst i) (lane32 (insOp i) (operand l k (insA i)) (operand l k (insB i)) (operand l k (insC i)))

/-- An instruction is well formed: opcode and operand codes not reserved, unused operands and bits zero. -/
def insGood (i : BitVec 32) : Bool :=
  let n := laneOperands (insOp i)
  (laneCost (insOp i)).isSome && field i 29 3 == 0 && insA i ≤ 52 &&
    (if 2 ≤ n then insB i ≤ 52 else insB i == 0) && (if 3 ≤ n then insC i ≤ 52 else insC i == 0)

/-- Build an instruction. -/
def ins (op dst a b c : Nat) : BitVec 32 :=
  at' 32 0 (BitVec.ofNat 6 op) ||| at' 32 6 (BitVec.ofNat 5 dst) ||| at' 32 11 (BitVec.ofNat 6 a) |||
    at' 32 17 (BitVec.ofNat 6 b) ||| at' 32 23 (BitVec.ofNat 6 c)

/-- Table 8-4: the built-in programs over L0 the gradient, L1 the weight, L2 and L3 the moments, and temporaries. For
program 5, the factored value stands in L3. -/
def adamTail (decay : Bool) : List (BitVec 32) :=
  [ins 3 7 2 33 0, ins 3 8 3 34 0, ins 6 8 8 0 0, ins 1 8 8 40 0, ins 5 7 7 8 0] ++
    (if decay then [ins 4 7 41 1 7] else []) ++ [ins 4 1 32 7 1]

def momentOne : List (BitVec 32) := [ins 3 6 0 37 0, ins 4 2 36 2 6]

def momentTwo : List (BitVec 32) := [ins 3 6 0 0 0, ins 3 6 6 39 0, ins 4 3 38 3 6]

def builtin (program : Nat) : List (BitVec 32) :=
  match program with
  | 1 => momentOne ++ momentTwo ++ adamTail true
  | 2 => [ins 4 0 41 1 0] ++ momentOne ++ momentTwo ++ adamTail false
  | 3 => [ins 4 0 41 1 0, ins 4 2 36 2 0, ins 4 1 32 2 1]
  | 4 => [ins 3 6 0 37 0, ins 4 7 36 2 6, ins 11 7 7 0 0, ins 4 7 41 1 7, ins 4 1 32 7 1, ins 3 6 0 39 0, ins 4 2 38 2 6]
  | 5 => momentOne ++ adamTail true
  | _ => []

/-! ## Scalars (R312, R313) -/

/-- x^t in binary64 by square-and-multiply from the most significant bit of t, each product rounded. -/
def powBits (x : Nat) : List Bool → Nat → Nat
  | [], r => r
  | b :: bs, r =>
    let sq := mulFl bin64 (Fl.decode bin64 r) (Fl.decode bin64 r)
    powBits x bs (if b then mulFl bin64 (Fl.decode bin64 sq) (Fl.decode bin64 x) else sq)

/-- The bits of a number below its most significant one, from the top. -/
def lowBits (n : Nat) : List Bool := ((List.range (bitLen n - 1)).map fun i => Nat.testBit n i).reverse

/-- A binary32 word as a binary64 code, exact. -/
def widen (w : BitVec 32) : Nat :=
  match fl32 w with
  | .nan => nanOf bin64
  | .inf s => infOf bin64 s
  | .fin s m e => if m = 0 then zeroOf bin64 s else roundRat bin64 s m 1 e

/-- A binary64 code rounded to binary32. -/
def narrow (n : Nat) : BitVec 32 :=
  match Fl.decode bin64 n with
  | .nan => 0x7FC00000
  | .inf s => to32 (infOf bin32 s)
  | .fin s m e => if m = 0 then to32 (zeroOf bin32 s) else to32 (roundRat bin32 s m 1 e)

def one64 : Nat := 0x3FF0000000000000

/-- 1 / (1 − k^t), formed in three binary64 stages and rounded once to binary32 (R313). -/
def correction (k : BitVec 32) (t : Nat) : BitVec 32 :=
  let x := widen k
  let pow := powBits x (lowBits t) x
  let diff := addFl bin64 (Fl.decode bin64 one64) (Fl.decode bin64 pow).negate
  narrow (if Fl.decode bin64 diff matches .fin _ 0 _ then infOf bin64 false
    else divFl bin64 (Fl.decode bin64 one64) (Fl.decode bin64 diff))

/-! ## Squares and the norm (R319, R320) -/

/-- The exact square of a gradient element, truncated toward minus infinity to a multiple of 2^-149 (R319). -/
def squareIngot (g : BitVec 32) : Ingot :=
  match fl32 g with
  | .nan => .nan
  | .inf _ => .posInf
  | .fin _ m e =>
    if (2 : Int) ^ (64 + 149) ≤ (m : Int) * 2 ^ (e + 149).toNat then .posInf else .fin (floorAt (m * m : Nat) (2 * e) (-149))

/-- A total as a binary64 code, rounded to nearest even. -/
def ingot64 (v : Int) : Nat :=
  if v = 0 then 0 else roundRat bin64 (decide (v < 0)) v.natAbs 1 (-149)

/-- A total rounded once to binary32 (R323). -/
def ingot32 (x : Ingot) : BitVec 32 :=
  match x with
  | .nan => 0x7FC00000
  | .posInf => 0x7F800000
  | .negInf => 0xFF800000
  | .fin v => if v = 0 then 0 else to32 (roundRat bin32 (decide (v < 0)) v.natAbs 1 (-149))

/-- The norm as a binary64 code: √Σ of a finite Σ (R320). -/
def normOf (sigma : Int) : Nat := sqrtFl bin64 (Fl.decode bin64 (ingot64 sigma))

/-- CLIP_MAX ÷ N in binary64, rounded to binary32, and whether N exceeds CLIP_MAX (R320). -/
def clipFactor (clipMax : BitVec 32) (norm : Nat) : Bool × BitVec 32 :=
  let m := Fl.decode bin64 (widen clipMax)
  let n := Fl.decode bin64 norm
  if flLess m n then (true, narrow (divFl bin64 m n)) else (false, one32)

end Sys2Proof.Machine
end

