-- ==== Sys2Proof/Machine/Crucible.lean ====
section
/-! DEFINITION. The Crucibles and the pacer: contributions, settling and recompute orders, results, step completion and
barriers (07_collectives.md R254 to R291, R564). -/

namespace Sys2Proof

/-! ## Descriptors -/

/-- Bytes of an element of a collective's chunks: a swage element counts as 8 (R255). -/
def CollDesc.elemBytes (d : CollDesc) : Nat := if d.path = 1 then 8 else Machine.fmtBytes d.inFmt

/-- EPC (R255). -/
def CollDesc.epc (d : CollDesc) : Nat := Machine.plenBytes (BitVec.ofNat 4 d.chunkPlen) / d.elemBytes

/-- The chunk count (R255). -/
def CollDesc.chunks (d : CollDesc) : Nat := (d.elements + d.epc - 1) / d.epc

/-- Elements of a chunk that are no padding (R255). -/
def CollDesc.inChunk (d : CollDesc) (c : Nat) : Nat := min d.epc (d.elements - c * d.epc)

/-- The Crucible of a chunk (R256). -/
def CollDesc.crucible (d : CollDesc) (c : Nat) : Nat := (c + d.cruBase) % 4

/-- Swage blocks of a chunk. -/
def CollDesc.blocks (d : CollDesc) : Nat := (d.epc + 63) / 64

/-- One scale in every block of a chunk. -/
def CollDesc.allAt (d : CollDesc) (scale : Int) : BitVec 128 :=
  (List.range d.blocks).foldl (fun v k => Machine.setScale v k (BitVec.ofInt 16 scale)) 0

/-- The first pass (R267, Table 7-5 row 3). -/
def CollDesc.firstPass (d : CollDesc) : Machine.Pass := if d.path = 1 then .swage (d.allAt d.scale0) else .single

/-- Contributions go through a Crucible (Table 7-7). -/
def CollDesc.adds (d : CollDesc) : Bool := d.kind == 1 || d.kind == 2 || d.kind == 6

def CollDesc.isForge (d : CollDesc) : Bool := d.kind == 6

/-- A broadcast whose source is the hub: a group of it is rooted there (R284, Table 7-7). -/
def CollDesc.fromHub (d : CollDesc) : Bool := d.kind == 4 && d.groups.any fun g => g.sender.isNone

/-- The collective's steps complete at the hub (R281, R284); a barrier is the pacer's. -/
def CollDesc.throughHub (d : CollDesc) : Bool := d.adds || d.fromHub

/-- A rank supplies a block of a collective that passes through no hub unit: every rank of an all-gather, and the ranks that a
broadcast's groups name (R284). -/
def CollDesc.supplies (d : CollDesc) (rank : Nat) : Bool :=
  d.elements != 0 && (d.kind == 3 || (d.kind == 4 && d.groups.any fun g => g.sender == some rank))

/-- The root that a rank's partial sums reach (R264). -/
def CollDesc.rootOf (d : CollDesc) (k : Nat) : Nat → Nat
  | 0 => k
  | fuel + 1 =>
    match (d.tree.find? fun x => x.1 == k).bind (·.2) with
    | some p => d.rootOf p fuel
    | none => k

/-- Ranks that name no parent (R264). -/
def CollDesc.roots (d : CollDesc) : List Nat := (d.tree.filter fun x => x.2.isNone).map (·.1)

end Sys2Proof

namespace Sys2Proof.Machine

open Sys2Proof

def Plan.desc (p : Plan) (collId : BitVec 32) : Option CollDesc := p.image.colls.find? fun d => d.collId == collId

/-- The open step of a collective: the lowest that is not complete (R279). -/
def Plan.openOf (p : Plan) (collId : BitVec 32) : Nat :=
  ((p.opens.find? fun x => x.1 == collId).map (·.2)).getD (p.resume + 1)

/-- The plan of a heat. -/
def State.planOf (s : State) (no : Nat) : Option Plan := (tget s.mgr.heats no).bind (·.plan)

def State.modPlan (s : State) (no : Nat) (f : Plan → Plan) : State := s.modHeat no fun h => { h with plan := h.plan.map f }

def State.setHub (s : State) (h : Hub) : State := { s with hub := h }

/-- The rounding of an element (R275, R276). -/
def Plan.rounding (p : Plan) (collId : BitVec 32) (step index : Nat) : Rounding :=
  if p.stochastic then .stochastic (drawFor p.seed collId (BitVec.ofNat 64 step) (BitVec.ofNat 64 index)) else .nearest

/-! ## What a contribution names -/

/-- The heat and rank that the hub maps an EID to (R278): the map in force now. -/
def State.mapEid (s : State) (e : Eid) : Option (Nat × Heat × Nat) :=
  s.mgr.record.bind fun r =>
    s.mgr.heats.findSome? fun x =>
      if x.2.assigned then (x.2.rankOf r e.toNat).map fun k => (x.1, x.2, k) else none

/-- What a contribution names: heat, plan, descriptor, and the contributor, a rank or 4,096 + module slot (R257). -/
structure Aim where
  no   : Nat
  heat : Heat
  plan : Plan
  desc : CollDesc
  who  : Nat
deriving DecidableEq, Repr

/-- The slot of another module whose unit of the same number sent a packet (R46). -/
def State.peerOf (s : State) (p : Pkt) : Option Nat :=
  if isHubEid p.c.src && !s.isOwnHub p.c.src && field p.c.src 0 8 == field p.c.dst 0 8 then
    some ((p.c.src.toNat - 0x3F000) / 0x100)
  else none

/-- Table 7-5 row 1. -/
def State.aim (s : State) (p : Pkt) (collId : BitVec 32) : Option Aim :=
  match s.peerOf p with
  | some slot =>
    s.mgr.heats.findSome? fun x =>
      x.2.plan.bind fun q =>
        if x.2.assigned && p.c.laneKey == tenantKey x.2.tenant && q.image.pods.contains slot then
          (q.desc collId).map fun d => { no := x.1, heat := x.2, plan := q, desc := d, who := 4096 + slot }
        else none
  | none =>
    (s.mapEid p.c.src).bind fun x =>
      x.2.1.plan.bind fun q =>
        if p.c.laneKey == tenantKey x.2.1.tenant then
          (q.desc collId).map fun d => { no := x.1, heat := x.2.1, plan := q, desc := d, who := x.2.2 }
        else none

/-! ## Records -/

/-- A record of a heat's collective at a step. -/
def CruChunk.of (c : CruChunk) (no : Nat) (collId : BitVec 32) (step : Nat) : Bool :=
  c.heat == no && c.collId == collId && c.step.toNat == step

def CruChunk.is (c : CruChunk) (no : Nat) (collId : BitVec 32) (step chunk : Nat) : Bool :=
  c.of no collId step && c.chunk == chunk

def HubStep.is (x : HubStep) (no : Nat) (collId : BitVec 32) (step : Nat) : Bool :=
  x.heat == no && x.collId == collId && x.step.toNat == step

/-- A record as it opens (R278). -/
def freshChunk (no : Nat) (d : CollDesc) (step chunk : Nat) : CruChunk :=
  { heat := no, collId := d.collId, step := BitVec.ofNat 64 step, chunk := chunk, pass := d.firstPass, earlier := [], bits := []
    pods := [], acc := [], ovf := 0, raw := 0, settled := [], ordered := List.range d.blocks, total := none }

def State.chunkRec (s : State) (no : Nat) (collId : BitVec 32) (step chunk : Nat) : Option CruChunk :=
  s.hub.chunks.find? fun c => c.is no collId step chunk

/-- Put a record in place of the one with its key. -/
def putCru (c : CruChunk) : List CruChunk → List CruChunk
  | [] => [c]
  | x :: r => if x.is c.heat c.collId c.step.toNat c.chunk then c :: r else x :: putCru c r

def State.setChunk (s : State) (c : CruChunk) : State := s.setHub { s.hub with chunks := putCru c s.hub.chunks }

/-- Free a chunk's record (R274). -/
def State.freeChunk (s : State) (no : Nat) (collId : BitVec 32) (step chunk : Nat) : State :=
  s.setHub { s.hub with chunks := s.hub.chunks.filter fun c => !c.is no collId step chunk }

def State.modStep (s : State) (no : Nat) (collId : BitVec 32) (step : Nat) (f : HubStep → HubStep) : State :=
  s.setHub { s.hub with steps := s.hub.steps.map fun x => if x.is no collId step then f x else x }

def State.hubStep (s : State) (no : Nat) (collId : BitVec 32) (step : Nat) : Option HubStep :=
  s.hub.steps.find? fun x => x.is no collId step

/-- The fenced ranks of a heat. -/
def State.fencedRanks (s : State) (no : Nat) : List Nat :=
  match s.mgr.record, tget s.mgr.heats no with
  | some r, some h => h.fenced.filterMap (h.rankOf r)
  | _, _ => []

/-- A step as it opens: it counts no rank that is fenced (R259). -/
def State.freshStep (s : State) (no : Nat) (collId : BitVec 32) (step : Nat) : HubStep :=
  { heat := no, collId := collId, step := BitVec.ofNat 64 step, passes := 0, rawBlocks := 0, outSat := 0, outNan := 0
    formed := [], done := [], out := s.fencedRanks no, forge := none, given := [] }

/-- Make sure that a step is kept count of. -/
def State.openHubStep (s : State) (no : Nat) (collId : BitVec 32) (step : Nat) : State :=
  if (s.hubStep no collId step).isSome then s
  else s.setHub { s.hub with steps := s.hub.steps ++ [s.freshStep no collId step] }

/-- Ranks out of a step's delivery set (R259). -/
def State.outOf (s : State) (no : Nat) (collId : BitVec 32) (step : Nat) : List Nat :=
  match s.hubStep no collId step with
  | some x => x.out
  | none => s.fencedRanks no

/-! ## Table 7-5 -/

/-- Contributors of a pass (R258). -/
def passRanks (h : Heat) (d : CollDesc) : Pass → List Nat
  | .swage _ => d.roots
  | _ => List.range h.size

/-- Scale vectors agree on the blocks of a chunk (R265). -/
def sameScales (blocks : Nat) (a b : BitVec 128) : Bool :=
  (List.range blocks).all fun k => scaleAt a k == rawMark || scaleAt b k == rawMark || scaleAt a k == scaleAt b k

/-- PFMT of a pass. -/
def passFmt (d : CollDesc) : Pass → Nat
  | .swage _ => 8
  | _ => d.inFmt

/-- The scale vector that a pass has: the first one has SCALE0 in every block, whatever its format (Table 7-5 row 3). -/
def passScale (d : CollDesc) : Pass → Option (BitVec 128)
  | .swage scale => some scale
  | .single => some (d.allAt d.scale0)
  | .raw => if d.inFmt = 8 then some 0 else none

/-- A contribution belongs to a pass of a chunk. -/
def ofPass (d : CollDesc) (h : BilletHdr) : Pass → Bool
  | .swage scale => h.pfmt == 8 && sameScales d.blocks scale h.scale
  | .single => h.pfmt.toNat == d.inFmt && (d.inFmt != 8 || sameScales d.blocks (d.allAt d.scale0) h.scale)
  | .raw => h.pfmt.toNat == d.inFmt && (d.inFmt != 8 || h.scale == 0)

/-- What the first row of Table 7-5 that applies says. -/
inductive Verdict where
  | stray
  | badArg (a : Aim) (step : Nat)
  | discard
  | ahead
  | add (a : Aim) (c : CruChunk) (fresh : Bool)
deriving DecidableEq, Repr

/-- Rows 4 to 8 of Table 7-5 for a local rank's contribution to a chunk that is not finished. -/
def judgeRank (a : Aim) (h : BilletHdr) (c : CruChunk) (fresh : Bool) : Verdict :=
  let passes := c.pass :: c.earlier
  let step := h.step.toNat
  let known := passes.any fun p => (passScale a.desc p).any fun v => sameScales a.desc.blocks v h.scale
  if !(passRanks a.heat a.desc c.pass).contains a.who then .stray
  else if h.pfmt == 8 && !known then .stray
  else if !(passes.any fun p => passFmt a.desc p == h.pfmt.toNat) then .badArg a step
  else if !ofPass a.desc h c.pass then .discard
  else if a.plan.openOf a.desc.collId + 1 < step then .ahead
  else if c.total.isSome || c.bits.contains a.who then .discard
  else .add a c fresh

/-- Elements of another pod's total that have come. -/
def CruChunk.podCount (c : CruChunk) (slot : Nat) : Nat := ((tget c.pods slot).getD []).length

/-- Rows 4 to 8 of Table 7-5 for another pod's total, which comes in parts of 64 ingots in order. -/
def judgePod (a : Aim) (h : BilletHdr) (c : CruChunk) (fresh : Bool) : Verdict :=
  let got := c.podCount (a.who - 4096)
  let step := h.step.toNat
  if h.rank != 0 then .stray
  else if h.pfmt != 9 then .badArg a step
  else if a.plan.openOf a.desc.collId + 1 < step then .ahead
  else if a.desc.inChunk c.chunk ≤ got || (got / 64) % 16 != h.part.toNat then .discard
  else .add a c fresh

/-- A swage scale that a pass of a chunk may have: SCALE0 and the scales that recompute orders bring, or the raw marker (R267). -/
def scaleSeen (d : CollDesc) (v : BitVec 16) : Bool :=
  v == rawMark || v == 80 || (decide (d.scale0 ≤ v.toInt) && (v.toInt - d.scale0) % (max 1 d.scaleStep : Nat) == 0)

/-- Rows 3 to 5 of Table 7-5 for a chunk whose record is gone, of a step that is complete or of one that is finished: the
formats and scales that its descriptor allows stand for those of its passes (DESIGN CHOICE, log entry 148). -/
def judgeGone (a : Aim) (h : BilletHdr) : Verdict :=
  let d := a.desc
  let fmt := h.pfmt.toNat
  if 4096 ≤ a.who then
    if h.rank != 0 then .stray else if fmt != 9 then .badArg a h.step.toNat else .discard
  else if d.path = 1 && fmt == 8 && !(d.roots.contains a.who && (List.range d.blocks).all fun k => scaleSeen d (scaleAt h.scale k))
    then .stray
  else if d.path = 0 && fmt == 8 && !(sameScales d.blocks (d.allAt d.scale0) h.scale) then .stray
  else if !([passFmt d d.firstPass, d.inFmt].contains fmt) then .badArg a h.step.toNat
  else .discard

/-- The first row of Table 7-5 that applies to an accepted billet at a Crucible. A chunk that is finished, or a step that
is complete, keeps no record, and a contribution to it is at most discarded. -/
def State.verdict (s : State) (p : Pkt) : Verdict :=
  match pktHdr p with
  | none => .stray
  | some h =>
    if p.c.type != bContrib then .stray
    else
      match s.aim p h.collId with
      | none => .stray
      | some a =>
        let d := a.desc
        let chunk := h.chunk.toNat
        let step := h.step.toNat
        if !d.adds || d.chunks ≤ chunk || d.crucible chunk + 0x10 != (field p.c.dst 0 8).toNat then .stray
        else if a.who < 4096 && h.rank.toNat != a.who then .stray
        else if step < a.plan.openOf d.collId ||
            (s.hubStep a.no d.collId step).any (fun x => x.formed.contains chunk || x.done.contains chunk) then judgeGone a h
        else
          let old := s.chunkRec a.no d.collId step chunk
          let c := old.getD (freshChunk a.no d step chunk)
          if a.who < 4096 then judgeRank a h c old.isNone else judgePod a h c old.isNone

/-! ## Records and accumulators (R274) -/

/-- Bytes of accumulators that a chunk takes as it opens: 40 for an ingot, 8 for an element on the swage path. -/
def accBytes (d : CollDesc) : Nat := d.epc * (if d.path = 1 then 8 else 40)

/-- Bytes of accumulators that a record takes: in a raw pass the ordered blocks are summed in ingots, once the pass has its first
contribution. -/
def CruChunk.accBytes (c : CruChunk) (d : CollDesc) : Nat :=
  match c.pass with
  | .raw => if c.acc.isEmpty then 0 else c.ordered.length * 64 * 40
  | _ => Machine.accBytes d

/-- CHUNK of the record that gathers the staged norms; it is Hearth 0's, not a Crucible's (R319, R320). -/
def normChunk : Nat := 0xFFFFFFFF

/-- The descriptor of a record. -/
def State.descOf (s : State) (no : Nat) (collId : BitVec 32) : Option CollDesc := (s.planOf no).bind (·.desc collId)

/-- The records of a Crucible. -/
def State.cruRecords (s : State) (unit : Nat) : List CruChunk :=
  s.hub.chunks.filter fun c =>
    c.chunk != normChunk && (s.descOf c.heat c.collId).any fun e => e.crucible c.chunk == unit

/-- Bytes of accumulators in use at a Crucible. -/
def State.cruUsed (s : State) (unit : Nat) : Nat :=
  ((s.cruRecords unit).map fun c => ((s.descOf c.heat c.collId).map c.accBytes).getD 0).sum

/-- Some bytes of accumulators are free at a Crucible, of those of 16,777,216 ingots. -/
def State.accFree (s : State) (unit bytes : Nat) : Bool := s.cruUsed unit + bytes ≤ 16777216 * 40

/-- A new record of a descriptor finds room at a Crucible: 8,192 records, and accumulators. -/
def State.cruRoom (s : State) (d : CollDesc) (unit : Nat) : Bool :=
  (s.cruRecords unit).length < 8192 && s.accFree unit (accBytes d)

/-- A first contribution that finds no record or too few accumulators is not accepted (R274); the first one of a raw pass, whose
sums are ingots, waits for accumulators in the same way (DEDUCED, log entry 168). -/
def State.holdsBack (s : State) (p : Pkt) : Bool :=
  match s.verdict p with
  | .add a c fresh =>
    if fresh then !s.cruRoom a.desc (a.desc.crucible c.chunk)
    else c.pass == .raw && c.acc.isEmpty && !s.accFree (a.desc.crucible c.chunk) (c.ordered.length * 64 * 40)
  | _ => false

/-! ## Adding -/

/-- The ingot of an element of a swage billet whose block carries a scale: an element of a block with the raw marker has
no value that the manual gives (R261, R272). -/
def swageIngot (scale : BitVec 16) (index : Nat) (v : Int) : Ingot :=
  if scale == rawMark then .fin (Config.markedIngot index) else .fin (v * 2 ^ (scale.toInt + 149).toNat)

/-- The ingots of a contribution's elements (R268, R272). In a swage pass a block stands at the pass's scale. -/
def contribIngots (d : CollDesc) (pass : Pass) (h : BilletHdr) (payload : List Byte) : List Ingot :=
  match pass with
  | .swage scale => (swageElems payload d.epc).zipIdx.map fun x => swageIngot (scaleAt scale (x.2 / 64)) x.2 x.1
  | _ =>
    if d.inFmt = 8 then (swageElems payload d.epc).zipIdx.map fun x => swageIngot (scaleAt h.scale (x.2 / 64)) x.2 x.1
    else (payloadCodes d.inFmt payload d.epc).map fun c => toIngot (decodeElem d.inFmt c)

/-- Combine element by element; the first operand of an empty accumulator is the other. -/
def combine (op : Nat) (a b : List Ingot) : List Ingot := if a.isEmpty then b else List.zipWith (ingotOp op) a b

/-- Raw markers of a billet's blocks. -/
def rawBlocks (d : CollDesc) (scale : BitVec 128) : BitVec 8 :=
  (List.range d.blocks).foldl (fun m k => if scaleAt scale k == rawMark then m ||| (1#8 <<< k) else m) 0

/-- Row 8 of Table 7-5 for a rank (R279). -/
def CruChunk.addRank (c : CruChunk) (d : CollDesc) (who : Nat) (h : BilletHdr) (payload : List Byte) : CruChunk :=
  let swage := passFmt d c.pass == 8 && d.path == 1
  { c with bits := c.bits ++ [who], acc := combine d.op c.acc (contribIngots d c.pass h payload)
           ovf := if swage then c.ovf ||| h.ovf else c.ovf
           raw := if swage then c.raw ||| rawBlocks d h.scale else c.raw }

/-- Ingots of a PFMT 0x9 payload (R67). -/
def payloadIngots (payload : List Byte) (n : Nat) : List Ingot :=
  (List.range n).map fun i => decodeIngot (BitVec.ofNat 320 (natAt payload (64 * i) 40))

def ingotBytes (xs : List Ingot) : List Byte := xs.flatMap fun x => padTo 64 (bvBytes (encodeIngot x))

/-- Row 8 of Table 7-5 for another pod's total. -/
def CruChunk.addPod (c : CruChunk) (d : CollDesc) (slot : Nat) (payload : List Byte) : CruChunk :=
  let got := (tget c.pods slot).getD []
  let n := min 64 (d.inChunk c.chunk - got.length)
  { c with pods := tset c.pods slot (got ++ payloadIngots payload n) }

/-! ## Settling (R267) -/

/-- The order of one block: none settles it; some gives the next scale. -/
def CruChunk.orderOf (c : CruChunk) (d : CollDesc) (scale : BitVec 128) (k : Nat) : Option (BitVec 16) :=
  if !c.ovf.getLsbD k then none
  else if c.raw.getLsbD k || scaleAt scale k == rawMark || scaleAt scale k == 80 then some rawMark
  else some (BitVec.ofInt 16 (min ((scaleAt scale k).toInt + d.scaleStep) 80))

/-- The sums of a block. -/
def CruChunk.block (c : CruChunk) (k : Nat) : List Ingot := (c.acc.drop (64 * k)).take 64

/-- What the end of a pass brings: the record after it, and the scale vector of a recompute order. -/
def CruChunk.endPass (c : CruChunk) (d : CollDesc) : CruChunk × Option (BitVec 128) :=
  match c.pass with
  | .single => ({ c with total := some (c.acc.take (d.inChunk c.chunk)) }, none)
  | .raw =>
    let done := c.ordered.foldl (fun t k => tset t k (c.block k)) c.settled
    ({ c with settled := done, total := some ((done.flatMap (·.2)).take (d.inChunk c.chunk)) }, none)
  | .swage scale =>
    let orders := c.ordered.filterMap fun k => (c.orderOf d scale k).map fun x => (k, x)
    let done := (c.ordered.filter fun k => (c.orderOf d scale k).isNone).foldl (fun t k => tset t k (c.block k)) c.settled
    if orders.isEmpty then
      ({ c with settled := done, total := some ((done.flatMap (·.2)).take (d.inChunk c.chunk)) }, none)
    else
      let isRaw := orders.any fun x => x.2 == rawMark
      let next := orders.foldl (fun v x => setScale v x.1 (if isRaw then rawMark else x.2)) scale
      ({ c with settled := done, earlier := c.pass :: c.earlier, pass := if isRaw then .raw else .swage next, bits := []
                acc := [], ovf := 0, raw := 0, ordered := orders.map (·.1) }, some next)

/-! ## Results -/

/-- MGROUP of a plan's group on a heat (R158). -/
def State.groupNo (s : State) (no : Nat) (g : PlanGroup) : Option Nat :=
  (s.mgr.groups.find? fun x => x.2.heat == no && x.2.line == g).map (·.1)

/-- Send a hub unit's result billet; one of a failed flow is kept (R230). -/
def State.sendResult (s : State) (no : Nat) (p : Pkt) : State :=
  let base := ((s.planOf no).map (·.image.resendUs)).getD 20
  let r := s.hubOffer p base
  if r.2.2.any fun f => f.code == 0x01 then r.1.setHub { r.1.hub with kept := r.1.hub.kept ++ [p] } else r.1

/-- Send one billet of a collective's results to some ranks, by the heat's hub-rooted groups where a rank is on one and by
unicast otherwise; a spliced rank is on no group (R157, R244, Table 7-7). -/
def State.sendToRanks (s : State) (no : Nat) (h : Heat) (d : CollDesc) (unit : Nat) (ranks : List Nat) (multi : Bool)
    (hdr : BilletHdr) (payload : List Byte) : State :=
  let src := s.unitEid unit
  let key := tenantKey h.tenant
  let spliced := h.spliced.map (·.1)
  let lines := if multi then (d.groups.filter fun g => g.sender.isNone).filterMap fun g =>
      (s.groupNo no g).map fun id =>
        (id, (lineCells h g).filterMap fun c =>
          let k := h.rankAt c
          if ranks.contains k && !spliced.contains k then some (k, Pos.on c g.axis) else none)
    else []
  let s := lines.foldl (fun s l =>
    let mask := maskOf (l.2.map (·.2))
    if mask = 0 then s
    else
      s.sendResult no (mkBillet { (common key s.hubEpoch src noEid bResult) with mcast := true } 0
        { hdr with mgroup := BitVec.ofNat 12 l.1, mmask := mask } payload)) s
  let covered := lines.flatMap fun l => l.2.map (·.1)
  let alone := ranks.filter fun k => !covered.contains k
  alone.foldl (fun s k =>
    match s.mgr.record.bind fun r => h.entryOf r k with
    | some e => s.sendResult no (mkBillet (common key s.hubEpoch src (BitVec.ofNat 18 e) bResult) 0 hdr payload)
    | none => s) s

/-- Ranks that a chunk's results go to (Table 7-7, R259). -/
def resultRanks (h : Heat) (d : CollDesc) (out : List Nat) (chunk : Nat) : List Nat :=
  let all := if d.kind = 2 then (d.owners[chunk]?).toList else List.range h.size
  all.filter fun k => !out.contains k

/-- Cut a list into stretches of `n`. -/
def cut {α : Type} (n : Nat) : Nat → List α → List (List α)
  | 0, _ => []
  | fuel + 1, xs => if xs.isEmpty then [] else xs.take n :: cut n fuel (xs.drop n)

/-- OVF and SCALE of one part of swage outputs: OUT_SCALE in each block, and OVF where an output was NaN (Table 7-4). -/
def outScales (d : CollDesc) (xs : List OutElem) : BitVec 8 × BitVec 128 :=
  let nan (k : Nat) : Bool := ((xs.drop (64 * k)).take 64).any (·.nan)
  let n := (xs.length + 63) / 64
  ((List.range n).foldl (fun m k => if nan k then m ||| (1#8 <<< k) else m) 0,
   (List.range n).foldl (fun v k => setScale v k (BitVec.ofInt 16 d.outScale)) 0)

/-- Send one result billet of a step to the ranks that its chunk goes to, and keep it until the step ends. -/
def State.give (s : State) (no : Nat) (h : Heat) (d : CollDesc) (step : Nat) (g : Given) : State :=
  let ranks := resultRanks h d (s.outOf no d.collId step) g.chunk
  (s.sendToRanks no h d g.unit ranks (d.kind != 2) g.hdr g.payload).modStep no d.collId step fun x =>
    { x with given := x.given ++ [g] }

/-- Send a chunk's outputs as result billets (R280, R564). -/
def State.sendOutputs (s : State) (no : Nat) (h : Heat) (d : CollDesc) (step chunk unit fmt : Nat) (xs : List OutElem) : State :=
  let parts := cut (4096 / fmtBytes fmt) 8 xs
  parts.zipIdx.foldl (fun s x =>
    let bytes := codesBytes fmt (x.1.map (·.code))
    let sw := if fmt = 8 then outScales d x.1 else (0, 0)
    let hdr : BilletHdr := { zeroHdr with
      pfmt := BitVec.ofNat 4 fmt, plen := resultPlen fmt bytes.length, collId := d.collId, step := BitVec.ofNat 64 step
      chunk := BitVec.ofNat 32 chunk, part := BitVec.ofNat 4 x.2, ovf := sw.1, scale := sw.2 }
    s.give no h d step { chunk := chunk, unit := unit, hdr := hdr, payload := bytes }) s

/-- The ranks that the hub sends a broadcast to: those that no rank's group reaches (Table 7-7). -/
def hubReach (d : CollDesc) (h : Heat) : List Nat :=
  let relayed := (d.groups.filter fun g => g.sender.isSome).flatMap fun g => (lineCells h g).map h.rankAt
  (List.range h.size).filter fun k => !relayed.contains k

/-- The bytes of a chunk of a broadcast from the hub: the manual gives them nowhere, so they are free (R284). -/
def hubBlock (d : CollDesc) (step chunk : Nat) : List Byte :=
  (List.range (d.inChunk chunk * fmtBytes d.inFmt)).map (Config.hubByte d.collId step chunk)

/-- Send the chunks of a step of a broadcast from the hub along the plan's groups (R284, Table 7-7). -/
def State.broadcast (s : State) (no : Nat) (d : CollDesc) (step : Nat) : State :=
  match tget s.mgr.heats no with
  | none => s
  | some h =>
    (List.range d.chunks).foldl (fun s c =>
      let bytes := hubBlock d step c
      let unit := 0x10 + d.crucible c
      let hdr : BilletHdr := { zeroHdr with
        pfmt := BitVec.ofNat 4 d.inFmt, plen := resultPlen d.inFmt bytes.length, collId := d.collId
        step := BitVec.ofNat 64 step, chunk := BitVec.ofNat 32 c, scale := if d.inFmt = 8 then d.allAt d.outScale else 0 }
      let ranks := (hubReach d h).filter fun k => !(s.outOf no d.collId step).contains k
      (s.sendToRanks no h d unit ranks true hdr bytes).modStep no d.collId step fun x =>
        { x with formed := x.formed ++ [c], done := x.done ++ [c]
                 given := x.given ++ [{ chunk := c, unit := unit, hdr := hdr, payload := bytes }] }) s

/-- A step opens at the hub; one of a broadcast from the hub is sent. -/
def State.startStep (s : State) (no : Nat) (d : CollDesc) (step : Nat) : State :=
  let s := s.openHubStep no d.collId step
  if d.fromHub && (s.hubStep no d.collId step).any (fun x => x.formed.isEmpty) then s.broadcast no d step else s

/-- The scale vector of the recompute order in force: the new scale or the raw marker of each ordered block, and of every other
the scale of the pass before (R268). -/
def CruChunk.orderScale (c : CruChunk) : Option (BitVec 128) :=
  match c.pass, c.earlier with
  | .swage v, _ :: _ => some v
  | .raw, .swage v :: _ => some (c.ordered.foldl (fun t k => setScale t k rawMark) v)
  | _, _ => none

/-- The billet of a recompute order (R268). -/
def CruChunk.orderHdr (c : CruChunk) (scale : BitVec 128) : BilletHdr :=
  { zeroHdr with
    pfmt := 8, plen := 1, recomp := true, collId := c.collId, step := c.step, chunk := BitVec.ofNat 32 c.chunk
    scale := scale, ovf := c.ordered.foldl (fun m k => m ||| (1#8 <<< k)) 0 }

/-- Send a recompute order to every rank of the heat, a fenced one too (R268, Table 7-14), and count it. -/
def State.sendOrder (s : State) (a : Aim) (c : CruChunk) (step : Nat) (scale : BitVec 128) : State :=
  let d := a.desc
  let s := s.modStep a.no d.collId step fun x => { x with passes := x.passes + 1 }
  s.sendToRanks a.no a.heat d (0x10 + d.crucible c.chunk) (List.range a.heat.size) (d.kind != 2) (c.orderHdr scale) []

/-! ## Totals -/

/-- Send a pod total to the Crucible of the same unit in every other pod (R46, R280). R96 names no RESEND_BASE for a flow between
hub units: it takes the RESEND_US of the sending heat's plan, like every packet of the heat's collectives (DESIGN CHOICE, log
entry 169). -/
def State.sendPodTotal (s : State) (a : Aim) (step chunk unit : Nat) (xs : List Ingot) : State :=
  a.plan.image.pods.foldl (fun s slot =>
    (cut 64 (xs.length + 1) xs).zipIdx.foldl (fun s x =>
      let hdr : BilletHdr := { zeroHdr with
        pfmt := 9, plen := plenFor (64 * x.1.length), collId := a.desc.collId, step := BitVec.ofNat 64 step
        chunk := BitVec.ofNat 32 chunk, part := BitVec.ofNat 4 x.2 }
      let dst := BitVec.ofNat 18 (0x3F000 + 0x100 * slot + unit)
      s.sendResult a.no (mkBillet { (common (tenantKey a.heat.tenant) s.hubEpoch (s.unitEid unit) dst bContrib) with
        baton := true } 0 hdr (ingotBytes x.1))) s) s

/-- Every other pod's total is counted (R280). -/
def CruChunk.podsIn (c : CruChunk) (a : Aim) : Bool :=
  a.plan.image.pods.all fun slot => a.desc.inChunk c.chunk ≤ c.podCount slot

/-- The exact total over the pods. -/
def CruChunk.grand (c : CruChunk) (op : Nat) : List Ingot := c.pods.foldl (fun t x => combine op t x.2) (c.total.getD [])

/-- Outputs with zeros in place of the padding of the last chunk (R255). -/
def padded (d : CollDesc) (xs : List OutElem) : List OutElem :=
  xs ++ List.replicate (d.epc - xs.length) { code := 0, sat := false, nan := false }

/-- Form a chunk's outputs and send them (R275, R280); those of a forge reduce go to a Hearth by their own rules (R321). -/
def State.formResults (s : State) (a : Aim) (c : CruChunk) : State :=
  let d := a.desc
  if d.isForge || c.total.isNone || !c.podsIn a then s
  else
    let step := c.step.toNat
    let xs := (c.grand d.op).zipIdx.map fun x =>
      formOutput (a.plan.rounding d.collId step (c.chunk * d.epc + x.2)) d.outFmt d.outScale x.1
    let nans := if d.outFmt = 8 then 0 else (xs.filter (·.nan)).length
    let s := s.sendOutputs a.no a.heat d step c.chunk (0x10 + d.crucible c.chunk) d.outFmt (padded d xs)
    (s.freeChunk a.no d.collId step c.chunk).modStep a.no d.collId step fun x =>
      { x with formed := x.formed ++ [c.chunk], done := x.done ++ [c.chunk]
               outSat := x.outSat + (xs.filter (·.sat)).length, outNan := x.outNan + nans }

/-! ## Step completion (R281, R282) -/

/-- FORGE_FLAGS (R322). -/
def forgeFlags (q : Option Decision) : BitVec 8 :=
  match q with
  | some q => at' 8 0 (BitVec.ofBool q.skip) ||| at' 8 1 (BitVec.ofBool q.clipped) ||| at' 8 2 (BitVec.ofBool q.nonfinite)
  | none => 0

/-- The exponent of a plan's gradient outputs (R321). -/
def Plan.exponent (p : Plan) : Int :=
  match p.image.update with
  | some u => if u.lsDynamic then p.lsExp else u.lsExp
  | none => 0

/-- What the completion billet of a forge step whose update has not ended, and that ends with an error, adds (R322): its decision, if one was made, and the
exponent that applies next. -/
def Plan.failedForge (p : Plan) (step : Nat) : ForgeEnd :=
  let q := if step = p.openStep then p.decision else none
  { flags := forgeFlags q, lsExp := p.exponent, norm := (q.map (·.norm)).getD 0 }

/-- Payload of the step completion billet (Table 7-6, R322). -/
def completionBytes (x : HubStep) (status : BitVec 16) (out : Nat) : List Byte :=
  bvBytes status ++ leBytes 2 0 ++ leBytes 4 x.passes ++ leBytes 4 x.rawBlocks ++ leBytes 4 x.outSat ++
    leBytes 4 x.outNan ++ leBytes 2 out ++ leBytes 2 0 ++
    (match x.forge with
      | some f => bvBytes f.flags ++ bvBytes (BitVec.ofInt 16 f.lsExp) ++ leBytes 1 0 ++ bvBytes f.norm
      | none => [])

/-- The delivery set of a collective's step (R259, Table 7-7): the owners of a reduce-scatter, every rank of another kind, less
those that are out. -/
def deliverTo (d : CollDesc) (h : Heat) (out : List Nat) : List Nat :=
  (List.range h.size).filter fun k => (d.kind != 2 || d.owners.contains k) && !out.contains k

/-- The heat that a hub unit's flow goes to. -/
def State.keyHeat (s : State) (k : FlowKey) : Option Nat :=
  if k.mcast then (tget s.mgr.groups k.peer.toNat).map (·.heat) else (s.mapEid k.peer).map (·.1)

/-- The heat that a hub unit's packet goes to. -/
def State.pktHeat (s : State) (p : Pkt) : Option Nat := s.keyHeat (flowKeyOf p)

/-- The hub's flows toward a heat take its RESEND_BASE: RESEND_US of the plan loaded, and 20 µs without one (R96). -/
def State.rebaseHub (s : State) (no : Nat) : State :=
  let base := ((s.planOf no).map (·.image.resendUs)).getD 20
  s.setHub { s.hub with srcs := s.hub.srcs.map fun f =>
    if f.key.laneKey != mgrKey && s.keyHeat f.key == some no then { f with baseUs := base } else f }

/-- A result billet of a heat's collective step; a step completion billet and a recompute order are none of them (R268). -/
def State.isResultOf (s : State) (no : Nat) (collId : BitVec 32) (step : Nat) (p : Pkt) : Bool :=
  match pktHdr p with
  | some h => p.c.type == bResult && !isStepEnd p && !h.recomp && h.collId == collId && h.step.toNat == step && s.pktHeat p == some no
  | none => false

/-- A unicast packet goes to one of some ranks. -/
def State.toRank (s : State) (ranks : List Nat) (p : Pkt) : Bool :=
  !p.c.mcast && (s.mapEid p.c.dst).any fun x => ranks.contains x.2.2

/-- The position of a rank in a group of its heat. -/
def Heat.posIn (h : Heat) (g : Group) (rank : Nat) : Option Nat :=
  ((lineCells h g.line).find? fun c => h.rankAt c == rank).map fun c => Pos.on c g.line.axis

/-- A packet with some positions still open goes to a rank. -/
def State.goesTo (s : State) (h : Heat) (rank : Nat) (p : Pkt) (left : BitVec 16) : Bool :=
  match p.c.mcast, pktHdr p with
  | true, some b => (tget s.mgr.groups b.mgroup.toNat).any fun g => (h.posIn g rank).any fun i => left.getLsbD i
  | _, _ => (s.mgr.record.bind fun r => h.entryOf r rank).any fun e => p.c.dst == BitVec.ofNat 18 e

/-- A rank has not acknowledged every result billet of a step (R281). -/
def State.owesRank (s : State) (no : Nat) (h : Heat) (rank : Nat) (collId : BitVec 32) (step : Nat) : Bool :=
  let hit (p : Pkt) (left : BitVec 16) : Bool := s.isResultOf no collId step p && s.goesTo h rank p left
  (s.hub.kept.any fun p => hit p (pktMask p)) || s.hub.srcs.any fun f =>
    (f.copies.any fun c => hit c.pkt (outstanding c)) || f.waiting.any fun w => hit w.pkt (pktMask w.pkt)

/-- Send the step completion billet to each rank of the delivery set (R281); one to a rank that has not acknowledged every result
of the step waits (R282). -/
def State.sendStepEnd (s : State) (no : Nat) (h : Heat) (d : CollDesc) (x : HubStep) (status : BitVec 16) : State :=
  let ranks := deliverTo d h x.out
  let src := s.unitEid (0x10 + d.crucible 0)
  let hdr : BilletHdr := { zeroHdr with collId := d.collId, step := x.step, chunk := 0xFFFFFFFF }
  ranks.foldl (fun s k =>
    match s.mgr.record.bind fun r => h.entryOf r k with
    | some e =>
      let p := mkBillet { (common (tenantKey h.tenant) s.hubEpoch src (BitVec.ofNat 18 e) bResult) with baton := true }
        0 hdr (completionBytes x status x.out.length)
      if s.owesRank no h k d.collId x.step.toNat then
        s.setHub { s.hub with ends := s.hub.ends ++ [{ heat := no, rank := k, pkt := p }] }
      else s.sendResult no p
    | none => s) s

/-- The step completion billets whose rank has acknowledged every result of its step leave, in their order; those of a heat that
is gone leave no more. -/
def State.sendEnds (s : State) : State :=
  s.hub.ends.foldl (fun s x =>
    match tget s.mgr.heats x.heat, pktHdr x.pkt with
    | some h, some b =>
      if s.owesRank x.heat h x.rank b.collId b.step.toNat then s.setHub { s.hub with ends := s.hub.ends ++ [x] }
      else s.sendResult x.heat x.pkt
    | _, _ => s) (s.setHub { s.hub with ends := [] })

/-- Result billets of a step that no acknowledgement of a rank of the delivery set has ended yet (R281): a rank that is out by
now is waited for no more. -/
def State.resultsOut (s : State) (no : Nat) (collId : BitVec 32) (step : Nat) : Bool :=
  let out := s.outOf no collId step
  let hit (p : Pkt) : Bool := s.isResultOf no collId step p && !s.toRank out p
  s.hub.kept.any hit || s.hub.srcs.any fun f => f.copies.any (fun c => hit c.pkt) || f.waiting.any fun w => hit w.pkt

/-- A fenced rank whose contribution the open step still lacks is lost (R260): it has contributed when every chunk is
settled, or when the record of every chunk that is not counts it or the root above it. -/
def State.lacks (s : State) (no : Nat) (d : CollDesc) (step rank : Nat) : Bool :=
  (List.range d.chunks).any fun chunk =>
    let done := (s.hubStep no d.collId step).any fun x => x.formed.contains chunk || x.done.contains chunk
    !done && (match s.chunkRec no d.collId step chunk with
      | none => true
      | some c => c.total.isNone &&
        !(c.bits.contains (match c.pass with | .swage _ => d.rootOf rank d.tree.length | _ => rank)))

/-- A fenced rank is lost (R234, R260), whoever asked for its fence. -/
def State.loseFenced (s : State) (h : Heat) (e : Nat) : State :=
  let m := s.mgr
  if h.lost.contains e || m.troubles.contains (.lost e false) then s
  else { s with mgr := { m with troubles := m.troubles ++ [.lost e false] } }

/-- Fenced ranks whose contribution an open step lacks are lost (R260); a barrier step counts none of them (R289). -/
def State.checkFenced (s : State) (no : Nat) (d : CollDesc) (step : Nat) : State :=
  match s.mgr.record, tget s.mgr.heats no with
  | some r, some h =>
    if !d.adds || (s.planOf no).any (fun p => p.openOf d.collId != step) then s
    else (h.fenced.filter fun e => (h.rankOf r e).any fun k => s.lacks no d step k).foldl (fun s e => s.loseFenced h e) s
  | _, _ => s

/-- A fenced rank that supplies a block of a collective without the hub is lost (R284): its later steps cannot complete. -/
def State.checkSource (s : State) (no rank : Nat) : State :=
  match s.mgr.record, tget s.mgr.heats no with
  | some r, some h =>
    if h.plan.any fun p => !p.held && p.image.colls.any fun d => d.supplies rank then
      (h.fenced.filter fun e => h.rankOf r e == some rank).foldl (fun s e => s.loseFenced h e) s
    else s
  | _, _ => s

/-- A chunk moves on after a contribution: a pass that has every contributor ends (R267), and a complete chunk's outputs
are formed. A new pass may lack a rank that has been fenced since it contributed (R260). -/
def State.chunkMoves (s : State) (a : Aim) (c : CruChunk) : State :=
  let step := c.step.toNat
  if c.total.isSome || !((passRanks a.heat a.desc c.pass).all fun k => c.bits.contains k) then (s.setChunk c).formResults a c
  else
    let e := c.endPass a.desc
    let s := s.setChunk e.1
    match e.2 with
    | some scale => (s.sendOrder a e.1 step scale).checkFenced a.no a.desc step
    | none =>
      let raws := if c.pass = .raw then c.ordered.length else 0
      let s := s.modStep a.no a.desc.collId step fun x => { x with rawBlocks := x.rawBlocks + raws }
      let s := s.sendPodTotal a step c.chunk (0x10 + a.desc.crucible c.chunk) (e.1.total.getD [])
      s.formResults a e.1

/-- The next step of a collective opens (R259, R279). -/
def State.openNext (s : State) (no : Nat) (d : CollDesc) (step : Nat) : State :=
  let set (os : List (BitVec 32 × Nat)) : List (BitVec 32 × Nat) := (os.filter fun x => x.1 != d.collId) ++ [(d.collId, step)]
  let s := s.modPlan no fun p => { p with opens := set p.opens }
  let s := s.openHubStep no d.collId step
  let out := s.fencedRanks no
  ((s.modStep no d.collId step fun x => { x with out := out }).checkFenced no d step).startStep no d step

/-- The open step of a collective is complete (R281). -/
def State.stepComplete (s : State) (no : Nat) (d : CollDesc) (x : HubStep) : Bool :=
  d.throughHub && d.chunks ≤ x.done.length && !s.resultsOut no d.collId x.step.toNat && (!d.isForge || x.forge.isSome)

/-- End a complete open step: completion billets go, and the next step opens. -/
def State.completeStep (s : State) (no : Nat) (h : Heat) (d : CollDesc) (x : HubStep) : State :=
  let s := s.sendStepEnd no h d x 0
  let s := s.setHub { s.hub with
    steps := s.hub.steps.filter fun y => !y.is no d.collId x.step.toNat
    chunks := s.hub.chunks.filter fun c => !c.of no d.collId x.step.toNat }
  s.openNext no d (x.step.toNat + 1)

/-- The open step of one collective, if it is complete. -/
def State.readyStep (s : State) : Option (Nat × Heat × CollDesc × HubStep) :=
  s.hub.steps.findSome? fun x =>
    (tget s.mgr.heats x.heat).bind fun h =>
      h.plan.bind fun p =>
        (p.desc x.collId).bind fun d =>
          if p.openOf x.collId = x.step.toNat && s.stepComplete x.heat d x then some (x.heat, h, d, x) else none

/-- End every open step that is complete. -/
def State.sweepSteps : Nat → State → State
  | 0, s => s
  | fuel + 1, s =>
    match s.readyStep with
    | some x => State.sweepSteps fuel (s.completeStep x.1 x.2.1 x.2.2.1 x.2.2.2)
    | none => s

def State.endReady (s : State) : State := (State.sweepSteps (s.hub.steps.length + 1) s).sendEnds

/-- Results of failed flows that the hub keeps for a heat go (R230, R285). -/
def State.dropKept (s : State) (no : Nat) : State :=
  s.setHub { s.hub with kept := s.hub.kept.filter fun p => s.pktHeat p != some no }

/-- A step ends with an error status (R282): each rank of the delivery set gets the completion billet with it, and the
step's records are freed. The step stays open, from empty records. One that is complete, or that passes through no hub unit, ends
no more here (R283, R284). -/
def State.failStep (s : State) (no : Nat) (collId : BitVec 32) (step : Nat) (status : BitVec 16) : State :=
  match tget s.mgr.heats no, s.planOf no, s.descOf no collId with
  | some h, some p, some d =>
    if step < p.openOf collId || !d.throughHub || d.elements == 0 then s
    else
      let x := (s.hubStep no collId step).getD (s.freshStep no collId step)
      let s := s.sendStepEnd no h d (if d.isForge then { x with forge := some (x.forge.getD (p.failedForge step)) } else x) status
      let s := s.setHub { s.hub with
        steps := s.hub.steps.filter fun y => !y.is no collId step
        chunks := s.hub.chunks.filter fun c => !c.of no collId step }
      s.openHubStep no collId step
  | _, _, _ => s

/-- End every open step of a heat with a status (R285); `keep` opens them again. -/
def State.failSteps (s : State) (no : Nat) (status : BitVec 16) : State :=
  (s.hub.steps.filter fun x => x.heat == no).foldl (fun s x => s.failStep no x.collId x.step.toNat status) s

/-- Everything that the hub units hold of a heat's steps goes. -/
def State.clearSteps (s : State) (no : Nat) : State :=
  s.setHub { s.hub with
    steps := s.hub.steps.filter (fun x => x.heat != no), chunks := s.hub.chunks.filter (fun c => c.heat != no)
    barriers := s.hub.barriers.filter (fun b => b.heat != no)
    hearths := s.hub.hearths.filter fun x => x.1 / 16 != no }

/-- Fenced ranks whose contribution or block a plan's open steps lack are lost (R260, R284). -/
def State.checkPlan (s : State) (no : Nat) : State :=
  match s.planOf no with
  | some p =>
    let s := p.image.colls.foldl (fun s d => if d.elements = 0 then s else s.checkFenced no d (p.openOf d.collId)) s
    (s.fencedRanks no).foldl (fun s k => s.checkSource no k) s
  | none => s

/-- The steps that a plan opens as it starts or starts again from a step (R279, R289). -/
def State.openSteps (s : State) (no : Nat) (p : Plan) (resume : Nat) : State :=
  let s := s.modPlan no fun q => { q with resume := resume, opens := [] }
  let out := s.fencedRanks no
  p.image.colls.foldl (fun s d =>
    if d.kind = 5 then
      s.setHub { s.hub with barriers := s.hub.barriers ++
        [{ heat := no, barrier := d.collId, openStep := resume + 1, arrived := [], out := out }] }
    else if d.throughHub && d.elements != 0 then s.startStep no d (resume + 1)
    else s) s

/-- A plan starts, or starts again from a step; a rank fenced before that is missed at once (R260, R284). -/
def State.openPlan (s : State) (no : Nat) (p : Plan) (resume : Nat) : State := (s.openSteps no p resume).checkPlan no

/-! ## An accepted contribution -/

def State.countStray (s : State) (unit : Nat) : State :=
  (s.setHub { s.hub with stray := tset s.hub.stray unit (((tget s.hub.stray unit).getD 0) + 1) }).tally 0x0031
    (BitVec.ofNat 16 unit) 1

/-- An accepted billet at a Crucible (R278). -/
def State.contribute (s : State) (p : Pkt) : State :=
  match s.verdict p, pktHdr p with
  | .discard, _ => s
  | .badArg a step, _ =>
    let s := s.failStep a.no a.desc.collId step sBadArg
    { s with mgr := { s.mgr with troubles := s.mgr.troubles ++ [.stop a.no sBadArg] } }
  | .add a c _, some h =>
    let s := s.openHubStep a.no a.desc.collId h.step.toNat
    if a.who < 4096 then s.chunkMoves a (c.addRank a.desc a.who h (pktPayload p))
    else s.chunkMoves a (c.addPod a.desc (a.who - 4096) (pktPayload p))
  | _, _ => s.countStray ((field p.c.dst 0 8).toNat - 0x10)

/-! ## The pacer (R288 to R291) -/

def Barrier.is (b : Barrier) (no : Nat) (barrier : BitVec 32) : Bool := b.heat == no && b.barrier == barrier

def State.modBarrier (s : State) (no : Nat) (barrier : BitVec 32) (f : Barrier → Barrier) : State :=
  s.setHub { s.hub with barriers := s.hub.barriers.map fun b => if b.is no barrier then f b else b }

/-- The full step congruent to STEP_LO that lies nearest a step (R289). -/
def nearestStep (lo : BitVec 32) (near : Nat) : Int := near + (lo - BitVec.ofNat 32 near).toInt

/-- FALLBACK_LAP at release (R289, R291). -/
def State.fallbackLap (s : State) (p : Plan) : BitVec 64 :=
  if p.image.timed then BitVec.ofNat 64 (s.ticks + p.image.stepPeriod) else 0

/-- PACE_RELEASE of a barrier step to one rank. -/
def State.sendRelease (s : State) (no : Nat) (h : Heat) (p : Plan) (b : Barrier) (rank : Nat) : State :=
  match s.mgr.record.bind fun r => h.entryOf r rank with
  | some e =>
    s.sendResult no (mkTally (common (tenantKey h.tenant) s.hubEpoch s.mgrEid (BitVec.ofNat 18 e) tPaceRelease) 0
      (at' 128 0 b.barrier ||| at' 128 32 (BitVec.ofNat 32 b.openStep) ||| at' 128 64 (s.fallbackLap p)))
  | none => s

/-- The barrier that a heat waits at, once every rank of its delivery set has arrived (R289). -/
def State.fullBarrier (s : State) (no : Nat) (barrier : BitVec 32) : Option (Heat × Plan × Barrier × List Nat) :=
  match s.hub.barriers.find? (fun b => b.is no barrier), tget s.mgr.heats no with
  | some b, some h =>
    h.plan.bind fun p =>
      let ranks := (List.range h.size).filter fun k => !b.out.contains k
      if !ranks.isEmpty && ranks.all fun k => b.arrived.contains (b.openStep, k) then some (h, p, b, ranks) else none
  | _, _ => none

/-- Release one barrier step. -/
def State.releaseStep (s : State) (no : Nat) (x : Heat × Plan × Barrier × List Nat) : State :=
  let (h, p, b, ranks) := x
  let s := ranks.foldl (fun s k => s.sendRelease no h p b k) s
  let fenced := s.fencedRanks no
  s.modBarrier no b.barrier fun b =>
    let later := b.back.filter fun x => b.openStep + 1 < x.2
    { b with
      openStep := b.openStep + 1, arrived := b.arrived.filter (fun x => x.1 != b.openStep)
      out := (fenced ++ later.map (·.1)).eraseDups, back := later }

/-- Release every barrier step that is full: the arrivals of the next one may be in already. -/
def State.releaseFull (no : Nat) (barrier : BitVec 32) : Nat → State → State
  | 0, s => s
  | fuel + 1, s =>
    match s.fullBarrier no barrier with
    | some x => State.releaseFull no barrier fuel (s.releaseStep no x)
    | none => s

/-- Release a barrier step once every rank of its delivery set has arrived (R289); arrivals reach one step ahead. -/
def State.checkBarrier (s : State) (no : Nat) (barrier : BitVec 32) : State := State.releaseFull no barrier 2 s

/-- Count an arrival, or discard it (R289). -/
def State.arrive (s : State) (p : Pkt) : State :=
  let b := pktTally p
  match s.mapEid p.c.src with
  | none => s
  | some (no, h, rank) =>
    match s.hub.barriers.find? fun x => x.is no (field b 0 32) with
    | none => s
    | some x =>
      let step := nearestStep (field b 32 32) x.openStep
      if p.c.laneKey != tenantKey h.tenant || (field b 64 12).toNat != rank || h.fenced.contains p.c.src.toNat then s
      else if step < x.openStep || (x.openStep : Int) + 1 < step || x.arrived.contains (step.toNat, rank) then s
      else
        (s.modBarrier no x.barrier fun y => { y with arrived := y.arrived ++ [(step.toNat, rank)] }).checkBarrier no x.barrier

/-- An accepted tally of a type at the hub that waits for its row. -/
def State.takeInbox (s : State) (type : BitVec 8) : Option (Pkt × State) :=
  (takeFirst (fun p => !isBillet p && p.c.type == type) s.hub.inbox).map fun x => (x.1, s.setHub { s.hub with inbox := x.2 })

/-- PACE_ARRIVE (R289). -/
def execPaceArrive (s : State) : Host.Outcome State Fault Refusal :=
  .next (match s.takeInbox tPaceArrive with
    | some x => x.2.arrive x.1
    | none => s)

end Sys2Proof.Machine
end

