-- ==== Sys2Proof/Machine/Memory.lean ====
section
/-! DEFINITION. The memory tiers: pages and what holds them, withheld pages, quench, tenant keys and their generations, the
plan cache's space and the memory links (01_architecture.md R28; 07_collectives.md R301 to R303; 11_bringup_power_reset.md
R426, R433, R434; 12_security.md R462 to R469). -/

namespace Sys2Proof.Machine

open Sys2Proof

/-! ## Pages -/

/-- Piles of a tier, and pages of 2 MiB in one pile (Table 1-3). -/
def tierPiles : Tier → Nat
  | .p => 16 | .b => 24 | .c => 16

def tierPages : Tier → Nat
  | .p => 16384 | .b => 32768 | .c => 65536

/-- Key of a pile, and of the link to it, in the tables of the memory tiers. -/
def pileKey (t : Tier) (pile : Nat) : Nat := 64 * t.no + pile

/-- A link is held down (R433); a retraining releases the hold when the link comes up (R434). -/
def Mem.held (m : Mem) (t : Tier) (pile : Nat) : Bool :=
  (tget m.links (pileKey t pile)).any fun l => l.state == 2 || l.state == 3

/-- A link that is not held is being retrained: accesses through it wait (R433). -/
def Mem.retraining (m : Mem) (t : Tier) (pile : Nat) : Bool := (tget m.links (pileKey t pile)).any fun l => l.state == 1

/-- Pages withheld from placement: those of rows that could not be repaired, and all of a pile whose link is held (R426,
R434). -/
def Mem.withheldOf (m : Mem) (t : Tier) (pile : Nat) : Nat :=
  if m.held t pile then tierPages t else min (tierPages t) ((tget m.withheld (pileKey t pile)).getD 0)

/-- Pages of a pile in sets that fit. -/
def Mem.count (m : Mem) (t : Tier) (pile : Nat) (p : PageSet → Bool) : Nat :=
  ((m.sets.filter fun x => x.tier == t && x.pile == pile && p x).map (·.count)).sum

def PageUse.quenching : PageUse → Bool
  | .quench => true
  | _ => false

def PageUse.caching : PageUse → Bool
  | .cache _ => true
  | _ => false

/-- Free pages of a pile, pages under quench not counted (MEM_QUERY). -/
def Mem.free (m : Mem) (t : Tier) (pile : Nat) : Nat :=
  tierPages t - m.withheldOf t pile - m.count t pile fun _ => true

/-- Pages of a pile that a placement may take: a page under quench counts as free (R222), and the plan cache's pages stand
in its reserved capacity (R328). -/
def Mem.placeable (m : Mem) (t : Tier) (pile : Nat) : Nat :=
  tierPages t - m.withheldOf t pile - m.count t pile fun x => !x.use.quenching && !x.use.caching

/-- Whether the pages that are placed in a pile are all out of quench: nothing placed still waits for one (R331). -/
def Mem.settled (m : Mem) (t : Tier) (pile : Nat) : Bool :=
  m.count t pile (fun _ => true) ≤ tierPages t - m.withheldOf t pile

/-- Add a set of pages; an empty set is none. -/
def Mem.add (m : Mem) (x : PageSet) : Mem := if x.count = 0 then m else { m with sets := m.sets ++ [x] }

/-- Release the pages of some uses: they go under quench, in order of release (R222, R468). -/
def Mem.release (m : Mem) (p : PageUse → Bool) : Mem :=
  let gone := (m.sets.filter fun x => p x.use).map fun x => { x with use := .quench }
  { m with sets := (m.sets.filter fun x => !p x.use) ++ gone }

/-- Change what some pages are held for. -/
def Mem.rename (m : Mem) (p : PageUse → Bool) (u : PageUse) : Mem :=
  { m with sets := m.sets.map fun x => if p x.use then { x with use := u } else x }

/-- Take one page off the first set that fits. -/
def takePage (p : PageSet → Bool) : List PageSet → Option (PageSet × List PageSet)
  | [] => none
  | x :: r =>
    if p x && x.count != 0 then some (x, if x.count = 1 then r else { x with count := x.count - 1 } :: r)
    else (takePage p r).map fun q => (q.1, x :: q.2)

def State.setMem (s : State) (m : Mem) : State := { s with mem := m }

/-! ## Keys (R464 to R466) -/

/-- Live generations of a tenant, newest first. -/
def Trust.live (t : Trust) (tenant : Nat) : List Nat := (tget t.gens tenant).getD []

/-- The generation that a tenant's new pages take (R464). -/
def State.newest (s : State) (tenant : Nat) : Nat := ((s.trust.live tenant).head?).getD 0

/-- Create a key generation of a tenant from the trust die's own random bits (R464), in every key slot (R465), and send it to a
standby (R524). -/
def State.createKey (s : State) (tenant gen : Nat) : State :=
  let t := s.trust
  let pair := freshPair t.draws
  let s := ({ s with trust := { t with gens := tset t.gens tenant (gen :: t.live tenant), draws := t.draws + 2 } } : State).holdKey
    (4 * tenant + gen) pair
  if s.ember.streams then { s with ember := { s.ember with
    urgent := s.ember.urgent ++ [emberPkt 0x05 (BitVec.ofNat 64 (4 * tenant + gen)) 0 (Config.wrapKey t.pairingKey pair)] } }
  else s

/-- Destroy a key generation (R466, R528). -/
def State.destroyKey (s : State) (tenant gen : Nat) : State :=
  let t := s.trust
  let s := ({ s with trust := { t with gens := tset t.gens tenant ((t.live tenant).filter (· != gen)) } } : State).dropKey (4 * tenant + gen)
  if s.ember.streams then { s with ember := { s.ember with
    urgent := s.ember.urgent ++ [emberPkt 0x06 (BitVec.ofNat 64 (4 * tenant + gen)) 0 []] } }
  else s

/-- A tenant that is enabled and holds no live generation gets generation 0 (R464). -/
def State.ensureKey (s : State) (tenant : Nat) : State :=
  if (s.trust.live tenant).isEmpty then s.createKey tenant 0 else s

/-- A set holds pages of a tenant under a generation. A page that is released counts until its quench completes (Table 12-10). -/
def PageSet.under (x : PageSet) (tenant gen : Nat) : Bool :=
  x.tenant == tenant && x.gen == gen && (match x.use with | .module => false | _ => true)

/-- The owner of pages that no tenant has held since power-on. -/
def noTenant : Nat := 1024

/-- Pages of a tenant under its older generation. -/
def State.olderPages (s : State) (tenant : Nat) : Nat :=
  match s.trust.live tenant with
  | _ :: old :: _ => ((s.mem.sets.filter fun x => x.under tenant old).map (·.count)).sum
  | _ => 0

/-- The older key is destroyed when the last page leaves it (R466). -/
def State.retireKey (s : State) (tenant : Nat) : State :=
  match s.trust.live tenant with
  | _ :: old :: _ => if s.olderPages tenant = 0 then s.destroyKey tenant old else s
  | _ => s

/-- Every tenant with two generations has its older key destroyed once no page is under it. -/
def State.retireKeys (s : State) : State := (tkeys s.trust.gens).foldl State.retireKey s

/-! ## The plan cache's space (R301 to R303) -/

def gibPages : Nat := 512

/-- Pages of an image. -/
def imagePages (bytes : Nat) : Nat := (bytes + 2097151) / 2097152

/-- A cache entry is pinned while its plan is loaded on an open heat (R302). -/
def State.pinned (s : State) (e : CacheEntry) : Bool :=
  s.mgr.heats.any fun h => h.2.tenant == e.tenant && h.2.plan.any fun p => p.image.hash == e.image.hash

/-- Drop a cache entry: its pages go under quench. -/
def Mem.dropEntry (m : Mem) (order : Nat) : Mem :=
  { (m.release fun u => u == .cache order) with cache := m.cache.filter fun e => e.order != order }

/-- Pages that the cache's entries take. -/
def cacheUse (es : List CacheEntry) : Nat := (es.map fun e => imagePages e.image.imageBytes).sum

/-- Cache pages that each tier C pile holds. -/
def Mem.cacheOf (m : Mem) (pile : Nat) : Nat := m.count .c pile fun x => x.use.caching

/-- Evict the least recently loaded unpinned entries until the entries fit in some pages, and no pile holds more than its share of
the capacity (R301, R302). -/
def State.evict (s : State) (room share : Nat) : Nat → State
  | 0 => s
  | fuel + 1 =>
    if cacheUse s.mem.cache ≤ room && (List.range 16).all fun k => s.mem.cacheOf k ≤ share then s
    else
      match sortBy (fun (a b : CacheEntry) => a.order ≤ b.order) (s.mem.cache.filter fun e => !s.pinned e) with
      | [] => s
      | e :: _ => State.evict ((s.setMem (s.mem.dropEntry e.order)).retireKey e.tenant) room share fuel

/-- Place pages one by one on the pile that holds least, the lowest first among equals: how many each pile takes (R301). -/
def spread (held : Nat → Nat) : Nat → List Nat
  | 0 => List.replicate 16 0
  | n + 1 =>
    let got := spread held n
    let at' (k : Nat) : Nat := held k + (got[k]?).getD 0
    let k := (List.range 16).foldl (fun best k => if at' k < at' best then k else best) 0
    got.set k ((got[k]?).getD 0 + 1)

/-- Pages of tier C piles that an entry's image takes: the cache stays spread evenly over the piles, so none holds more than its
sixteenth of the capacity while the whole fits (R301). -/
def Mem.addEntry (m : Mem) (e : CacheEntry) : Mem :=
  let counts := spread m.cacheOf (imagePages e.image.imageBytes)
  let m := counts.zipIdx.foldl (fun m x =>
    m.add { tier := .c, pile := x.2, count := x.1, tenant := e.tenant, gen := e.gen, use := .cache e.order }) m
  { m with cache := m.cache ++ [e] }

/-- Enter an image in the cache, if it fits in the free and unpinned space (R302). An image that is in already counts as
loaded now. -/
def State.enterCache (s : State) (tenant : Nat) (image : PlanImage) : State :=
  let cap := s.cfg.live.cacheGib * gibPages
  let s := s.setMem { s.mem with order := s.mem.order + 1 }
  match s.mem.cache.find? fun e => e.tenant == tenant && e.image.hash == image.hash with
  | some e =>
    s.setMem { (s.mem.rename (fun u => u == .cache e.order) (.cache s.mem.order)) with
      cache := s.mem.cache.map fun x => if x.order = e.order then { x with order := s.mem.order } else x }
  | none =>
    let need := imagePages image.imageBytes
    if cap < need + cacheUse (s.mem.cache.filter s.pinned) then s
    else
      let s := s.evict (cap - need) (cap / 16) s.mem.cache.length
      s.setMem (s.mem.addEntry { tenant := tenant, image := image, order := s.mem.order, gen := s.newest tenant })

/-- CACHE_LIST (R399). -/
def execCacheList (id : Nat) (s : State) : Host.Outcome State Fault Refusal :=
  .next (s.ask 0x0505 id fun c s =>
    let t := c.num 32 2
    if !c.src.mayNameTenant t then bad 32
    else
      let es := s.mem.cache.filter fun e => e.tenant == t
      okData c (leBytes 4 es.length) (es.flatMap fun e =>
        bvBytes e.image.hash ++ leBytes 2 e.tenant ++ leBytes 6 (if s.pinned e then 1 else 0) ++
          leBytes 8 e.image.imageBytes))

/-- No entry of the tenant has the hash; one that another tenant's entry has is none of a VF's business (R382). -/
def State.cacheMiss (s : State) (c : Cmd) : Ans :=
  if c.src.isVf && s.mem.cache.any fun e => e.image.hash == c.hash 64 then bad 64 else fail sNotCached

/-- CACHE_DROP (R410). -/
def execCacheDrop (id : Nat) (s : State) : Host.Outcome State Fault Refusal :=
  .next (s.run 0x0506 id fun c s =>
    let t := c.num 32 2
    if !c.src.mayNameTenant t then (s, some (bad 32))
    else
      match s.mem.cache.find? fun e => e.tenant == t && e.image.hash == c.hash 64 with
      | none => (s, some (s.cacheMiss c))
      | some e =>
        if s.pinned e then (s, some (fail sBusy)) else ((s.setMem (s.mem.dropEntry e.order)).retireKey t, some (ok [])))

/-- MEM_QUERY (R399, R426). -/
def execMemQuery (id : Nat) (s : State) : Host.Outcome State Fault Refusal :=
  .next (s.ask 0x0701 id fun _ s =>
    let m := s.mem
    let total (t : Tier) : Nat := ((List.range (tierPiles t)).map (m.free t)).sum
    ok (((List.range 16).flatMap fun h => leBytes 4 (m.free .p h)) ++ leBytes 4 (total .b) ++ leBytes 4 (total .c) ++
      leBytes 4 ((m.sets.filter fun x => x.use.quenching).map (·.count)).sum ++ leBytes 4 s.cfg.live.cacheGib))

/-! ## Saved states that are kept (R223) -/

/-- Drop a kept saved state: its pages go under quench. -/
def Mem.dropSaved (m : Mem) (id : Nat) : Mem :=
  { (m.release fun u => u == .kept id) with saved := m.saved.filter fun x => x.savedId != id }

/-- Kept states are listed once the heat they come from no longer waits to be restarted (R241). -/
def State.pendingRestart (s : State) (id : Nat) : Bool :=
  s.mgr.queue.any fun q => match q.op with
    | .carve _ (some r) => r.savedId == id
    | _ => false

/-- SAVED_LIST (R399). -/
def execSavedList (id : Nat) (s : State) : Host.Outcome State Fault Refusal :=
  .next (s.ask 0x0601 id fun c s =>
    let t := c.num 32 2
    if !c.src.mayNameTenant t then bad 32
    else
      let xs := s.mem.saved.filter fun x => x.tenant == t
      okData c (leBytes 4 xs.length) (xs.flatMap fun x => leBytes 8 x.savedId ++ leBytes 8 x.step ++ bvBytes x.hash))

/-- SAVED_DISCARD (R223). -/
def execSavedDiscard (id : Nat) (s : State) : Host.Outcome State Fault Refusal :=
  .next (s.run 0x0602 id fun c s =>
    let t := c.num 32 2
    let sid := c.num 56 8
    if !c.src.mayNameTenant t then (s, some (bad 32))
    else if s.mem.saved.any fun x => x.savedId == sid && x.tenant == t then
      ((s.setMem (s.mem.dropSaved sid)).retireKeys, some (ok []))
    else (s, some (bad 56)))

/-! ## Rotation (R465, R466) -/

/-- A kept state that a rotation re-encrypts: one that a restart waits for, or that an open heat still holds (R241, R403, R466). -/
def State.needsSaved (s : State) (id : Nat) : Bool := s.pendingRestart id || s.mgr.heats.any fun h => h.2.keptId == id

/-- What a rotation quenches at once: kept saved states that nothing needs, and cache entries that are not pinned, under the older
generation (R466, R303). -/
def State.rotateOut (s : State) (tenant old : Nat) : State :=
  let kept := s.mem.saved.filter fun x => x.tenant == tenant && !s.needsSaved x.savedId
  let m := kept.foldl (fun m x => m.dropSaved x.savedId) s.mem
  let s := s.setMem m
  let out := s.mem.cache.filter fun e => e.tenant == tenant && e.gen == old && !s.pinned e
  let m := out.foldl (fun m e => m.dropEntry e.order) s.mem
  (s.setMem m).retireKey tenant

/-- SEC_KEY_ROTATE (R465). -/
def execSecKeyRotate (id : Nat) (s : State) : Host.Outcome State Fault Refusal :=
  .next (s.run 0x0802 id fun c s =>
    let t := c.num 32 2
    if !c.src.mayNameTenant t then (s, some (bad 32))
    else
      match s.trust.live t with
      | [] => (s, some (bad 32))
      | [g] => ((s.createKey t ((g + 1) % 4)).rotateOut t g, some (ok (leBytes 1 ((g + 1) % 4))))
      | _ => (s, some (fail sBusy)))

/-- SEC_KEY_STATE (R466). -/
def execSecKeyState (id : Nat) (s : State) : Host.Outcome State Fault Refusal :=
  .next (s.ask 0x0803 id fun c s =>
    let t := c.num 32 2
    if !c.src.mayNameTenant t then bad 32
    else ok (leBytes 4 ((s.trust.live t).foldl (fun n g => n ||| 2 ^ g) 0) ++ leBytes 4 (s.olderPages t)))

/-- What the sweep quenches in place of re-encrypting it: a state that has been kept, or a cache entry that is no longer pinned, since
the rotation (R223, R303, R466). -/
def State.sweepsOut (s : State) (u : PageUse) : Option Mem :=
  match u with
  | .kept id => if s.needsSaved id then none else some (s.mem.dropSaved id)
  | .cache n => if s.mem.cache.any fun e => e.order == n && s.pinned e then none else some (s.mem.dropEntry n)
  | _ => none

/-- The sweep reaches one page of a tenant's older generation: it moves to the newer one, or what holds it is quenched (R466); a cache
entry follows its last page. -/
def State.reencrypt (s : State) : State :=
  let old (x : PageSet) : Bool := match s.trust.live x.tenant with
    | _ :: g :: _ => x.under x.tenant g && !x.use.quenching
    | _ => false
  match takePage old s.mem.sets with
  | none => s
  | some (x, rest) =>
    match s.sweepsOut x.use with
    | some m => (s.setMem m).retireKey x.tenant
    | none =>
    let gen := s.newest x.tenant
    let m := ({ s.mem with sets := rest } : Mem).add { x with count := 1, gen := gen }
    let moved (e : CacheEntry) : CacheEntry := if x.use = .cache e.order then { e with gen := gen } else e
    (s.setMem { m with cache := m.cache.map moved }).retireKey x.tenant

/-- REENCRYPT_PAGE_DONE (R466). -/
def execReencryptPageDone (s : State) : Host.Outcome State Fault Refusal := .next s.reencrypt

/-! ## Memory links (R433) -/

def tierCode : Tier → Nat
  | .p => 0 | .b => 1 | .c => 2

/-- Memory link of an operand pair: tier 1 B or 2 C, and the link. -/
def memLink (tier link : Nat) : Option (Tier × Nat) :=
  if tier = 1 ∧ link < 24 then some (.b, link) else if tier = 2 ∧ link < 16 then some (.c, link) else none

def MemLink.fresh : MemLink := { state := 0, lastLoss := none, cmd := none }

def Mem.link (m : Mem) (t : Tier) (i : Nat) : MemLink := (tget m.links (pileKey t i)).getD MemLink.fresh

def Mem.setLink (m : Mem) (t : Tier) (i : Nat) (l : MemLink) : Mem := { m with links := tset m.links (pileKey t i) l }

/-- Begin to retrain a link, from the calibration set that is stored now (R409); the recorder counts it (Table 14-1 MEM_RETRAIN). -/
def State.beginRetrain (s : State) (t : Tier) (i : Nat) (l : MemLink) : State :=
  ((s.setMem (s.mem.setLink t i { l with state := if l.state = 2 then 3 else 1 })).useCal (1024 + pileKey t i)).tally 0x0013 (BitVec.ofNat 16 (if t = .b then i else 24 + i)) 1

/-- Hold a link down: its pages are withheld, and MEM_LINK_HELD is raised (R433, R434). -/
def State.holdLink (s : State) (t : Tier) (i : Nat) (l : MemLink) : State :=
  (s.setMem (s.mem.setLink t i { l with state := 2, cmd := none })).alarm 0x1107 [BitVec.ofNat 8 (tierCode t), BitVec.ofNat 8 i]

/-- MEM_LINK_LOSS (R433): retrained once, at once; a second loss within 1 s holds the link. -/
def execMemLinkLoss (tier link : Nat) (s : State) : Host.Outcome State Fault Refusal :=
  .next (match memLink tier link with
    | none => s
    | some (t, i) =>
      let l := s.mem.link t i
      let again := l.lastLoss.any fun x => s.ticks < x + tickPerS
      if l.state ≠ 0 then s
      else if again then s.holdLink t i { l with lastLoss := some s.ticks }
      else s.beginRetrain t i { l with lastLoss := some s.ticks })

/-- MEM_RETRAIN (R433). -/
def execMemRetrain (id : Nat) (s : State) : Host.Outcome State Fault Refusal :=
  .next (s.run 0x0703 id fun c s =>
    let tier := c.num 32 1
    match memLink tier (c.num 33 1) with
    | none => (s, some (bad (if tier = 1 ∨ tier = 2 then 33 else 32)))
    | some (t, i) =>
      let l := s.mem.link t i
      if l.state = 1 ∨ l.state = 3 then (s, some (fail sBusy)) else (s.beginRetrain t i { l with cmd := some id }, none))

/-- MEM_LINK_RETRAIN_DONE (R433): a retraining ends, and its command replies: 0 when the link is up, 1 when it is down and
held. -/
def execMemLinkRetrainDone (tier link : Nat) (up : Bool) (s : State) : Host.Outcome State Fault Refusal :=
  .next (match memLink tier link with
    | none => s
    | some (t, i) =>
      let l := s.mem.link t i
      if l.state ≠ 1 ∧ l.state ≠ 3 then s
      else
        let s := if up then s.setMem (s.mem.setLink t i { l with state := 0, cmd := none }) else s.holdLink t i l
        match l.cmd with
        | some id => s.finish id (ok (leBytes 1 (if up then 0 else 1)))
        | none => s)

/-- The tag of the pages of a set (Table 12-8). -/
def PageSet.tag (x : PageSet) : BitVec 16 :=
  match x.use with
  | .module => at' 16 12 2#2
  | .quench => at' 16 12 3#2
  | _ => BitVec.ofNat 16 (x.tenant % 1024) ||| at' 16 10 (BitVec.ofNat 2 x.gen) ||| at' 16 12 1#2

end Sys2Proof.Machine
end

