-- ==== Sys2Proof/Machine/Stores.lean ====
section
/-! DEFINITION. Stored configuration, the shadow installation record and the calibration set (10_host_commands.md R406 to
R409; 03_discovery_topology.md R112), and the commands that change or read them. -/

namespace Sys2Proof

/-! ## The header of a slot (R406) -/

namespace Machine

/-- The calibration area passes its check (R409). The factory's header is sound. -/
def Cfg.calSound (c : Cfg) : Bool := c.calHead.isEmpty || slotValid (c.calHead ++ c.cal)

end Machine

/-! ## The limits of Table 3-1 -/

def widthOk (w : Nat) : Bool := [1, 2, 4, 6, 8].contains w

/-- Extents, and exactly one endpoint for each coordinate. -/
def InstRecord.agentsOk (r : InstRecord) : Bool :=
  let cells := (List.range r.ez).flatMap fun z => (List.range r.ey).flatMap fun y => (List.range r.ex).map fun x => (x, y, z)
  let eps := r.agents.filter fun a => !a.isSwitch
  ([r.ex, r.ey, r.ez].all fun e => 1 ≤ e && e ≤ 16) && r.ex * r.ey * r.ez ≤ 4096 && eps.length == cells.length &&
    (cells.all fun c => (eps.filter fun a => (a.x, a.y, a.z) == c).length == 1) &&
    (r.agents.filter (·.isSwitch)).length ≤ 1024 && (r.agents.map (·.strap)).eraseDups.length == r.agents.length

/-- The port of a Chrohar link and group that the record describes: its neighbour and minimum width. -/
def InstRecord.chPort (r : InstRecord) (port : Nat) : Option (Far × Nat) :=
  (r.links.find? fun l => l.link == port / 4).bind fun l => l.ports[port % 4]?

/-- Lane counts of the groups of a split code (Table 3-2). -/
def splitLanes (code : Nat) : List Nat :=
  match code with
  | 0 => [8]
  | 1 => [6, 2]
  | 2 => [4, 4]
  | 3 => [4, 2, 2]
  | 4 => [2, 2, 2, 2]
  | _ => []

/-- Edge wiring: both ends of each connection name each other, with one width. -/
def InstRecord.edgesOk (r : InstRecord) : Bool :=
  (r.edges.map fun w => (w.sw, w.port)).eraseDups.length == r.edges.length &&
    r.edges.all fun w =>
      r.isSwitch w.sw && w.port < 16 && widthOk w.width &&
      match w.far with
      | .none => true
      | .entry f k =>
        (r.posOf f).isSome && (k == 6 || k == 7) &&
          (r.edges.filter fun v => v.far == .entry f k).length == 1
      | .chrohar c =>
        (r.chPort c).any (fun x => x.1 == .entry w.sw w.port) &&
          (r.links.find? fun l => l.link == c / 4).any fun l => (splitLanes l.split)[c % 4]? == some w.width
      | .peer _ => false

/-- Chrohar links. -/
def InstRecord.linksOk (r : InstRecord) : Bool :=
  (r.links.map (·.link)).eraseDups.length == r.links.length &&
    r.links.all fun l =>
      l.link < 64 && l.split < 5 && l.ports.length == (splitLanes l.split).length &&
        (l.ports.zip (splitLanes l.split)).zipIdx.all fun x =>
          let far := x.1.1.1
          let least := x.1.1.2
          widthOk least && least ≤ x.1.2 &&
            match far with
            | .none => true
            | .entry e k => r.edges.any fun w => w.sw == e && w.port == k && w.far == .chrohar (4 * l.link + x.2)
            | .chrohar _ => false
            | .peer slot => l.split == 0 && slot < 4

/-- Minimum width of an agent port: its override, or the default (Table 3-1). -/
def InstRecord.minOf (r : InstRecord) (e p : Nat) : Nat :=
  ((r.minOver.find? fun o => o.1 == e && o.2.1 == p).map (·.2.2)).getD r.minDefault

/-- Minimum widths: of the list, and no more than the installed width where the record gives it. -/
def InstRecord.minOk (r : InstRecord) : Bool :=
  let least := r.minOf
  widthOk r.minDefault && (r.minOver.all fun o => o.1 < r.agents.length && widthOk o.2.2) &&
    r.edges.all fun w => least w.sw w.port ≤ w.width &&
      match w.far with
      | .entry f k => least f k ≤ w.width
      | _ => true

/-- The spare declaration (R143). -/
def InstRecord.sparesOk (r : InstRecord) : Bool :=
  match r.spares with
  | .none => true
  | .row a idx => 2 ≤ r.extent a && idx.length * r.extent a == r.ex * r.ey * r.ez && idx.all fun i => i < r.extent a
  | .plane a k => 2 ≤ r.extent a && k < r.extent a

/-- Peer links toward a slot, by R45: `k` is the pairing of the two slots. -/
def peerCount (n own slot : Nat) : Nat :=
  let k := Nat.xor own slot - 1
  n / 3 + (if k < n % 3 then 1 else 0)

/-- The slot that a link leads to on a quad baseboard (R560, Table 16-9): of links 64 − n to 63 the first go to slot XOR 1, the next
to slot XOR 2 and the last to slot XOR 3. -/
def peerPlace (n own link : Nat) : Option Nat :=
  let c (k : Nat) : Nat := n / 3 + (if k < n % 3 then 1 else 0)
  if link + n < 64 || 64 ≤ link then none
  else
    let j := link + n - 64
    some (Nat.xor own (if j < c 0 then 1 else if j < c 0 + c 1 then 2 else 3))

/-- The quad section (R44, R45): it lists exactly the links whose far end is a peer module. -/
def InstRecord.quadOk (r : InstRecord) (own : Nat) : Bool :=
  let listed := r.links.all fun l => (l.ports.map (·.1)).all fun far =>
    match far with
    | .peer slot => r.peers.contains (l.link, slot)
    | _ => true
  if r.quadN = 0 then listed && r.peers.isEmpty
  else
    listed && 6 ≤ r.quadN && r.quadN ≤ 16 && r.peers.length == r.quadN && (r.peers.map (·.1)).eraseDups.length == r.peers.length &&
      (r.peers.all fun p => (r.chPort (4 * p.1)).any fun x => x.1 == .peer p.2) &&
      ((List.range 4).filter (· != own)).all fun sl => (r.peers.filter fun p => p.2 == sl).length == peerCount r.quadN own sl

/-- R112: the record keeps every limit of Table 3-1. -/
def InstRecord.good (r : InstRecord) (own : Nat) : Bool :=
  r.agentsOk && r.edgesOk && r.linksOk && r.minOk && r.sparesOk && r.quadOk own

end Sys2Proof

namespace Sys2Proof.Machine

open Sys2Proof

/-! ## Writing the configuration (R407) -/

/-- Begin a write of what is in force into the other slot, which is not valid until it is done. -/
def Cfg.beginWrite (c : Cfg) (cmds : List CfgWait) : Cfg :=
  let c := { c with writing := some (CfgSlot.of (c.seq + 1) c.live), writeCmds := cmds, nextCmds := [] }
  if (c.flashA.map (·.seq)) = some c.seq then { c with flashB := none } else { c with flashA := none }

/-- A command changes stored configuration: the change joins the next write, and the command replies after it. -/
def State.store (s : State) (id : Nat) (result : List Byte) (f : Stored → Stored) : State :=
  let c := { s.cfg with live := f s.cfg.live }
  let w : CfgWait := { cmd := id, result := result }
  { s with cfg := if c.writing.isSome then { c with nextCmds := c.nextCmds ++ [w] } else c.beginWrite [w] }

/-- The slot written is in force. -/
def Cfg.written (c : Cfg) (slot : CfgSlot) : Cfg :=
  let c := if (c.flashA.map (·.seq)) = some c.seq then { c with flashB := some slot } else { c with flashA := some slot }
  { c with seq := slot.seq, writing := none, writeCmds := [] }

/-- A changed configuration slot goes to a paired standby (R524). -/
def State.streamConfig (s : State) (body : Stored) : State :=
  if s.ember.streams then { s with ember := { s.ember with
    urgent := s.ember.urgent ++ emberPieces 0x07 0 (storedBytes body) } }
  else s

/-- CONFIG_WRITE_DONE (R407): after a good read-back every command of the write replies, and what was gathered meanwhile
is written next. A write that fails its read-back is repeated (log entry 38). -/
def State.configWritten (s : State) (readBackOk : Bool) : State :=
  match s.cfg.writing with
  | none => s
  | some slot =>
    if !readBackOk then s
    else
      let cmds := s.cfg.writeCmds
      let s := ({ s with cfg := s.cfg.written slot } : State).streamConfig slot.body
      let s := cmds.foldl (fun s w => s.finish w.cmd (ok w.result)) s
      if s.cfg.nextCmds.isEmpty then s else { s with cfg := s.cfg.beginWrite s.cfg.nextCmds }

/-- CONFIG_WRITE_DONE (R407). -/
def execConfigWriteDone (readBackOk : Bool) (s : State) : Host.Outcome State Fault Refusal :=
  .next (s.configWritten readBackOk)

/-! ## Settings -/

/-- TENANT_SET (R193): a tenant that is enabled gets its first key (R464). -/
def execTenantSet (id : Nat) (s : State) : Host.Outcome State Fault Refusal :=
  .next (s.run 0x0407 id fun c s =>
    let v := BitVec.ofNat 64 (c.num 40 8)
    if !recGood v then (s, some (bad 40))
    else ((if recEnabled v then s.ensureKey (c.num 32 2) else s).store id [] fun k => { k with tenants := tset k.tenants (c.num 32 2) v }, none))

/-- TOPO_PROBE_SET (R249). -/
def execTopoProbeSet (id : Nat) (s : State) : Host.Outcome State Fault Refusal :=
  .next (s.run 0x0207 id fun c s =>
    let v := c.num 32 4
    if v < 5 ∨ 3600 < v then (s, some (bad 32)) else (s.store id [] fun k => { k with probeS := v }, none))

/-- ROUTE_DRAIN_SET (R177). -/
def execRouteDrainSet (id : Nat) (s : State) : Host.Outcome State Fault Refusal :=
  .next (s.run 0x0302 id fun c s =>
    let v := c.num 32 4
    if v < 20 ∨ 20000 < v then (s, some (bad 32)) else (s.store id [] fun k => { k with drainUs := v }, none))

/-! ## The installation record (R408) -/

/-- Put bytes at an offset of the shadow record. -/
def putShadow (t : Tab Byte) (off : Nat) (data : List Byte) : Tab Byte :=
  data.zipIdx.foldl (fun t x => tset t (off + x.2) x.1) t

/-- Length of the shadow record: one past the highest byte written. -/
def shadowLen (t : Tab Byte) : Nat := (tkeys t).foldl (fun m k => max m (k + 1)) 0

def shadowBytes (t : Tab Byte) : List Byte := (List.range (shadowLen t)).map fun i => (tget t i).getD 0

/-- TOPO_REC_WRITE (R408): a piece of 1 B to 1 MiB goes into the shadow. -/
def execTopoRecWrite (id : Nat) (data : List Byte) (s : State) : Host.Outcome State Fault Refusal :=
  .next (s.run 0x0201 id fun c s =>
    if 1048576 < c.dataLen then (s, some (bad 24))
    else if !s.mgr.heats.isEmpty then (s, some (fail sBusy))
    else
      ({ s with cfg := { s.cfg with shadow := putShadow s.cfg.shadow (c.num 32 8) (bytesAt (c.buffer data) 0 c.dataLen) } },
        some { ok [] with bytes := c.dataLen }))

/-- The shadow record as a whole, when its bytes are all there and it keeps every limit; one of no bytes is none (R404). -/
def State.shadowRecord (s : State) (total : Nat) : Option InstRecord :=
  if total ≠ 0 ∧ s.cfg.shadow.length = total ∧ shadowLen s.cfg.shadow = total then
    (Config.recordOf (shadowBytes s.cfg.shadow)).bind fun r => if r.good s.quadSlot then some r else none
  else none

/-- TOPO_REC_COMMIT (R408): the record is stored, and takes effect at the next discovery. -/
def execTopoRecCommit (id : Nat) (s : State) : Host.Outcome State Fault Refusal :=
  .next (s.run 0x0202 id fun c s =>
    if !s.mgr.heats.isEmpty then (s, some (fail sBusy))
    else
      match s.shadowRecord (c.num 32 8) with
      | none => (s, some (bad 32))
      | some r => (s.store id [] fun k => { k with record := some r }, none))

/-- TOPO_REC_READ (R408): the record in force, or the shadow. -/
def execTopoRecRead (id : Nat) (s : State) : Host.Outcome State Fault Refusal :=
  .next (s.ask 0x0203 id fun c s =>
    okData c [] (if c.bit 32 0 then shadowBytes s.cfg.shadow else (s.mgr.record.map Config.recordBytes).getD []))

/-! ## Calibration (R409) -/

/-- DEV_CAL_READ (R409). -/
def execDevCalRead (id : Nat) (s : State) : Host.Outcome State Fault Refusal :=
  .next (s.ask 0x0104 id fun c s =>
    okData c (leBytes 4 s.cfg.cal.length ++ leBytes 1 (if s.cfg.calFactory then 1 else 0)) s.cfg.cal)

/-- DEV_CAL_WRITE (R409): the whole set is replaced, with its header, and CAL_FACTORY is cleared for good. -/
def execDevCalWrite (id : Nat) (data : List Byte) (s : State) : Host.Outcome State Fault Refusal :=
  .next (s.run 0x0105 id fun c s =>
    if !c.bit 32 0 then (s, some (bad 32))
    else if 1048576 < c.dataLen + 32 then (s, some (bad 24))
    else
      let set := bytesAt (c.buffer data) 0 c.dataLen
      ({ s with cfg := { s.cfg with cal := set, calHead := bytesAt (slotBytes 0 set) 0 32, calValid := true, calFactory := false } },
        some { ok [] with bytes := c.dataLen }))

end Sys2Proof.Machine
end

