-- ==== Sys2Proof/Machine/Mirror.lean ====
section
/-! DEFINITION. The streaming of saved steps to a paired standby, at the active (15_standby_and_hotplug.md R524 to R527). -/

namespace Sys2Proof.Machine

open Sys2Proof

/-- OBJECT of a heat's saved step (Table 15-3). -/
def stepObject (no step : Nat) : BitVec 64 := BitVec.ofNat 64 (no + 4096 * step)

def objectHeat (o : BitVec 64) : Nat := (field o 0 12).toNat

def objectStep (o : BitVec 64) : Nat := (field o 12 52).toNat

/-- Key generations of the pages of a heat's last saved step, page by page. -/
def State.saveGens (s : State) (no : Nat) : List Nat :=
  let slot := (((tget s.mgr.heats no).bind (·.plan)).map (·.slot)).getD false
  (s.mem.sets.filter fun x => x.use == .save no slot).flatMap fun x => List.replicate x.count x.gen

/-- The ciphertext of 4,096 bytes of a heat's saved state, under its tenant's key (R32, R462): 64 data units from a unit address. -/
def State.pageText (s : State) (no : Nat) (x : Saved) (i : Nat) : List Byte :=
  let unit := (Config.pageUnit no x.step i).toNat
  let gen := ((s.saveGens no)[i / 512]?).getD (s.newest x.tenant)
  (List.range 64).flatMap fun j => bvBytes (s.cipher .c (unit + j) x.tenant gen (savedUnit x (64 * i + j)))

/-- The packets of a saved step: its pages in order, and STEP_DONE with the page count. -/
def State.stepPackets (s : State) (no : Nat) (x : Saved) (pages : Nat) : List EmberPkt :=
  (List.range (512 * pages)).map (fun i =>
    { (emberPkt 0x03 (stepObject no x.step) (BitVec.ofNat 64 (4096 * i)) (s.pageText no x i)) with
      srcUnit := Config.pageUnit no x.step i
      last := decide (i + 1 = 512 * pages) }) ++
    [emberPkt 0x04 (stepObject no x.step) (BitVec.ofNat 64 (512 * pages)) []]

def State.setEmber (s : State) (e : Ember) : State := { s with ember := e }

/-- Begin to stream a heat's newest saved step, if it is not mirrored and none of the heat's is in flight (R524, R525). -/
def State.startStream (s : State) (no : Nat) : State :=
  match tget s.mgr.heats no with
  | none => s
  | some h =>
    match h.plan with
    | none => s
    | some p =>
      match p.lastSaved with
      | none => s
      | some x =>
        if s.ember.streams && (tget s.ember.streaming no).isNone && h.mirrored != some x.step then
          s.setEmber { s.ember with
            streaming := tset s.ember.streaming no x.step
            pages := s.ember.pages ++ s.stepPackets no x p.place.save.sum }
        else s

/-- Every key that the trust die holds, wrapped for the standby (R471, R524). -/
def State.keyPackets (s : State) : List EmberPkt :=
  s.trust.keys.map fun k => emberPkt 0x05 (BitVec.ofNat 64 k.1) 0 (Config.wrapKey s.trust.pairingKey k.2)

/-- Begin SYNCING (R518, R534, Table 15-6): keys and configuration first; fabric images and saved steps follow as they are
written. -/
def State.startSync (s : State) : State :=
  let s := s.setEmber { s.ember with
    state := .syncing, urgent := s.keyPackets, image := [], pages := [], streaming := [], abandons := [] }
  let clear (h : Heat) : Heat := { h with mirrored := none }
  let s : State := { s with mgr := { s.mgr with heats := tmap (fun _ h => clear h) s.mgr.heats } }
  let s := (s.streamConfig s.cfg.live).streamCreds
  (tkeys s.mgr.heats).foldl State.startStream s

/-- Drop what a heat still has to stream. -/
def State.dropStream (s : State) (no : Nat) : State :=
  let mine (p : EmberPkt) : Bool := objectHeat p.object == no
  let waits (w : EmberWait) : Bool := match w with
    | .stepDone h _ => h == no
    | _ => false
  s.setEmber { s.ember with
    streaming := tdel s.ember.streaming no, pages := s.ember.pages.filter (fun p => !mine p)
    waits := s.ember.waits.filter fun w => !waits w }

/-- Abandon the stream of a heat whose slot a save is about to overwrite, and restart with the newest saved step; after
two abandons in a row the state becomes BEHIND (R526). -/
def State.abandonStream (s : State) (no : Nat) : State :=
  let n := (tget s.ember.abandons no).getD 0 + 1
  let s := s.dropStream no
  let e : Ember := { s.ember with abandons := tset s.ember.abandons no n }
  (s.setEmber (if 2 ≤ n ∧ e.state = .ready then { e with state := .behind } else e)).startStream no

/-- The state of a standby that holds a takeover point: BEHIND while a heat's stream has been abandoned twice in a row (Table 15-1,
R526). -/
def Ember.readyState (e : Ember) : StandbyState := if e.abandons.any fun x => 2 ≤ x.2 then .behind else .ready

/-- The Hearths skip a heat's saved steps after two abandons in a row, until the stream in progress completes (R526). -/
def State.maySave (s : State) (no : Nat) : Bool := (tget s.ember.abandons no).getD 0 < 2

end Sys2Proof.Machine
end

