-- ==== Sys2Proof/Machine/HearthUnit.lean ====
section
/-! DEFINITION. The Hearths: forge gradients, staging, the norm decision, the update pass, weights and saved steps
(08_hearth_update.md R306 to R335). -/

namespace Sys2Proof

/-- The Hearth of a chunk (R306). -/
def UpdateSec.hearthOf (u : UpdateSec) (chunk : Nat) : Nat := (chunk + u.hearthBase) % 16

/-- A forge step is staged (R318). -/
def UpdateSec.staged (u : UpdateSec) : Bool := u.clip || u.lsDynamic || u.skipNonfinite || u.segs.any (·.program == 5)

/-- The segment of an element (R311), with its index. -/
def UpdateSec.segOf (u : UpdateSec) (i : Nat) : Option (Seg × Nat) :=
  u.segs.zipIdx.find? fun x => x.1.first ≤ i && i < x.1.first + x.1.count

/-- Rows and columns of factored segments before a segment: where its statistics begin (R323). -/
def UpdateSec.statBase (u : UpdateSec) (k : Nat) : Nat × Nat :=
  (u.segs.take k).foldl (fun n g => if g.program = 5 then (n.1 + g.rows, n.2 + g.cols) else n) (0, 0)

/-- LR of a step (R312). -/
def UpdateSec.rate (u : UpdateSec) (step : Nat) : BitVec 32 :=
  (((u.sched.filter fun x => x.1 ≤ step).getLast?).map (·.2)).getD 0

end Sys2Proof

namespace Sys2Proof.Machine

open Sys2Proof

/-! ## Elements and records -/

def Elem.zero : Elem := { w := 0, s1 := 0, s2 := 0, s3 := 0, s4 := 0, staged := 0 }

def elemOf (t : Tab Elem) (i : Nat) : Elem := (tget t i).getD Elem.zero

/-- Put an element; one that is zero is not kept. -/
def putElem (t : Tab Elem) (i : Nat) (e : Elem) : Tab Elem := if e = Elem.zero then tdel t i else tset t i e

/-- State slots that a segment's program uses (Table 8-4, R317). -/
def slotsOf (u : UpdateSec) (g : Seg) : Nat :=
  match g.program with
  | 0 => ((u.progs[g.userProg]?).map (·.slots)).getD 0
  | 1 => 2
  | 2 => 2
  | _ => 1

/-- Stored bytes of an element of a segment, staging apart (Table 8-5). -/
def stateBytes (u : UpdateSec) (g : Seg) : Nat := 4 + slotsOf u g * (if g.momFmt = 1 then 2 else 4)

/-- Stored bytes of an element with its staging slot (R318, Table 8-5). -/
def liveBytes (u : UpdateSec) (g : Seg) : Nat := stateBytes u g + (if u.staged then 4 else 0)

/-- How many numbers of two ranges [a, b) and [c, d) coincide. -/
def overlap (a b c d : Nat) : Nat := min b d - max a c

/-- Bytes of the elements [lo, hi), by segment. -/
def spanBytes (u : UpdateSec) (bytes : Seg → Nat) (lo hi : Nat) : Nat :=
  (u.segs.map fun g => overlap lo hi g.first (g.first + g.count) * bytes g).sum

/-- The elements of a chunk: from its first to the end of what is no padding (R565). -/
def chunkSpan (d : CollDesc) (c : Nat) : Nat × Nat := (c * d.epc, c * d.epc + d.inChunk c)

/-- The chunks of a Hearth, ascending. -/
def hearthChunks (d : CollDesc) (u : UpdateSec) (h : Nat) : List Nat :=
  (List.range d.chunks).filter fun c => u.hearthOf c == h

/-- The pile of the j-th tier B page of a Hearth, its pages going to the piles in turn (R329). -/
def pileOfPage (counts : List Nat) (j : Nat) : Nat :=
  let rounds := (List.range (counts.foldl max 0)).flatMap fun r =>
    ((List.range counts.length).filter fun k => r < (counts[k]?).getD 0)
  (rounds[j]?).getD 0

/-- Elements of a chunk that are in one record: index in the chunk. -/
def recordElems (d : CollDesc) (c r : Nat) : List Nat :=
  ((List.range 64).map (64 * r + ·)).filter fun k => k < d.inChunk c

/-- Records of a chunk. -/
def recordCount (d : CollDesc) (c : Nat) : Nat := (d.inChunk c + 63) / 64

/-- Bytes of a Hearth that are taken in each tier. -/
structure Fill where
  p : Nat
  b : Nat
  c : Nat
deriving DecidableEq, Repr

/-- Where a record of some bytes lies after others (R307, R329): wholly in the first tier that has room for it, tier P first,
then B, then C, and in no tier before that of the record before it. -/
def Place.spot (q : Place) (h size : Nat) (x : Fill) : Tier × Nat × Fill :=
  if x.b = 0 ∧ x.c = 0 ∧ x.p + size ≤ (q.p[h]?).getD 0 * 2097152 then (.p, x.p, { x with p := x.p + size })
  else if x.c = 0 ∧ x.b + size ≤ ((q.b[h]?).getD []).sum * 2097152 then (.b, x.b, { x with b := x.b + size })
  else (.c, x.c, { x with c := x.c + size })

/-- A record of a Hearth: chunk, number in the chunk, tier, first byte in the tier, and stored bytes. -/
structure RecordAt where
  chunk : Nat
  num   : Nat
  tier  : Tier
  start : Nat
  size  : Nat
deriving DecidableEq, Repr

/-- Elements of a record: [first, end). -/
def recordSpan (d : CollDesc) (c r : Nat) : Nat × Nat := (c * d.epc + 64 * r, min (c * d.epc + 64 * r + 64) (chunkSpan d c).2)

/-- The records of a Hearth in ascending order, with their places (R307, R329). -/
def recordMap (q : Place) (d : CollDesc) (u : UpdateSec) (h : Nat) : List RecordAt :=
  let all := (hearthChunks d u h).flatMap fun c => (List.range (recordCount d c)).map fun r => (c, r)
  (all.foldl (fun (x : List RecordAt × Fill) k =>
    let e := recordSpan d k.1 k.2
    let size := spanBytes u (liveBytes u) e.1 e.2
    let y := q.spot h size x.2
    (x.1 ++ [{ chunk := k.1, num := k.2, tier := y.1, start := y.2.1, size := size }], y.2.2)) ([], { p := 0, b := 0, c := 0 })).1

/-- The pile of the n-th page of a Hearth in a tier (R329). -/
def Place.pile (q : Place) (h : Nat) (t : Tier) (n : Nat) : Nat :=
  match t with
  | .b => pileOfPage ((q.b[h]?).getD []) n
  | _ => h

/-- A record needs a page of a pile that fits: a page of the record, or, while a step is saved, one of the Hearth's saved-step
pages. -/
def recordNeeds (p : Plan) (h : Nat) (x : RecordAt) (hit : Tier → Nat → Bool) : Bool :=
  let pages := (List.range ((x.start + x.size + 2097151) / 2097152 - x.start / 2097152)).map (x.start / 2097152 + ·)
  (pages.any fun n => hit x.tier (p.place.pile h x.tier n)) || (p.saving.isSome && hit .c h)

/-- A record needs a page of a pile whose link is held (R434). -/
def State.recordHeld (s : State) (p : Plan) (h : Nat) (x : RecordAt) : Bool := recordNeeds p h x s.mem.held

/-- A record needs a page of a pile whose link is being retrained: the access waits (R327, R433). -/
def State.recordWaits (s : State) (p : Plan) (h : Nat) (x : RecordAt) : Bool := recordNeeds p h x s.mem.retraining

/-! ## Running a program (R313 to R315) -/

/-- A binary32 word in a narrower format, rounded once under the run's mode (R315); a zero keeps its sign. -/
def narrow32 (mode : Rounding) (fmt : Nat) (w : BitVec 32) : Nat :=
  match floatFmt fmt, fl32 w with
  | some f, .fin neg m e =>
    if fmt = 1 then w.toNat
    else if m = 0 then packFloat f neg 0 0
    else (roundFloat mode fmt f (signed neg (m * 2 ^ (e + 149).toNat)) 0).code
  | some _, .nan => if fmt = 1 then w.toNat else quietNan fmt
  | some f, .inf neg => if fmt = 1 then w.toNat else infCode fmt f neg
  | none, _ => w.toNat

/-- A code of FP32 or BF16 as FP32, exact (R314). -/
def wide32 (bf16 : Bool) (w : BitVec 32) : BitVec 32 := if bf16 then w <<< 16 else w

/-- The step scalars of a segment (R313). -/
def scalars (u : UpdateSec) (g : Seg) (step t : Nat) (k3 : BitVec 32) (i : Nat) : BitVec 32 :=
  let adam := g.program == 1 || g.program == 2 || g.program == 5
  match i with
  | 0 => quiet32 (u.rate step ^^^ 0x80000000)
  | 1 => if adam then correction ((g.consts[0]?).getD 0) t else one32
  | 2 => if adam then correction ((g.consts[2]?).getD 0) t else one32
  | 3 => k3
  | _ => (g.consts[i - 4]?).getD 0

/-- The statistics of a factored segment as the programs use them (R323): Rrow × Ccol × Q of an element. -/
def factored (u : UpdateSec) (p : Plan) (g : Seg) (k i : Nat) : BitVec 32 :=
  let base := u.statBase k
  let row := (i - g.first) / g.cols
  let col := (i - g.first) % g.cols
  let r (j : Nat) : BitVec 32 := (tget p.rowStat (base.1 + j)).getD 0
  let sum := (List.range g.rows).foldl (fun a j => ingotSum a (toIngot (decodeElem 1 (r j).toNat))) (.fin 0)
  mul32 (mul32 (r row) ((tget p.colStat (base.2 + col)).getD 0)) (div32 one32 (ingot32 sum))

/-- The instructions of a segment. -/
def programOf (u : UpdateSec) (g : Seg) : List (BitVec 32) :=
  if g.program = 0 then ((u.progs[g.userProg]?).map (·.instrs)).getD [] else builtin g.program

/-- Run the program of an element (R314): its new state. -/
def updateElem (p : Plan) (d : CollDesc) (u : UpdateSec) (step t : Nat) (k3 grad : BitVec 32) (i : Nat) (e : Elem) : Elem :=
  match u.segOf i with
  | none => e
  | some (g, k) =>
    let bf := g.momFmt == 1
    let n := slotsOf u g
    let slot (j : Nat) (x : BitVec 32) : Nat × BitVec 32 := (j + 1, wide32 bf x)
    let extra := if g.program = 5 then [(3, factored u p g k i)] else []
    let regs : Lane := (([slot 1 e.s1, slot 2 e.s2, slot 3 e.s3, slot 4 e.s4].take n) ++ extra).foldl
      (fun l x => tset l x.1 x.2) [(0, mul32 grad k3), (1, e.w)]
    let l := (programOf u g).foldl (runIns (scalars u g step t k3)) regs
    let reg (j : Nat) : BitVec 32 := (tget l j).getD 0
    let store (j : Nat) (old : BitVec 32) : BitVec 32 :=
      if n < j then old
      else if bf then BitVec.ofNat 32 (narrow32 (p.rounding d.collId step (i + j * 2 ^ 56)) 2 (reg (j + 1)))
      else reg (j + 1)
    { w := reg 1, s1 := store 1 e.s1, s2 := store 2 e.s2, s3 := store 3 e.s3, s4 := store 4 e.s4, staged := e.staged }

/-! ## Gradients (R321, R327, R333) -/

def hearthKey (no h : Nat) : Nat := 16 * no + h

/-- A Hearth of a heat as a step begins. -/
def Hearth.fresh (u : UpdateSec) : Hearth :=
  { offered := [], buffer := [], received := [], pass := if u.staged then 1 else 2, passed := [], prog := [], ended := false
    written := false }

/-- The forge of a heat: plan, descriptor and update section. -/
structure Forge where
  heat : Heat
  plan : Plan
  desc : CollDesc
  sec  : UpdateSec
deriving DecidableEq, Repr

def State.forgeOf (s : State) (no : Nat) : Option Forge :=
  (tget s.mgr.heats no).bind fun h =>
    h.plan.bind fun p =>
      p.image.update.bind fun u =>
        (p.desc u.forgeColl).map fun d => { heat := h, plan := p, desc := d, sec := u }

def State.hearthAt (s : State) (no h : Nat) (u : UpdateSec) : Hearth := (tget s.hub.hearths (hearthKey no h)).getD (Hearth.fresh u)

def State.setHearth (s : State) (no h : Nat) (x : Hearth) : State :=
  s.setHub { s.hub with hearths := tset s.hub.hearths (hearthKey no h) x }

/-- The Crucible may round a step's gradient outputs (R321): the step's exponent is known. -/
def Forge.mayForm (f : Forge) (step : Nat) : Bool :=
  !f.sec.lsDynamic || step == f.plan.openStep || (step == f.plan.openStep + 1 && f.plan.decision.isSome)

/-- The exponent of a step's gradient outputs. -/
def Forge.exponent (f : Forge) : Int := f.plan.exponent

/-- A gradient output: the single rounding of V × 2^(−LS_EXP) to GRAD_FMT (R321). -/
def gradOutput (mode : Rounding) (fmt : Nat) (lsExp : Int) (v : Ingot) : OutElem :=
  match floatFmt fmt, v with
  | some f, .fin x => roundFloat mode fmt f (x * 2 ^ (64 - lsExp).toNat) 64
  | _, _ => formOutput mode fmt 0 v

/-- The aim of a forge record. -/
def Forge.aim (f : Forge) (no : Nat) : Aim := { no := no, heat := f.heat, plan := f.plan, desc := f.desc, who := 0 }

/-- Form one chunk's gradient outputs and offer them to the Hearth (R306, R321). -/
def State.formGrad (s : State) (f : Forge) (c : CruChunk) : State :=
  let no := c.heat
  let step := c.step.toNat
  let xs := (c.grand 0).zipIdx.map fun x =>
    gradOutput (f.plan.rounding f.desc.collId step (c.chunk * f.desc.epc + x.2)) f.sec.gradFmt f.exponent x.1
  let g : Grad := { heat := no, seq := 0, step := c.step, chunk := c.chunk, values := xs.map (fun x => BitVec.ofNat 32 x.code)
                    refused := false }
  let h := f.sec.hearthOf c.chunk
  let x := s.hearthAt no h f.sec
  (s.setHearth no h { x with offered := x.offered ++ [g] }).modStep no f.desc.collId step fun y =>
    { y with formed := y.formed ++ [c.chunk], outSat := y.outSat + (xs.filter (·.sat)).length
             outNan := y.outNan + (xs.filter (·.nan)).length }

/-- The chunk records whose totals are exact over the pods and may be rounded now. -/
def State.readyGrad (s : State) (c : CruChunk) : Option Forge :=
  (s.forgeOf c.heat).bind fun f =>
    if c.collId == f.desc.collId && c.total.isSome && c.chunk < f.desc.chunks && c.podsIn (f.aim c.heat) &&
        f.mayForm c.step.toNat &&
        !((s.hubStep c.heat c.collId c.step.toNat).any fun x => x.formed.contains c.chunk) then some f
    else none

/-- Form every gradient output that may be formed. -/
def State.pumpForge (s : State) : State :=
  s.hub.chunks.foldl (fun s c => match s.readyGrad c with
    | some f => s.formGrad f c
    | none => s) s

/-- Bytes of a gradient in the input buffer. -/
def gradBytes (u : UpdateSec) (g : Grad) : Nat := g.values.length * fmtBytes u.gradFmt

/-- Room in the input buffer of 64 MiB (R327): the buffer is the Hearth's, whatever heats use it. -/
def State.bufferRoom (s : State) (h : Nat) (n : Nat) : Bool :=
  let used := (s.hub.hearths.filter fun x => x.1 % 16 == h).flatMap fun x => x.2.buffer.map fun g =>
    ((s.forgeOf g.heat).map fun f => gradBytes f.sec g).getD 0
  used.sum + n ≤ 67108864

/-- The heats with a Hearth at work under a number, ascending. -/
def State.heatsAt (s : State) (h : Nat) : List Nat := (s.hub.hearths.filter fun x => x.1 % 16 == h).map (·.1 / 16)

/-- The first offered gradient of a Hearth that fits, over the heats. -/
def State.offeredAt (s : State) (h : Nat) (p : Grad → Bool) : Option (Nat × Forge × Grad) :=
  (s.heatsAt h).findSome? fun no =>
    (s.forgeOf no).bind fun f => ((s.hearthAt no h f.sec).offered.find? p).map fun g => (no, f, g)

/-- Drop an offered gradient. -/
def Hearth.unoffer (x : Hearth) (g : Grad) : Hearth :=
  { x with offered := x.offered.filter fun y => !(y.chunk == g.chunk && y.step == g.step) }

/-- A Hearth has the chunk already: by its bitmap for the open step (R333), or waiting for a later step. -/
def Hearth.has (x : Hearth) (openStep : Nat) (g : Grad) : Bool :=
  if g.step.toNat = openStep then x.received.contains g.chunk
  else g.step.toNat < openStep || x.buffer.any fun y => y.chunk == g.chunk && y.step == g.step

/-- The Hearth takes an offered gradient, or discards a repeat; either way the Crucible's record goes (R327, R333). -/
def State.takeGrad (s : State) (no h : Nat) (f : Forge) (g : Grad) : State :=
  let x := (s.hearthAt no h f.sec).unoffer g
  let x' := if x.has f.plan.openStep g then x
    else { x with buffer := x.buffer ++ [{ g with seq := s.hub.gradSeq }]
                  received := if g.step.toNat = f.plan.openStep then x.received ++ [g.chunk] else x.received }
  ((s.setHub { s.hub with gradSeq := s.hub.gradSeq + 1 }).setHearth no h x').freeChunk no f.desc.collId g.step.toNat g.chunk

/-- A forge step ends with S_DATA_ERROR (R335): the save in progress is discarded, and the recovery decision follows. -/
def State.forgeError (s : State) (no : Nat) (f : Forge) : State :=
  let s := s.failStep no f.desc.collId f.plan.openStep sDataError
  let s := s.modPlan no fun p => { p with saving := none }
  { s with mgr := { s.mgr with
    troubles := s.mgr.troubles ++ [.step no f.desc.collId (BitVec.ofNat 64 f.plan.openStep) sDataError] } }

/-- A Hearth's next offered gradient: taken, refused for want of room, or lost to an uncorrectable word. -/
def State.receiveGrad (s : State) (h : Nat) (dataError : Bool) : State :=
  match s.offeredAt h fun g => !g.refused with
  | none => s
  | some (no, f, g) =>
    if dataError then s.forgeError no f
    else
      let x := s.hearthAt no h f.sec
      if x.has f.plan.openStep g || s.bufferRoom h (gradBytes f.sec g) then s.takeGrad no h f g
      else
        s.setHearth no h { x with offered := x.offered.map fun y =>
          if y.chunk = g.chunk ∧ y.step = g.step then { y with refused := true } else y }

/-- The first refused gradient of a Hearth that now finds room (R327). -/
def State.acceptRefused (s : State) (h : Nat) : State :=
  match s.offeredAt h fun g => g.refused with
  | none => s
  | some (no, f, g) => if s.bufferRoom h (gradBytes f.sec g) then s.takeGrad no h f g else s

/-! ## Saving (R334) -/

/-- The state as it stands, as a saved step. -/
def Plan.snapshot (p : Plan) (tenant step : Nat) : Saved :=
  let clean (t : Tab Elem) : Tab Elem := t.foldl (fun r x => putElem r x.1 { x.2 with staged := 0 }) []
  { savedId := 0, tenant := tenant, hash := p.image.hash, image := some p.image, step := step, elems := clean p.elems
    lsExp := p.lsExp, applied := p.applied, streak := p.streak, rowStat := p.rowStat, colStat := p.colStat }

/-- The update of the open step has written a record (R335). -/
def State.forgeWritten (s : State) (no : Nat) : Bool := s.hub.hearths.any fun x => x.1 / 16 == no && x.2.written

/-- The update pass of a step begins to save the step before it, when that is due (R334, R526). -/
def State.beginSave (s : State) (no : Nat) (f : Forge) : State :=
  let step := f.plan.openStep - 1
  let due := f.sec.saveEvery != 0 && step % f.sec.saveEvery == 0 && f.plan.saving.isNone && s.maySave no &&
    !s.forgeWritten no && !(f.plan.lastSaved.any fun x => x.step == step)
  if !due then s
  else
    let newest := (f.plan.lastSaved.map (·.step)).getD step
    let s := if (tget s.ember.streaming no).any fun t => t != newest then s.abandonStream no else s
    s.modPlan no fun p => { p with saving := some (p.snapshot f.heat.tenant step), prevSaved := none }

/-- The save in progress becomes the last saved step, with the former one in the other slot, and is streamed (R334, R524); endpoints lost before it count no more
against a splice (R240). -/
def State.commitSave (s : State) (no : Nat) : State :=
  match (s.planOf no).bind (·.saving) with
  | some x => ((s.modPlan no fun p => { p with lastSaved := some x, prevSaved := p.lastSaved, slot := !p.slot, saving := none }).modHeat no fun h =>
      { h with lost := [], suspect := false }).startStream no
  | none => s

/-! ## Records (R325, R332) -/

/-- The gradient of an element in a chunk's outputs, as FP32. -/
def gradAt (u : UpdateSec) (g : Grad) (k : Nat) : BitVec 32 := wide32 (u.gradFmt == 2) ((g.values[k]?).getD 0)

/-- Pass 1 of a record: each gradient goes to its staging slot (R318). -/
def Plan.stageRecord (p : Plan) (d : CollDesc) (u : UpdateSec) (g : Grad) (r : Nat) : Plan :=
  { p with elems := (recordElems d g.chunk r).foldl (fun t k =>
      let i := g.chunk * d.epc + k
      putElem t i { elemOf t i with staged := gradAt u g k }) p.elems }

/-- The update of a record: the element states after it. -/
def Plan.updateRecord (p : Plan) (d : CollDesc) (u : UpdateSec) (c r : Nat) (grad : Nat → BitVec 32) : Plan :=
  let k3 := (p.decision.map (·.k3)).getD one32
  { p with elems := (recordElems d c r).foldl (fun t k =>
      let i := c * d.epc + k
      putElem t i (updateElem p d u p.openStep (p.applied + 1) k3 (grad k) i (elemOf p.elems i))) p.elems }

/-- The weight outputs of a chunk once its last record is updated, from the weights that stand (R315). -/
def weightOutputs (p : Plan) (d : CollDesc) (u : UpdateSec) (c : Nat) : List OutElem :=
  (List.range (d.inChunk c)).map fun k =>
    let i := c * d.epc + k
    { code := narrow32 (p.rounding d.collId p.openStep (i + 2 ^ 60)) u.woutFmt (elemOf p.elems i).w, sat := false, nan := false }

/-- A chunk's update is done: its weights leave (R332 step 5). -/
def State.sendWeights (s : State) (no h c : Nat) (f : Forge) : State :=
  match s.planOf no with
  | none => s
  | some p =>
    let xs := padded f.desc (weightOutputs p f.desc f.sec c)
    let s := s.sendOutputs no f.heat f.desc p.openStep c (0x20 + h) f.sec.woutFmt xs
    s.modStep no f.desc.collId p.openStep fun x => { x with done := x.done ++ [c] }

/-- What a Hearth does with a record: pass 1 of a gradient, the update, with the gradient when it comes from the buffer, or, in
a skipped step, the reading for a save (R318, R332, R334). -/
inductive RecordWork where
  | stage (g : Grad)
  | update (g : Option Grad)
  | read
deriving DecidableEq, Repr

/-- The chunks that a Hearth of a heat has in hand, in the order in which it takes their records (R325): by the arrival of their
gradient outputs, and in ascending order in pass 2 of a staged step. -/
def State.inHand (s : State) (no h : Nat) (f : Forge) : List (Nat × Nat × RecordWork) :=
  let x := s.hearthAt no h f.sec
  let buffered (w : Grad → RecordWork) : List (Nat × Nat × RecordWork) :=
    (x.buffer.filter fun g => g.step.toNat == f.plan.openStep).map fun g => (g.seq, g.chunk, w g)
  let kept (w : RecordWork) : List (Nat × Nat × RecordWork) :=
    ((hearthChunks f.desc f.sec h).filter fun c => !x.passed.contains c).map fun c => (0, c, w)
  if !f.sec.staged then buffered fun g => .update (some g)
  else
    match f.plan.decision with
    | none => buffered .stage
    | some q => if !q.skip then kept (.update none) else if f.plan.saving.isSome then kept .read else []

/-- A record that a tier of a Hearth reads next: the number by which it is due, the record, and what is done with it. -/
structure RecordDue where
  seq  : Nat
  at'  : RecordAt
  work : RecordWork
deriving DecidableEq, Repr

def progKey (c : Nat) (t : Tier) : Nat := 3 * c + t.no

/-- The next record of a heat in one tier of a Hearth. -/
def State.nextIn (s : State) (no h : Nat) (f : Forge) (t : Tier) : Option RecordDue :=
  let x := s.hearthAt no h f.sec
  let mine := (recordMap f.plan.place f.desc f.sec h).filter fun r => r.tier == t
  (s.inHand no h f).findSome? fun c =>
    ((mine.filter fun r => r.chunk == c.2.1)[(tget x.prog (progKey c.2.1 t)).getD 0]?).map fun r =>
      { seq := c.1, at' := r, work := c.2.2 }

/-- A Hearth has passed one more record of a chunk: the chunk has passed once its last record has, in whichever tier. -/
def Hearth.advance (x : Hearth) (d : CollDesc) (c : Nat) (t : Tier) (wrote : Bool) : Hearth × Bool :=
  let prog := tset x.prog (progKey c t) ((tget x.prog (progKey c t)).getD 0 + 1)
  let n := ([Tier.p, .b, .c].map fun t => (tget prog (progKey c t)).getD 0).sum
  let x := { x with written := x.written || wrote }
  if n < recordCount d c then ({ x with prog := prog }, false)
  else ({ x with prog := prog.filter (fun y => y.1 / 3 != c), passed := x.passed ++ [c] }, true)

/-- A gradient leaves the input buffer. -/
def Hearth.consume (x : Hearth) (g : Grad) : Hearth :=
  { x with buffer := x.buffer.filter fun y => !(y.chunk == g.chunk && y.step == g.step) }

/-- Pass 1 of a record. -/
def State.stageAt (s : State) (no h : Nat) (f : Forge) (r : RecordAt) (g : Grad) : State :=
  let y := (s.hearthAt no h f.sec).advance f.desc r.chunk r.tier false
  (s.modPlan no fun p => p.stageRecord f.desc f.sec g r.num).setHearth no h (if y.2 then y.1.consume g else y.1)

/-- The update of a record; the weights of a chunk leave with its last (R332 step 5). -/
def State.updateAt (s : State) (no h : Nat) (f : Forge) (r : RecordAt) (g : Option Grad) : State :=
  let p := (s.planOf no).getD f.plan
  let grad (k : Nat) : BitVec 32 := match g with
    | some g => gradAt f.sec g k
    | none => (elemOf p.elems (r.chunk * f.desc.epc + k)).staged
  let s := s.modPlan no fun p => p.updateRecord f.desc f.sec r.chunk r.num grad
  let y := (s.hearthAt no h f.sec).advance f.desc r.chunk r.tier true
  let z := match y.2, g with
    | true, some g => y.1.consume g
    | _, _ => y.1
  let s := s.setHearth no h z
  if y.2 then s.sendWeights no h r.chunk f else s

/-- One record of a heat at a Hearth; a word that cannot be corrected, or a page out of reach, ends the step (R335, R434). -/
def State.stepRecord (s : State) (no h : Nat) (f : Forge) (x : RecordDue) (dataError : Bool) : State :=
  let s := match x.work with
    | .update (some _) => s.beginSave no f
    | _ => s
  if dataError || s.recordHeld ((s.planOf no).getD f.plan) h x.at' then s.forgeError no f
  else
    match x.work with
    | .stage g => s.stageAt no h f x.at' g
    | .update g => s.updateAt no h f x.at' g
    | .read => s.setHearth no h ((s.hearthAt no h f.sec).advance f.desc x.at'.chunk x.at'.tier false).1

/-- The record that a tier of a Hearth reads next, over the heats, by arrival (R325). -/
def State.dueIn (s : State) (h : Nat) (t : Tier) : Option (Nat × Forge × RecordDue) :=
  (s.heatsAt h).foldl (fun best no =>
    match (s.forgeOf no).bind fun f => (s.nextIn no h f t).map fun x => (no, f, x) with
    | none => best
    | some x => match best with
      | some y => if y.2.2.seq ≤ x.2.2.seq then best else some x
      | none => some x) none

/-- A tier of a Hearth has read its next record, unless the read waits for a link (R433). -/
def State.recordAt (s : State) (h : Nat) (t : Tier) (dataError : Bool) : State :=
  match s.dueIn h t with
  | some (no, f, x) =>
    if s.recordWaits ((s.planOf no).getD f.plan) h x.at' then s else s.stepRecord no h f x dataError
  | none => s

/-! ## Ends of passes (R320, R322, R334) -/

/-- A Hearth's pass of a heat has nothing left: every chunk has passed, or the step is skipped and nothing is read for a save. -/
def State.passDone (s : State) (no h : Nat) (f : Forge) : Bool :=
  (f.plan.decision.any (·.skip) && f.plan.saving.isNone) ||
    (hearthChunks f.desc f.sec h).all fun c => (s.hearthAt no h f.sec).passed.contains c

/-- The pass has ended at every Hearth; one without chunks has nothing to end. -/
def State.allEnded (s : State) (no : Nat) (f : Forge) : Bool :=
  (List.range 16).all fun h => (hearthChunks f.desc f.sec h).isEmpty || (s.hearthAt no h f.sec).ended

/-- Change every Hearth of a heat. -/
def State.onHearths (s : State) (no : Nat) (u : UpdateSec) (g : Hearth → Hearth) : State :=
  (List.range 16).foldl (fun s h => s.setHearth no h (g (s.hearthAt no h u))) s

/-- A Hearth as the next step begins: what has come of its gradients is in the buffer. -/
def Hearth.nextStep (u : UpdateSec) (step : Nat) (x : Hearth) : Hearth :=
  { (Hearth.fresh u) with
    offered := x.offered, buffer := x.buffer.filter (fun g => g.step.toNat != step)
    received := (x.buffer.filter fun g => g.step.toNat == step + 1).map (·.chunk) }

/-- The update pass has ended at every Hearth: the save commits, the step's counts are set, and the step may complete. -/
def State.finishForge (s : State) (no : Nat) (f : Forge) : State :=
  let step := f.plan.openStep
  let q := f.plan.decision
  let skip := q.any (·.skip)
  let s := s.commitSave no
  let norm := (q.map (·.norm)).getD 0
  let s := s.modPlan no fun p =>
    { p with applied := if skip then p.applied else p.applied + 1, openStep := step + 1, decision := none, before := none
             lastNorm := norm, flags := forgeFlags q }
  let s := s.onHearths no f.sec (Hearth.nextStep f.sec step)
  let all := List.range f.desc.chunks
  let s := s.modStep no f.desc.collId step fun x =>
    { x with forge := some { flags := forgeFlags q, lsExp := f.exponent, norm := norm }, done := if skip then all else x.done }
  s.endReady

/-- HEARTH_PASS_END of a heat. -/
def State.endPass (s : State) (no h : Nat) (f : Forge) : State :=
  let x := s.hearthAt no h f.sec
  let s := s.setHearth no h { x with ended := true }
  if s.allEnded no f && (!f.sec.staged || f.plan.decision.isSome) then s.finishForge no f else s

/-- The first heat whose pass at a Hearth can end. -/
def State.passEndAt (s : State) (h : Nat) : State :=
  match (s.heatsAt h).findSome? fun no => (s.forgeOf no).bind fun f =>
      if !(hearthChunks f.desc f.sec h).isEmpty && s.passDone no h f && !(s.hearthAt no h f.sec).ended then some (no, f)
      else none with
  | some (no, f) => s.endPass no h f
  | none => s

/-- The sum of squares of a heat's staged gradients (R319). -/
def sumSquares (p : Plan) : Ingot := p.elems.foldl (fun t e => ingotSum t (squareIngot e.2.staged)) (.fin 0)

/-- Add the squares of a factored segment's rows or columns (R323). -/
def lineTotal (p : Plan) (g : Seg) (of : Nat → Nat) (k : Nat) : Ingot :=
  p.elems.foldl (fun t e =>
    if g.first ≤ e.1 ∧ e.1 < g.first + g.count ∧ of (e.1 - g.first) = k then ingotSum t (squareIngot e.2.staged) else t) (.fin 0)

/-- One statistic after the step: fma(K6, R, K7 × total) (R323). -/
def nextStat (g : Seg) (old : BitVec 32) (total : Ingot) : BitVec 32 :=
  fma32 ((g.consts[2]?).getD 0) old (mul32 ((g.consts[3]?).getD 0) (ingot32 total))

def putStat (t : Tab (BitVec 32)) (k : Nat) (v : BitVec 32) : Tab (BitVec 32) := if v = 0 then tdel t k else tset t k v

/-- The factored statistics of a step that is not skipped (R323). -/
def Plan.updateStats (p : Plan) (u : UpdateSec) : Plan :=
  (u.segs.zipIdx.filter fun x => x.1.program == 5).foldl (fun q x =>
    let g := x.1
    let base := u.statBase x.2
    let rows := (List.range g.rows).foldl (fun t r =>
      putStat t (base.1 + r) (nextStat g ((tget p.rowStat (base.1 + r)).getD 0) (lineTotal p g (· / g.cols) r))) q.rowStat
    let cols := (List.range g.cols).foldl (fun t c =>
      putStat t (base.2 + c) (nextStat g ((tget p.colStat (base.2 + c)).getD 0) (lineTotal p g (· % g.cols) c))) q.colStat
    { q with rowStat := rows, colStat := cols }) p

/-- The decision of a step (R320). -/
def decide320 (u : UpdateSec) (sigma : Ingot) : Decision :=
  match sigma with
  | .fin v =>
    let n := normOf v
    let c := if u.clip then clipFactor u.clipMax n else (false, one32)
    { skip := false, clipped := c.1, nonfinite := false, k3 := c.2, norm := narrow n }
  | _ =>
    { skip := u.lsDynamic || u.skipNonfinite, clipped := false, nonfinite := true, k3 := one32, norm := 0x7FC00000 }

/-- The loss-scale state after a decision (R321). -/
def Plan.rescale (p : Plan) (u : UpdateSec) (skip : Bool) : Plan :=
  if !u.lsDynamic then p
  else if skip then { p with lsExp := max (-64) (p.lsExp - 1), streak := 0 }
  else if p.streak + 1 < u.lsInterval then { p with streak := p.streak + 1 }
  else { p with lsExp := min 64 (p.lsExp + 1), streak := 0 }

/-- The decision is formed from Σ and sent to every Hearth: pass 2 begins, and gradient outputs that waited for it are
rounded (R320, R321). -/
def State.decideStep (s : State) (no : Nat) (f : Forge) (sigma : Ingot) : State :=
  let q := decide320 f.sec sigma
  let s := s.beginSave no f
  let s := s.modPlan no fun p =>
    let b : ScaleState := { lsExp := p.lsExp, streak := p.streak, rowStat := p.rowStat, colStat := p.colStat }
    let p := (if q.skip then p else p.updateStats f.sec).rescale f.sec q.skip
    { p with decision := some q, before := some b }
  let s := s.freeChunk no f.desc.collId f.plan.openStep normChunk
  (s.onHearths no f.sec fun x => { x with pass := 2, passed := [], prog := [], ended := false }).pumpForge

/-- The record in which a step's Σ gathers. -/
def State.normRec (s : State) (no : Nat) (f : Forge) : CruChunk :=
  (s.chunkRec no f.desc.collId f.plan.openStep normChunk).getD (freshChunk no f.desc f.plan.openStep normChunk)

/-- Every other pod's total has come (R319). -/
def Forge.normsIn (f : Forge) (c : CruChunk) : Bool := f.plan.image.pods.all fun slot => c.podCount slot != 0

/-- The heat whose staged pass 1 has ended at every Hearth, lowest first; one that has sent its total waits for those of the other
pods, and holds up no other heat. -/
def State.stagedReady (s : State) : Option (Nat × Forge) :=
  s.mgr.heats.findSome? fun x => (s.forgeOf x.1).bind fun f =>
    let c := s.normRec x.1 f
    if f.sec.staged && f.plan.decision.isNone && s.allEnded x.1 f && f.desc.chunks != 0 && (c.total.isNone || f.normsIn c)
    then some (x.1, f) else none

/-- Send the pod's Σ to the Hearth 0 of the other pods (R319). -/
def State.sendNorm (s : State) (no : Nat) (f : Forge) (sigma : Ingot) : State :=
  f.plan.image.pods.foldl (fun s slot =>
    let hdr : BilletHdr := { zeroHdr with
      pfmt := 9, plen := plenFor 64, collId := f.desc.collId, step := BitVec.ofNat 64 f.plan.openStep
      chunk := BitVec.ofNat 32 normChunk }
    let dst := BitVec.ofNat 18 (0x3F000 + 0x100 * slot + 0x20)
    s.sendResult no (mkBillet (common (tenantKey f.heat.tenant) s.hubEpoch (s.unitEid 0x20) dst bContrib) 0 hdr
      (ingotBytes [sigma]))) s

/-- NORM_DECISION: Σ of the pod, and over the pods once every total has come (R319, R320). -/
def State.normDecision (s : State) : State :=
  match s.stagedReady with
  | none => s
  | some (no, f) =>
    let c := s.normRec no f
    let sigma := sumSquares f.plan
    let s := if c.total.isSome then s else (s.setChunk { c with total := some [sigma] }).sendNorm no f sigma
    if f.normsIn c then
      s.decideStep no f (c.pods.foldl (fun t x => ingotSum t ((x.2.head?).getD (.fin 0))) sigma)
    else s

/-- Another pod's Σ at Hearth 0 (R319). -/
def State.takeNorm (s : State) (p : Pkt) : State :=
  match pktHdr p with
  | none => s
  | some h =>
    match s.aim p h.collId with
    | none => s
    | some a =>
      let step := h.step.toNat
      let c := (s.chunkRec a.no h.collId step normChunk).getD (freshChunk a.no a.desc step normChunk)
      if h.pfmt != 9 || h.chunk.toNat != normChunk || step < a.plan.openOf h.collId || a.who < 4096 ||
          c.podCount (a.who - 4096) != 0 then s
      else s.setChunk { c with pods := tset c.pods (a.who - 4096) (payloadIngots (pktPayload p) 1) }

end Sys2Proof.Machine
end

