-- ==== Sys2Proof/Machine/Units.lean ====
section
/-! DEFINITION. Units, repair regions and roles: the fuse map, the start-up test's findings, the enabled counts and the grade
(01_architecture.md R26; 11_bringup_power_reset.md R422 to R428). -/

namespace Sys2Proof.Machine

open Sys2Proof

/-! ## Records (Tables 11-6, 11-7) -/

def unitClass (r : BitVec 32) : Nat := (field r 0 4).toNat

def unitIndex (r : BitVec 32) : Nat := (field r 4 28).toNat

/-- The repair region of a unit, when its INDEX names one. -/
def regionOf (r : BitVec 32) : Option Nat :=
  let i := unitIndex r
  match unitClass r with
  | 1 => if i < 136 then some 0 else none
  | 2 => if i / 128 < 64 ∧ i % 128 < 66 then some (i / 128) else none
  | 3 => if i / 2048 < 4 ∧ i % 2048 < 1056 then some (32 * (i / 2048) + i % 2048 / 33) else none
  | 4 => if i / 1024 < 4 ∧ i % 1024 < 528 then some (16 * (i / 1024) + i % 1024 / 33) else none
  | 5 => if i / 256 < 256 ∧ i % 256 < 66 then some (i / 256) else none
  | _ => none

/-- The physical units of a region by INDEX, ascending (Table 11-7). -/
def regionUnits (cls region : Nat) : List Nat :=
  match cls with
  | 1 => List.range 136
  | 2 => (List.range 66).map (128 * region + ·)
  | 3 => (List.range 33).map fun i => 2048 * (region / 32) + 33 * (region % 32) + i
  | 4 => (List.range 33).map fun i => 1024 * (region / 16) + 33 * (region % 16) + i
  | 5 => (List.range 66).map (256 * region + ·)
  | _ => []

/-- Roles that one region of a class serves (Table 11-7). -/
def regionRoles (cls : Nat) : Nat :=
  match cls with
  | 1 => 128
  | 2 => 64
  | 3 => 32
  | 4 => 32
  | 5 => 64
  | _ => 0

/-- Roles of a class at full grade. -/
def fullRoles (cls : Nat) : Nat :=
  match cls with
  | 1 => 128
  | 2 => 4096
  | 3 => 4096
  | 4 => 2048
  | 5 => 16384
  | 7 => 512
  | _ => 0

/-- Units that are off: those that the fuse map marks, and those that failed the start-up test (R423, R424). -/
def Boot.badUnits (b : Boot) : List (BitVec 32) := (b.fuse ++ b.failing).eraseDups

/-- Bad units of a class, by region. -/
def badRegions (cls : Nat) (bad : List (BitVec 32)) : List Nat :=
  (bad.filter fun r => unitClass r == cls).filterMap regionOf

/-- The good units of a region, ascending (R425). -/
def goodUnits (cls : Nat) (bad : List (BitVec 32)) (region : Nat) : List Nat :=
  (regionUnits cls region).filter fun i => !bad.any fun r => unitClass r == cls && unitIndex r == i

/-- The physical unit that fills a role of a region, none where the role is unfilled (R425). -/
def roleUnit (cls : Nat) (bad : List (BitVec 32)) (region role : Nat) : Option Nat :=
  if role < regionRoles cls then (goodUnits cls bad region)[role]? else none

/-- Unfilled roles of one region. -/
def regionUnfilled (cls : Nat) (bad : List (BitVec 32)) (region : Nat) : Nat :=
  ((List.range (regionRoles cls)).filter fun i => (roleUnit cls bad region i).isNone).length

/-- Unfilled roles of a class that is not pile row or link tile pair (R425): every region without a bad unit has more units
than roles. -/
def unfilledOf (cls : Nat) (bad : List (BitVec 32)) : Nat := ((badRegions cls bad).eraseDups.map (regionUnfilled cls bad)).sum

/-! ## Link tile pairs -/

/-- Bad pairs of a link tile. -/
def Boot.badPairs (b : Boot) (tile : Nat) : List Nat :=
  (b.badUnits.filter fun r => unitClass r == 7 && unitIndex r / 128 == tile && unitIndex r % 128 < 68).map
    fun r => unitIndex r % 128

/-- The spare pairs that a tile's pool begins with (R125, R425). -/
def Boot.freshPool (b : Boot) (tile : Nat) : List Nat := [64, 65, 66, 67].filter fun x => !(b.badPairs tile).contains x

/-- Connector lanes of a tile that it gives no working pair, whether or not the cable trains (R428): their own pair is bad, no
spare serves them, and the pool is empty. -/
def State.unpaired (s : State) (tile : Nat) : Nat :=
  let bad := (s.boot.badPairs tile).filter (· < 64)
  let open' := bad.filter fun x => (tget s.link.onSpare (64 * tile + x)).isNone
  open'.length - ((tget s.link.pools tile).getD (s.boot.freshPool tile)).length

def State.unpairedLanes (s : State) : Nat := ((List.range 8).map s.unpaired).sum

/-- LANE_UP_CHANGE (R119, R122, R361): only a trained port whose lanes do change is concerned. A Chrohar port that falls below
its minimum gives up its pairs. -/
def execLaneUpChange (site : Site) (p : Nat) (lanes : BitVec 8) (s : State) : Host.Outcome State Fault Refusal :=
  let m := lanes &&& s.portLanes site p
  .next (if s.hasPort site p && (s.portAt site p).isUp && (s.portAt site p).laneOk != m then
    let q := (s.portAt site p).lanesChange m
    let t := s.changePortAt site p q
    match site with
    | .agent _ => t
    | .chrohar => if q.width < q.minW then { t with link := t.link.releasePairs s.mgr.record s.boot.badPairs p } else t
  else s)

/-! ## The grade (R428) -/

/-- Unfilled roles of a class. -/
def State.unfilled (s : State) (cls : Nat) : Nat :=
  if cls = 7 then s.unpairedLanes else unfilledOf cls s.boot.badUnits

/-- Enabled units of a class: its filled roles. -/
def State.enabled (s : State) (cls : Nat) : Nat := fullRoles cls - s.unfilled cls

/-- Spare tiles of the solver array that no role has taken (Table 10-9). -/
def State.spareTiles (s : State) : Nat := 64 * 66 - (badRegions 2 s.boot.badUnits).length - s.enabled 2

/-- Spare pairs that the fuse map has not committed (Table 10-9). -/
def State.sparePairs (s : State) : Nat :=
  32 - (s.boot.fuse.eraseDups.filter fun r =>
    unitClass r == 7 && unitIndex r / 128 < 8 && 64 ≤ unitIndex r % 128 && unitIndex r % 128 < 68).length

def gradeClasses : List Nat := [1, 2, 3, 4, 5, 7]

/-- Unfilled roles of all classes. -/
def State.allUnfilled (s : State) : Nat := (gradeClasses.map s.unfilled).sum

/-- The grade is recomputed; any unfilled role raises REDUCED_GRADE (R428, Table 11-9). -/
def State.regrade (s : State) : State :=
  let n := s.allUnfilled
  let s : State := { s with boot := { s.boot with grade := n != 0 } }
  match gradeClasses.find? fun c => s.unfilled c != 0 with
  | none => s
  | some c => s.alarm 0x1105 (leBytes 2 c ++ leBytes 4 n)

/-- At a retraining of a Chrohar port the grade is recomputed; it is raised when it falls (log entry 58). -/
def State.regradePort (s : State) : State := if (s.allUnfilled != 0) = s.boot.grade then s else s.regrade

/-! ## Test results (R423 to R427) -/

/-- Keep what a start-up test found (R423), and record TEST_FAULT for each unit that the fuse map does not mark (R424). -/
def State.testFound (s : State) (failing : List (BitVec 32)) : State :=
  let new := (failing.eraseDups).filter fun r => !s.boot.failing.contains r
  let s : State := { s with boot := { s.boot with failing := s.boot.failing ++ new } }
  (new.filter fun r => !s.boot.fuse.contains r).foldl (fun s r => s.alarm 0x1104 (leBytes 2 (unitClass r) ++ leBytes 4 (unitIndex r))) s

/-- Bad and failing rows of a pile, by INDEX. -/
def Boot.badRows (b : Boot) (pile : Nat) : List Nat :=
  (b.badUnits.filter fun r => unitClass r == 6 && unitIndex r / 2 ^ 24 == pile).map unitIndex

/-- Bad and failing rows of a bank below its spares, ascending. -/
def bankRows (rows : List Nat) (bank : Nat) : List Nat :=
  sortNat (rows.filter fun i => i / 2 ^ 17 == bank && i % 2 ^ 17 < 65536)

/-- Good spare rows of a bank, ascending (Table 11-7). -/
def bankSpares (rows : List Nat) (bank : Nat) : List Nat :=
  ((List.range 64).map fun k => bank * 2 ^ 17 + 65536 + k).filter fun i => !rows.contains i

/-- The repair of a pile's banks: each bad or failing row, and the lowest good spare row not yet used that takes it (R425). -/
def Boot.rowMap (b : Boot) (pile : Nat) : List (Nat × Nat) :=
  let rows := b.badRows pile
  ((rows.map (· / 2 ^ 17)).eraseDups).flatMap fun bank => (bankRows rows bank).zip (bankSpares rows bank)

/-- Rows of a pile that the repair gives no spare row of their bank, by INDEX (R425, R426). -/
def Boot.openRows (b : Boot) (pile : Nat) : List Nat :=
  let rows := b.badRows pile
  ((rows.map (· / 2 ^ 17)).eraseDups).flatMap fun bank =>
    (bankRows rows bank).filter fun i => !(b.rowMap pile).any fun x => x.1 == i

/-- Withhold the pages of rows that could not be repaired (R426). -/
def State.withhold (s : State) : State :=
  let put (t : Tab Nat) (k n : Nat) : Tab Nat := if n = 0 then tdel t k else tset t k n
  let p := (List.range 16).foldl (fun t i =>
    put t (pileKey .p i) (if (s.boot.openRows i).isEmpty then 0 else Config.rowPages (s.boot.openRows i))) []
  let b := (List.range 24).foldl (fun t i => put t (pileKey .b i) (Config.pilePages 1 i)) p
  let c := (List.range 16).foldl (fun t i => put t (pileKey .c i) (Config.pilePages 2 i)) b
  s.setMem { s.mem with withheld := c }

end Sys2Proof.Machine
end

