-- ==== Sys2Proof/Machine/Plans.lean ====
section
/-! DEFINITION. Plans on heats: the checks of a plan load, placement in the memory tiers, the groups and runs that a plan
needs, and how a plan starts, stops and is kept (04_routing.md R157, R158, R182, R183; 07_collectives.md R264, R287, R298
to R300; 08_hearth_update.md R310 to R317, R323 to R331; 10_host_commands.md R401, R403). -/

namespace Sys2Proof

/-! ## Descriptors (Table 7-12 rows 5 and 6) -/

def inRange (lo hi v : Int) : Bool := decide (lo ≤ v) && decide (v ≤ hi)

/-- Table 7-11 and R287. -/
def CollDesc.rangesOk (d : CollDesc) : Bool :=
  d.rsv == 0 && d.collId != 0 && 1 ≤ d.kind && d.kind ≤ 6 && d.op ≤ 2 && 1 ≤ d.inFmt && d.inFmt ≤ 8 && 1 ≤ d.outFmt &&
    d.outFmt ≤ 8 && d.path ≤ 1 && inRange (-149) 80 d.scale0 && 1 ≤ d.scaleStep && d.scaleStep ≤ 64 &&
    inRange (-149) 80 d.outScale && d.chunkPlen ≤ 15 && (d.path == 0 || d.chunkPlen % 2 == 1) && d.cruBase ≤ 3 &&
    d.elements ≤ 2 ^ 40 && (d.path == 0 || d.op == 0) && d.chunks ≤ 2 ^ 32 - 1

/-- Following parents from a rank ends at a root (R264). -/
def CollDesc.reachesRoot (d : CollDesc) (k : Nat) : Bool :=
  (d.tree.find? fun x => x.1 == d.rootOf k d.tree.length).any fun x => x.2.isNone

/-- A user program record (R317). -/
def UserProg.good (p : UserProg) : Bool :=
  let cost := (p.instrs.map fun i => (Machine.laneCost (Machine.insOp i)).getD 0).sum + 1
  p.rsv == 0 && 1 ≤ p.instrs.length && p.instrs.length ≤ 64 && p.slots ≤ 4 && p.instrs.all Machine.insGood &&
    p.ops == cost && cost ≤ 128 &&
    p.instrs.all fun i => Machine.insDst i < 2 + p.slots || 5 < Machine.insDst i

/-- A segment descriptor (Table 8-3). -/
def Seg.good (g : Seg) (progs : List UserProg) : Bool :=
  g.rsv == 0 && 1 ≤ g.count && g.program ≤ 5 && g.momFmt ≤ 1 && g.consts.length == 12 &&
    (g.program != 0 || g.userProg < progs.length) &&
    (g.program != 5 || (1 ≤ g.rows && 1 ≤ g.cols && g.rows * g.cols == g.count))

/-- Segments in ascending order cover the elements from `n` on exactly once; the number at which they end (R311). -/
def segsEnd : List Seg → Nat → Option Nat
  | [], n => some n
  | g :: r, n => if g.first = n then segsEnd r (n + g.count) else none

/-- Schedule steps ascend strictly (R312). -/
def ascending : List Nat → Bool
  | [] => true
  | x :: r => r.all (fun y => decide (x < y)) && ascending r

/-- The update section of a forge descriptor (R310 to R312, R317, R323). -/
def UpdateSec.good (u : UpdateSec) (d : CollDesc) : Bool :=
  u.rsv == 0 && d.kind == 6 && u.hearthBase < 16 && (u.gradFmt == 1 || u.gradFmt == 2) && u.gradFmt == d.outFmt &&
    1 ≤ u.woutFmt && u.woutFmt ≤ 5 && inRange (-64) 64 u.lsExp &&
    (if u.lsDynamic then 1 ≤ u.lsInterval && u.lsInterval ≤ 65535 else u.lsInterval == 0) &&
    (!u.clip || ((Machine.fl32 u.clipMax matches .fin _ _ _) && (Machine.fl32 u.clipMax).positive)) &&
    u.saveEvery < 2 ^ 32 && 1 ≤ u.sched.length && u.sched.length ≤ 1024 && (u.sched.head?.any fun x => x.1 == 0) &&
    ascending (u.sched.map (·.1)) && 1 ≤ u.segs.length && u.segs.length ≤ 4096 && (u.segs.all fun g => g.good u.progs) &&
    segsEnd u.segs 0 == some d.elements && u.progs.all (·.good) &&
    ((u.segs.filter (·.program == 5)).map fun g => g.rows + g.cols).sum ≤ 1048576

/-- R310: one forge reduce with its update section, or neither. -/
def PlanImage.updateOk (m : PlanImage) : Bool :=
  match m.update, m.colls.filter (·.isForge) with
  | none, [] => true
  | some u, [d] => u.forgeColl == d.collId && u.good d
  | _, _ => false

/-- Table 7-12 rows 1 and 2, and the ranges of Table 7-10. -/
def PlanImage.headerOk (m : PlanImage) (supplied : Nat) : Bool :=
  m.magic == 0x56424A50 && m.format == 1 && m.rsv == 0 && 128 ≤ m.imageBytes && m.imageBytes ≤ 2 ^ 32 &&
    m.imageBytes == supplied && 10 ≤ m.resendUs && m.resendUs ≤ 160 && 1 ≤ m.colls.length && m.colls.length ≤ 65536

end Sys2Proof

namespace Sys2Proof.Machine

open Sys2Proof

/-! ## Table 7-12 -/

/-- Two positions are neighbours on a torus link inside a heat (R264). -/
def Net.adjacent (n : Net) (h : Heat) (c d : Pos) : Bool :=
  axes.any fun a => [true, false].any fun plus =>
    n.next c a plus == d && c != d &&
      (n.owns h a || Pos.on d a == (if plus then Pos.on c a + 1 else Pos.on c a - 1))

/-- A reduction tree keeps R264. -/
def Net.treeOk (n : Net) (h : Heat) (d : CollDesc) : Bool :=
  d.tree.length == h.size && ((List.range h.size).all fun k => d.tree.any fun x => x.1 == k) &&
    (d.tree.all fun x =>
      d.reachesRoot x.1 && (d.tree.filter fun y => y.2 == some x.1).length ≤ 6 &&
        x.2.all fun p => n.adjacent h (h.cellOf x.1) (h.cellOf p))

/-- A RING_NEED axis is closed (Table 7-12 row 4). -/
def ringsOk (h : Heat) (need : BitVec 3) : Bool :=
  axes.all fun a => !need.getLsbD a.no || (h.closed[a.no]?).getD 0 != 0

/-- Runs join ranks of the heat, or a rank and the hub, with shares from 1 to 7 (R183, Table 10-10). -/
def runsOk (h : Heat) (rs : List PlanRun) : Bool :=
  rs.all fun r => 1 ≤ r.share && r.share ≤ 7 && (r.src.all fun k => k < h.size) && (r.dst.all fun k => k < h.size) &&
    (r.src.isSome || r.dst.isSome)

/-- Table 7-12 with the ranges of the header, and the update section (R299). -/
def Net.imageOk (n : Net) (h : Heat) (m : PlanImage) (supplied : Nat) : Bool :=
  m.headerOk supplied && m.kx == h.kx && m.ky == h.ky && m.kz == h.kz && ringsOk h m.ringNeed &&
    m.colls.all (·.rangesOk) && (m.colls.map (·.collId)).eraseDups.length == m.colls.length &&
    (m.colls.all fun d => d.path == 0 || n.treeOk h d) && runsOk h m.runs && m.updateOk

/-! ## Other pods (R146) -/

/-- The peer links toward a slot leave none up. -/
def Net.pairDown (n : Net) (slot : Nat) : Bool :=
  (n.r.peers.filter fun x => x.2 == slot).all fun x => n.chWidth (4 * x.1) == 0

/-- The plan names a pod that this one cannot reach (R146). -/
def State.podsRefused (s : State) (n : Net) (pods : List Nat) : Bool :=
  !pods.isEmpty && (s.mgr.peersRefused || n.r.quadN == 0 || pods.any n.pairDown)

/-! ## Groups (R157, R158) -/

/-- The groups that a plan needs. -/
def planGroups (m : PlanImage) : List PlanGroup := (m.colls.flatMap (·.groups)).eraseDups

/-- The root of a group: the endpoint of the sending rank, or the lowest gateway on the line (R157). -/
def Net.rootFor (n : Net) (h : Heat) (g : PlanGroup) : Option Nat :=
  match g.sender with
  | some k => h.entryOf n.r k
  | none => n.hubRoot h g

/-- Give groups the lowest free MGROUP values (R158). -/
def Net.addGroups (n : Net) (no : Nat) (h : Heat) (t : Tab Group) (gs : List PlanGroup) : Tab Group :=
  gs.foldl (fun t g => tset t (lowestFree t 4096 0) { heat := no, line := g, root := (n.rootFor h g).getD 0 }) t

/-! ## Runs (R183, R184) -/

/-- Segments that a run may take along an axis: both ways on an owned axis, and otherwise inside the box, plus first. -/
def Net.runSegs (n : Net) (h : Heat) (a : Axis) (t : Nat) (c : Pos) : List (List Hop × Pos) :=
  if Pos.on c a = t then [([], c)]
  else
    ([true, false].filter fun plus => n.owns h a || plus == decide (Pos.on c a < t)).map fun plus =>
      n.walk a plus (hopsTo (n.r.extent a) (Pos.on c a) t plus) c

/-- Paths that a run between two positions may take: X, then Y, then Z. -/
def Net.runPaths (n : Net) (h : Heat) (c d : Pos) : List (List Hop) :=
  (n.runSegs h .x (Pos.on d .x) c).flatMap fun x =>
    (n.runSegs h .y (Pos.on d .y) x.2).flatMap fun y =>
      (n.runSegs h .z (Pos.on d .z) y.2).map fun z => x.1 ++ y.1 ++ z.1

/-- The gateways by which a run between a position and the hub may go (R154): the position itself where it is one, and
otherwise those of its Z line in the box. -/
def Net.runGates (n : Net) (h : Heat) (c : Pos) : List Pos :=
  if (n.r.at c).any n.isGateway then [c]
  else ((List.range n.r.ez).map fun z => Pos.put c .z z).filter fun g => h.holds g && (n.r.at g).any n.isGateway

/-- Z segments between a position and one of its gateways, those in the plus direction before the others. -/
def Net.gateSegs (n : Net) (h : Heat) (legs : List (Pos × Pos)) : List (List Hop × Pos × Pos) :=
  [true, false].flatMap fun plus => legs.flatMap fun x =>
    let k := hopsTo n.r.ez (Pos.on x.1 .z) (Pos.on x.2 .z) plus
    if x.1 = x.2 then (if plus then [([], x)] else [])
    else if n.owns h .z || plus == decide (Pos.on x.1 .z < Pos.on x.2 .z) then [((n.walk .z plus k x.1).1, x)] else []

/-- Paths that a run to the hub may take: a Z segment to a gateway of the box, an edge port, a switch port (R154). Between paths of
equal bottleneck, cost and direction the lower edge port and then the lower switch port is taken; R183 names no order there
(DESIGN CHOICE, log entry 172). -/
def Net.runUps (n : Net) (h : Heat) (c : Pos) : List (List Hop) :=
  (n.gateSegs h ((n.runGates h c).map fun g => (c, g))).flatMap fun x =>
    match n.r.at x.2.2 with
    | none => []
    | some g => (n.edgeUps g).flatMap fun u => (n.switchUps u.2.1).map fun y => x.1 ++ [(g, u.1), (u.2.1, y.1)]

/-- Paths that a run from the hub may take: the reverse, out of a Chrohar port (R154). Between paths of equal bottleneck, cost and
direction the lower edge port, and then the Chrohar port behind the lower switch port, is taken (DESIGN CHOICE, log entry
172). -/
def Net.runDowns (n : Net) (h : Heat) (c : Pos) : List (List Hop) :=
  (n.gateSegs h ((n.runGates h c).map fun g => (g, c))).flatMap fun x =>
    match n.r.at x.2.1 with
    | none => []
    | some g => (n.edgeUps g).flatMap fun u => (n.switchUps u.2.1).map fun y => [(chroharHop, y.2), (u.2.1, u.2.2)] ++ x.1

/-- A hop of a run can be used: a torus link up at both ends, or an edge or Chrohar port that is up. -/
def Net.runHopUp (n : Net) (x : Hop) : Bool :=
  if x.1 != chroharHop && !n.r.isSwitch x.1 && x.2 < 6 then n.hopUp x else n.width x.1 x.2 != 0

/-- Bottleneck of a path over the free share of its ports; zero where a hop is down (R183). -/
def Net.bottleneck (n : Net) (runs : Tab Run) (path : List Hop) : Nat :=
  path.foldl (fun m x => min m (if n.runHopUp x then n.freeShare runs x else 0)) 8

/-- Cost of a path under R150. -/
def Net.runCost (n : Net) (path : List Hop) : Nat := path.foldl (fun k x => addCost k (costOf (n.width x.1 x.2))) 0

/-- The best of some paths, in the order that prefers the plus direction: widest bottleneck, then least cost (R183). -/
def Net.bestPath (n : Net) (runs : Tab Run) (paths : List (List Hop)) : Option (List Hop) :=
  let better (a b : List Hop) : Bool :=
    n.bottleneck runs b < n.bottleneck runs a || (n.bottleneck runs a == n.bottleneck runs b && n.runCost a < n.runCost b)
  paths.foldl (fun best p => match best with
    | none => some p
    | some q => if better p q then some p else some q) none

/-- The path of a run of a heat with a share. -/
def Net.pathOf (n : Net) (runs : Tab Run) (h : Heat) (r : PlanRun) : Option (List Hop × Nat) :=
  let paths := match r.src, r.dst with
    | some j, some k => n.runPaths h (h.cellOf j) (h.cellOf k)
    | some j, none => n.runUps h (h.cellOf j)
    | none, some k => n.runDowns h (h.cellOf k)
    | none, none => []
  (n.bestPath runs paths).bind fun p =>
    if r.share ≤ n.bottleneck runs p then
      some (p, match r.dst with
        | some k => (n.r.at (h.cellOf k)).getD noEid.toNat
        | none => noEid.toNat)
    else none

/-- Place the runs of a plan, each over what the ones before leave, under the lowest free RUN_IDs. -/
def Net.placeRuns (n : Net) (no : Nat) (h : Heat) : List PlanRun → Tab Run → Option (Tab Run)
  | [], t => some t
  | r :: rest, t =>
    match n.pathOf t h r with
    | none => none
    | some p =>
      let run : Run := { heat := no, tenant := h.tenant, transit := none, bridge := false, share := r.share, path := p.1, dest := p.2 }
      n.placeRuns no h rest (tset t (lowestFree t 4096 0) run)

/-! ## Placement (R328, R329) -/

def pageBytes : Nat := 2097152

def pagesFor (bytes : Nat) : Nat := (bytes + pageBytes - 1) / pageBytes

/-- Bytes of a Hearth's elements. -/
def hearthBytes (d : CollDesc) (u : UpdateSec) (bytes : Seg → Nat) (h : Nat) : Nat :=
  ((hearthChunks d u h).map fun c => spanBytes u bytes (chunkSpan d c).1 (chunkSpan d c).2).sum

/-- Bytes of the statistics of R323. -/
def statBytes (u : UpdateSec) : Nat := 4 * ((u.segs.filter (·.program == 5)).map fun g => g.rows + g.cols).sum

/-- The counts of R328, by Hearth. -/
structure Counts where
  need  : List Nat
  save  : List Nat
  freeP : List Nat
  freeB : List Nat
  freeC : List Nat
deriving DecidableEq, Repr

def State.counts (s : State) (m : PlanImage) : Counts :=
  let forge := m.update.bind fun u => (m.colls.find? (·.isForge)).map fun d => (d, u)
  let per (f : CollDesc → UpdateSec → Nat → Nat) : List Nat := (List.range 16).map fun h => match forge with
    | some x => f x.1 x.2 h
    | none => 0
  { need := per fun d u h => pagesFor (hearthBytes d u (liveBytes u) h)
    save := per fun d u h => pagesFor (hearthBytes d u (stateBytes u) h + statBytes u)
    freeP := (List.range 16).map (s.mem.placeable .p), freeB := (List.range 24).map (s.mem.placeable .b)
    freeC := (List.range 16).map fun h => s.mem.placeable .c h - gibPages * s.cfg.live.cacheGib / 16 }

/-- Item of a list of numbers; zero past its end. -/
def nth (l : List Nat) (i : Nat) : Nat := (l[i]?).getD 0

/-- What R329 gives: pages in tiers P, B and C, and the shortfalls. -/
structure Placed where
  p      : List Nat
  b      : List Nat
  c      : List Nat
  short  : Nat
  shortC : Nat
deriving DecidableEq, Repr

/-- Hand out pages in order, up to what each asks and what is left. -/
def handOut : List Nat → Nat → List Nat
  | [], _ => []
  | x :: r, left => min x left :: handOut r (left - min x left)

/-- R329. -/
def Counts.place (k : Counts) (tierC : Bool) : Placed :=
  let hs := List.range 16
  let free := hs.map fun h => nth k.freeC h - 2 * nth k.save h
  let p := hs.map fun h => min (nth k.need h) (nth k.freeP h)
  let o := hs.map fun h => nth k.need h - nth p h
  let cap := hs.map fun h => if tierC then min (nth o h) (nth free h) else 0
  let m := hs.map fun h => nth o h - nth cap h
  let b1 := handOut m k.freeB.sum
  let b2 := handOut (hs.map fun h => nth o h - nth b1 h) (k.freeB.sum - b1.sum)
  let b := hs.map fun h => nth b1 h + nth b2 h
  { p := p, b := b, c := hs.map fun h => min (nth o h - nth b h) (nth cap h), short := m.sum - b1.sum
    shortC := (hs.map fun h => 2 * nth k.save h - nth k.freeC h).sum }

/-- Change an item of a list. -/
def modAt (l : List Nat) (i : Nat) (f : Nat → Nat) : List Nat := l.zipIdx.map fun x => if x.2 = i then f x.1 else x.1

/-- The next pile from `k` on that has room. -/
def nextPile (free : List Nat) (k : Nat) : Option Nat := ((List.range 24).map fun i => (k + i) % 24).find? fun j => nth free j != 0

/-- Deal pages to the tier B piles in turn, passing over a full one: what each gets, and what stays free (R329). -/
def dealPages : Nat → Nat → List Nat → List Nat → List Nat × List Nat
  | 0, _, got, free => (got, free)
  | n + 1, k, got, free =>
    match nextPile free k with
    | none => (got, free)
    | some j => dealPages n ((j + 1) % 24) (modAt got j (· + 1)) (modAt free j (· - 1))

/-- Deal every Hearth's tier B pages. -/
def dealAll : List Nat → List Nat → List (List Nat)
  | [], _ => []
  | n :: r, free =>
    let d := dealPages n 0 (List.replicate 24 0) free
    d.1 :: dealAll r d.2

/-- The pages that a plan holds. -/
def Placed.pages (q : Placed) (k : Counts) : Place := { p := q.p, b := dealAll q.b k.freeB, c := q.c, save := k.save }

/-- Take the pages of a placement (R307). -/
def Mem.takePlace (m : Mem) (no tenant gen : Nat) (q : Place) : Mem :=
  let set (t : Tier) (pile n : Nat) (u : PageUse) (m : Mem) : Mem :=
    m.add { tier := t, pile := pile, count := n, tenant := tenant, gen := gen, use := u }
  (List.range 16).foldl (fun m h =>
    let m := set .p h (nth q.p h) (.live no) m
    let m := ((q.b[h]?).getD []).zipIdx.foldl (fun m x => set .b x.2 x.1 (.live no) m) m
    let m := set .c h (nth q.c h) (.live no) m
    set .c h (nth q.save h) (.save no true) (set .c h (nth q.save h) (.save no false) m)) m

/-- A placement still waits for pages under quench (R331). -/
def Mem.unsettled (m : Mem) (q : Place) : Bool :=
  ((List.range 16).any fun h => (nth q.p h != 0 && !m.settled .p h) || (nth q.c h + nth q.save h != 0 && !m.settled .c h)) ||
    (List.range 24).any fun j => (q.b.any fun l => nth l j != 0) && !m.settled .b j

/-! ## The report (Table 8-6, R325, R326) -/

/-- Lane operations of an element of a segment (Tables 8-4, 8-5). -/
def laneOps (u : UpdateSec) (g : Seg) : Nat :=
  match g.program with
  | 0 => ((u.progs[g.userProg]?).map (·.ops)).getD 0
  | 3 => 4
  | 4 => 8
  | _ => 15

/-- Moved bytes of an element in the update pass (R324). -/
def movedBytes (u : UpdateSec) (g : Seg) : Nat := 2 * liveBytes u g - (if u.staged then 4 else 0)

/-- What a pass of one Hearth moves and computes: moved bytes by tier, lane operations, elements. -/
structure PassLoad where
  p   : Nat
  b   : Nat
  c   : Nat
  ops : Nat
  n   : Nat
deriving DecidableEq, Repr

/-- One record, in the tier in which it lies (R307). -/
def PassLoad.add (x : PassLoad) (u : UpdateSec) (t : Tier) (lo hi : Nat) : PassLoad :=
  let moved := spanBytes u (movedBytes u) lo hi
  { p := x.p + (if t = .p then moved else 0)
    b := x.b + (if t = .b then moved else 0), c := x.c + (if t = .c then moved else 0)
    ops := x.ops + spanBytes u (laneOps u) lo hi, n := x.n + (hi - lo) }

/-- The load of a Hearth's pass. -/
def passLoad (d : CollDesc) (u : UpdateSec) (q : Place) (h : Nat) : PassLoad :=
  (recordMap q d u h).foldl (fun x r =>
    let e := recordSpan d r.chunk r.num
    x.add u r.tier e.1 e.2)
    { p := 0, b := 0, c := 0, ops := 0, n := 0 }

/-- Update lanes of a Hearth that are off for want of a good lane in their pipe (R425). -/
def lanesOff (bad : List (BitVec 32)) (h : Nat) : Nat :=
  (((badRegions 5 bad).filter fun k => k / 16 == h).eraseDups.map (regionUnfilled 5 bad)).sum

/-- Time of a Hearth's pass in whole microseconds: the longest of R325's times. The lane operations go at the rate of the lanes
that are enabled, of 1,024 (R27). -/
def PassLoad.us (x : PassLoad) (u : UpdateSec) (lanes : Nat) : Nat :=
  let mesh := x.n * (fmtBytes u.woutFmt + (if u.staged then 0 else fmtBytes u.gradFmt)) + x.b + x.c
  max (max (max (x.p / 2400000) (x.b / 384000)) (max (x.c / 64000) (x.ops / (1600 * lanes)))) (mesh / 1000000)

/-- PASS_NS: the longest Hearth's update pass, in whole microseconds as R331's worked example gives it. -/
def passNs (bad : List (BitVec 32)) (m : PlanImage) (q : Place) : Nat :=
  match m.update, m.colls.find? (·.isForge) with
  | some u, some d => 1000 * ((List.range 16).map fun h => (passLoad d u q h).us u (1024 - lanesOff bad h)).foldl max 0
  | _, _ => 0

/-- Table 8-6. A load that fails for want of memory places nothing (R330). -/
def reportBytes (k : Counts) (q : Placed) (ns : Nat) : List Byte :=
  let ok := q.short == 0 && q.shortC == 0
  let pages (n : Nat) : List Byte := leBytes 8 (n * pageBytes)
  let if' (n : Nat) : List Byte := pages (if ok then n else 0)
  pages k.need.sum ++ if' q.p.sum ++ if' q.b.sum ++ if' q.c.sum ++ pages (2 * k.save.sum) ++ pages q.short ++
    pages q.shortC ++ leBytes 8 (if ok then ns else 0)

/-! ## Loading -/

/-- What a load asks: the image, the bytes supplied, rounding mode, seed, resume step, SAVED_ID, HOLD, whether the image
goes into the cache, the command to answer, and the old heat of a restart. -/
structure LoadAsk where
  image      : PlanImage
  supplied   : Nat
  stochastic : Bool
  seed       : BitVec 64
  resume     : Nat
  savedId    : Nat
  hold       : Bool
  enter      : Bool
  cmd        : Option Nat
  restart    : Option Nat
  /-- Bytes of the image that the data buffer brought (R395). -/
  moved      : Nat := 0
deriving DecidableEq, Repr

/-- The saved state that a load resumes from (R401). -/
def State.resumeFrom (s : State) (h : Heat) (q : LoadAsk) : Option Saved :=
  s.mem.saved.find? fun x => x.savedId == q.savedId && x.tenant == h.tenant && x.hash == q.image.hash && x.step == q.resume

/-- SAVED_ID and RESUME_STEP agree (R401), and every word of the state can be read (R31). -/
def State.resumeFault (s : State) (h : Heat) (q : LoadAsk) : Option Ans :=
  if q.savedId = 0 then (if q.resume = 0 then none else some (bad 48))
  else
    match s.resumeFrom h q with
    | some x => if x.torn then some (fail sDataError) else none
    | none => some (bad 56)

/-- The checks of R299 before placement, in their order: the runs after the load, or the answer that ends it. -/
def State.loadChecks (s : State) (n : Net) (no : Nat) (h : Heat) (q : LoadAsk) : Ans ⊕ Tab Run :=
  let gs := planGroups q.image
  if !n.imageOk h q.image q.supplied then .inl (fail sBadArg)
  else
    match s.resumeFault h q with
    | some a => .inl a
    | none =>
      if s.podsRefused n q.image.pods then .inl (fail sTopology)
      else if gs.any fun g => (n.rootFor h g).isNone then .inl (fail sNoRoute)
      else if 4096 < s.mgr.groups.length + gs.length then .inl (fail sTableFull)
      else if 4096 < s.mgr.runs.length + q.image.runs.length then .inl (fail sTableFull)
      else
        match n.placeRuns no h q.image.runs s.mgr.runs with
        | some t => .inr t
        | none => .inl (fail sNoRoute)

/-- A plan as it starts (R300). -/
def startPlan (q : LoadAsk) (pages : Place) : Plan :=
  { image := q.image, opens := [], stochastic := q.stochastic, seed := q.seed, resume := q.resume, held := true, place := pages
    lsExp := (q.image.update.map (·.lsExp)).getD 0, applied := 0, streak := 0, lastNorm := 0, flags := 0, decision := none, before := none
    openStep := q.resume + 1, elems := [], rowStat := [], colStat := [], lastSaved := none, slot := false, saving := none }

/-- The state of a saved step comes back (R241, R401). -/
def Plan.restore (p : Plan) (x : Saved) : Plan :=
  { p with elems := x.elems, lsExp := x.lsExp, applied := x.applied, streak := x.streak, rowStat := x.rowStat
           colStat := x.colStat, resume := x.step, openStep := x.step + 1, decision := none, before := none
           saving := none }

/-- A load that passes every check: its pages, groups and runs are taken, and it waits to be set up (R299, R331). -/
def State.reserve (s : State) (n : Net) (no : Nat) (h : Heat) (q : LoadAsk) (runs : Tab Run) (pages : Place)
    (result : List Byte) : State :=
  let m := s.mgr
  let s : State := { s with mgr := { m with runs := runs, groups := n.addGroups no h m.groups (planGroups q.image) } }
  let s := s.modHeat no fun h => { h with plan := some (startPlan q pages) }
  let mem := s.mem.takePlace no h.tenant (s.newest h.tenant) pages
  s.setMem { mem with loads := mem.loads ++
    [{ heat := no, cmd := q.cmd, result := result, enter := q.enter, resume := s.resumeFrom h q, hold := q.hold
       waiting := mem.unsettled pages, restart := q.restart, moved := q.moved }] }

/-- Load a plan onto a heat (R299): what ends it at once, or the state in which it is under way. -/
def State.loadPlan (s : State) (n : Net) (no : Nat) (h : Heat) (q : LoadAsk) : Ans ⊕ State :=
  match s.loadChecks n no h q with
  | .inl a => .inl a
  | .inr runs =>
    let k := s.counts q.image
    let put := k.place q.image.tierCOk
    let pages := put.pages k
    let report := reportBytes k put (passNs s.boot.badUnits q.image pages) ++ bvBytes q.image.hash
    if put.short ≠ 0 ∨ put.shortC ≠ 0 then .inl { fail sShortMemory with result := report }
    else .inr (s.reserve n no h q runs pages report)

/-- The runs that a plan needs. -/
def State.planRuns (s : State) (no : Nat) : List Nat :=
  (s.mgr.runs.filter fun r => r.2.heat == no && r.2.transit.isNone && !r.2.bridge).map (·.1)

/-- A load is under way on a heat. -/
def State.loading (s : State) (no : Nat) : Bool := s.mem.loads.any fun w => w.heat == no

/-- The plan begins: the state as it stands is the plan-start saved step, and the steps after the resume step open
(R279, R401). -/
def State.beginPlan (s : State) (no : Nat) : State :=
  let start (t : Nat) (p : Plan) : Plan := { p with held := false, lastSaved := some (p.snapshot t p.resume) }
  let s := s.modHeat no fun h => { h with plan := h.plan.map (start h.tenant), state := 1 }
  match s.planOf no with
  | some p => (s.openPlan no p p.resume).startStream no
  | none => s

/-! ## Stopping (R221, R285, R403) -/

/-- Every open step and update of a heat ends with S_ABORTED, and its records go (R285). -/
def State.abortSteps (s : State) (no : Nat) : State :=
  (((s.failSteps no sAborted).clearSteps no).dropKept no).modPlan no fun p => { p with saving := none, decision := none, before := none }

/-- The slot of the last saved step is kept; the other slot goes under quench. -/
def Mem.keepSlot (m : Mem) (no id : Nat) (slot : Bool) : Mem :=
  (m.rename (fun u => u == .save no slot) (.kept id)).release fun u => u == .save no (!slot)

/-- The pages of a kept state go under quench, and it is listed no more (R222, R403). -/
def Mem.dropKept (m : Mem) (id : Nat) : Mem :=
  if id = 0 then m else { m.release fun u => u == .kept id with saved := m.saved.filter fun x => x.savedId != id }

/-- Keep a heat's last saved step in tier C under a SAVED_ID (R223, R403); zero when there is none. -/
def State.keepLast (s : State) (no : Nat) : State × Nat :=
  match (s.planOf no).bind fun p => p.lastSaved.map fun x => (x, p.slot) with
  | none => (s, 0)
  | some (x, slot) =>
    let id := s.mem.nextId
    let m := s.mem.keepSlot no id slot
    (s.setMem { m with saved := m.saved ++ [{ x with savedId := id, heat := no }], nextId := id + 1 }, id)

/-- A plan leaves its heat: its live pages and saved-step slots go under quench, and its groups are freed (R222, R403). -/
def State.freePlan (s : State) (no : Nat) : State :=
  let m := s.mgr
  let s : State := { s with mgr := { m with groups := m.groups.filter fun g => g.2.heat != no } }
  let s := s.setMem (s.mem.release fun u => u == .live no || u == .save no false || u == .save no true)
  let s := s.modHeat no fun h =>
    { h with plan := none, state := 0, retries := [], rollback := (0, 0), lost := [], suspect := false, restore := false }
  ((s.rebaseHub no).dropStream no).retireKeys

/-- A load that has not replied ends with S_ABORTED (R221). -/
def State.abortLoad (s : State) (no : Nat) : State :=
  match s.mem.loads.find? fun w => w.heat == no with
  | none => s
  | some w =>
    let s := s.setMem { s.mem with loads := s.mem.loads.filter fun w => w.heat != no }
    match w.cmd with
    | some id => s.finish id (fail sAborted)
    | none => s

end Sys2Proof.Machine
end

