-- ==== Sys2Proof/Machine/Image.lean ====
section
/-! DEFINITION. The byte layouts of a plan image: its header, the collective descriptors, the update section, the segments, the
schedule and the user programs (07_collectives.md R298; 08_hearth_update.md R310 to R312, R317). -/

namespace Sys2Proof.Machine

open Sys2Proof

/-- Sum of some spans of bytes, each (offset, bytes): zero exactly when all of them are. -/
def spansAt (b : List Byte) (spans : List (Nat × Nat)) : Nat := (spans.map fun x => natAt b x.1 x.2).sum

/-- A section that runs past the image spoils it like a reserved bit that is set (DESIGN CHOICE, log entry 149). -/
def outside (b : List Byte) (off len : Nat) : Nat := if b.length < off + len then 1 else 0

/-- A 16-bit signed field. -/
def intAt (b : List Byte) (off : Nat) : Int := (BitVec.ofNat 16 (natAt b off 2)).toInt

/-- The sections of descriptor `k` whose byte form the manual does not give. -/
def sectionsOf (x : PlanSections) (k : Nat) : CollSections := (x.colls[k]?).getD { tree := [], groups := [], owners := [] }

/-- A collective descriptor (Table 7-11), with the sections that TREE_OFFSET and GROUP_OFFSET locate. -/
def readColl (b : List Byte) (o : Nat) (x : CollSections) : CollDesc :=
  { collId := BitVec.ofNat 32 (natAt b o 4), kind := natAt b (o + 4) 1, op := natAt b (o + 5) 1, inFmt := natAt b (o + 6) 1 % 16
    outFmt := natAt b (o + 6) 1 / 16, path := natAt b (o + 7) 1, scale0 := intAt b (o + 8), scaleStep := natAt b (o + 10) 1
    outScale := intAt b (o + 12), chunkPlen := natAt b (o + 14) 1, cruBase := natAt b (o + 15) 1 % 4
    elements := natAt b (o + 16) 8, tree := if natAt b (o + 7) 1 = 1 then x.tree else []
    groups := if natAt b (o + 28) 4 = 0 then [] else x.groups, owners := if natAt b (o + 28) 4 = 0 then [] else x.owners
    rsv := spansAt b [(o + 11, 1), (o + 32, 32)] + natAt b (o + 15) 1 / 4 + outside b o 64 }

/-- A segment descriptor (Table 8-3). -/
def readSeg (b : List Byte) (o : Nat) : Seg :=
  { first := natAt b o 8, count := natAt b (o + 8) 8, program := natAt b (o + 16) 1, momFmt := natAt b (o + 17) 1
    userProg := natAt b (o + 18) 2, rows := natAt b (o + 20) 4, cols := natAt b (o + 24) 4
    consts := (List.range 12).map fun k => BitVec.ofNat 32 (natAt b (o + 32 + 4 * k) 4)
    rsv := spansAt b [(o + 28, 4), (o + 80, 16)] + outside b o 96 }

/-- A schedule entry (R312): STEP and LR. -/
def readSched (b : List Byte) (o : Nat) : Nat × BitVec 32 := (natAt b o 8, BitVec.ofNat 32 (natAt b (o + 8) 4))

/-- A user program record (R317). -/
def readProg (b : List Byte) (o : Nat) : UserProg :=
  let n := natAt b o 2
  { slots := natAt b (o + 2) 1, ops := natAt b (o + 3) 2
    instrs := (List.range (min n 65)).map fun k => BitVec.ofNat 32 (natAt b (o + 8 + 4 * k) 4)
    rsv := spansAt b [(o + 5, 3)] + outside b o (8 + 4 * n) }

/-- The first records of the user program section, one after another: as many as segments name, and none past the image
(DESIGN CHOICE, log entry 149: no field counts them). -/
def readProgs (b : List Byte) : Nat → Nat → List UserProg
  | 0, _ => []
  | n + 1, o => if b.length < o + 8 then [] else readProg b o :: readProgs b n (o + 8 + 4 * natAt b o 2)

/-- The update section (Table 8-2), with what its offsets, counted from the start of the image, locate. -/
def readUpdate (b : List Byte) (o : Nat) : UpdateSec :=
  let flags := natAt b (o + 11) 1
  let segs := (List.range (min (natAt b (o + 4) 4) 4097)).map fun k => readSeg b (natAt b (o + 32) 4 + 96 * k)
  let scheds := (List.range (min (natAt b (o + 24) 4) 1025)).map fun k => natAt b (o + 28) 4 + 16 * k
  let progs := natAt b (o + 36) 4
  let named := ((segs.filter fun g => g.program == 0).map (·.userProg + 1)).foldl max 0
  { forgeColl := BitVec.ofNat 32 (natAt b o 4), hearthBase := natAt b (o + 8) 1, gradFmt := natAt b (o + 9) 1
    woutFmt := natAt b (o + 10) 1, clip := flags % 2 == 1, lsDynamic := flags / 2 % 2 == 1, skipNonfinite := flags / 4 % 2 == 1
    lsExp := intAt b (o + 12), lsInterval := natAt b (o + 14) 2, clipMax := BitVec.ofNat 32 (natAt b (o + 16) 4)
    saveEvery := natAt b (o + 20) 4, sched := scheds.map (readSched b), segs := segs
    progs := if progs = 0 then [] else readProgs b named progs
    rsv := flags / 8 + spansAt b [(o + 40, 24)] + outside b o 64 +
      (scheds.map fun k => spansAt b [(k + 12, 4)] + outside b k 16).sum }

/-- A plan image from its bytes (Table 7-10) and the sections that have no byte form in the manual. -/
def readImage (b : List Byte) (x : PlanSections) : PlanImage :=
  let flags := natAt b 12 4
  let colls := natAt b 48 8
  let update := natAt b 56 8
  { magic := BitVec.ofNat 32 (natAt b 0 4), format := natAt b 4 2, compilerVer := BitVec.ofNat 32 (natAt b 8 4)
    spliceOk := flags % 2 == 1, stateless := flags / 2 % 2 == 1, tierCOk := flags / 4 % 2 == 1, timed := flags / 8 % 2 == 1
    imageBytes := natAt b 16 8, kx := natAt b 24 1, ky := natAt b 25 1, kz := natAt b 26 1
    ringNeed := BitVec.ofNat 3 (natAt b 27 1), resendUs := natAt b 28 1, stepPeriod := natAt b 40 4
    colls := (List.range (min (natAt b 32 4) 65537)).map fun k => readColl b (colls + 64 * k) (sectionsOf x k)
    groupCount := natAt b 36 2, pods := x.pods, runs := x.runs.take (natAt b 38 2)
    update := if update = 0 then none else some (readUpdate b update)
    hash := Config.shake256 b
    rsv := flags / 16 + natAt b 27 1 / 8 + spansAt b [(6, 2), (29, 3), (44, 4), (64, 64)] }

end Sys2Proof.Machine
end

