-- ==== Sys2Proof/Machine/Control.lean ====
section
/-! DEFINITION. What the manager's TABLE billets and CTRL tallies do at an agent (04_routing.md R163 to R174;
05_heats.md R209, R216, R217; 06_faults_and_recovery.md R251; 09_goson_agent.md R351 to R358, R374). -/

namespace Sys2Proof.Machine

open Sys2Proof

/-- The manager's packet that is next in sequence (R352). -/
def Agent.nextOrder (g : Agent) : Option (Pkt × List Pkt) := takeFirst (isFromManager g) g.inbox

/-! ## TABLE billets -/

/-- Entry width in bytes and number of entries of a TABLE kind (Table 4-4, R209); none for a reserved kind. -/
def tableShape (kind : Nat) : Option (Nat × Nat) :=
  match kind with
  | 1 => some (1, 8192)
  | 2 => some (1, 1024)
  | 3 => some (8, 4096)
  | 4 => some (4, 4096)
  | 5 => some (1, 16)
  | 6 => some (32, 18)
  | _ => none

/-- An entry sets a reserved bit or a reserved setting (Tables 4-5 to 4-8, 5-6, 5-7). -/
def badEntry (kind index : Nat) (e : BitVec 256) : Bool :=
  match kind with
  | 1 => field e 6 2 != 0
  | 2 => field e 6 2 != 0
  | 3 => field e 46 18 != 0
  | 4 => field e 13 19 != 0
  | 5 => field e 4 4 != 0
  | _ =>
    if index = 17 then field e 71 185 != 0
    else field e 208 48 != 0 || (List.range 16).any fun k => e.getLsbD (192 + k) && (field e (12 * k) 2).toNat ≥ 2

/-- A TABLE billet's descriptor (Table 4-3). -/
structure TableDesc where
  kind  : Nat
  epoch : BitVec 2
  count : Nat
  first : Nat
  rsv   : Bool
deriving DecidableEq, Repr

def tableDesc (payload : List Byte) : TableDesc :=
  let w : BitVec 128 := BitVec.ofNat 128 (natAt payload 0 16)
  { kind := (field w 0 4).toNat, epoch := field w 4 2, count := (field w 16 16).toNat, first := (field w 32 32).toNat
    rsv := field w 6 10 != 0 || field w 64 64 != 0 }

/-- The entries of a TABLE billet with their indices. -/
def tableEntries (d : TableDesc) (bytes : Nat) (payload : List Byte) : List (Nat × BitVec 256) :=
  (List.range d.count).map fun i => (d.first + i, BitVec.ofNat 256 (natAt payload (16 + bytes * i) bytes))

/-- The billet is rejected (R164): a reserved kind or bit, indices past the table, or entries past the payload. R164 names
reserved bits of entries; that a reserved bit of the descriptor, or an EPOCH other than zero for kinds 4 to 6 (Table 4-3),
rejects the billet too is a DESIGN CHOICE (log entry 136). -/
def tableBad (d : TableDesc) (payload : List Byte) : Bool :=
  match tableShape d.kind with
  | none => true
  | some (bytes, entries) =>
    d.rsv || d.count == 0 || entries < d.first + d.count || payload.length < 16 + bytes * d.count ||
      (3 < d.kind && d.epoch != 0) || (tableEntries d bytes payload).any fun e => badEntry d.kind e.1 e.2

/-- Write one entry of a table of a slot; a zero entry is an entry that is not valid, and is not kept. -/
def putEntry {w : Nat} (t : Tab (BitVec w)) (i : Nat) (e : BitVec 256) : Tab (BitVec w) :=
  if e.setWidth w = 0 then tdel t i else tset t i (e.setWidth w)

def Slot.write (kind : Nat) (t : Slot) (e : Nat × BitVec 256) : Slot :=
  if kind = 1 then { t with routes := putEntry t.routes e.1 e.2 }
  else if kind = 2 then { t with hubs := putEntry t.hubs e.1 e.2 }
  else { t with groups := putEntry t.groups e.1 e.2 }

/-- Flows of the endpoint: those that carry no manager key. -/
def ownFlow (k : FlowKey) : Bool := k.laneKey != mgrKey

/-- How the packets of a flow end that a fence or ASSIGNED 0 stops (Table 9-6): one of which no cell has left is refused with
NOT_ASSIGNED, and of one that has been sent the copy is discarded. Table 9-6 says it of a fence; the model takes it for ASSIGNED
0 too (DEDUCED, log entry 166). -/
def Agent.stopped (g : Agent) (f : SrcFlow) : List Finished :=
  (f.copies.map fun c => { tag := c.tag, code := if g.unsent f c then 0x02 else 0x07, bitmap := c.acked, pkt := c.pkt }) ++
    f.waiting.map fun w => { tag := w.tag, code := 0x02, bitmap := 0, pkt := w.pkt }

/-- A frame of a packet of some flows of which no cell has left. -/
def Agent.notBegun (g : Agent) (fs : List SrcFlow) (x : QFrame) : Bool :=
  fs.any fun f => f.copies.any fun c => frameOfCopy f.key c.pkt.seq x && g.unsent f c

/-- The frames that a port keeps. -/
def Port.dropFrames (hit : QFrame → Bool) (q : Port) : Port := { q with queue := q.queue.filter fun x => !hit x }

/-- Steps 3 and 4 of R216: copies of the endpoint's packets are discarded and their flows marked failed, what has not begun to
leave does not leave (Table 9-6), and packets held for delivery are discarded. Answers the flows marked and the packets held. -/
def Agent.silence (g : Agent) (a : Nat) : AgentStep × Nat × Nat :=
  let hit (f : SrcFlow) : Bool := ownFlow f.key && !(f.copies.isEmpty && f.waiting.isEmpty)
  let done := (g.srcs.filter hit).flatMap g.stopped
  let held := ((g.dsts.filter fun d => ownFlow d.key).map fun d => d.held.length).sum
  let g1 := Agent.trimBuffers { g with
    ports := tmap (fun _ q => q.dropFrames (g.notBegun (g.srcs.filter hit))) g.ports
    srcs := g.srcs.map fun f => if hit f then { f with copies := [], waiting := [], failed := true } else f
    dsts := g.dsts.map fun d => if ownFlow d.key then { d with held := [] } else d }
  (Agent.finish a done g1, (g.srcs.filter hit).length, held)

/-- The keys that a load of entry 16 withdraws from the local port (R88). -/
def withdrawn (old new : BitVec 256) : List LaneKey :=
  ((List.range 16).filter fun i => old.getLsbD (192 + i) && !keyHeld new (field old (12 * i) 12)).map fun i =>
    field old (12 * i) 12

/-- Every flow that the endpoint sources takes the RESEND_BASE of the assignment entry (R96). -/
def Agent.rebase (g : Agent) : Agent :=
  { g with srcs := g.srcs.map fun f => if ownFlow f.key then { f with baseUs := g.resendUs } else f }

/-- Load one entry of the lane key table (R88, R96, R209, R221, R359): FENCED is set only by the fence operation, and a load
may clear it; ASSIGNED 0 silences the endpoint and ends what is being combined; a key withdrawn from the local port
frees its flows; a change of ASSIGNED or FENCED posts a notice. -/
def Agent.loadKey (a : Nat) (g : Agent) (e : Nat × BitVec 256) : AgentStep :=
  if e.1 = 16 then
    let gone := withdrawn (g.keyEntry 16) e.2 ++ withdrawn g.fencedKeys e.2
    (Agent.trimBuffers
      { g with keys := putEntry g.keys 16 e.2
               fencedKeys := 0
               srcs := g.srcs.filter fun f => !gone.contains f.key.laneKey
               dsts := g.dsts.filter fun d => !gone.contains d.key.laneKey }, [])
  else if e.1 = 17 then
    let old := g.assignment
    let new := if e.2.getLsbD 1 && !old.getLsbD 1 then e.2 &&& ~~~(2#256) else e.2
    let g1 := ({ g with keys := putEntry g.keys 17 new } : Agent).rebase
    let one : AgentStep :=
      if old.getLsbD 0 && !new.getLsbD 0 then
        let r := g1.silence a
        ({ r.1.1 with chunks := r.1.1.chunks.filter fun c => c.sent.isSome }, r.1.2)
      else (g1, [])
    if field old 0 2 != field new 0 2 then
      let two := one.1.assignNotice a
      (two.1, one.2 ++ two.2)
    else one
  else ({ g with keys := putEntry g.keys e.1 e.2 }, [])

def Agent.loadKeys (a : Nat) : List (Nat × BitVec 256) → Agent → AgentStep
  | [], g => (g, [])
  | e :: r, g =>
    let one := g.loadKey a e
    let more := Agent.loadKeys a r one.1
    (more.1, one.2 ++ more.2)

/-- Count a TABLE billet that is not applied (R164, R356). -/
def Agent.reject (g : Agent) : Agent := { g with rejected := g.rejected + 1 }

/-- Apply a TABLE billet (R163, R164, R169, R174, R352): in full, or not at all and counted. The discovery table goes
with the first one. -/
def Agent.applyTable (a : Nat) (g : Agent) (p : Pkt) : AgentStep :=
  let d := tableDesc (pktPayload p)
  if tableBad d (pktPayload p) then (g.reject, [])
  else
    let es := tableEntries d ((tableShape d.kind).getD (1, 0)).1 (pktPayload p)
    if d.kind ≤ 3 then
      let g1 := { g with discTab := [] }
      if g.slot0.state = .staged ∧ g.slot0.epoch = d.epoch then
        ({ g1 with slot0 := es.foldl (Slot.write d.kind) g.slot0 }, [])
      else if g.slot1.state = .staged ∧ g.slot1.epoch = d.epoch then
        ({ g1 with slot1 := es.foldl (Slot.write d.kind) g.slot1 }, [])
      else (g.reject, [])
    else if d.kind = 4 then ({ g with runs := es.foldl (fun t e => putEntry t e.1 e.2) g.runs }, [])
    else if d.kind = 5 then ({ g with attrs := es.foldl (fun t e => putEntry t e.1 e.2) g.attrs }, [])
    else Agent.loadKeys a es g

/-- TABLE_BILLET at an agent: the manager's next packet, when it is a TABLE billet (R352). -/
def Agent.takeTable (a : Nat) (g : Agent) : AgentStep :=
  match g.nextOrder with
  | some (p, rest) => if isTable p then Agent.applyTable a { g with inbox := rest } p else (g, [])
  | none => (g, [])

/-- TABLE_BILLET (R352). -/
def execTableBillet (a : Nat) (s : State) : Host.Outcome State Fault Refusal :=
  .next (s.onAgent a (whileLive (Agent.takeTable a)))

/-! ## CTRL operations -/

/-- The argument bits of an operation, with OP itself (Table 9-4); none for an OP that the table does not list. -/
def ctrlBits (op : BitVec 8) : Option (BitVec 128) :=
  let low (n : Nat) : BitVec 128 := BitVec.ofNat 128 (2 ^ n - 1)
  match op.toNat with
  | 0x01 => some (low 10) | 0x02 => some (low 10) | 0x03 => some (low 8) | 0x04 => some (low 10)
  | 0x05 => some (low 40) | 0x06 => some (low 40) | 0x07 => some (low 122) | 0x08 => some (low 25)
  | 0x09 => some (low 72) | 0x0A => some (low 54) | 0x0B => some (low 75) | _ => none

/-- A CTRL body that its agent answers with RESULT 2 (R70, R353). -/
def ctrlUnlisted (b : BitVec 128) : Bool :=
  match ctrlBits (field b 0 8) with
  | some m => b &&& ~~~m != 0
  | none => true

/-- A CTRL_REPLY (R355, Table 9-5): OP, RESULT, COUNT saturating, and further fields. -/
def Agent.reply (g : Agent) (a : Nat) (op : BitVec 8) (result : BitVec 4) (count : Nat) (more : BitVec 128) : AgentStep :=
  g.tellManager a tCtrlReply
    (at' 128 0 op ||| at' 128 8 result ||| at' 128 12 (BitVec.ofNat 16 (min count 0xFFFF)) ||| more)

/-- An operation at an agent: the manager's next packet, when it is a CTRL tally of that OP with no bit outside its
arguments. -/
def Agent.ctrl (op : BitVec 8) (f : Agent → BitVec 128 → AgentStep) (g : Agent) : AgentStep :=
  match g.nextOrder with
  | some (p, rest) =>
    if !isTable p && field (pktTally p) 0 8 == op && !ctrlUnlisted (pktTally p) then f { g with inbox := rest } (pktTally p)
    else (g, [])
  | none => (g, [])

/-- DEPTH and lock state under the parent that an epoch sets (R295, R376, R377): one more than the DEPTH last heard from it;
HOLDOVER ends, and the counter locks onto it anew. -/
def LapSync.under (l : LapSync) (parent : Option Nat) (depth : Nat) : LapSync :=
  { l with parent := parent, offsets := [], depth := if parent.isSome then min 31 (depth + 1) else 31
           lock := if l.lock = .holdover ∧ parent.isSome then .locking else l.lock }

/-- The lap parent after a change of the CURRENT slot (R295, R376): a new parent starts the mean afresh, and so does the old one
that an epoch names again after HOLDOVER. -/
def Agent.reparent (g : Agent) : Agent :=
  if g.lapParent = g.lapSync.parent ∧ g.lapSync.lock ≠ .holdover then g
  else { g with lapSync := g.lapSync.under g.lapParent ((g.lapParent.map fun p => (g.port p).nbrDepth).getD 31) }

/-- The other slot at a flip (R170): CURRENT drains; an empty one drains with epoch e − 1 and no entry. -/
def Slot.drain (t : Slot) (e : BitVec 2) : Slot :=
  if t.state = .current then { t with state := .draining }
  else { Slot.reset with state := .draining, epoch := e - 1 }

/-- The slots after TBL_FLIP e, when e is the STAGED epoch (R170). -/
def Agent.flip (g : Agent) (e : BitVec 2) : Option Agent :=
  if g.slot0.state = .staged ∧ g.slot0.epoch = e then
    some { g with slot0 := { g.slot0 with state := .current }, slot1 := g.slot1.drain e }.reparent
  else if g.slot1.state = .staged ∧ g.slot1.epoch = e then
    some { g with slot1 := { g.slot1 with state := .current }, slot0 := g.slot0.drain e }.reparent
  else none

/-- TBL_FLIP at an agent (R170, R356). -/
def Agent.doFlip (a : Nat) (g : Agent) (b : BitVec 128) : AgentStep :=
  match g.flip (field b 8 2) with
  | some g1 => ({ g1 with rejected := 0 } : Agent).reply a 0x01 0 g.rejected 0
  | none => ({ g with rejected := 0 } : Agent).reply a 0x01 1 g.rejected 0

/-- TBL_FLIP (R170). -/
def execTblFlip (a : Nat) (s : State) : Host.Outcome State Fault Refusal :=
  .next (s.onAgent a (whileLive (Agent.ctrl 0x01 (Agent.doFlip a))))

/-- A frame that TBL_RETIRE e voids (R170): every one stamped e. -/
def voids (e : BitVec 2) (x : QFrame) : Bool := !x.void && x.pkt.c.epoch == e

/-- Frames of an epoch held in the agent's buffers, at its ports and at its own input. -/
def Agent.voidCount (g : Agent) (e : BitVec 2) : Nat :=
  (g.ports.map fun q => (q.2.queue.filter (voids e)).length).sum + (g.arrived.filter fun x => x.pkt.c.epoch == e).length

/-- Void what a port holds of an epoch. -/
def Port.voidEpoch (e : BitVec 2) (q : Port) : Port :=
  let void (x : QFrame) : QFrame := if voids e x then { x with void := true } else x
  { q with queue := q.queue.map void }

/-- Void what the agent holds of an epoch: a frame leaves its port's queue when it reaches the head (R171); a packet that has
arrived here is at the head of its own, and its cells return. -/
def Agent.voidAll (g : Agent) (e : BitVec 2) : Agent :=
  let gone := g.arrived.filter fun x => x.pkt.c.epoch == e
  gone.foldl Agent.freeArrived { g with
    ports := tmap (fun _ q => q.voidEpoch e) g.ports, arrived := g.arrived.filter fun x => x.pkt.c.epoch != e }

/-- The copy of CURRENT that the freed slot takes, STAGED with the next epoch (R170). -/
def Slot.nextOf (cur : Slot) : Slot := { cur with state := .staged, epoch := cur.epoch + 1 }

/-- The slots after TBL_RETIRE e, when e is the DRAINING epoch (R170). -/
def Agent.retire (g : Agent) (e : BitVec 2) : Option Agent :=
  if g.slot0.state = .draining ∧ g.slot0.epoch = e then
    some { g.voidAll e with slot0 := g.slot1.nextOf }
  else if g.slot1.state = .draining ∧ g.slot1.epoch = e then
    some { g.voidAll e with slot1 := g.slot0.nextOf }
  else none

/-- TBL_RETIRE at an agent (R170, R171): the reply counts the voided frames. -/
def Agent.doRetire (a : Nat) (g : Agent) (b : BitVec 128) : AgentStep :=
  match g.retire (field b 8 2) with
  | some g1 => g1.reply a 0x02 0 (g.voidCount (field b 8 2)) 0
  | none => g.reply a 0x02 1 0 0

/-- TBL_RETIRE (R170). -/
def execTblRetire (a : Nat) (s : State) : Host.Outcome State Fault Refusal :=
  .next (s.onAgent a (whileLive (Agent.ctrl 0x02 (Agent.doRetire a))))

/-- Slots, epochs and assignment as TBL_STATE reports them (Table 9-5). -/
def Agent.slotWord (g : Agent) : BitVec 128 :=
  at' 128 28 (slotCode g.slot0.state) ||| at' 128 30 g.slot0.epoch ||| at' 128 32 (slotCode g.slot1.state) |||
    at' 128 34 g.slot1.epoch ||| at' 128 36 (BitVec.ofBool g.assigned) ||| at' 128 37 (BitVec.ofBool g.fenced)

/-- TBL_STATE at an agent (R170). -/
def Agent.doState (a : Nat) (g : Agent) (_b : BitVec 128) : AgentStep := g.reply a 0x03 0 0 g.slotWord

/-- TBL_STATE (R355). -/
def execTblState (a : Nat) (s : State) : Host.Outcome State Fault Refusal :=
  .next (s.onAgent a (whileLive (Agent.ctrl 0x03 (Agent.doState a))))

/-- TBL_SEED at an agent (R251): only without a CURRENT and without a DRAINING slot. -/
def Agent.doSeed (a : Nat) (g : Agent) (b : BitVec 128) : AgentStep :=
  if g.slot0.state = .current ∨ g.slot0.state = .draining ∨ g.slot1.state = .current ∨ g.slot1.state = .draining then
    g.reply a 0x04 1 0 0
  else
    ({ g with slot0 := { Slot.reset with state := .staged, epoch := field b 8 2 }, slot1 := Slot.reset } : Agent).reply
      a 0x04 0 0 0

/-- TBL_SEED (R251). -/
def execTblSeed (a : Nat) (s : State) : Host.Outcome State Fault Refusal :=
  .next (s.onAgent a (whileLive (Agent.ctrl 0x04 (Agent.doSeed a))))

/-- FENCE_ACK (R217, Table 5-9). -/
def Agent.fenceAck (g : Agent) (a : Nat) (seq : BitVec 32) (on : Bool) (flows held : Nat) : AgentStep :=
  g.tellManager a tFenceAck
    (at' 128 0 seq ||| at' 128 32 (BitVec.ofBool on) ||| at' 128 33 (tenantKey g.tenant) |||
      at' 128 45 (BitVec.ofNat 16 (min flows 0xFFFF)) ||| at' 128 61 (BitVec.ofNat 16 (min held 0xFFFF)))

/-- FENCE at an agent (R216), in its order: FENCED is set; the local port allows 0x002 alone, but no lane key is withdrawn
(R88); the endpoint is silenced; FENCE_ACK goes to the manager. A switch build has no endpoint and sends no FENCE_ACK (R338,
R360): it answers FENCE and UNFENCE as a bad argument (DESIGN CHOICE, log entry 137). -/
def Agent.doFence (a : Nat) (g : Agent) (b : BitVec 128) : AgentStep :=
  if g.isSwitch then g.reply a 0x05 2 0 0 else
  let was := g.fenced
  let g1 := { g with
    fencedKeys := if g.keyEntry 16 = 0 then g.fencedKeys else g.keyEntry 16
    keys := tdel (tset g.keys 17 (g.assignment ||| 2#256)) 16 }
  let n : AgentStep := if was then (g1, []) else g1.assignNotice a
  let r := n.1.silence a
  let k := r.1.1.fenceAck a (field b 8 32) true r.2.1 r.2.2
  (k.1, n.2 ++ r.1.2 ++ k.2)

/-- FENCE (R216). -/
def execFence (a : Nat) (s : State) : Host.Outcome State Fault Refusal :=
  .next (s.onAgent a (whileLive (Agent.ctrl 0x05 (Agent.doFence a))))

/-- UNFENCE at an agent (Table 9-4, R355). -/
def Agent.doUnfence (a : Nat) (g : Agent) (b : BitVec 128) : AgentStep :=
  if g.isSwitch then g.reply a 0x06 2 0 0 else
  let n := ({ g with keys := putEntry g.keys 17 (g.assignment &&& ~~~(2#256)) } : Agent).assignNotice a
  let k := n.1.fenceAck a (field b 8 32) false 0 0
  (k.1, n.2 ++ k.2)

/-- UNFENCE (R353). -/
def execUnfence (a : Nat) (s : State) : Host.Outcome State Fault Refusal :=
  .next (s.onAgent a (whileLive (Agent.ctrl 0x06 (Agent.doUnfence a))))

/-- Resend kept partial sums, each as a new packet of its current flow (R358). -/
def Agent.resendSums (a : Nat) : List Pkt → Agent → AgentStep
  | [], g => (g, [])
  | p :: r, g =>
    let one := g.offer a p g.resendUs none
    let more := Agent.resendSums a r one.1
    (more.1, one.2 ++ more.2)

/-- COLL_RETRY at an agent (R358): kept partial sums for COLL_ID, STEP and TARGET go again, and a retry notice is
posted; a switch only replies. -/
def Agent.doRetry (a : Nat) (g : Agent) (b : BitVec 128) : AgentStep :=
  if g.isSwitch then g.reply a 0x07 0 0 0
  else
    let target := field b 8 18
    let hit (c : ChunkRec) : Bool :=
      c.collId == field b 26 32 && c.step == field b 58 64 && (target == noEid || c.dest == target)
    let sums := (g.chunks.filter hit).filterMap (·.sent)
    let one := Agent.resendSums a sums g
    let two := one.1.notice a 1 [at' 128 0 (field b 26 32) ||| at' 128 32 (field b 58 64) ||| at' 128 96 target]
    let three := two.1.reply a 0x07 0 sums.length 0
    (three.1, one.2 ++ two.2 ++ three.2)

/-- COLL_RETRY (R358). -/
def execCollRetry (a : Nat) (s : State) : Host.Outcome State Fault Refusal :=
  .next (s.onAgent a (whileLive (Agent.ctrl 0x07 (Agent.doRetry a))))

/-- Hold or release one port (Table 9-4, R345, R348). A released port trains at once, but one that is down for a changed
identity stays so until a new discovery (R130). -/
def Agent.holdPort (a : Nat) (on : Bool) (g : Agent) (p : Nat) : AgentStep :=
  let q := g.port p
  if q.instW = 0 then g.changePort a p { q with held := on }
  else if on then g.changePort a p q.hold
  else if q.held then
    if q.shut then g.changePort a p { q with held := false, state := .idChanged, idle := false }
    else
      let r := g.changePort a p { q.training with held := false }
      (r.1, r.2 ++ [.portTrain (.agent a) p])
  else (g, [])

def Agent.holdPorts (a : Nat) (on : Bool) : List Nat → Agent → AgentStep
  | [], g => (g, [])
  | p :: r, g =>
    let one := Agent.holdPort a on g p
    let more := Agent.holdPorts a on r one.1
    (more.1, one.2 ++ more.2)

/-- PORT_HOLD at an agent (Table 9-4): a mask bit for a port that the build does not have is a bad argument. -/
def Agent.doHold (a : Nat) (g : Agent) (b : BitVec 128) : AgentStep :=
  let mask := field b 8 16
  if (List.range 16).any fun i => mask.getLsbD i && g.portCount ≤ i then g.reply a 0x08 2 0 0
  else
    let one := Agent.holdPorts a (b.getLsbD 24) ((List.range 16).filter fun i => mask.getLsbD i) g
    let two := one.1.reply a 0x08 0 0 0
    (two.1, one.2 ++ two.2)

/-- PORT_HOLD (R353). -/
def execPortHold (a : Nat) (s : State) : Host.Outcome State Fault Refusal :=
  .next (s.onAgent a (whileLive (Agent.ctrl 0x08 (Agent.doHold a))))

def Agent.linkEvents (a : Nat) : List Nat → Agent → AgentStep
  | [], g => (g, [])
  | p :: r, g =>
    let one := g.linkEvent a p
    let more := Agent.linkEvents a r one.1
    (more.1, one.2 ++ more.2)

/-- ADMIT at an agent (R357): the stamp is written, and under it each present port that is not both up and identified
is reported. The manual does not order the CTRL_REPLY and these reports; the reply goes first (DESIGN CHOICE, log entry
138). -/
def Agent.doAdmit (a : Nat) (g : Agent) (b : BitVec 128) : AgentStep :=
  let one := ({ g with stamp := field b 8 64 } : Agent).reply a 0x09 0 0 0
  let bad := (one.1.ports.filter fun e => e.2.instW != 0 && !(e.2.isUp && e.2.nbrSeen)).map (·.1)
  let two := Agent.linkEvents a bad one.1
  (two.1, one.2 ++ two.2)

/-- ADMIT (R357). -/
def execCtlAdmit (a : Nat) (s : State) : Host.Outcome State Fault Refusal :=
  .next (s.onAgent a (whileLive (Agent.ctrl 0x09 (Agent.doAdmit a))))

/-- The flows that a FLOW_CLEAR names, seen from one side (R354): by peer, or by group with MCAST 1. -/
def clearMatches (b : BitVec 128) (k : FlowKey) (peer : Eid) : Bool :=
  (b.getLsbD 38 || k.laneKey == field b 26 12) &&
    (if b.getLsbD 41 then k.mcast && k.peer == (field b 42 12).setWidth 18 else !k.mcast && peer == field b 8 18)

/-- FLOW_CLEAR at an agent (R354): matching source records post DISCARDED for each copy, and every matching record is
freed, with its held packets (R102). The reply leaves on the flow as it then stands. -/
def Agent.doClear (a : Nat) (g : Agent) (b : BitVec 128) : AgentStep :=
  let srcHit (f : SrcFlow) : Bool := b.getLsbD 39 && clearMatches b f.key f.key.peer
  let dstHit (d : DstFlow) : Bool := b.getLsbD 40 && clearMatches b d.key d.key.src
  let done := (g.srcs.filter srcHit).flatMap discarded
  let n := (g.srcs.filter srcHit).length + (g.dsts.filter dstHit).length
  let one := Agent.finish a done
    (Agent.trimBuffers { g with srcs := g.srcs.filter fun f => !srcHit f, dsts := g.dsts.filter fun d => !dstHit d })
  let two := one.1.reply a 0x0A 0 n 0
  (two.1, one.2 ++ two.2)

/-- FLOW_CLEAR (R354). -/
def execFlowClear (a : Nat) (s : State) : Host.Outcome State Fault Refusal :=
  .next (s.onAgent a (whileLive (Agent.ctrl 0x0A (Agent.doClear a))))

/-- BRIDGE_SET at an agent (R374): a switch build has no bridge entries, and a reserved bit is a bad argument. -/
def Agent.doBridge (a : Nat) (g : Agent) (b : BitVec 128) : AgentStep :=
  let e := field b 11 64
  if g.isSwitch || field e 50 14 != 0 then g.reply a 0x0B 2 0 0
  else
    let i := (field b 8 3).toNat
    ({ g with bridge := if e.getLsbD 0 then tset g.bridge i e else tdel g.bridge i } : Agent).reply a 0x0B 0 0 0

/-- BRIDGE_SET (R374). -/
def execBridgeSet (a : Nat) (s : State) : Host.Outcome State Fault Refusal :=
  .next (s.onAgent a (whileLive (Agent.ctrl 0x0B (Agent.doBridge a))))

/-- An operation that Table 9-4 does not list, or one with a bit outside its arguments: RESULT 2, no effect (R353). COUNT is
zero, and a malformed TBL_FLIP leaves the count of rejected billets as it is: R356 clears it with the reply to a TBL_FLIP
that acts or is refused (DESIGN CHOICE, log entry 138). -/
def Agent.takeUnlisted (a : Nat) (g : Agent) : AgentStep :=
  match g.nextOrder with
  | some (p, rest) =>
    if !isTable p && ctrlUnlisted (pktTally p) then
      ({ g with inbox := rest } : Agent).reply a (field (pktTally p) 0 8) 2 0 0
    else (g, [])
  | none => (g, [])

/-- UNLISTED_CTRL_OP (R353). -/
def execUnlistedCtrlOp (a : Nat) (s : State) : Host.Outcome State Fault Refusal :=
  .next (s.onAgent a (whileLive (Agent.takeUnlisted a)))

end Sys2Proof.Machine
end

