-- ==== Sys2Proof/Machine/Manager.lean ====
section
/-! DEFINITION. What the manager's procedures are made of: jobs, epoch switches, runs, service states of entries, holds,
fences and the clearing of flows (04_routing.md R166 to R188; 05_heats.md R212 to R222; 06_faults_and_recovery.md R231,
R234 to R238). -/

namespace Sys2Proof

/-- Chrohar ports that face an entry. -/
def InstRecord.chFacing (r : InstRecord) (e : Nat) : List Nat :=
  r.edges.filterMap fun w => match w.far with
    | .chrohar c => if w.sw = e then some c else none
    | _ => none

/-- The entry and port that a Chrohar port faces. -/
def InstRecord.chNbr (r : InstRecord) (c : Nat) : Option (Nat × Nat) :=
  r.edges.findSome? fun w => if w.far = .chrohar c then some (w.sw, w.port) else none

end Sys2Proof

namespace Sys2Proof.Machine

open Sys2Proof

/-! ## Jobs -/

def State.setMgr (s : State) (m : Mgr) : State := { s with mgr := m }

def State.addJob (s : State) (steps : List MStep) (heat : Option Nat) : State :=
  s.setMgr { s.mgr with jobs := s.mgr.jobs ++ [{ steps := steps, waits := [], heat := heat }] }

/-- The steps of an epoch switch (R176); the rounds of R172 come in once the computation has ended. -/
def epochSteps (full : Bool) : List MStep :=
  [.compute full, .wait, .flip, .wait, .drain, .wait, .retire, .wait, .keys, .wait]

/-- A job whose computation is still to end. -/
def Job.computes (j : Job) : Bool := j.waits.any (· matches .compute _) || j.steps.any (· matches .compute _)

/-- A switch that has not flipped yet is under way or due. -/
def Job.willFlip (j : Job) : Bool := j.steps.any (· matches .flip)

/-- The first epoch of a discovery, or of a takeover, is under way. -/
def Job.opensFabric (j : Job) : Bool := j.steps.any fun x => x matches .inService | .takenOver

/-- A change of the model calls for an incremental computation; it joins one that has not ended (R166, R189). One that comes
after the first epoch's loading has begun is for the epoch after it. -/
def State.requestEpoch (s : State) : State :=
  if (s.mgr.fabricState != 2 && !(s.mgr.jobs.any Job.opensFabric)) || s.mgr.jobs.any Job.computes then s
  else s.addJob (epochSteps false) none

/-- Record a heat action (R243, Table 14-4) and post its event, with a journal record (R438). -/
def State.act (s : State) (e : Event) : State :=
  ((s.note 0x1404 (BitVec.ofNat 16 e.code) (leBytes 2 e.heat ++ leBytes 2 e.tenant ++ leBytes 8 e.step)).postHeat e).journal

/-- A trouble has come up. -/
def State.trouble (s : State) (t : Trouble) : State :=
  if s.mgr.troubles.contains t then s else s.setMgr { s.mgr with troubles := s.mgr.troubles ++ [t] }

/-! ## Runs (R186 to R188) -/

/-- A run entry that forwards (Table 4-7); the hop out of a Chrohar port, of a run from the hub, has none. -/
def hopWord (r : Run) (port : Nat) (source active : Bool) : BitVec 32 :=
  at' 32 0 1#1 ||| at' 32 2 (BitVec.ofNat 4 port) ||| at' 32 6 (BitVec.ofNat 4 r.share) |||
    at' 32 10 (BitVec.ofBool (r.transit.isSome || r.bridge)) ||| at' 32 11 (BitVec.ofBool source) |||
    at' 32 12 (BitVec.ofBool active)

/-- A run entry that delivers. -/
def endWord (r : Run) : BitVec 32 := 3#32 ||| at' 32 10 (BitVec.ofBool (r.transit.isSome || r.bridge))

/-- The entries of a run beyond its source. -/
def Run.restItems (r : Run) : List (Nat × BitVec 32) :=
  (r.path.drop 1).map (fun x => (x.1, hopWord r x.2 false false)) ++
    (if r.dest = noEid.toNat then [] else [(r.dest, endWord r)])

def Run.sourceItem (r : Run) (active : Bool) : List (Nat × BitVec 32) :=
  (r.path.take 1).map fun x => (x.1, hopWord r x.2 true active)

/-- Agents that hold an entry of a run, from the source to the end. -/
def Run.agents (r : Run) : List Nat := r.path.map (·.1) ++ (if r.dest = noEid.toNat then [] else [r.dest])

/-- Write run entries at agents that answer. -/
def State.sendRuns (s : State) (id : Nat) (xs : List (Nat × BitVec 32)) : State × List Wait :=
  let live := s.liveEntries
  s.sendAll (fun s x => s.sendRun x.1 id x.2) (xs.filter fun x => live.contains x.1)

/-- Write entries of several runs. -/
def State.eachRun (s : State) (ids : List Nat) (f : Run → List (Nat × BitVec 32)) : State × List Wait :=
  s.sendAll (fun s id => match tget s.mgr.runs id with
    | some r => s.sendRuns id (f r)
    | none => (s, [])) ids

/-- Runs leave the model: their shares and RUN_IDs are free. -/
def State.dropRuns (s : State) (ids : List Nat) : State :=
  let keep (h : Heat) : Heat := { h with runs := h.runs.filter fun i => !ids.contains i }
  s.setMgr { s.mgr with
    runs := s.mgr.runs.filter fun r => !ids.contains r.1
    heats := tmap (fun _ h => keep h) s.mgr.heats }

/-- R186, after the shares are reserved. -/
def setUp (ids : List Nat) : List MStep := if ids.isEmpty then [] else [.runsRest ids, .wait, .runsSource ids, .wait]

/-- R187. -/
def tearDown (ids : List Nat) : List MStep :=
  if ids.isEmpty then [] else [.runsStop ids, .wait, .awaitTeardown, .wait, .runsClear ids, .wait]

/-- Runs of a heat. -/
def State.runsOf (s : State) (no : Nat) : List Nat := (s.mgr.runs.filter fun r => r.2.heat == no).map (·.1)

/-! ## Entries (R235 to R238, Table 6-4) -/

def Entry.fresh : Entry :=
  { service := .outOfService, stamp := none, reached := false, absent := false, refused := false, left := []
    serialLo := none, resetOnce := false, boundary := false, root := 0, hubless := false }

def State.entry (s : State) (e : Nat) : Entry := (tget s.mgr.entries e).getD Entry.fresh

def State.modEntry (s : State) (e : Nat) (f : Entry → Entry) : State :=
  s.setMgr { s.mgr with entries := tset s.mgr.entries e (f (s.entry e)) }

/-- Code of a service state (Table 6-4, from 0). -/
def Service.code : Service → Nat
  | .inService => 0 | .failedForwarding => 1 | .outOfService => 2 | .repairHeld => 3

/-- An entry's service state changes, with its event (Table 10-7b) and a journal record (R438). -/
def State.setService (s : State) (e : Nat) (v : Service) : State :=
  if (s.entry e).service = v then s
  else
    ((s.modEntry e fun x => { x with service := v }).postPf
      { code := 0x0102, heat := 0, tenant := 0, step := 0, detail := leBytes 2 e ++ leBytes 1 v.code }).journal

/-- The heat that an endpoint belongs to, by its number. -/
def State.heatOfEntry (s : State) (e : Nat) : Option (Nat × Heat) :=
  s.mgr.record.bind fun r => s.mgr.heats.find? fun h => (h.2.members r).contains e

/-- Agent ports that face an entry. -/
def Net.facingPorts (n : Net) (e : Nat) : List Hop :=
  (List.range n.r.agents.length).flatMap fun f =>
    ((List.range (if n.r.isSwitch f then 16 else 8)).filter fun p => f != e && n.facing f p == some e).map fun p => (f, p)

/-! ## Holds -/

/-- Hold a Chrohar port with STATE 5. -/
def State.holdCh (s : State) (p : Nat) : State :=
  if (tget s.link.ports p).isNone then s
  else
    ({ s with link := s.link.setPort p (s.link.port p).hold } : State).emit
      (idleChange .chrohar p (s.link.port p) (s.link.port p).hold)

/-- Release a held Chrohar port: it trains again, but one that is down for a changed identity stays so until a new discovery
(R130). -/
def State.releaseCh (s : State) (p : Nat) : State :=
  if !(s.link.port p).held then s
  else
    let q := { s.link.port p with held := false, state := if (s.link.port p).shut then .idChanged else .untrained }
    ({ s with link := s.link.setPort p q } : State).startTraining .chrohar p

/-- PORT_HOLD for some ports of agents, by one operation to each agent that answers (Table 9-4). -/
def State.holdPorts (s : State) (ports : List Hop) (on : Bool) : State × List Wait :=
  let live := s.liveEntries
  let agents := ((ports.map (·.1)).eraseDups).filter live.contains
  s.sendAll (fun s f =>
    let mask := maskOf ((ports.filter fun x => x.1 == f).map (·.2))
    (s.sendCtrl f 0x08 (at' 128 8 mask ||| at' 128 24 (BitVec.ofBool on)), [.reply f 0x08])) agents

/-- The agents' ports of a list of hops are down in the model. -/
def State.portsDown (s : State) (ports : List Hop) : State :=
  s.setMgr { s.mgr with widths := ports.foldl (fun t x => tset t (16 * x.1 + x.2) 0) s.mgr.widths }

/-- Hold, or release, every port that faces an entry (R236, R249). -/
def State.holdFacing (s : State) (e : Nat) (on : Bool) : State :=
  match s.net with
  | none => s
  | some n =>
    let ports := n.facingPorts e
    let s := (s.holdPorts ports on).1.portsDown ports
    (n.r.chFacing e).foldl (fun s p => if on then s.holdCh p else s.releaseCh p) s

/-- Nothing waits any more for an entry that does not answer. -/
def Wait.names (e : Nat) : Wait → Bool
  | .ack f _ => f == e
  | .reply f _ => f == e
  | .unfenced f => f == e
  | .page f => f == e
  | .handover f => f == e
  | _ => false

def State.dropWaits (s : State) (e : Nat) : State :=
  let m := s.mgr
  s.setMgr { m with
    jobs := m.jobs.map fun j => { j with waits := j.waits.filter fun w => !w.names e }
    fencings := m.fencings.map fun f => { f with waits := f.waits.filter fun w => !w.names e } }

/-- Take an entry out of service (R228, R236, R249): its stamp is void, every port that faces it is held, and the routes
are computed without it; the third leaving within 10 minutes holds it for repair. -/
def State.takeOut (s : State) (e : Nat) (repair : Bool) (counts : Bool) : State :=
  let now := s.opS
  let left := ((s.entry e).left.filter fun t => now < t + 600) ++ [now]
  let s := s.modEntry e fun x => { x with stamp := none, left := left }
  let s := s.setService e (if repair || (counts && 3 ≤ left.length) then .repairHeld else .outOfService)
  let s := s.dropHubFlows (fun f => f.key.peer.toNat == e && f.key.laneKey == mgrKey && !f.key.mcast) (fun _ => false)
  ((s.dropWaits e).holdFacing e true).requestEpoch

/-! ## Fences (R216 to R219, R234) -/

/-- The lane key entries that face an entry, as Table 5-5 now gives them, and the ACKs to wait for (R218). -/
def State.sendBoundary (s : State) (e : Nat) : State × List Wait :=
  match s.net with
  | none => (s, [])
  | some n =>
    let live := s.liveEntries
    s.sendAll (fun s x =>
      s.sendKey x.1 x.2 (keyEntryOf (n.allowed s.mgr.runs s.fencedEntries s.boundaryEntries x.1 x.2)))
      ((n.facingPorts e).filter fun x => live.contains x.1)

/-- Put a fence in place of the one with its number. -/
def State.putFencing (s : State) (f : Fencing) : State :=
  s.setMgr { s.mgr with fencings := s.mgr.fencings.map fun g => if g.seq = f.seq then f else g }

def State.dropFencing (s : State) (seq : BitVec 32) : State :=
  s.setMgr { s.mgr with fencings := s.mgr.fencings.filter fun g => g.seq != seq }

/-- The source of a group is told that a position of it is fenced, or that the fence is lifted (R108): the hub's own records
change at once, and a rank is sent a notice. -/
def State.noticeGroup (s : State) (r : InstRecord) (h : Heat) (no : Nat) (g : PlanGroup) (pos : Nat) (lifted : Bool) : State :=
  match g.sender with
  | none =>
    (s.hub.srcs.filter fun f => f.key.mcast && f.key.peer.toNat == no).foldl
      (fun s f => s.hubLaunch (srcFence f pos lifted)) s
  | some rank =>
    match h.entryOf r rank with
    | some source => s.emit [.fenceNotice source (BitVec.ofNat 12 no) pos lifted]
    | none => s

/-- Every source of the groups that an endpoint has a position in hears of its fence, or of its end (R108, R219, R220). -/
def State.fenceGroups (s : State) (no e : Nat) (lifted : Bool) : State :=
  match s.mgr.record, tget s.mgr.heats no with
  | some r, some h =>
    (s.mgr.groups.filter fun g => g.2.heat == no).foldl (fun s g =>
      match (lineCells h g.2.line).find? fun c => r.at c == some e with
      | none => s
      | some c => s.noticeGroup r h g.1 g.2.line (Pos.on c g.2.line.axis) lifted) s
  | _, _ => s

/-- An acknowledged fence takes the rank out of every delivery set of its heat (R219, R259, R289). -/
def State.dropRank (s : State) (no rank : Nat) : State :=
  let add (l : List Nat) : List Nat := if l.contains rank then l else l ++ [rank]
  let step (x : HubStep) : HubStep := if x.heat = no then { x with out := add x.out } else x
  let bar (b : Barrier) : Barrier := if b.heat = no then { b with out := add b.out } else b
  let s := s.setHub { s.hub with steps := s.hub.steps.map step, barriers := s.hub.barriers.map bar }
  let s := (s.hub.barriers.filter fun b => b.heat == no).foldl (fun s b => s.checkBarrier no b.barrier) s
  let s := (s.hub.steps.filter fun x => x.heat == no).foldl (fun s x => match s.descOf no x.collId with
    | some d => s.checkFenced no d x.step.toNat
    | none => s) s
  (s.checkSource no rank).endReady

/-- A fence is acknowledged (R219): the command is answered, and a lost endpoint's heat is decided. One of a heat that has
been released meanwhile, also where its number now names another heat, ends with S_ABORTED (Table 5-10). -/
def State.fenceDone (s : State) (f : Fencing) : State :=
  let s := s.dropFencing f.seq
  let answer (s : State) (a : Ans) : State := match f.cmd with
    | some id => s.finish id a
    | none => s
  match s.mgr.record, (tget s.mgr.heats f.heat).filter fun h => h.seq == f.carve with
  | some r, some h =>
    if h.fenced.contains f.entry then answer s (fail sFenced)
    else
      let s := s.modHeat f.heat fun h => { h with fenced := h.fenced ++ [f.entry] }
      let keys := tset ((tget s.mgr.loadedKeys f.entry).getD []) 16 0
      let keys := tset keys 17 (((tget keys 17).getD 0) ||| 2#256)
      let s := s.setMgr { s.mgr with loadedKeys := tset s.mgr.loadedKeys f.entry keys }
      let s := s.fenceGroups f.heat f.entry false
      let s := match h.rankOf r f.entry with
        | some k => s.dropRank f.heat k
        | none => s
      let s := answer s (if s.mgr.jobs.any fun j => j.steps.any fun x => match x with
          | .released no _ _ => no == f.heat
          | _ => false then fail sAborted else ok [])
      match f.lost with
      | none => s
      | some suspect =>
        let s := if (s.entry f.entry).service = .inService then s.setService f.entry .failedForwarding else s
        s.trouble (.lost f.entry suspect)
  | _, _ => answer s (fail sAborted)

/-- Fences at the boundary whose loads are all acknowledged. -/
def State.boundariesDone (s : State) : State :=
  (s.mgr.fencings.filter fun f => f.boundary && f.waits.isEmpty).foldl State.fenceDone s

/-- A fence goes by the boundary (R218). -/
def State.toBoundary (s : State) (f : Fencing) : State :=
  let s := s.modEntry f.entry fun x => { x with boundary := true }
  let r := s.sendBoundary f.entry
  (r.1.putFencing { f with boundary := true, waits := r.2 }).boundariesDone

/-- Begin a fence of an endpoint of a heat (R216): by its agent, or, when the agent does not answer, at the boundary.
A manager's fence has a journal record (R438), and a fence starts an incremental computation (R166). -/
def State.startFence (s : State) (e no : Nat) (cmd : Option Nat) (lost : Option Bool) : State :=
  let seq := s.mgr.fenceSeq + 1
  let carve := ((tget s.mgr.heats no).map (·.seq)).getD 0
  let f : Fencing :=
    { seq := seq, entry := e, heat := no, carve := carve, cmd := cmd, lost := lost, boundary := false, waits := [] }
  let s := (s.setMgr { s.mgr with fenceSeq := seq, fencings := s.mgr.fencings ++ [f] }).journal.requestEpoch
  if s.liveEntries.contains e then s.sendCtrl e 0x05 (at' 128 8 seq) else s.toBoundary f

/-- An endpoint of a heat is lost (R234): it is fenced at once if it is not, and its heat is decided once it is. -/
def State.loseEndpoint (s : State) (e : Nat) (suspect : Bool) : State :=
  match s.heatOfEntry e with
  | none => s
  | some (no, h) =>
    if h.fenced.contains e then
      (if (s.entry e).service = .inService then s.setService e .failedForwarding else s).trouble (.lost e suspect)
    else
      match s.mgr.fencings.find? fun f => f.entry == e with
      | some f => s.putFencing { f with lost := some (suspect || f.lost.getD false) }
      | none => s.startFence e no none (some suspect)

/-- A switch whose loading has begun is computed and loaded again when an agent has stopped answering (R175). -/
def Job.reload (j : Job) : Job :=
  if j.willFlip && !j.computes then
    { j with steps := [.compute false, .wait] ++ j.steps.dropWhile (fun x => !(x matches .flip)) }
  else j

/-- An agent no longer answers (R175, R178, R218, R234, R236). An endpoint whose unfence it does not confirm is fenced again, at
the boundary (R220). A fence whose notice the agent has acknowledged and whose FENCE_ACK never comes waits for it: R218 gives that
wait no end (DESIGN CHOICE, log entry 175). -/
def State.unreachable (s : State) (e : Nat) : State :=
  if (s.entry e).service == .outOfService || (s.entry e).service == .repairHeld then s.dropWaits e
  else
    let undo : List Nat := s.mgr.jobs.flatMap fun j =>
      if j.waits.contains (.unfenced e) then j.steps.filterMap fun x => match x with
        | .unfenced _ _ (some id) => some id
        | _ => none
      else []
    let back := s.mgr.jobs.any fun j => j.waits.contains (.unfenced e)
    let cut (j : Job) : Job :=
      if j.waits.contains (.unfenced e) then { j with steps := j.steps.filter fun x => !(x matches .unfenced _ _ _) } else j
    let s := s.setMgr { s.mgr with jobs := s.mgr.jobs.map cut }
    let s := undo.foldl (fun s id => s.finish id (fail sBusy)) s
    let s := s.setMgr { s.mgr with jobs := s.mgr.jobs.map Job.reload }
    let s := s.takeOut e false true
    let s := (s.mgr.fencings.filter fun f => f.entry == e && !f.boundary).foldl State.toBoundary s
    let s := match back, s.heatOfEntry e with
      | true, some (no, _) => s.modHeat no fun h => { h with fenced := h.fenced.filter (· != e) }
      | _, _ => s
    s.loseEndpoint e false

/-! ## Clearing flows (R231, R220, R221) -/

/-- FLOW_CLEAR at some members of a heat, for every flow with some peers, on one side. -/
def State.clearPeers (s : State) (h : Heat) (agents peers : List Nat) (dst : Bool) : State × List Wait :=
  let live := s.liveEntries
  let units := hubUnits.map s.unitEid
  s.sendAll (fun s e =>
    let args := (peers.filter (· != e)).map (fun f => clearArgs (BitVec.ofNat 18 f) 0 true (!dst) dst none) ++
      units.map fun u => clearArgs u (tenantKey h.tenant) false (!dst) dst none
    (args.foldl (fun s a => s.sendCtrl e 0x0A a) s, args.map fun _ => .reply e 0x0A)) (agents.filter live.contains)

/-- A hub flow record of a heat: its peer is a member, under the tenant's key, or its group is one of the heat's. -/
def State.hubFlowOf (s : State) (no : Nat) (h : Heat) (members : List Nat) (k : FlowKey) (peer : Eid) : Bool :=
  if k.mcast then (tget s.mgr.groups k.peer.toNat).any fun g => g.heat == no
  else k.laneKey == tenantKey h.tenant && members.contains peer.toNat

/-- Free the hub's records of a heat's flows, on one side (R88). -/
def State.clearHub (s : State) (no : Nat) (dst : Bool) : State :=
  match s.mgr.record, tget s.mgr.heats no with
  | some r, some h =>
    let ms := h.members r
    s.dropHubFlows (fun f => !dst && s.hubFlowOf no h ms f.key f.key.peer) (fun d => dst && s.hubFlowOf no h ms d.key d.key.src)
  | _, _ => s

/-- Group flows of a heat at its members, on one side. -/
def State.clearGroups (s : State) (no : Nat) (members : List Nat) (dst : Bool) : State × List Wait :=
  let live := s.liveEntries
  let groups := (s.mgr.groups.filter fun g => g.2.heat == no).map (·.1)
  s.sendAll (fun s e =>
    (groups.foldl (fun s g => s.sendCtrl e 0x0A (clearArgs 0 0 true (!dst) dst (some (BitVec.ofNat 12 g)))) s,
      groups.map fun _ => .reply e 0x0A)) (members.filter live.contains)

/-- Clear one side of every flow of a heat (R231, R241). -/
def State.clearSide (s : State) (no : Nat) (dst : Bool) : State × List Wait :=
  match s.mgr.record, tget s.mgr.heats no with
  | some r, some h =>
    let ms := h.members r
    let one := (s.clearHub no dst).clearPeers h ms ms dst
    let two := one.1.clearGroups no ms dst
    (two.1, one.2 ++ two.2)
  | _, _ => (s, [])

/-- Group flows that an endpoint sources are cleared at both ends, and what it holds as a position of other groups is cleared at
its own agent; their sources bring it in again by MRESYNC (R88, R562). -/
def State.clearOwnGroups (s : State) (r : InstRecord) (h : Heat) (no e : Nat) : State × List Wait :=
  let live := s.liveEntries
  let clear (s : State) (f g : Nat) (src dst : Bool) : State × List Wait :=
    (s.sendCtrl f 0x0A (clearArgs 0 0 true src dst (some (BitVec.ofNat 12 g))), [.reply f 0x0A])
  s.sendAll (fun s g =>
    let own := (g.2.line.sender.bind (h.entryOf r)) == some e
    s.sendAll (fun s f => if own || f == e then clear s f g.1 (f == e) true else (s, []))
      ((h.members r).filter live.contains)) (s.mgr.groups.filter fun g => g.2.heat == no)

/-- Clear, everywhere in its heat, every flow of which one endpoint is source or destination (R88, R220). -/
def State.clearRank (s : State) (no e : Nat) : State × List Wait :=
  match s.mgr.record, tget s.mgr.heats no with
  | some r, some h =>
    let key := tenantKey h.tenant
    let s := s.dropHubFlows (fun f => f.key.laneKey == key && !f.key.mcast && f.key.peer.toNat == e)
      (fun d => d.key.laneKey == key && d.key.src.toNat == e)
    let live := s.liveEntries
    let others := (h.members r).filter fun f => f != e && live.contains f
    let args := clearArgs (BitVec.ofNat 18 e) 0 true true true none
    let one := s.sendAll (fun s f => (s.sendCtrl f 0x0A args, [.reply f 0x0A])) others
    let two := one.1.clearPeers h [e] (h.members r) true
    let three := two.1.clearPeers h [e] (h.members r) false
    let four := three.1.clearOwnGroups r h no e
    (four.1, one.2 ++ two.2 ++ three.2 ++ four.2)
  | _, _ => (s, [])

end Sys2Proof.Machine
end

