-- ==== Sys2Proof/Machine/Rescue.lean ====
section
/-! DEFINITION. What the manager does about trouble: failed flows, retries, rollback, restart and splices
(06_faults_and_recovery.md R229 to R247). -/

namespace Sys2Proof

/-- The declared spare on the line of a position. -/
def InstRecord.spareFor (r : InstRecord) (c : Pos) : Option Nat :=
  match r.spares with
  | .none => none
  | .row a _ => (((List.range (r.extent a)).map (Pos.put c a)).find? r.isSpare).bind r.at
  | .plane a k => r.at (Pos.put c a k)

end Sys2Proof

namespace Sys2Proof.Machine

open Sys2Proof

/-! ## What a heat stands on (Table 6-5 rows 1 to 3) -/

/-- Positions of a heat whose own endpoint carries a rank. -/
def Heat.carried (h : Heat) (r : InstRecord) : List Pos :=
  h.cells.filter fun c => (r.at c).any fun e => (h.rankOf r e).isSome

/-- Positions that the bridging runs of a lost position join to a spare (R240, R244). -/
def Net.bridged (n : Net) (h : Heat) (c : Pos) : List Pos := (h.carried n.r).filter fun d => n.adjacent h d c

/-- A run of a heat joins two endpoints of a splice. -/
def State.hasBridge (s : State) (no src dst : Nat) : Bool :=
  s.mgr.runs.any fun r => r.2.heat == no && r.2.bridge && r.2.dest == dst && r.2.path.head?.any fun x => x.1 == src

/-- Every splice of a heat has its bridging runs. -/
def State.bridgesStand (s : State) (n : Net) (no : Nat) (h : Heat) : Bool :=
  h.splices.all fun x => (n.bridged h (h.cellOf x.1)).all fun d => (n.r.at d).any fun e =>
    s.hasBridge no e x.2 && s.hasBridge no x.2 e

/-- Row 2 of Table 6-5: every pair has a route, every endpoint has its hub path, and every closure that the plan uses
stands. The endpoints that are lost are judged by rows 4 to 6, and a spare that is being spliced in counts for its rank. -/
def State.heatStands (s : State) (n : Net) (no : Nat) (h : Heat) : Bool :=
  let g := { h with spliced := h.splices, joining := none }
  let serves (e : Nat) : Bool := (s.entry e).service == .inService
  let cs := (g.carried n.r).filter fun c => (n.r.at c).any serves
  (cs.all fun c => cs.all fun d => (n.route (some h) c d).isSome) &&
    (((g.carriers n.r).filter serves).all n.hubPath) && (h.plan.all fun p => ringsOk h p.image.ringNeed) &&
    s.bridgesStand n no h

/-- Every endpoint that carries a rank is in service (Table 6-5 row 1). -/
def State.allServe (s : State) (r : InstRecord) (h : Heat) : Bool :=
  (h.carriers r).all fun e => (s.entry e).service == .inService

/-- The heat has a plan that runs, or is being recovered. -/
def Heat.active (h : Heat) : Bool := (h.plan.any fun p => !p.held) && (h.state == 1 || h.state == 2)

/-- There is a saved step all of whose pages can be read (R434). -/
def State.savedReadable (s : State) (p : Plan) : Bool :=
  p.lastSaved.isSome && (List.range 16).all fun k => nth p.place.save k == 0 || !s.mem.held .c k

/-! ## Ending an action in progress (R242) -/

/-- The splice that a recovery action of a heat is about to finish. -/
def Job.splicing (j : Job) : Option (Nat × Nat) :=
  j.steps.findSome? fun x => match x with
    | .spliced _ rank spare _ => some (rank, spare)
    | _ => none

/-- The runs of a splice. -/
def State.bridgeRuns (s : State) (no spare : Nat) : List Nat :=
  (s.mgr.runs.filter fun r => r.2.heat == no && r.2.bridge &&
    (r.2.dest == spare || r.2.path.head?.any fun x => x.1 == spare)).map (·.1)

/-- What an epoch switch that a procedure has begun still needs (R176). -/
def Job.switchOnly (j : Job) : Option Job :=
  if j.steps.contains .keys then
    some { steps := j.steps.takeWhile (fun x => !(x matches .keys)) ++ [.keys, .wait], waits := j.waits, heat := none }
  else none

/-- A splice that is not complete is torn down (R253). -/
def State.endJoining (s : State) (no rank spare : Nat) : State :=
  let ids := s.bridgeRuns no spare
  (s.addJob ([.bridges no rank spare false, .wait] ++ tearDown ids ++ epochSteps false) none).modHeat no fun h =>
    { h with joining := none }

/-- Abandon a heat's recovery action; a splice that is not complete is torn down, and an epoch switch that has begun goes
on (R242, R253). -/
def State.abandon (s : State) (no : Nat) : State :=
  let mine := s.mgr.jobs.filter fun j => j.heat == some no
  let s := s.setMgr { s.mgr with jobs := s.mgr.jobs.filterMap fun j => if j.heat == some no then j.switchOnly else some j }
  match mine.findSome? Job.splicing with
  | none => s
  | some (rank, spare) => s.endJoining no rank spare

/-! ## Actions -/

/-- A heat stops (R241, R243): its last saved step is kept. -/
def State.stopHeat (s : State) (no : Nat) (status : BitVec 16) : State :=
  match tget s.mgr.heats no with
  | none => s
  | some h =>
    let r := ((s.abandon no).abortSteps no).keepLast no
    (r.1.modHeat no fun h => { h with state := 3, keptId := r.2 }).act
      { code := 0x0007, heat := no, tenant := h.tenant, step := ((h.plan.bind (·.lastSaved)).map (·.step)).getD 0
        detail := bvBytes status ++ leBytes 6 0 ++ leBytes 8 r.2 }

/-- A command enters the heat queue (R193, R198). -/
def State.enqueueHeat (s : State) (op : HeatOp) (cmd : Option Nat) : State :=
  let m := s.mgr
  s.setMgr { m with
    queue := m.queue ++ [{ op := op, seq := m.heatSeq, cmd := cmd, records := s.cfg.live.tenants }], heatSeq := m.heatSeq + 1 }

/-- A release of the heat is in the queue or under way. -/
def State.releasing (s : State) (no : Nat) : Bool :=
  (s.mgr.queue.any fun q => match q.op with
    | .release h _ => h == no
    | _ => false) || s.mgr.jobs.any fun j => j.steps.any fun x => match x with
      | .released h _ _ => h == no
      | _ => false

/-- The request of a heat, to be placed anywhere (R241). -/
def anywhere (w : BitVec 64) : BitVec 64 := putField w 37 0#13

/-- Restart on a new heat (R241). -/
def State.restart (s : State) (no : Nat) : State :=
  match tget s.mgr.heats no with
  | none => s
  | some h =>
    match h.plan with
    | none => s
    | some p =>
      if s.releasing no then s
      else if !s.savedReadable p then s.stopHeat no sDataError
      else
        let s := (s.abandon no).modHeat no fun h => { h with state := 2 }
        (s.enqueueHeat (.release no true) none).enqueueHeat
          (.carve (anywhere h.codes) (some { heat := no, savedId := 0, plan := p })) none

/-- The switch for a change of the model: none of its own where a computation is still to end, for the change joins it (R166). -/
def State.joining (s : State) : List MStep := if s.mgr.jobs.any Job.computes then [] else epochSteps false

/-- A switch that confirms every retirement before flows are cleared (R231): one that is due serves. -/
def State.confirming (s : State) : List MStep := if s.mgr.jobs.any Job.willFlip then [] else epochSteps false

/-- Tear runs down and set them up again, with DRAIN_US between (R231). -/
def State.renewRuns (s : State) (ids : List Nat) : List MStep :=
  if ids.isEmpty then []
  else
    [.runsStop ids, .wait, .awaitTeardown, .wait] ++
      (ids.map fun id => MStep.runsTrim id (((tget s.mgr.runs id).map Run.agents).getD [])) ++
      [.wait, .drain, .wait] ++ setUp ids

/-- The steps that restore a heat once its work has ended (R241): its runs are renewed, and every flow of it is cleared under
R231. -/
def State.restoring (s : State) (no : Nat) (post : Bool) : List MStep :=
  s.confirming ++ s.renewRuns (s.runsOf no) ++ [.clearDst no, .wait, .clearSrc no, .wait, .resume no post]

/-- One more rollback to the last saved step (R242). -/
def Heat.rolled (h : Heat) : Nat × Nat :=
  let step := ((h.plan.bind (·.lastSaved)).map (·.step)).getD 0
  if h.rollback.1 = step then (step, h.rollback.2 + 1) else (step, 1)

/-- Roll back in place, or restart when the same saved step comes back a third time (R241, R242). -/
def State.rollBack (s : State) (no : Nat) : State :=
  match tget s.mgr.heats no with
  | none => s
  | some h =>
    if 3 ≤ h.rolled.2 then s.restart no
    else if !(h.plan.all fun p => s.savedReadable p) then s.stopHeat no sDataError
    else
      let s := ((s.abandon no).abortSteps no).modHeat no fun h =>
        { h with state := 2, rollback := h.rolled, retries := [], fails := [], restore := true }
      s.addJob (s.restoring no true) (some no)

/-- The heat's state is restored, and its plan resumes at the step after the saved one (R241). -/
def State.resumePlan (s : State) (no : Nat) (post : Bool) : State :=
  match tget s.mgr.heats no, (s.planOf no).bind (·.lastSaved) with
  | some h, some x =>
    let s := (s.modPlan no fun p => p.restore x).modHeat no fun h => { h with state := 1, restore := false }
    let s := match s.planOf no with
      | some p => s.openPlan no p x.step
      | none => s
    if post then s.act { code := 0x0005, heat := no, tenant := h.tenant, step := x.step, detail := [] } else s
  | _, _ => s

/-! ## Splices (R240, R244) -/

/-- The whole pod as a box. -/
def Net.podBox (n : Net) : Heat :=
  carveHeat (at' 64 10 (BitVec.ofNat 5 n.r.ex) ||| at' 64 15 (BitVec.ofNat 5 n.r.ey) ||| at' 64 20 (BitVec.ofNat 5 n.r.ez))
    0 (0, 0, 0) []

/-- A position may be crossed (R203). -/
def Net.crossable (n : Net) (hostOk : Nat → Bool) (h : Heat) (e : Nat) : Bool :=
  !n.out.contains e && match n.r.posOf e with
    | none => false
    | some c => h.holds c || (n.heatAt c).all fun g => hostOk g.tenant

/-- The path of a bridging run, with share 2 (R183, R203, R240). -/
def Net.bridgePath (n : Net) (runs : Tab Run) (hostOk : Nat → Bool) (h : Heat) (c d : Pos) : Option (List Hop) :=
  let paths := (n.runPaths n.podBox c d).filter fun p => p.all fun x => n.crossable hostOk h x.1
  (n.bestPath runs paths).bind fun p => if 2 ≤ n.bottleneck runs p then some p else none

/-- Place one bridging run. -/
def Net.addBridge (n : Net) (hostOk : Nat → Bool) (no : Nat) (h : Heat) (runs : Tab Run) (c d : Pos) : Option (Tab Run) :=
  match n.bridgePath runs hostOk h c d, n.r.at d with
  | some p, some e =>
    if 4096 ≤ runs.length then none
    else some (tset runs (lowestFree runs 4096 0)
      { heat := no, tenant := h.tenant, transit := none, bridge := true, share := 2, path := p, dest := e })
  | _, _ => none

/-- The two bridging runs of each neighbour of a position, to and from a spare. -/
def Net.addBridges (n : Net) (hostOk : Nat → Bool) (no : Nat) (h : Heat) (spare : Pos) : List Pos → Tab Run → Option (Tab Run)
  | [], t => some t
  | c :: r, t =>
    ((n.addBridge hostOk no h t c spare).bind fun t => n.addBridge hostOk no h t spare c).bind fun t =>
      n.addBridges hostOk no h spare r t

/-- R240: the spare and the runs with the bridging runs placed. -/
def State.spliceFor (s : State) (n : Net) (no : Nat) (h : Heat) (e : Nat) : Option (Nat × Tab Run) :=
  let hostOk (t : Nat) : Bool := recHostOk (tenantRec s.cfg.live.tenants t)
  match h.plan, n.r.posOf e with
  | some p, some c =>
    if !p.image.spliceOk || h.lost != [e] || (s.mgr.runs.any fun r => r.2.heat == no && r.2.transit.isSome &&
        r.2.path.head?.any fun x => x.1 == e) then none
    else
      match n.r.spareFor c with
      | none => none
      | some sp =>
        match n.r.posOf sp with
        | none => none
        | some sc =>
          if sp == e || (s.entry sp).service != .inService || (s.heatOfEntry sp).isSome || !n.hubPath sp then none
          else (n.addBridges hostOk no h sc (n.bridged h c) s.mgr.runs).map fun t => (sp, t)
  | _, _ => none

/-- Splice a spare for a lost endpoint (R244): the bridging runs, and the routes and keys that go with them, are placed in the
model, and the steps follow; the hub takes the spare for the rank at step 7 alone. -/
def State.splice (s : State) (no rank spare : Nat) (runs : Tab Run) (rollback : Bool) : State :=
  let old := s.runsOf no
  let s := s.setMgr { s.mgr with runs := runs }
  let s := s.modHeat no fun h => { h with state := 2, joining := some (rank, spare) }
  let s := if rollback then (s.abortSteps no).modHeat no fun h => { h with
        rollback := h.rolled, retries := [], fails := [], restore := true }
    else s
  let more : List MStep :=
    if rollback then s.renewRuns old ++ [.clearDst no, .wait, .clearSrc no, .wait, .resume no false] else []
  s.addJob (s.joining ++ setUp (s.bridgeRuns no spare) ++
    [.bridges no rank spare true, .wait, .assignTo no spare, .wait, .spliced no rank spare rollback] ++ more) (some no)

/-- SPLICED (R243). -/
def State.spliceEvent (s : State) (no : Nat) (h : Heat) (rank spare step : Nat) : State :=
  let strap := ((s.mgr.record.bind fun r => r.agents[spare]?).map (·.strap)).getD 0
  s.act { code := 0x0004, heat := no, tenant := h.tenant, step := step
          detail := leBytes 2 rank ++ leBytes 2 0 ++ leBytes 4 spare ++ bvBytes strap }

/-- Send the heat's current weights to a spare as STATE billets (R246): those of each chunk from its Hearth, cut into PARTs as
a chunk's weights are (R564). -/
def State.sendState (s : State) (no spare : Nat) : State :=
  match s.forgeOf no with
  | none => s
  | some f =>
    (List.range f.desc.chunks).foldl (fun s c =>
      let xs := padded f.desc (weightOutputs { f.plan with openStep := f.plan.openStep - 1 } f.desc f.sec c)
      (cut (4096 / fmtBytes f.sec.woutFmt) 8 xs).zipIdx.foldl (fun s x =>
        let payload := codesBytes f.sec.woutFmt (x.1.map (·.code))
        let hdr : BilletHdr := { zeroHdr with
          pfmt := BitVec.ofNat 4 f.sec.woutFmt, plen := resultPlen f.sec.woutFmt payload.length, collId := f.desc.collId
          step := BitVec.ofNat 64 (f.plan.openStep - 1), chunk := BitVec.ofNat 32 c, part := BitVec.ofNat 4 x.2 }
        s.sendResult no (mkBillet (common (tenantKey f.heat.tenant) s.hubEpoch (s.unitEid (0x20 + f.sec.hearthOf c))
          (BitVec.ofNat 18 spare) bState) 0 hdr payload)) s) s

/-- What the steps that are open have sent to a rank before its splice goes to the spare by unicast (Table 6-6): the recompute
orders in force (Table 7-14) and the results of the chunks that are complete. -/
def State.catchUp (s : State) (no : Nat) (h : Heat) (rank resume : Nat) : State :=
  let orders := s.hub.chunks.filter fun c => c.heat == no && resume ≤ c.step.toNat && c.total.isNone
  let s := orders.foldl (fun s c => match c.orderScale, s.descOf no c.collId with
    | some v, some d => s.sendToRanks no h d (0x10 + d.crucible c.chunk) [rank] false (c.orderHdr v) []
    | _, _ => s) s
  (s.hub.steps.filter fun x => x.heat == no && resume ≤ x.step.toNat).foldl (fun s x => match s.descOf no x.collId with
    | some d => (x.given.filter fun g => (resultRanks h d [] g.chunk).contains rank).foldl (fun s g =>
        s.sendToRanks no h d g.unit [rank] false g.hdr g.payload) s
    | none => s) s

/-- Steps 7 and 8 of R244. A step that failed meanwhile is decided now (R242). -/
def State.spliceEnds (s : State) (no rank spare : Nat) (rollback : Bool) : State :=
  let s := s.modHeat no fun h => { h with joining := none, spliced := h.spliced.filter (fun x => x.1 != rank) ++ [(rank, spare)] }
  match tget s.mgr.heats no with
  | none => s
  | some h =>
    let resume := if rollback then ((h.plan.bind (·.lastSaved)).map (·.step + 1)).getD 0
      else match h.plan with
        | some p => s.openStepOf no |> fun k => if k = 0 then p.resume + 1 else k
        | none => 0
    let back (l : List Nat) : List Nat := l.filter (· != rank)
    let step (x : HubStep) : HubStep := if x.heat = no ∧ resume ≤ x.step.toNat then { x with out := back x.out } else x
    let bar (b : Barrier) : Barrier :=
      if b.heat != no then b
      else if resume ≤ b.openStep then { b with out := back b.out }
      else if b.out.contains rank then { b with back := b.back ++ [(rank, resume)] } else b
    let s := s.setHub { s.hub with steps := s.hub.steps.map step, barriers := s.hub.barriers.map bar }
    let s := if rollback then s else ((s.sendState no spare).catchUp no h rank resume).modHeat no fun h => { h with state := 1 }
    let s := if !rollback && h.restore then s.trouble (.changed no) else s
    s.spliceEvent no h rank spare resume

/-! ## Retries (R231 to R233) -/

/-- What a RESEND_FAIL says of its flow (Table 2-12). -/
def Failed.key (f : Failed) : FlowKey :=
  if f.body.getLsbD 90 then { src := f.src, mcast := true, peer := (field f.body 62 12).setWidth 18, laneKey := field f.body 50 12 }
  else { src := f.src, mcast := false, peer := field f.body 32 18, laneKey := field f.body 50 12 }

/-- The endpoints of the splices that are in force: the failed endpoint, whose EID its neighbours keep addressing, and the
spare (R245). -/
def State.aliases (s : State) : List (Nat × Nat) :=
  match s.mgr.record with
  | none => []
  | some r => s.mgr.heats.flatMap fun h => h.2.spliced.filterMap fun x => (r.at (h.2.cellOf x.1)).map fun f => (f, x.2)

/-- The runs of MODE 2 or 3 of an endpoint that may carry a flow: it has the DST_EID that their billets take (R363, R364). -/
def State.ownRuns (s : State) (k : FlowKey) : Tab Run :=
  s.mgr.runs.filter fun r => !r.2.bridge && (r.2.path.head?.any fun x => x.1 == k.src.toNat) &&
    Config.runDest (BitVec.ofNat 12 r.1) == k.peer

/-- The entries at which a unicast flow ends: its destination, a spare in its place, or the ends of the runs it goes by. -/
def State.unicastEnds (s : State) (k : FlowKey) : List Nat :=
  let e := k.peer.toNat
  let own := if isHubEid k.peer || !(s.mgr.record.any fun r => e < r.agents.length) then []
    else [((s.aliases.find? fun x => x.1 == e).map (·.2)).getD e]
  (own ++ ((s.ownRuns k).map (·.2.dest)).filter (· != noEid.toNat)).eraseDups

/-- The entries at which a failed flow ends: its destination, or the positions of FAIL_MASK. -/
def State.failEnds (s : State) (f : Failed) : List Nat :=
  let k := f.key
  if !k.mcast then s.unicastEnds k
  else
    match s.mgr.record, tget s.mgr.groups k.peer.toNat with
    | some r, some g =>
      match tget s.mgr.heats g.heat with
      | some h => (lineCells h g.line).filterMap fun c =>
          if (field f.body 74 16).getLsbD (Pos.on c g.line.axis) then r.at c else none
      | none => []
    | _, _ => []

/-- Every entry at which a flow ends. -/
def State.flowEnds (s : State) (k : FlowKey) : List Nat :=
  if !k.mcast then s.unicastEnds k
  else
    match s.mgr.record, tget s.mgr.groups k.peer.toNat with
    | some r, some g => ((tget s.mgr.heats g.heat).map fun h => (lineCells h g.line).filterMap r.at).getD []
    | _, _ => []

/-- Runs that a flow uses: the run that its billets name, or the bridging run between its ends (R245). -/
def State.runsOn (s : State) (k : FlowKey) : List Nat :=
  if k.mcast then []
  else
    let ends := s.unicastEnds k
    (s.ownRuns k ++ s.mgr.runs.filter fun r => r.2.bridge && ends.contains r.2.dest &&
      r.2.path.head?.any fun x => x.1 == k.src.toNat).map (·.1)

/-- The SRC_EID that a flow carries to one of its ends: a spare answers its neighbours under the EID of the endpoint that it
stands for (R245, R375). -/
def State.srcAt (s : State) (k : FlowKey) (e : Nat) : Eid :=
  match s.aliases.find? fun x => x.2 == k.src.toNat with
  | some x => if s.mgr.runs.any fun r => r.2.bridge && r.2.dest == e && r.2.path.head?.any fun y => y.1 == x.2
      then BitVec.ofNat 18 x.1 else k.src
  | none => k.src

/-- A step of a collective: COLL_ID and STEP. -/
abbrev StepOf := BitVec 32 × BitVec 64

/-- Retries of a step so far. -/
def Heat.retried (h : Heat) (x : StepOf) : Nat :=
  ((h.retries.find? fun y => y.1 == x.1 && y.2.1 == x.2).map (·.2.2)).getD 0

def Heat.countRetry (h : Heat) (x : StepOf) : Heat :=
  { h with retries := (h.retries.filter fun y => !(y.1 == x.1 && y.2.1 == x.2)) ++ [(x.1, x.2, h.retried x + 1)] }

/-- The flow joins endpoints alone. -/
def ranksOnly (k : FlowKey) : Bool := !isHubEid k.src && (k.mcast || !isHubEid k.peer)

/-- Barrier steps that a failed flow to or from the pacer may have lost: the open one of each barrier, to which ranks arrive, and
the one before it, whose release goes out (R289). -/
def State.retriedBarriers (s : State) (no : Nat) (k : FlowKey) : List StepOf :=
  let bars := s.hub.barriers.filter fun b => b.heat == no
  if k.src == s.mgrEid then bars.map fun b => (b.barrier, BitVec.ofNat 64 (b.openStep - 1))
  else bars.map fun b => (b.barrier, BitVec.ofNat 64 b.openStep)

/-- The steps that a failed flow's source sends again (R232): those of the barriers, for a flow to or from the pacer; else those
open at the hub, and, of a flow between endpoints, those of the collectives that pass through no hub unit (R284). The hub keeps
no step of these: the lowest step that it has open stands for theirs, and the plan's first without one (DESIGN CHOICE, log entry
144). -/
def State.retriedSteps (s : State) (no : Nat) (k : FlowKey) : List StepOf :=
  let open' := (s.hub.steps.filter fun x => x.heat == no).map fun x => (x.collId, x.step)
  if k.src == s.mgrEid || (!k.mcast && k.peer == s.mgrEid) then s.retriedBarriers no k else
  let quiet : List StepOf := match s.planOf no with
    | none => []
    | some p =>
      let step := if s.openStepOf no = 0 then p.resume + 1 else s.openStepOf no
      (p.image.colls.filter fun d => d.kind == 3 || (d.kind == 4 && !d.fromHub)).map fun d => (d.collId, BitVec.ofNat 64 step)
  open' ++ (if ranksOnly k then quiet.filter fun x => !open'.contains x else [])

/-- Retry the open steps of a heat after flows have failed on the path (R230 to R233). The failures of an action that a later
trouble abandoned are cleared and sent again with the new ones, and count once (R242). -/
def State.retrySteps (s : State) (no : Nat) (h : Heat) (fails : List Failed) : State :=
  let pending := h.fails ++ fails.filter fun f => !h.fails.contains f
  let keys := (pending.map Failed.key).eraseDups
  let steps := ((fails.map Failed.key).flatMap (s.retriedSteps no)).eraseDups
  match steps.find? fun x => 3 ≤ h.retried x with
  | some x => s.trouble (.step no x.1 x.2 sAborted)
  | none =>
    let s := s.modHeat no fun h => { h with fails := pending }
    let s := steps.foldl (fun s x => (s.modHeat no fun h => h.countRetry x).act
      { code := 0x0003, heat := no, tenant := h.tenant, step := x.2.toNat, detail := bvBytes x.1 }) s
    let clear := keys.flatMap fun k => s.renewRuns (s.runsOn k) ++ [.failDst k (s.flowEnds k), .wait, .failSrc k, .wait]
    s.addJob (s.confirming ++ clear ++ (keys.map fun k => .retry no k) ++ [.retried no]) (some no)

/-- FLOW_CLEAR of one flow at its destinations (R231). -/
def State.clearFailedDst (s : State) (k : FlowKey) (ends : List Nat) : State × List Wait :=
  let s := s.dropHubFlows (fun _ => false) fun d => d.key == k
  let live := s.liveEntries
  let args (e : Nat) : BitVec 128 :=
    clearArgs (s.srcAt k e) k.laneKey false false true (if k.mcast then some (k.peer.setWidth 12) else none)
  s.sendAll (fun s e => (s.sendCtrl e 0x0A (args e), [.reply e 0x0A])) (ends.filter live.contains)

/-- FLOW_CLEAR of one flow at its source (R231). -/
def State.clearFailedSrc (s : State) (k : FlowKey) : State × List Wait :=
  if isHubEid k.src then (s.dropHubFlows (fun f => f.key == k) fun _ => false, [])
  else if s.liveEntries.contains k.src.toNat then
    let args := clearArgs k.peer k.laneKey false true false (if k.mcast then some (k.peer.setWidth 12) else none)
    (s.sendCtrl k.src.toNat 0x0A args, [.reply k.src.toNat 0x0A])
  else (s, [])

/-- COLL_RETRY to the source of a cleared flow; a hub unit sends its kept results again (R232). A failed multicast flow has no
TARGET in R358: the model sends 0x3_FFFF, which resends every kept partial sum (DESIGN CHOICE, log entry 145). -/
def State.retryFlow (s : State) (no : Nat) (k : FlowKey) : State :=
  if isHubEid k.src then
    let again := s.hub.kept.filter fun p => flowKeyOf p == k
    let s := s.setHub { s.hub with kept := s.hub.kept.filter fun p => flowKeyOf p != k }
    again.foldl (fun s p => s.sendResult no p) s
  else
    (s.retriedSteps no k).foldl (fun s x =>
      s.sendCtrl k.src.toNat 0x07 (at' 128 8 (if k.mcast then noEid else k.peer) ||| at' 128 26 x.1 ||| at' 128 58 x.2)) s

/-! ## The decision (Table 6-5) -/

/-- Rows 4 to 6 for the endpoints that a heat has lost (R239, R240); a splice needs a third roll back in a row no more than a
roll back in place (R242). -/
def State.decideLosses (s : State) (n : Net) (no : Nat) (h : Heat) : State :=
  match h.lost with
  | [] => s
  | e :: _ =>
    match h.rankOf n.r e, s.spliceFor n no h e with
    | some rank, some (spare, runs) =>
      let back := h.suspect || !(h.plan.any fun p => p.image.stateless)
      if back && 3 ≤ h.rolled.2 then s.restart no else s.splice no rank spare runs back
    | _, _ => s.restart no

/-- The action of the first row of Table 6-5 that applies to a heat as the model now stands, after flows have failed on the path
(`fails`) or without; an action in progress is abandoned (R239, R242). -/
def State.decideHeat (s : State) (no : Nat) (fails : List Failed) : State :=
  match s.net, tget s.mgr.heats no with
  | some n, some h =>
    if !h.active || s.releasing no then s
    else
      let s := s.abandon no
      let h := (tget s.mgr.heats no).getD h
      if s.allServe n.r h then
        if h.restore then s.rollBack no
        else if !s.heatStands n no h then s.restart no
        else if fails.isEmpty && h.fails.isEmpty then s
        else s.retrySteps no h fails
      else if !s.heatStands n no h then s.restart no
      else s.decideLosses n no h
  | _, _ => s

/-- A lost endpoint whose fence is acknowledged (R234, R253): its agent goes on forwarding (R236), whoever asked for the fence. A
spare that fails in its splice is taken out, and its heat restarts. -/
def State.decideLost (s : State) (e : Nat) (suspect : Bool) : State :=
  match s.mgr.record, s.heatOfEntry e with
  | some r, some (no, h) =>
    if h.joining.any fun x => x.2 == e then
      let s := s.abandon no
      let v := (s.entry e).service
      let s := if v = .inService ∨ v = .failedForwarding then s.takeOut e false true else s
      if !h.active || s.releasing no then s else s.restart no
    else if (h.rankOf r e).isNone then s
    else
      let s := if (s.entry e).service = .inService then s.setService e .failedForwarding else s
      (s.modHeat no fun h => { h with
        lost := if h.lost.contains e then h.lost else h.lost ++ [e], suspect := h.suspect || suspect }).decideHeat no []
  | _, _ => s

/-- A failed step (row 1): the heat rolls back when every endpoint is in service. A step that has ended with its own error ends
no second time (R282, R285). -/
def State.decideStepFailed (s : State) (no : Nat) (collId : BitVec 32) (step : BitVec 64) (status : BitVec 16) : State :=
  match s.mgr.record, tget s.mgr.heats no with
  | some r, some h =>
    if !h.active || s.releasing no then s
    else
      let s := s.modHeat no fun h => { h with restore := true }
      let ended := status != sAborted && h.joining.isNone && s.allServe r h
      (if ended then s.setHub { s.hub with steps := s.hub.steps.filter fun x => !x.is no collId step.toNat } else s).decideHeat
        no []
  | _, _ => s

/-- A recovery action of a heat is in progress. -/
def State.recovers (s : State) (no : Nat) : Bool := s.mgr.jobs.any fun j => j.heat == some no

/-- Decide one trouble. -/
def State.decide (s : State) (t : Trouble) : State :=
  match t with
  | .step no collId step status => s.decideStepFailed no collId step status
  | .lost e suspect => s.decideLost e suspect
  | .changed no =>
    match s.net, tget s.mgr.heats no with
    | some n, some h => if !s.recovers no && !h.restore && s.heatStands n no h then s else s.decideHeat no []
    | _, _ => s
  | .stop no status => if (tget s.mgr.heats no).any Heat.active then s.stopHeat no status else s

/-- Decide every trouble that has come up, in order. -/
def State.decideAll : Nat → State → State
  | 0, s => s
  | fuel + 1, s =>
    match s.mgr.troubles with
    | [] => s
    | t :: r => State.decideAll fuel ((s.setMgr { s.mgr with troubles := r }).decide t)

/-! ## Gathering failed flows (R229) -/

/-- A gather of a heat whose 1 ms is not over takes a further failure. -/
def Gather.takes (g : Gather) (no : Nat) : Bool := g.heat == no && !g.ended

/-- Ask the agent at an end of a failed flow; one that is known not to answer is lost. -/
def State.askEnd (s : State) (no e : Nat) : State :=
  let live := s.liveEntries.contains e
  let put (g : Gather) : Gather :=
    if !g.takes no then g
    else if !live then { g with lost := g.lost ++ [e] } else { g with probing := g.probing ++ [e] }
  let s := s.setMgr { s.mgr with gathers := s.mgr.gathers.map put }
  if live then s.sendCtrl e 0x03 0 else s

/-- One more failed flow of a heat: it joins those of the 1 ms under way, or begins a trouble of its own. -/
def State.gatherFail (s : State) (no : Nat) (f : Failed) : State :=
  let m := s.mgr
  let s := if m.gathers.any fun g => g.takes no then s
    else s.setMgr { m with gathers := m.gathers ++ [{ heat := no, fails := [], probing := [], lost := [], ended := false }] }
  let put (g : Gather) : Gather := if g.takes no then { g with fails := g.fails ++ [f] } else g
  let s := s.setMgr { s.mgr with gathers := s.mgr.gathers.map put }
  (s.failEnds f).foldl (fun s e =>
    if s.mgr.gathers.any fun g => g.takes no && (g.probing.contains e || g.lost.contains e) then s else s.askEnd no e) s

/-- A probed agent has answered, or does not. -/
def State.probeEnds (s : State) (e : Nat) (answered : Bool) : State :=
  let put (g : Gather) : Gather :=
    if g.probing.contains e then
      { g with probing := g.probing.filter (· != e), lost := if answered then g.lost else g.lost ++ [e] }
    else g
  s.setMgr { s.mgr with gathers := s.mgr.gathers.map put }

/-- The gathered set is one trouble (R229): with nobody of the heat lost, the fault lies on the path. -/
def State.gatherEnds (s : State) (g : Gather) : State :=
  let s := s.setMgr { s.mgr with gathers := s.mgr.gathers.erase g }
  match s.mgr.record, tget s.mgr.heats g.heat with
  | some r, some h =>
    let lost := g.lost.filter fun e => (h.rankOf r e).isSome
    if s.releasing g.heat || !h.active then s
    else if !lost.isEmpty then lost.foldl (fun s e => s.loseEndpoint e false) s
    else s.decideHeat g.heat g.fails
  | _, _ => s

def State.gathersDone (s : State) : State :=
  (s.mgr.gathers.filter fun g => g.ended && g.probing.isEmpty).foldl State.gatherEnds s

end Sys2Proof.Machine
end

