-- ==== Sys2Proof/Machine/Discovery.lean ====
section
/-! DEFINITION. Discovery: forget, the queries of R136, reconciliation with the installation record and the checks of
peer links (03_discovery_topology.md R131 to R146). -/

namespace Sys2Proof

/-- The strap identity, port number and unit kind that the record names at the far end of an agent's port; the module's
own strap stands for a Chrohar port (R113, R114). -/
def InstRecord.portNbr (r : InstRecord) (own : BitVec 16) (e port : Nat) : Option (Option Nat × BitVec 16 × Nat × Nat) :=
  let far (f q : Nat) : Option Nat × BitVec 16 × Nat × Nat :=
    (some f, ((r.agents[f]?).map (·.strap)).getD 0, q, if r.isSwitch f then 1 else 0)
  if !r.isSwitch e && port < 6 then
    (r.posOf e).bind fun c =>
      let a : Axis := if port / 2 = 0 then .x else if port / 2 = 1 then .y else .z
      let ext := r.extent a
      if ext < 2 then none
      else
        let v := Pos.on c a
        (r.at (Pos.put c a (if port % 2 = 0 then (v + 1) % ext else (v + ext - 1) % ext))).map fun f =>
          far f (if port % 2 = 0 then port + 1 else port - 1)
  else
    r.edges.findSome? fun w =>
      match w.far with
      | .entry f k => if w.sw = e ∧ w.port = port then some (far f k) else if f = e ∧ k = port then some (far w.sw w.port) else none
      | .chrohar c => if w.sw = e ∧ w.port = port then some (none, own, c, 2) else none
      | _ => none

/-- The installed width of an agent's port, where the record gives it. -/
def InstRecord.edgeWidth (r : InstRecord) (e port : Nat) : Option Nat :=
  (r.edges.find? fun w => (w.sw == e && w.port == port) || w.far == .entry e port).map (·.width)

/-- Installed width of an agent's port: of its wire, or 8 on a torus link, to which the record gives none (DEDUCED from R37 and
R124, log entry 171). -/
def InstRecord.portWidth (r : InstRecord) (e k : Nat) : Nat :=
  (r.edgeWidth e k).getD (if !r.isSwitch e && k < 6 then 8 else 0)

/-- A strap identity of the record. -/
def InstRecord.knows (r : InstRecord) (strap : BitVec 16) : Bool := r.agents.any fun x => x.strap == strap

def InstRecord.ports (r : InstRecord) (e : Nat) : Nat := if r.isSwitch e then 16 else 8

end Sys2Proof

namespace Sys2Proof.Machine

open Sys2Proof

/-! ## Differences (Table 3-9) -/

/-- Record a difference: what was expected and found (R139, R140), and in the recorder the strap identities of the neighbour or
entry that it concerns, zero where none is known (Table 14-4). -/
def State.differ (s : State) (d : Diff) (expected found : BitVec 16) : State :=
  (s.setMgr { s.mgr with diffs := s.mgr.diffs ++ [d] }).note 0x1401 (BitVec.ofNat 16 d.row)
    (leBytes 2 d.entry ++ leBytes 1 d.port ++ leBytes 1 0 ++ leBytes 4 expected.toNat ++ leBytes 4 found.toNat)

/-- A difference in which strap identities are what was expected and found. -/
def strapDiff (row entry port : Nat) (expected found : BitVec 16) : Diff :=
  { row := row, entry := entry, port := port, expected := expected.setWidth 64, found := found.setWidth 64 }

/-- Record a difference of strap identities. -/
def State.differStrap (s : State) (row entry port : Nat) (expected found : BitVec 16) : State :=
  s.differ (strapDiff row entry port expected found) expected found

/-- Strap identity of an entry of the record. -/
def strapAt (r : InstRecord) (e : Nat) : BitVec 16 := ((r.agents[e]?).map (·.strap)).getD 0

/-- Rows of Table 3-9 that refuse the fabric. -/
def Diff.refuses (d : Diff) : Bool := 6 ≤ d.row && d.row ≤ 11

/-! ## Beginning (R141, R142) -/

def State.setDisc (s : State) (d : Disc) : State := s.setMgr { s.mgr with disc := d }

/-- 20 ms of forget cells with a new DISC_TAG (R142). -/
def State.startForget (s : State) : State :=
  let tag := (Config.random s.trust.draws).setWidth 64
  let s := ({ s with trust := { s.trust with draws := s.trust.draws + 1 } } : State).setDisc
    { s.mgr.disc with active := false, tag := tag }
  { s with link := { s.link with forgetting := true } }

/-- The spare pairs of a tile, on lanes or in its pool (R125). -/
def LinkTiles.sparesOf (l : LinkTiles) (tile : Nat) : List Nat :=
  let used := (l.onSpare.filter fun x => x.1 / 64 == tile).map (·.2)
  sortNat ((((tget l.pools tile).getD []) ++ used).filter (64 ≤ ·))

/-- Retrain every Chrohar port under the record in force (R141): the pools begin with the spare pairs alone (R125), peer links are
judged anew (R145), and ID_CHANGED stays until a 1 is written (R127). -/
def State.retrainAll (s : State) : State :=
  let l := s.link
  let s : State := { s with
    link := { l with
      ports := tmap (fun p q => { q with idChanged := (l.port p).idChanged }) (installedPorts s.mgr.record), onSpare := []
      log := [], pools := tmap (fun tile _ => l.sparesOf tile) l.pools }
    mgr := { s.mgr with peersRefused := false } }
  (tkeys s.link.ports).foldl (fun s p => s.startTraining .chrohar p) s

/-- The manager's model as a discovery begins: nothing is known of any agent. Peer links that have been refused since they trained
stay refused (R146). -/
def Mgr.blank (m : Mgr) : Mgr :=
  { m with entries := [], widths := [], diffs := [], fenceLog := 0, epoch := 0, routing := 0
           loaded := [], loadedKeys := [], target := [], unrouted := [], unhubbed := [], rankBad := [], jobs := [], fencings := []
           gathers := [], runs := [], groups := [], probing := [], readmit := none, seeded := false, readmitCmds := [], troubles := [] }

/-- A new discovery from the stored record (R141, R406). -/
def State.newDiscovery (s : State) (cmd : Option Nat) : State :=
  let s := s.mgr.readmitCmds.foldl (fun s x => s.finish x.1 (fail sBusy)) s
  let s := s.setMgr { s.mgr.blank with record := s.cfg.live.record, disc := { Disc.reset with cmd := cmd } }
  s.setFabric 1

/-- TOPO_DISCOVER (R140, R141). -/
def execTopoDiscover (id : Nat) (s : State) : Host.Outcome State Fault Refusal :=
  .next (s.run 0x0204 id fun _ s =>
    if !s.mgr.heats.isEmpty then (s, some (fail sBusy))
    else if s.cfg.live.record.isNone then (s, some (fail sTopology))
    else if s.mgr.fabricState = 1 then (s, some (fail sBusy))
    else ((s.newDiscovery (some id)).retrainAll, none))

/-! ## Queries (R132 to R137) -/

/-- Body of a DISCOVER_QUERY (Table 3-7). -/
def queryBody (id : BitVec 16) (page entry out : Nat) (target : BitVec 16) : BitVec 128 :=
  at' 128 0 id ||| at' 128 16 (BitVec.ofNat 5 page) ||| at' 128 21 (BitVec.ofNat 18 entry) |||
    at' 128 39 (BitVec.ofNat 8 out) ||| at' 128 47 target

/-- Send one try of a query: out of the Chrohar port that leads to the agent that answers or relays (R135), or by the
routes for an entry that is readmitted (R132, R250). The manager chooses QUERY_ID (Table 3-7): it counts up and is new at every
try (DESIGN CHOICE, log entry 140). -/
def State.sendQuery (s : State) (q : Query) : State :=
  let d := { s.mgr.disc with queryId := s.mgr.disc.queryId + 1, current := some q }
  let target := ((s.mgr.record.bind fun r => r.agents[q.entry]?).map (·.strap)).getD 0
  let out := if q.page = 0 ∧ q.via.isSome then q.port else 0xFF
  let dst := match q.page, q.via with
    | 0, some a => a
    | _, _ => q.entry
  let s := s.setDisc d
  let body := queryBody d.queryId q.page q.entry out target
  let p := mkTally (common mgrKey (if d.readmit then s.hubEpoch else 0) s.mgrEid (BitVec.ofNat 18 dst) tDiscoverQuery) 0 body
  if d.readmit then s.hubSend p
  else
    let port := match q.page, q.via with
      | 0, none => q.port
      | _, _ => (s.entry dst).root
    { s with link := s.link.enqueue port p none }

/-- The contact queries through the Chrohar ports that are no peer links, ascending (R136). -/
def State.rootQueries (s : State) : List Query :=
  s.link.ports.filterMap fun x =>
    if x.2.isUp && x.2.nbrSeen then
      (s.mgr.record.bind fun r => r.chNbr x.1).map fun e => { entry := e.1, via := none, port := x.1, page := 0, tries := 1 }
    else none

/-- The page queries of an agent: pages 1 to PORT_COUNT + 1 (R136). -/
def pageQueries (d : Disc) (e : Nat) : List Query :=
  (List.range ((tget d.counts e).getD 0)).map fun k => { entry := e, via := some e, port := 0xFF, page := k + 1, tries := 1 }

/-- A query that is still to be sent: through a Chrohar port always, by a relay only to an entry not reached yet (R136); a
refused entry gets none (Table 3-9). -/
def State.wanted (s : State) (q : Query) : Bool :=
  let e := s.entry q.entry
  !e.refused && !e.absent && (if q.page = 0 then q.via.isNone || !e.reached else e.reached)

/-! ## The end of discovery -/

/-- The links between agents that are up at one end only (Table 3-9 row 4), as agent ports of both ends. -/
def State.oneEnded (s : State) (r : InstRecord) : List Hop :=
  (List.range r.agents.length).flatMap fun e => (List.range (r.ports e)).flatMap fun p =>
    let mine := (tget s.mgr.widths (16 * e + p)).getD 0
    match r.portNbr s.boot.strap e p with
    | some (some f, _, q, _) =>
      if mine ≠ 0 ∧ (tget s.mgr.widths (16 * f + q)).getD 0 = 0 ∧ (s.entry f).reached then [(e, p), (f, q)] else []
    | _ => []

/-- A Chrohar port is up with an identified neighbour. -/
def Port.meets (q : Port) : Bool := q.isUp && q.nbrSeen

/-- The Chrohar ports of the record whose link is up at one end only (Table 3-9 row 4), with the agent port that they face. -/
def State.oneEndedCh (s : State) (r : InstRecord) : List (Nat × Hop) :=
  s.link.ports.filterMap fun x => (r.chNbr x.1).bind fun (h : Nat × Nat) =>
    if (s.entry h.1).reached && x.2.meets != ((tget s.mgr.widths (16 * h.1 + h.2)).getD 0 != 0) then some (x.1, h)
    else none

/-- Ports that face an entry whose block version was refused (Table 3-9 row 5). -/
def State.refusedFacing (s : State) (r : InstRecord) : List Hop :=
  (List.range r.agents.length).flatMap fun e => (List.range (r.ports e)).filterMap fun p =>
    match r.portNbr s.boot.strap e p with
    | some (some f, _, _, _) => if (s.entry f).refused then some (e, p) else none
    | _ => none

/-- The Chrohar ports that face a refused entry. -/
def State.refusedCh (s : State) (r : InstRecord) : List Nat :=
  s.link.ports.filterMap fun x => (r.chNbr x.1).bind fun (h : Nat × Nat) => if (s.entry h.1).refused then some x.1 else none

/-- Agent ports that are up below the minimum of the record: the manager holds them (R346). -/
def State.underRecord (s : State) (r : InstRecord) : List Hop :=
  (List.range r.agents.length).flatMap fun e => (List.range (r.ports e)).filterMap fun p =>
    let w := (tget s.mgr.widths (16 * e + p)).getD 0
    if w ≠ 0 ∧ w < r.minOf e p then some (e, p) else none

/-- Check the peer links (R145, R146): when a far end disagreed with the quad section, or the record names a wrong number
of links or places one otherwise than R560, every peer link is held. -/
def State.checkPeers (s : State) (r : InstRecord) : State :=
  let counts := ((List.range 4).filter (· != s.quadSlot)).all fun sl =>
    (r.peers.filter fun x => x.2 == sl).length == peerCount r.quadN s.quadSlot sl
  let placed := r.peers.all fun x => peerPlace r.quadN s.quadSlot x.1 == some x.2
  if r.peers.isEmpty || (!s.mgr.peersRefused && counts && placed) then s
  else
    let s := r.peers.foldl (fun s x =>
      let found := (s.link.port (4 * x.1)).nbr.strap
      (s.holdCh (4 * x.1)).differ
        { row := 12, entry := 0xFFFF, port := 4 * x.1, expected := BitVec.ofNat 64 x.2, found := found.setWidth 64 } 0 found) s
    s.setMgr { s.mgr with peersRefused := true }

/-- The reply to TOPO_DISCOVER: FABRIC_STATE, differences and absent entries; the byte form of the list is open. -/
opaque diffBytes : List Diff → List Byte

def State.discoverAnswer (s : State) : State :=
  match s.mgr.disc.cmd.bind s.cmd with
  | none => s
  | some c =>
    let absent := (s.mgr.entries.filter fun e => e.2.absent || e.2.refused).length
    let s := s.setDisc { s.mgr.disc with cmd := none }
    s.finish c.id (okData c (leBytes 1 s.mgr.fabricState ++ leBytes 3 0 ++ leBytes 4 s.mgr.diffs.length ++ leBytes 4 absent)
      (diffBytes s.mgr.diffs))

/-- Every entry is known: what no path reaches is absent, and the fabric is refused or brought into service
(R137, R139, R140, R166). -/
def State.discovered (s : State) (r : InstRecord) : State :=
  let missing := (List.range r.agents.length).filter fun e => !(s.entry e).reached && !(s.entry e).refused
  let s := missing.foldl (fun s e =>
    (s.modEntry e fun x => { x with absent := true }).differStrap 1 e 0xFF (strapAt r e) 0) s
  let s := s.checkPeers r
  let s := s.setDisc { s.mgr.disc with active := false, current := none }
  let ends := (s.oneEnded r ++ (s.oneEndedCh r).map (·.2)).eraseDups
  let far (x : Hop) : BitVec 16 := ((r.portNbr s.boot.strap x.1 x.2).map (·.2.1)).getD 0
  let shows (x : Hop) : Bool := (tget s.mgr.widths (16 * x.1 + x.2)).getD 0 != 0
  let s := ends.foldl (fun s x => s.differStrap 4 x.1 x.2 (far x) (if shows x then far x else 0)) s
  let s := ((s.oneEndedCh r).map (·.1) ++ s.refusedCh r).eraseDups.foldl State.holdCh s
  if s.mgr.diffs.any Diff.refuses then (s.setFabric 3).discoverAnswer
  else
    let held := (ends ++ s.refusedFacing r ++ s.underRecord r).eraseDups
    let s := s.portsDown held
    let s := ((List.range r.agents.length).filter fun e => (s.entry e).reached).foldl (fun s e =>
      s.modEntry e fun x => { x with service := .inService }) s
    s.addJob (epochSteps true ++ [.stampAll, .wait, .holdPorts held, .wait, .inService]) none

/-! ## From one query to the next -/

/-- Send the next query: the rest of what is to do, then the pages of the next agent in the queue (R136). -/
def State.nextQuery (r : InstRecord) : Nat → State → State
  | 0, s => s
  | fuel + 1, s =>
    let d := s.mgr.disc
    if !d.active || d.current.isSome then s
    else
      match d.todo, d.queue with
      | q :: rest, _ =>
        let s := s.setDisc { d with todo := rest }
        if s.wanted q then s.sendQuery q else State.nextQuery r fuel s
      | [], a :: rest => State.nextQuery r fuel (s.setDisc { d with todo := pageQueries d a, queue := rest })
      | [], [] => s.discovered r

/-- Go on with discovery. -/
def State.goOn (s : State) : State :=
  match s.mgr.record with
  | none => s
  | some r =>
    let s := s.setDisc { s.mgr.disc with current := none }
    State.nextQuery r (s.mgr.disc.todo.length + 2 * (s.mgr.disc.queue.length + 1)) s

/-- Start from R136. -/
def State.fromRoots (s : State) : State :=
  let clean (e : Entry) : Entry := { Entry.fresh with resetOnce := e.resetOnce, absent := e.resetOnce && e.absent }
  let s := s.setMgr { s.mgr with entries := tmap (fun _ e => clean e) s.mgr.entries, widths := [] }
  (s.setDisc { s.mgr.disc with active := true, todo := s.rootQueries, queue := [], current := none }).goOn

/-- A Chrohar port that the record connects, to an agent or to a peer module, is down, or narrower than installed (Table 3-9 rows
2 and 3). The difference names no entry, 0xFFFF, and the Chrohar port (log entry 141). -/
def State.checkWidth (s : State) (r : InstRecord) (p : Nat) (q : Port) : State :=
  let peer := r.peers.any fun y => 4 * y.1 == p
  let want : BitVec 16 := ((r.chNbr p).map fun x => strapAt r x.1).getD 0
  let found : BitVec 16 := if q.nbrSeen then q.nbr.strap else 0
  let widths (row w : Nat) : Diff :=
    { row := row, entry := 0xFFFF, port := p, expected := BitVec.ofNat 64 q.instW, found := BitVec.ofNat 64 w }
  if (r.chNbr p).isNone && !peer then s
  else if !q.meets then s.differ (widths 2 0) want found
  else if q.width < q.instW then s.differ (widths 3 q.width) want found
  else s

/-- Chrohar ports that are down or narrow, and those whose neighbour is not the one that the record names (Table 3-9 rows 2, 3,
7, 9 and 11). -/
def State.checkRoots (s : State) (r : InstRecord) : State :=
  s.link.ports.foldl (fun (s : State) (x : Nat × Port) =>
    let q := x.2
    let s := s.checkWidth r x.1 q
    if !q.isUp || !q.nbrSeen || r.peers.any fun y => 4 * y.1 == x.1 then s
    else
      match r.chNbr x.1 with
      | none => s.differStrap (if r.knows q.nbr.strap then 11 else 9) 0xFFFF x.1 0 q.nbr.strap
      | some (e, k) =>
        let strap := strapAt r e
        if q.nbr.strap = strap ∧ q.nbr.port.toNat = k ∧ q.nbr.kind.toNat = 1 then s
        else s.differStrap (if q.nbr.strap = strap then 7 else if r.knows q.nbr.strap then 11 else 9) e k strap q.nbr.strap) s

/-- DISCOVERY_START (R141): the hub's flows and the link tiles' tables begin afresh, and the queries leave. -/
def State.discoveryStart (s : State) : State :=
  match s.mgr.record with
  | none => s
  | some r =>
    if !s.link.forgetting || s.mgr.fabricState != 1 || s.mgr.disc.active then s
    else
      let s : State := { s with link := { s.link with
        forgetting := false, current := { epoch := 0, dest := [] }, other := { epoch := 1, dest := [] }, bitmaps := [] } }
      let s := s.setHub { s.hub with arrived := [], inbox := [], srcs := [], dsts := [] }
      let s := s.setMgr { s.mgr with epoch := 0 }
      (s.checkRoots r).fromRoots

/-- DISCOVERY_START (R141). -/
def execDiscoveryStart (s : State) : Host.Outcome State Fault Refusal := .next s.discoveryStart

/-! ## Replies (Table 3-8) -/

def replyId (b : BitVec 128) : BitVec 16 := field b 0 16

def replyPage (b : BitVec 128) : Nat := (field b 16 5).toNat

/-- The rows of Table 3-9 that page 0 of an entry falls under, with what was expected and found. `before` lists the strap
identities and SERIAL_LO values of earlier page 0 replies, by entry. -/
def page0Rows (r : InstRecord) (e : Nat) (before : List (Nat × BitVec 16 × BitVec 32)) (b : BitVec 128) : List Diff :=
  let strap := strapAt r e
  let found := field b 21 16
  let serial := field b 71 32
  let row (on : Bool) (n : Nat) (x y : BitVec 64) : List Diff :=
    if on then [{ row := n, entry := e, port := 0xFF, expected := x, found := y }] else []
  row (field b 39 8 != 0x02) 5 2 ((field b 39 8).setWidth 64) ++
  row (b.getLsbD 52 || found != strap) 6 (strap.setWidth 64) (found.setWidth 64) ++
  row (field b 37 2 != (if r.isSwitch e then 1#2 else 0#2)) 7 (strap.setWidth 64) (found.setWidth 64) ++
  row (before.any fun x => x.2.1 == found && (x.1 != e || x.2.2 != serial)) 8 (strap.setWidth 64) (found.setWidth 64) ++
  row (b.getLsbD 51 && field b 53 18 != BitVec.ofNat 18 e) 10 (BitVec.ofNat 64 e) ((field b 53 18).setWidth 64)

/-- A page of a port: its width in service, the entry that the record names behind it while it is up, the rows of Table 3-9 that
it falls under, and the strap identities expected and found there. -/
structure PortPage where
  width  : Nat
  nbr    : Option Nat
  rows   : List Diff
  straps : BitVec 16 × BitVec 16
deriving DecidableEq, Repr

def portPage (r : InstRecord) (own : BitVec 16) (e k : Nat) (b : BitVec 128) : PortPage :=
  let strap := field b 21 16
  let code := widthOfCode (field b 47 3)
  let seen := b.getLsbD 50
  let up := code != 0 && !b.getLsbD 51 && seen
  let row (on : Bool) (n : Nat) (x y : BitVec 64) : List Diff :=
    if on then [{ row := n, entry := e, port := k, expected := x, found := y }] else []
  match r.portNbr own e k with
  | none =>
    { width := 0, nbr := none, straps := (0, strap)
      rows := row (up && r.knows strap) 7 0 (strap.setWidth 64) ++ row (up && !r.knows strap) 9 0 (strap.setWidth 64) }
  | some (f, want, port, kind) =>
    let known := r.knows strap || strap == own
    let other := strap != want || (field b 37 8).toNat != port || (field b 45 2).toNat != kind
    { width := if up && !other then code else 0, nbr := if up then f else none, straps := (want, if seen then strap else 0)
      rows :=
        row (!up) 2 (BitVec.ofNat 64 (r.portWidth e k)) (BitVec.ofNat 64 code) ++
        row (up && code < r.portWidth e k) 3 (BitVec.ofNat 64 (r.portWidth e k)) (BitVec.ofNat 64 code) ++
        row (seen && other && known) 7 (want.setWidth 64) (strap.setWidth 64) ++
        row (seen && !known) 9 (want.setWidth 64) (strap.setWidth 64) }

/-- The fence counts of a page are kept and counted (R77, Table 14-3). -/
def State.takeFenceDrops (s : State) (e : Nat) (b : BitVec 128) : State :=
  let n := (field b 52 32).toNat
  (s.setMgr { s.mgr with fenceLog := s.mgr.fenceLog + n }).tally 0x0030 0 n

/-- Page 0 of an entry in discovery (R136, R139): every row of Table 3-9 that applies is recorded. An agent of another block
version is refused; any other that answers is reached, and its port pages are asked for once. -/
def State.takePage0 (s : State) (r : InstRecord) (q : Query) (b : BitVec 128) : State :=
  let e := q.entry
  let rows := page0Rows r e s.mgr.disc.answers b
  let s := rows.foldl (fun s x => s.differ x (strapAt r e) (field b 21 16)) s
  let s := s.setDisc { s.mgr.disc with
    answers := s.mgr.disc.answers ++ [(e, field b 21 16, field b 71 32)]
    counts := tset s.mgr.disc.counts e ((field b 47 4).toNat + 1) }
  if rows.any fun x => x.row == 5 then
    (s.modEntry e fun z => { z with refused := true, reached := false }).goOn
  else if (s.entry e).reached then s.goOn
  else
    let root := match q.via with
      | none => q.port
      | some a => (s.entry a).root
    let s := s.modEntry e fun z => { z with reached := true, serialLo := some (field b 71 32), root := root }
    (s.setDisc { s.mgr.disc with queue := s.mgr.disc.queue ++ [e] }).goOn

/-- The page of a port in discovery: its width is taken, and an entry behind it that is not reached is asked for
(R136, R137). -/
def State.takePortPage (s : State) (r : InstRecord) (q : Query) (b : BitVec 128) : State :=
  let e := q.entry
  let k := q.page - 1
  let x := portPage r s.boot.strap e k b
  let s := s.takeFenceDrops e b
  let s := x.rows.foldl (fun s d => s.differ d x.straps.1 x.straps.2) s
  let s := s.setMgr { s.mgr with widths := tset s.mgr.widths (16 * e + k) x.width }
  let more : List Query := match x.nbr with
    | some f => [{ entry := f, via := some e, port := k, page := 0, tries := 1 }]
    | none => []
  (s.setDisc { s.mgr.disc with todo := s.mgr.disc.todo ++ more }).goOn

/-- An agent that lost its EID while discovery runs (Table 3-10): discovery starts again once, and then it is absent. -/
def State.agentWasReset (s : State) (e : Nat) : State :=
  if (s.entry e).resetOnce then (s.modEntry e fun z => { z with absent := true, reached := false }).goOn
  else (s.modEntry e fun z => { z with resetOnce := true }).fromRoots

/-- The Chrohar port through which the answer to a query comes. -/
def State.queryRoot (s : State) (q : Query) : Nat :=
  if q.page = 0 ∧ q.via.isNone then q.port else (s.entry (if q.page = 0 then q.via.getD q.entry else q.entry)).root

/-- A reply to the query in hand, in discovery; any other is ignored, and so is one through a port whose neighbour changed
meanwhile (Table 3-10). -/
def State.takeReply (s : State) (b : BitVec 128) : State :=
  match s.mgr.disc.current, s.mgr.record with
  | some q, some r =>
    if replyId b != s.mgr.disc.queryId || !(s.link.port (s.queryRoot q)).meets then s
    else if replyPage b = 0 && !b.getLsbD 51 && (s.entry q.entry).reached then s.agentWasReset q.entry
    else if replyPage b != q.page then s
    else if q.page = 0 then s.takePage0 r q b
    else s.takePortPage r q b
  | _, _ => s

/-- No reply within 200 µs in discovery (R137): up to three tries, and then the next query. -/
def State.replyLate (s : State) : State :=
  match s.mgr.disc.current with
  | none => s
  | some q => if q.tries < 3 then s.sendQuery { q with tries := q.tries + 1 } else s.goOn

end Sys2Proof.Machine
end

