-- ==== Sys2Proof/Machine/Jobs.lean ====
section
/-! DEFINITION. The manager's procedures at work: the end of a route computation, what each step does, and the order in
which troubles, fences and procedures go on (04_routing.md R166 to R188; 05_heats.md R199 to R222; 06_faults_and_recovery.md
R231, R244, R250). -/

namespace Sys2Proof.Machine

open Sys2Proof

/-! ## The procedure in hand -/

/-- Change the procedure in hand. -/
def State.onHead (s : State) (f : Job → Job) : State :=
  s.setMgr { s.mgr with jobs := match s.mgr.jobs with
    | [] => []
    | j :: r => f j :: r }

def State.pushSteps (s : State) (xs : List MStep) : State := s.onHead fun j => { j with steps := xs ++ j.steps }

def State.keepSteps (s : State) (p : MStep → Bool) : State := s.onHead fun j => { j with steps := j.steps.filter p }

def State.addWaits (s : State) (ws : List Wait) : State := s.onHead fun j => { j with waits := j.waits ++ ws }

/-- Take away the first wait of a kind. -/
def dropWait (w : Wait) (l : List Wait) : List Wait := l.erase w

/-- A Chrohar port's training has ended: the procedure that waits for it goes on, wherever it stands. -/
def State.trainingEnds (s : State) (p : Nat) : State :=
  s.setMgr { s.mgr with jobs := s.mgr.jobs.map fun j => { j with waits := j.waits.erase (.training p) } }

/-- A procedure waits for the training of a port alone: nothing else pauses for it (R432). -/
def Job.trains (j : Job) : Bool := !j.waits.isEmpty && j.waits.all fun w => w matches .training _

def State.dropHeadWait (s : State) (w : Wait) : State := s.onHead fun j => { j with waits := dropWait w j.waits }

def State.setRouting (s : State) (v : Nat) : State := s.setMgr { s.mgr with routing := v }

/-! ## Carves that no longer stand (Table 5-10 row 1) -/

/-- What a placement works on now. -/
def State.placing (s : State) (n : Net) (records : Tab (BitVec 64)) : Placing :=
  { n := n, runs := s.mgr.runs, records := records
    able := (s.mgr.entries.filter fun e => e.2.forwards && e.2.service == .inService).map (·.1) }

/-- The box of a carve that is set up is still feasible, apart from its own heat and runs. -/
def State.boxStands (s : State) (no : Nat) (h : Heat) (q : Queued) : Bool :=
  s.net.any fun n =>
    let p := s.placing { n with heats := n.heats.filter fun x => x.1 != no } q.records
    { p with runs := p.runs.filter fun r => r.2.heat != no }.feasible h
      (axes.filter fun a => h.closed[a.no]? == some 1)

/-- A carve is undone: its heat and runs are free, and it is placed again from the head of the queue. -/
def State.undoCarve (s : State) (no : Nat) (q : Queued) : State :=
  let s := s.dropRuns (s.runsOf no)
  s.setMgr { s.mgr with heats := tdel s.mgr.heats no, queue := q :: s.mgr.queue }

/-- The carves that the procedure in hand sets up: those that share its epoch (R214). -/
def State.carvings (s : State) : List (Nat × Queued) :=
  (s.mgr.jobs.head?.map fun j => j.steps.filterMap fun x => match x with
    | .carved no q => some (no, q)
    | _ => none).getD []

/-- A step that sets up a carve's heat or some of its runs. -/
def MStep.setsUp (no : Nat) (ids : List Nat) : MStep → Bool
  | .runsRest is => is.any ids.contains
  | .runsSource is => is.any ids.contains
  | .assign k => k == no
  | .carved k _ => k == no
  | _ => false

/-- After a computation: a carve whose box is broken is undone before anything is loaded. -/
def State.recheckCarve (s : State) : State :=
  s.carvings.reverse.foldl (fun s x =>
    match tget s.mgr.heats x.1 with
    | none => s
    | some h =>
      if s.boxStands x.1 h x.2 then s
      else
        let ids := s.runsOf x.1
        (s.undoCarve x.1 x.2).keepSteps fun y => !y.setsUp x.1 ids) s

/-! ## Runs whose path has changed (R188, R205) -/

/-- A run cannot go on as it is: a hop is down, or a port's width no longer bears its runs (Table 4-12). -/
def Net.runBroken (n : Net) (runs : Tab Run) (r : Run) : Bool :=
  r.path.any fun x => !n.runHopUp x || n.width x.1 x.2 - 1 < reservedBy runs (fun _ => true) x.1 x.2

/-- Ends of a run: the entry that sources it and the one where it ends. -/
def Run.ends (r : Run) : Option Nat × Nat := (r.path.head?.map (·.1), r.dest)

/-- The two runs of the line that a transit run closes (R202). -/
def Run.pairs (r q : Run) : Bool :=
  q.heat == r.heat && q.transit == r.transit && ((q.ends == r.ends) || (q.ends.1 == some r.dest && r.ends.1 == some q.dest))

/-- A new path for a run under its own number; the shares of runs that are `gone` are free. -/
def State.rePath (s : State) (n : Net) (gone : List Nat) (id : Nat) (r : Run) : Option (List Hop) :=
  let runs := (tdel s.mgr.runs id).filter fun x => !gone.contains x.1
  match tget s.mgr.heats r.heat, r.path.head? with
  | some h, some x =>
    let paths := match n.r.posOf x.1, n.r.posOf r.dest with
      | some c, some d =>
        if r.bridge then
          (n.runPaths n.podBox c d).filter fun p => p.all fun x =>
            n.crossable (fun t => recHostOk (tenantRec s.cfg.live.tenants t)) h x.1
        else n.runPaths h c d
      | some c, none => n.runUps h c
      | none, some d => n.runDowns h d
      | none, none => []
    (n.bestPath runs paths).bind fun p => if r.share ≤ n.bottleneck runs p then some p else none
  | _, _ => none

/-- The line that a transit run closes is open again: its two runs go, and the tenant hears of it (R205). -/
def State.openLine (s : State) (n : Net) (r : Run) (a : Axis) : State × List MStep :=
  let ids := (s.mgr.runs.filter fun q => r.pairs q.2).map (·.1)
  match tget s.mgr.heats r.heat with
  | none => (s, [])
  | some h =>
    let c : Pos := ((r.path.head?.bind fun x => n.r.posOf x.1)).getD (0, 0, 0)
    let s := s.modHeat r.heat fun h => { h with closed := h.closed.set a.no 0 }
    let s := if h.leaving || s.releasing r.heat then s
      else (s.postHeat { code := 0x0002, heat := r.heat, tenant := h.tenant, step := 0
                         detail := leBytes 1 a.no ++ (axes.filter (· != a)).flatMap fun b => leBytes 1 (Pos.on c b) }).trouble
        (.changed r.heat)
    (s, tearDown ids ++ [.assign r.heat, .wait])

/-- Work that a restart cannot place stops: its saved state stays (R241). -/
def State.restartFails (s : State) (old tenant : Nat) (r : Restart) (status : BitVec 16) : State :=
  s.act { code := 0x0007, heat := old, tenant := tenant, step := ((r.plan.lastSaved).map (·.step)).getD 0
          detail := bvBytes status ++ leBytes 6 0 ++ leBytes 8 r.savedId }

/-- A load that has not replied fails with a status: its steps go, and what it placed is freed. A restart's work then stops
(R241). -/
def State.failLoad (s : State) (no : Nat) (status : BitVec 16) : State × List MStep :=
  match s.mem.loads.find? (fun w => w.heat == no), tget s.mgr.heats no with
  | some w, some h =>
    let ids := s.planRuns no
    let mine (x : MStep) : Bool := x.setsUp no ids || match x with
      | .loaded k => k == no
      | _ => false
    let cut (j : Job) : Job := { j with steps := j.steps.filter fun x => !mine x }
    let s := s.setMem { s.mem with loads := s.mem.loads.filter fun x => x.heat != no }
    let s := (s.setMgr { s.mgr with jobs := s.mgr.jobs.map cut }).freePlan no
    let s := match w.cmd with
      | some id => s.finish id (fail status)
      | none => s
    let s := match w.restart, h.plan with
      | some old, some p =>
        let id := (w.resume.map (·.savedId)).getD 0
        (s.modHeat no fun h => { h with state := 3, keptId := id }).restartFails old h.tenant
          { heat := old, savedId := id, plan := { p with lastSaved := w.resume } } status
      | _, _ => s
    (s, tearDown ids)
  | _, _ => (s, [])

/-- One run whose path has changed: what the manager does about it. A run of a heat without another path is torn down, and its heat
is decided (R188, R239). -/
def State.moveRun (s : State) (n : Net) (gone : List Nat) (id : Nat) : State × List MStep :=
  match tget s.mgr.runs id with
  | none => (s, [])
  | some r =>
    match r.transit with
    | some a =>
      if ((tget s.mgr.heats r.heat).bind fun h => h.closed[a.no]?) == some 0 && s.mgr.jobs.any fun j =>
          j.steps.any (fun x => match x with
            | .runsStop ids => ids.contains id
            | _ => false) then (s, [])
      else s.openLine n r a
    | none =>
      match s.rePath n gone id r with
      | some p =>
        if p = r.path then (s, [])
        else
          let new := { r with path := p }
          (s.setMgr { s.mgr with runs := tset s.mgr.runs id new },
            [.runsRest [id], .wait, .runsTrim id (r.agents.filter fun a => !new.agents.contains a), .wait,
             .runsSource [id], .wait])
      | none => (s, tearDown [id] ++ [.changed r.heat])

/-- Runs that some steps tear down. -/
def stopped (xs : List MStep) : List Nat := xs.flatMap fun x => match x with
  | .runsStop ids => ids
  | _ => []

/-- Some run that a load still asks for is broken. -/
def State.loadBroken (s : State) (n : Net) (no : Nat) : Bool :=
  (s.planRuns no).any fun id => (tget s.mgr.runs id).any fun r => n.runBroken s.mgr.runs r

/-- Loads whose runs are broken end with S_NO_ROUTE (Table 4-12): the state after, and the steps that tear their runs down. -/
def State.failLoads (s : State) (n : Net) : State × List MStep :=
  ((s.mem.loads.map (·.heat)).filter (s.loadBroken n)).foldl (fun (r : State × List MStep) no =>
    let k := r.1.failLoad no sNoRoute
    (k.1, r.2 ++ k.2)) (s, [])

/-- Every run that is broken: the loads that still ask for one fail first, and their shares no longer count (Table 4-12); then the
rest in ascending RUN_ID, each over what the other broken runs still hold, for the manual names no order (DESIGN CHOICE, log
entry 173). The partner of a transit run goes with it. -/
def State.moveRuns (s : State) (n : Net) : State :=
  let f := s.failLoads n
  let freed := stopped f.2 ++ s.mgr.jobs.flatMap fun j => stopped j.steps
  let left := f.1.mgr.runs.filter fun r => !freed.contains r.1
  let broken := (left.filter fun r => n.runBroken left r.2).map (·.1)
  let r := broken.foldl (fun (r : State × List MStep) id =>
    if (stopped r.2).contains id then r
    else
      let k := r.1.moveRun n (freed ++ stopped r.2) id
      (k.1, r.2 ++ k.2)) f
  if r.2.isEmpty then r.1
  else
    match r.1.mgr.jobs with
    | [] => r.1.addJob r.2 none
    | j :: rest => r.1.setMgr { r.1.mgr with jobs := j :: { steps := r.2, waits := [], heat := none } :: rest }

/-! ## The end of a computation (R166 to R168, R172) -/

/-- Pairs of positions of a splice that lack their bridging runs count as pairs without a route. -/
def State.missingBridges (s : State) (n : Net) : List (Nat × Nat) :=
  n.heats.flatMap fun h => h.2.splices.flatMap fun x => (n.bridged h.2 (h.2.cellOf x.1)).flatMap fun d =>
    match n.r.at d with
    | none => []
    | some e => (if s.hasBridge h.1 e x.2 then [] else [(e, x.2)]) ++ (if s.hasBridge h.1 x.2 e then [] else [(x.2, e)])

/-- Endpoints without a hub path (R168). -/
def State.lackHub (s : State) (n : Net) : List Nat :=
  n.unhubbed.filter fun e => !n.out.contains e || (tget s.mgr.entries e).any (·.hubless)

/-- A full computation treats an endpoint in no heat without a hub path as absent (R156). -/
def State.markHubless (s : State) : State :=
  let clean (e : Entry) : Entry := { e with hubless := false }
  let s := s.setMgr { s.mgr with entries := tmap (fun _ e => clean e) s.mgr.entries }
  match s.net with
  | none => s
  | some n =>
    (n.unhubbed.filter fun e => !n.out.contains e && (s.heatOfEntry e).isNone).foldl (fun s e =>
      s.modEntry e fun x => { x with hubless := true }) s

/-- Report what has no route (R168, Table 14-4). -/
def State.reportGaps (s : State) (n : Net) : State :=
  let pairs := n.unrouted ++ s.missingBridges n
  let lack := s.lackHub n
  let s := pairs.foldl (fun s x => s.note 0x1405 0 (leBytes 2 x.1 ++ leBytes 2 x.2)) s
  let s := lack.foldl (fun s e => s.note 0x1405 1 (leBytes 2 e ++ leBytes 2 0)) s
  s.setMgr { s.mgr with unrouted := pairs, unhubbed := lack }

/-- An agent has entries to load. -/
def State.hasChanges (s : State) (e : Nat) : Bool :=
  let old := (tget s.mgr.loaded e).getD []
  let new := (tget s.mgr.target e).getD []
  [1, 2, 3, 5].any fun k => !(changedEntries k old new).isEmpty

/-- The rounds of a loading, by ascending hub distance (R172); an entry that is readmitted comes before all others (R250
step 4). -/
def State.rounds (s : State) (n : Net) : List MStep :=
  let first := s.liveEntries.filter fun e => s.mgr.readmit == some e
  let es := s.liveEntries.filter fun e => n.hubDist e != 0 && s.hasChanges e && s.mgr.readmit != some e
  first.flatMap (fun e => [.loadRound [e], .wait]) ++ (sortNat (es.map n.hubDist).eraseDups).flatMap fun k => [.loadRound (es.filter fun e => n.hubDist e == k), .wait]

/-- The heats whose plans no longer stand (R239). -/
def State.checkHeats (s : State) (n : Net) : State :=
  s.mgr.heats.foldl (fun s h => if h.2.active && !s.heatStands n h.1 h.2 then s.trouble (.changed h.1) else s) s

/-- Steps of a switch that an epoch which is not loaded skips (R168). -/
def skipSwitch (xs : List MStep) : List MStep := (xs.dropWhile fun x => !(x matches .keys)).drop 2

/-- Begin to load the epoch that has been computed (R172). -/
def State.beginLoading (s : State) (n : Net) : State :=
  let cur := s.link.current.epoch
  let s := s.setMgr { s.mgr with target := n.tables n.replacedBy s.mgr.runs s.mgr.groups }
  let s : State := { s with link := { s.link with other := { epoch := cur + 1, dest := n.tileTable } } }
  (s.pushSteps ([.widen, .wait] ++ s.rounds n)).setRouting 2

/-- Report the entries that fail the rank check (R168): each one's agent, and the EID that it leads to. -/
def State.noteFaults (s : State) (xs : List (Nat × Nat)) : State :=
  let s := s.setMgr { s.mgr with rankBad := xs }
  xs.foldl (fun s x => s.note 0x1405 Config.rankInstance (leBytes 2 x.1 ++ leBytes 2 x.2)) s

/-- The computation of the procedure in hand has ended. -/
def State.computed (s : State) (full : Bool) : State :=
  let d := s.draw
  let s := d.2
  let s := s.setMgr { s.mgr with
    lastFull := if full then d.1 % 2 ^ 64 else s.mgr.lastFull, lastIncr := if full then s.mgr.lastIncr else d.1 % 2 ^ 64 }
  let s := (if full then s.markHubless else s).recheckCarve
  match s.net with
  | none => s
  | some n =>
    let s := s.setMgr { s.mgr with groups := n.rooted s.mgr.groups }
    let s := (s.moveRuns n).reportGaps n
    let faults := n.rankFaults s.mgr.runs s.mgr.groups
    let s := s.noteFaults faults
    let s := if faults.isEmpty then s.beginLoading n else (s.onHead fun j => { j with steps := skipSwitch j.steps }).setRouting 0
    let s := s.checkHeats n
    if s.capsWait then s else s.recheckCaps

/-- ROUTE_COMPUTE_DONE (R166): the computation that the manager waits for. -/
def State.computeDone (s : State) : State :=
  match s.mgr.jobs.head?.bind fun j => j.waits.findSome? fun w => match w with
    | .compute full => some full
    | _ => none with
  | none => s
  | some full => (s.dropHeadWait (.compute full)).computed full

/-! ## Switching (R176) -/

/-- Chrohar's own tables and every agent flip, with a journal record (R438). -/
def State.flipAll (s : State) : State × List Wait :=
  let e := s.link.other.epoch
  let s : State := { s with link := { s.link with current := s.link.other, other := s.link.current } }
  let s := (s.setMgr { s.mgr with epoch := e }).journal
  (s.setRouting 3).ctrlAll 0x01 (at' 128 8 e)

/-- The former epoch retires at every agent; the link tiles void what they hold of it, as agents do (R165, R170). -/
def State.retireAll (s : State) : State × List Wait :=
  let e := s.link.current.epoch
  let s : State := { s with link := { s.link with
    other := { epoch := e + 1, dest := s.link.current.dest }
    ports := tmap (fun _ q => q.voidEpoch (e - 1)) s.link.ports } }
  s.ctrlAll 0x02 (at' 128 8 (e - 1))

/-- One agent's share of a round; an agent that is readmitted, which holds no slot but the STAGED one, also gets its lane key
table, with ASSIGNED 0, under the epoch being loaded (R174, R250 step 4). -/
def State.loadOne (s : State) (e : Nat) : State × List Wait :=
  let stamp := s.link.other.epoch
  if !s.liveEntries.contains e then (s, [])
  else
    let r := s.loadAgent e stamp
    match s.net with
    | some n =>
      if s.mgr.readmit = some e ∧ s.mgr.seeded then
        let keys := (List.range 17).map fun p => (p, keyEntryOf (n.allowed s.mgr.runs s.fencedEntries s.boundaryEntries e p))
        let k := r.1.sendAll (fun s x =>
          let k := s.sendTable e stamp 6 x.1 [bvBytes x.2]
          let m := k.1.mgr
          ({ k.1 with mgr := { m with
            loadedKeys := tset m.loadedKeys e (tset ((tget m.loadedKeys e).getD []) x.1 x.2) } }, [.ack e k.2]))
          (keys ++ [(17, (0 : BitVec 256))])
        (k.1, r.2 ++ k.2)
      else r
    | none => r

/-! ## Heats -/

/-- Write the assignment entries of a heat (R212 step 5). -/
def State.assignAll (s : State) (no : Nat) : State × List Wait :=
  match s.mgr.record, tget s.mgr.heats no with
  | some r, some h =>
    let live := s.liveEntries
    s.sendAll (fun s e => s.sendKey e 17 (assignWord no h s.mgr.runs (h.fenced.contains e) e))
      ((h.carriers r).filter live.contains)
  | _, _ => (s, [])

/-- Write the assignment entry of a spare that joins a heat (R244 step 6). -/
def State.assignSpare (s : State) (no e : Nat) : State × List Wait :=
  match tget s.mgr.heats no with
  | some h => if s.liveEntries.contains e then s.sendKey e 17 (assignWord no h s.mgr.runs (h.fenced.contains e) e) else (s, [])
  | none => (s, [])

/-- ASSIGNED 0 at every agent of a heat (R221 step 2). -/
def State.unassignAll (s : State) (no : Nat) : State × List Wait :=
  match s.mgr.record, tget s.mgr.heats no with
  | some r, some h =>
    let live := s.liveEntries
    s.sendAll (fun s e => s.sendKey e 17 0) ((h.members r).filter live.contains)
  | _, _ => (s, [])

/-- RESTARTED (R243). -/
def State.restarted (s : State) (old no : Nat) : State :=
  match tget s.mgr.heats no with
  | none => s
  | some h => s.act { code := 0x0006, heat := old, tenant := h.tenant, step := ((h.plan.map (·.resume)).getD 0) + 1
                      detail := leBytes 2 no ++ leBytes 1 h.ox ++ leBytes 1 h.oy ++ leBytes 1 h.oz }

/-- Set up a load whose pages are free of quench: its groups' epoch, its runs, and RESEND_US at every rank (R299). -/
def State.beginLoad (s : State) (no : Nat) : State :=
  let grouped := s.mgr.groups.any fun g => g.2.heat == no
  s.addJob ((if grouped then epochSteps false else []) ++ setUp (s.planRuns no) ++ [.assign no, .wait, .loaded no]) none

/-- A load begins now, or waits for its pages (R331). -/
def State.startLoad (s : State) (no : Nat) : State :=
  if s.mem.loads.any fun w => w.heat == no && w.waiting then s else s.beginLoad no

/-- Load the plan that a restart carries onto its new heat (R241). -/
def State.reload (s : State) (no : Nat) (r : Restart) : State :=
  match s.net, tget s.mgr.heats no with
  | some n, some h =>
    let ask : LoadAsk :=
      { image := r.plan.image, supplied := r.plan.image.imageBytes, stochastic := r.plan.stochastic, seed := r.plan.seed
        resume := ((r.plan.lastSaved).map (·.step)).getD 0, savedId := r.savedId, hold := false, enter := false, cmd := none
        restart := some r.heat }
    match s.loadPlan n no h ask with
    | .inr s => s.startLoad no
    | .inl a => (s.modHeat no fun h => { h with state := 3, keptId := r.savedId }).restartFails r.heat h.tenant r a.status
  | _, _ => s

/-- Step 6 of a carve (R212). -/
def State.carveEnds (s : State) (no : Nat) (q : Queued) : State :=
  match s.net, tget s.mgr.heats no with
  | some n, some h =>
    let s := s.modHeat no fun h => { h with caps := n.capacities s.mgr.runs h, assigned := true }
    let s := s.recheckCaps
    let h := (tget s.mgr.heats no).getD h
    let s := match q.cmd with
      | some id => s.finish id (ok (bvBytes (heatWord no h (s.transitCount no))))
      | none => s
    match q.op with
    | .carve _ (some r) => s.reload no r
    | _ => s
  | _, _ => s

/-- A carve whose box broke while it was set up is torn down (Table 5-10 row 1). -/
def State.stepAssign (s : State) (no : Nat) : State × List Wait :=
  match s.carvings.find? fun x => x.1 == no, tget s.mgr.heats no with
  | some (_, q), some h =>
    if !s.boxStands no h q then
      (((s.keepSteps fun x => !(x.setsUp no [])).addJob
        (tearDown (s.runsOf no) ++ [.leave no] ++ epochSteps false ++ [.undone no q]) none), [])
    else s.assignAll no
  | _, _ => s.assignAll no

/-- A load whose runs and assignments are in place (R299, R331). -/
def State.loadEnds (s : State) (no : Nat) : State :=
  match s.mem.loads.find? (fun w => w.heat == no), tget s.mgr.heats no with
  | some w, some h =>
    let s := s.setMem { s.mem with loads := s.mem.loads.filter fun x => x.heat != no }
    let s := match w.enter, h.plan with
      | true, some p => s.enterCache h.tenant p.image
      | _, _ => s
    let s := match w.resume with
      | some x => s.modPlan no fun p => p.restore x
      | none => s
    let s := (if w.hold then s.modHeat no fun h => { h with state := 1 } else s.beginPlan no).rebaseHub no
    let s := match w.cmd with
      | some id => s.finish id { ok w.result with bytes := w.moved }
      | none => s
    match w.restart with
    | some old => s.restarted old no
    | none => s
  | _, _ => s

/-- A load's runs and assignments are in place; it ends with S_NO_ROUTE where a port that they use has fallen below their shares
meanwhile (Table 4-12). -/
def State.loadChecked (s : State) (no : Nat) : State :=
  match s.net with
  | some n =>
    if s.loadBroken n no then
      let r := s.failLoad no sNoRoute
      r.1.addJob r.2 none
    else s.loadEnds no
  | none => s.loadEnds no

/-- A queued restart of a heat learns the SAVED_ID that its release gave. -/
def Queued.told (q : Queued) (no id : Nat) : Queued :=
  match q.op with
  | .carve w (some r) => if r.heat = no then { q with op := .carve w (some { r with savedId := id }) } else q
  | _ => q

/-- Step 6 of a release, with what becomes of the heat's state (R221 to R223, R236). -/
def State.releaseEnds (s : State) (no : Nat) (keep : Bool) (cmd : Option Nat) : State :=
  match s.mgr.record, tget s.mgr.heats no with
  | some r, some h =>
    let s := (s.clearHub no true).clearHub no false
    let kept := if keep && h.keptId = 0 then s.keepLast no
      else if keep then (s, h.keptId)
      else ((s.setMem (s.mem.dropKept h.keptId)).retireKeys, 0)
    let s := kept.1.freePlan no
    let failed := (h.members r).filter fun e => (s.entry e).service == .failedForwarding
    let s := (h.members r).foldl (fun s e => s.modEntry e fun x => { x with boundary := false }) s
    let s := s.setMgr { s.mgr with heats := tdel s.mgr.heats no, queue := s.mgr.queue.map fun q => q.told no kept.2 }
    let s := failed.foldl (fun s e => s.takeOut e false true) s
    let s := s.recheckCaps
    match cmd with
    | some id => s.finish id (ok (leBytes 8 0 ++ leBytes 8 kept.2))
    | none => s
  | _, _ => s

/-! ## Bridges (R244, R374) -/

/-- A bridge entry (Table 9-11). -/
def bridgeWord (spareSide : Bool) (m : Nat) (run : Nat) (other : Nat) : BitVec 64 :=
  at' 64 0 1#1 ||| at' 64 1 (bit spareSide) ||| at' 64 2 (BitVec.ofNat 18 m) ||| at' 64 20 (BitVec.ofNat 12 run) |||
    at' 64 32 (BitVec.ofNat 18 other)

/-- The torus port of a position that leads to a neighbour. -/
def Net.portTo (n : Net) (h : Heat) (c d : Pos) : Nat :=
  ((axes.flatMap fun a => [true, false].map fun plus => (a, plus)).find? fun x =>
    n.next c x.1 x.2 == d && (n.owns h x.1 || Pos.on d x.1 == (if x.2 then Pos.on c x.1 + 1 else Pos.on c x.1 - 1))).elim 0
    fun x => torusPort x.1 x.2

def setBridge (index : Nat) (v : BitVec 64) : BitVec 128 := at' 128 8 (BitVec.ofNat 3 index) ||| at' 128 11 v

/-- The run of a heat that bridges two entries. -/
def State.bridgeRun (s : State) (no src dst : Nat) : Option Nat :=
  (s.mgr.runs.find? fun r => r.2.heat == no && r.2.bridge && r.2.dest == dst && r.2.path.head?.any fun x => x.1 == src).map (·.1)

/-- Load, or clear, the bridge entries of a splice. -/
def State.bridgeAll (s : State) (no rank spare : Nat) (on : Bool) : State × List Wait :=
  match s.net, tget s.mgr.heats no with
  | some n, some h =>
    let c := h.cellOf rank
    let f := (n.r.at c).getD 0
    let live := s.liveEntries
    let send (s : State) (e index : Nat) (v : BitVec 64) : State × List Wait :=
      if live.contains e then (s.sendCtrl e 0x0B (setBridge index (if on then v else 0)), [.reply e 0x0B]) else (s, [])
    let r := s.sendAll (fun s d => match n.r.at d with
      | none => (s, [])
      | some e =>
        let one := send s e (n.portTo h d c) (bridgeWord false f ((s.bridgeRun no e spare).getD 0) 0)
        let two := send one.1 spare (n.portTo h c d) (bridgeWord true e ((s.bridgeRun no spare e).getD 0) f)
        (two.1, one.2 ++ two.2)) (n.bridged h c)
    if on || !live.contains spare then r
    else
      let k := r.1.sendKey spare 17 0
      (k.1, r.2 ++ k.2)
  | _, _ => (s, [])

/-! ## Readmission (R250) -/

/-- TBL_SEED (R250 step 4). -/
def State.seedEntry (s : State) (e : Nat) : State × List Wait :=
  let s := s.dropHubFlows (fun f => f.key.peer.toNat == e && !f.key.mcast) (fun d => d.key.src.toNat == e)
  let s := s.setMgr { s.mgr with
    loaded := tset s.mgr.loaded e [], loadedKeys := tset s.mgr.loadedKeys e [], seeded := true }
  (s.sendCtrl e 0x04 (at' 128 8 (s.hubEpoch + 1)), [.reply e 0x04])

/-- The admission stamp of the generation in force (R226). -/
def State.stampNow (s : State) : BitVec 64 := at' 64 0 s.mgr.fabricGen ||| at' 64 32 s.trust.powerCycles

def State.sendStamp (s : State) (e : Nat) : State × List Wait :=
  let s := s.modEntry e fun x => { x with stamp := some s.stampNow }
  (s.sendCtrl e 0x09 (at' 128 8 s.stampNow), [.reply e 0x09])

def State.nextGen (s : State) : State := s.setMgr { s.mgr with fabricGen := s.mgr.fabricGen + 1 }

/-- Answer every readmission command of an entry with its service state. -/
def State.answerReadmit (s : State) (e : Nat) : State :=
  let mine := (s.mgr.readmitCmds.filter fun x => x.2 == e).map (·.1)
  let s := s.setMgr { s.mgr with readmitCmds := s.mgr.readmitCmds.filter fun x => x.2 != e }
  mine.foldl (fun s id => s.finish id (ok (leBytes 1 (s.entry e).service.code))) s

/-- The entry is in service: free, or a spare (R250 step 6); its ports that are up below the record's minimum are held (R346). -/
def State.entryServes (s : State) (e : Nat) : State :=
  let s := s.modEntry e fun x => { x with boundary := false, hubless := false, reached := true, absent := false, refused := false }
  let s := s.setMgr { s.mgr with readmit := none, seeded := false }
  let s := (s.holdPorts s.mgr.disc.under true).1
  (s.setService e .inService).answerReadmit e

/-- The widths of an entry's own ports, from what their far ends report; one below the record's minimum counts as down
(R346). -/
def State.ownWidths (s : State) (r : InstRecord) (e : Nat) : Tab Nat :=
  let least (k w : Nat) : Nat := if w < r.minOf e k then 0 else w
  (List.range (r.ports e)).foldl (fun t k =>
    match r.portNbr s.boot.strap e k with
    | some (some f, _, q, _) => tset t (16 * e + k) (least k ((tget s.mgr.widths (16 * f + q)).getD 0))
    | some (none, _, _, _) =>
      tset t (16 * e + k) (least k <| ((r.edges.findSome? fun w => match w.far with
        | .chrohar c => if w.sw = e ∧ w.port = k then some c else none
        | _ => none).map fun c => if s.chGood r c (s.link.port c) then (s.link.port c).width else 0).getD 0)
    | none => tset t (16 * e + k) 0) s.mgr.widths

/-- Readmit an entry (R250); the flows of a heat that it is an endpoint of are cleared before it sends anything (R88). -/
def State.beginReadmit (s : State) (r : InstRecord) (e : Nat) : State :=
  let s := s.setMgr { s.mgr with
    probing := s.mgr.probing.filter (· != e), readmit := some e, seeded := false, widths := s.ownWidths r e
    disc := { s.mgr.disc with under := [] } }
  let clear : List MStep := match s.heatOfEntry e with
    | some (no, _) => [.clearRank no e, .wait]
    | none => []
  s.addJob (epochSteps false ++ clear ++ ((List.range (r.ports e + 1)).flatMap fun k => [.query e k, .wait]) ++
    [.seed e, .wait] ++ epochSteps false ++ [.stampEntry e, .wait, .entryIn e]) none

/-- A port that faces an entry is up (R250). -/
def Net.facedUp (n : Net) (e : Nat) : Bool :=
  (n.facingPorts e).any (fun x => n.width x.1 x.2 != 0) || (n.r.chFacing e).any fun p => n.chWidth p != 0

/-- The next entry that is probed and can be reached is readmitted, one at a time. -/
def State.nextReadmit (s : State) : State :=
  match s.net with
  | none => s
  | some n =>
    if s.mgr.fabricState != 2 || s.mgr.readmit.isSome then s
    else
      match s.mgr.probing.find? n.facedUp with
      | some e => s.beginReadmit n.r e
      | none => s

/-- A readmission stops: its steps go, and the entry's ports are held again (R250 step 3, R252). -/
def State.readmitStops (s : State) (e : Nat) : State :=
  let mine (x : MStep) : Bool := match x with
    | .query f _ | .seed f | .stampEntry f | .entryIn f => f == e
    | _ => false
  if s.mgr.readmit != some e then s
  else
    let cut (j : Job) : Job := { j with steps := j.steps.filter fun x => !mine x, waits := j.waits.filter fun w => !w.names e }
    let s := s.setMgr { s.mgr with jobs := s.mgr.jobs.map cut, readmit := none, seeded := false }
    let s := s.setDisc { s.mgr.disc with current := none, readmit := false }
    ((s.modEntry e fun x => { x with stamp := none }).holdFacing e true).answerReadmit e |>.requestEpoch

/-! ## Chrohar ports -/

/-- The reply to TOPO_PORT_RETRAIN: width code and state. -/
def State.portAnswer (s : State) (p cmd : Nat) : State :=
  let q := s.link.port p
  (s.finish cmd (ok [BitVec.ofNat 8 (codeOfWidth q.width).toNat, (stateCode q.state).setWidth 8])).requestEpoch

def State.retrainPort (s : State) (p : Nat) : State × List Wait :=
  let q := s.link.port p
  let s : State := { s with link := s.link.setPort p { q with state := .untrained, width := 0, nbrSeen := false, candCount := 0 } }
  (s.startTraining .chrohar p, [.training p])

/-- The list of unrouted pairs, of endpoints without a hub path and of entries that failed the rank check, in the reply to
ROUTE_FULL; its byte form is open. -/
opaque gapBytes : List (Nat × Nat) → List Nat → List (Nat × Nat) → List Byte

def State.routeAnswer (s : State) (cmd : Nat) : State :=
  match s.cmd cmd with
  | some c =>
    let m := s.mgr
    s.finish cmd (okData c (leBytes 4 m.unrouted.length ++ leBytes 4 m.unhubbed.length ++ leBytes 1 m.epoch.toNat)
      (gapBytes m.unrouted m.unhubbed m.rankBad))
  | none => s

/-! ## Takeover (R531, R532) -/

/-- R531, first part: a duplicate TBL_STATE with the last SEQ that the takeover point records as acknowledged. -/
def State.probeFlow (s : State) (e : Nat) : State × List Wait :=
  let key : FlowKey := { src := s.mgrEid, mcast := false, peer := BitVec.ofNat 18 e, laneKey := mgrKey }
  let a : Seq := ((s.hub.srcs.find? fun f => f.key == key).map (·.latest)).getD 0xFFFFFFFF#32
  let f := srcOf (s.hub.srcs.filter fun f => f.key != key) key 20
  let f := { f with next := a, latest := a - 1 }
  let p := mkTally (common mgrKey s.hubEpoch s.mgrEid (BitVec.ofNat 18 e) tCtrl) 0 (at' 128 0 0x03#8)
  (s.hubLaunch (srcOffer s.hubEpoch f p none), [.handover e])

/-- The two slots of a CTRL_REPLY to TBL_STATE: state and epoch (Table 9-6). -/
def tableSlots (b : BitVec 128) : List (BitVec 2 × BitVec 2) := [(field b 28 2, field b 30 2), (field b 32 2, field b 34 2)]

/-- Complete the flip or retire that the former active left pending (Table 15-5 step 6, Table 4-12): while an agent holds a slot
DRAINING of epoch e − 1, each one that still holds e STAGED flips, and after DRAIN_US every agent retires e − 1. With nothing pending,
the epoch that the agents hold CURRENT is the current one. -/
def State.completeSlots (s : State) : State × List Wait :=
  let all := s.mgr.slotsSeen.flatMap fun x => tableSlots x.2
  let setEpoch (s : State) (e : BitVec 2) : State :=
    ({ s with link := { s.link with
      current := { s.link.current with epoch := e }, other := { s.link.other with epoch := e + 1 } } } : State).setMgr
        { s.mgr with epoch := e, slotsSeen := [] }
  match all.find? fun x => x.1 == slotCode .draining, all.find? fun x => x.1 == slotCode .current with
  | some x, _ =>
    let e := x.2 + 1
    let late := (s.mgr.slotsSeen.filter fun y => (tableSlots y.2).contains (slotCode .staged, e)).map (·.1)
    let s := setEpoch s e
    let s := match s.mgr.jobs with
      | j :: rest =>
        let more : List MStep := [.wait, .drain, .wait, .retire, .wait]
        s.setMgr { s.mgr with jobs := { j with steps := more ++ j.steps } :: rest }
      | [] => s
    (s.setRouting 3).sendAll (fun s a => (s.sendCtrl a 0x01 (at' 128 8 e), [.reply a 0x01])) late
  | none, some x => (setEpoch s x.2, [])
  | none, none => (s.setMgr { s.mgr with slotsSeen := [] }, [])

/-- Later packets to every agent are numbered from 0 (R531). -/
def State.freshFlows (s : State) : State :=
  s.dropHubFlows (fun f => f.key.laneKey == mgrKey && !f.key.mcast) fun _ => false

/-- ADMIT with an agent's expected stamp (R531). -/
def State.restampEntry (s : State) (e : Nat) : State × List Wait :=
  (s.sendCtrl e 0x09 (at' 128 8 ((s.entry e).stamp.getD 0)), [.reply e 0x09])

/-- The saved step that the mirror holds of a heat (R523, R532). -/
def State.mirrored (s : State) (no : Nat) (h : Heat) : Option Saved :=
  h.mirrored.bind fun step =>
    (([tget s.ember.mirrorA no, tget s.ember.mirrorB no].filterMap id).find? fun m => m.complete && m.step == step).bind
      fun m => savedOf m.pages

/-- A heat with a running plan after a takeover (R532): its open steps have ended; it resumes from its MIRRORED_STEP, and
stops when that is absent. -/
def State.resumeMirrored (s : State) (no : Nat) : State :=
  match tget s.mgr.heats no with
  | none => s
  | some h =>
    if !h.active || s.releasing no then s
    else
      match s.mirrored no h with
      | none => (s.modPlan no fun p => { p with lastSaved := none }).stopHeat no sAborted
      | some x =>
        let s := (s.abortSteps no).modPlan no fun p => { p with lastSaved := some x }
        match s.net with
        | some n =>
          let gone := (h.carriers n.r).filter fun e => (s.entry e).service != .inService
          if !gone.isEmpty then
            gone.foldl (fun s e => s.loseEndpoint e false) (s.modHeat no fun h => { h with restore := true })
          else if !s.heatStands n no h then s.restart no
          else (s.modHeat no fun h => { h with state := 2, rollback := (0, 0), retries := [], restore := true }).addJob
            (s.restoring no true) (some no)
        | none => s

/-- The 256 bytes of the RED_TAKEOVER reply in a TAKEN packet (R534, Table 10-6); the former active fills in its command's SEQ. -/
def State.takenReply (s : State) : List Byte :=
  leBytes 4 0 ++ leBytes 2 0x0B03 ++ bvBytes sOk ++ leBytes 2 0xFFFF ++ leBytes 6 0 ++ bvBytes s.lap ++ leBytes 8 0 ++
    List.replicate 224 0

/-- Step 6 of Table 15-5 has ended: the module is the active, its heats resume, and it mirrors to a standby again. -/
def State.takeoverEnds (s : State) : State :=
  let planned := s.ember.handover
  let s : State := { s with ember := { s.ember with takeover := false, handover := false, active := true } }
  let s := (tkeys s.mgr.heats).foldl State.resumeMirrored (s.setFabric 2)
  let s := if s.ember.paired then s.startSync else s
  let e := s.ember
  s.setEmber { e with
    state := if e.paired && !e.up0 && !e.up1 then .lost else e.state
    urgent := if planned then emberPkt 0x0B 0 0 s.takenReply :: e.urgent else e.urgent
    slotA := ImageSlot.reset, slotB := ImageSlot.reset, journalRx := [], mirrorA := [], mirrorB := [], configRx := [] }

/-! ## One step -/

/-- Take the endpoint's fence back (R220): its local port first, then the operation. -/
def State.unfenceOne (s : State) (no rank : Nat) : State × List Wait :=
  match s.net, (tget s.mgr.heats no).bind fun h => s.mgr.record.bind fun r => h.entryOf r rank with
  | some n, some e =>
    let keys := n.allowed s.mgr.runs (s.fencedEntries.filter (· != e)) s.boundaryEntries e 16
    let k := s.sendKey e 16 (keyEntryOf keys)
    let seq := k.1.mgr.fenceSeq + 1
    let s := k.1.setMgr { k.1.mgr with fenceSeq := seq }
    (s.sendCtrl e 0x06 (at' 128 8 seq), k.2 ++ [.unfenced e])
  | _, _ => (s, [])

/-- What a step does, and what the procedure then waits for. -/
def State.doStep (s : State) (x : MStep) : State × List Wait :=
  match x with
  | .wait => (s, [])
  | .compute full => (s.setRouting 1, [.compute full])
  | .widen => s.sendKeys true
  | .loadRound es => s.sendAll State.loadOne es
  | .flip => s.flipAll
  | .drain => (s, [.drain])
  | .retire => s.retireAll
  | .keys => (s.setRouting 0).sendKeys false
  | .runsRest ids => s.eachRun ids Run.restItems
  | .runsTrim id gone =>
    let back := ((tget s.mgr.runs id).map Run.agents).getD []
    s.sendRuns id ((gone.filter fun a => !back.contains a).map fun a => (a, 0))
  | .runsSource ids => s.eachRun ids fun r => r.sourceItem true
  | .runsStop ids => s.eachRun ids fun r => r.sourceItem false
  | .runsClear ids =>
    let r := s.eachRun ids fun r => r.agents.map fun a => (a, 0)
    let s := r.1.dropRuns ids
    (if s.capsWait then s else s.recheckCaps, r.2)
  | .awaitTeardown => (s, [.teardown])
  | .assign no => s.stepAssign no
  | .assignTo no e => s.assignSpare no e
  | .unassign no => s.unassignAll no
  | .carved no q => (s.carveEnds no q, [])
  | .undone no q => ((s.undoCarve no q).recheckCaps, [])
  | .loaded no => (s.loadChecked no, [])
  | .leave no => (s.modHeat no fun h => { h with leaving := true }, [])
  | .released no keep cmd => (s.releaseEnds no keep cmd, [])
  | .clearDst no => s.clearSide no true
  | .clearSrc no => s.clearSide no false
  | .failDst k ends => s.clearFailedDst k ends
  | .failSrc k => s.clearFailedSrc k
  | .retry no k => (s.retryFlow no k, [])
  | .retried no => (s.modHeat no fun h => { h with fails := [] }, [])
  | .resume no post => (s.resumePlan no post, [])
  | .changed no => (s.trouble (.changed no), [])
  | .clearRank no e => s.clearRank no e
  | .unfence no rank _ => s.unfenceOne no rank
  | .unfenced no e cmd =>
    let still := (tget s.mgr.heats no).any fun h => h.fenced.contains e
    (match cmd with
    | some id => s.finish id (if still then fail sBusy else ok [])
    | none => s, [])
  | .bridges no rank spare on => s.bridgeAll no rank spare on
  | .spliced no rank spare back => (s.spliceEnds no rank spare back, [])
  | .query e page =>
    ((s.setDisc { s.mgr.disc with readmit := true }).sendQuery { entry := e, via := none, port := 0xFF, page := page, tries := 1 },
      [.page e])
  | .seed e => s.seedEntry e
  | .stampEntry e => s.nextGen.sendStamp e
  | .stampAll => s.nextGen.sendAll State.sendStamp s.liveEntries
  | .entryIn e => (s.entryServes e, [])
  | .hold e => (s.holdFacing e true, [])
  | .holdPorts ports => s.holdPorts ports true
  | .slotsAll => s.ctrlAll 0x03 0
  | .slotsDone => s.completeSlots
  | .retrain p => s.retrainPort p
  | .portReply p cmd => (s.portAnswer p cmd, [])
  | .routeReply cmd => (s.routeAnswer cmd, [])
  | .inService => (((s.setMgr { s.mgr with heatSeq := 0 }).setFabric 2).discoverAnswer, [])
  | .prEnd => (s, [])
  | .handover => s.sendAll State.probeFlow s.liveEntries
  | .clearFlows => s.ctrlAll 0x0A (clearArgs s.mgrEid mgrKey false true true none)
  | .restamp => s.freshFlows.sendAll State.restampEntry s.liveEntries
  | .takenOver => (s.takeoverEnds, [])

/-! ## Going on -/

/-- The next step of the procedure in hand, or the end of that procedure; none when it waits, or nothing is in hand. One that waits
for a port's training lets the others pass (R432). -/
def State.jobStep (s : State) : Option State :=
  match s.mgr.jobs with
  | [] => none
  | j :: rest =>
    match j.steps with
    | [] => some (s.setMgr { s.mgr with jobs := rest })
    | .prEnd :: more =>
      if s.reconciling then none else some (s.setMgr { s.mgr with jobs := { j with steps := more } :: rest })
    | .wait :: more =>
      if j.waits.isEmpty then some (s.setMgr { s.mgr with jobs := { j with steps := more } :: rest })
      else if j.trains && rest.any (fun x => !x.trains) then some (s.setMgr { s.mgr with jobs := rest ++ [j] })
      else none
    | x :: more =>
      let r := (s.setMgr { s.mgr with jobs := { j with steps := more } :: rest }).doStep x
      some (r.1.addWaits r.2)

/-- Decide what has come up, and go on with the procedure in hand, as far as it goes. -/
def State.pump : Nat → State → State
  | 0, s => s
  | fuel + 1, s =>
    let s := if s.reconciling then s
      else (State.decideAll (s.mgr.troubles.length + 8) s).gathersDone.boundariesDone.nextReadmit
    match s.jobStep with
    | some s => State.pump fuel s
    | none => s

/-- Steps that the manager may take at most: those in hand, and those that they and what has come up may add. -/
def Mgr.fuel (m : Mgr) : Nat := 64 + 8 * (m.jobs.map fun j => j.steps.length + 4).sum + 64 * m.troubles.length

def State.settle (s : State) : State := if s.mgrRuns then State.pump s.mgr.fuel s else s

/-- A happening that the manager takes: only while it is there (R436), and it then goes on with its work. -/
def State.asMgr (s : State) (f : State → State) : State := if s.mgrRuns then (f s).settle else s

end Sys2Proof.Machine
end

