-- ==== Sys2Proof/Machine/HeatCmds.lean ====
section
/-! DEFINITION. The heat queue and the plan commands: carves, releases, fences, plan loads, and the forge state's import
and export (05_heats.md R193 to R222; 07_collectives.md R298 to R303; 10_host_commands.md R399 to R404). -/

namespace Sys2Proof.Machine

open Sys2Proof

/-! ## Entering the queue (R193, R198) -/

/-- A heat command enters the queue. -/
def State.enterQueue (s : State) (id : Nat) (op : HeatOp) : State × Option Ans := (s.enqueueHeat op (some id), none)

/-- HEAT_CARVE (R196, R198). -/
def execHeatCarve (id : Nat) (s : State) : Host.Outcome State Fault Refusal :=
  .next (s.run 0x0401 id fun c s => s.enterQueue id (.carve (BitVec.ofNat 64 (c.num 32 8)) none))

/-- HEAT_RELEASE (R221). -/
def execHeatRelease (id : Nat) (s : State) : Host.Outcome State Fault Refusal :=
  .next (s.run 0x0402 id fun c s => s.enterQueue id (.release (c.num 32 2) (c.bit 34 0)))

/-- HEAT_FENCE (R215). -/
def execHeatFence (id : Nat) (s : State) : Host.Outcome State Fault Refusal :=
  .next (s.run 0x0403 id fun c s => s.enterQueue id (.fence (c.num 32 2) (c.num 36 2)))

/-- HEAT_UNFENCE (R220). -/
def execHeatUnfence (id : Nat) (s : State) : Host.Outcome State Fault Refusal :=
  .next (s.run 0x0404 id fun c s => s.enterQueue id (.unfence (c.num 32 2) (c.num 36 2)))

/-! ## Carving (Table 5-3) -/

/-- Rows 1 and 2. -/
def carveWordBad (w : BitVec 64) : Bool :=
  field w 50 14 != 0 || 6 ≤ carveOrder w || axes.any fun a => carveCode w a == 3

/-- Rows 3 to 5, against the pod's extents. -/
def carveBad (r : InstRecord) (w : BitVec 64) : Bool :=
  (axes.any fun a => carveExt w a == 0 || r.extent a < carveExt w a) ||
    (carvePlace w && axes.any fun a => r.extent a < carveOrigin w a + carveExt w a) ||
    axes.any fun a => (carveCode w a == 1 || carveCode w a == 2) && carveExt w a == 1 && 2 ≤ r.extent a

/-- Axes with closure code 0b01 that the heat does not own. -/
def mustClose (r : InstRecord) (w : BitVec 64) : List Axis :=
  axes.filter fun a => carveCode w a == 1 && carveExt w a < r.extent a

/-- Rows 7 to 10. -/
def State.carveQuota (s : State) (r : InstRecord) (records : Tab (BitVec 64)) (w : BitVec 64) : Option Ans :=
  let t := carveTenant w
  let v := tenantRec records t
  let mine := s.mgr.heats.filter fun h => h.2.tenant == t
  let size := carveExt w .x * carveExt w .y * carveExt w .z
  if !recEnabled v || recHeats v ≤ mine.length || recEndpoints v < (mine.map fun h => h.2.size).sum + size then
    some (fail sQuota)
  else if !(mustClose r w).isEmpty && !recGuestOk v then some (fail sQuota)
  else if 4096 ≤ s.mgr.heats.length then some (fail sTableFull)
  else if 4096 - s.mgr.runs.length < runsFor w (mustClose r w) then some (fail sTableFull)
  else none

/-- The first row of Table 5-3 that applies, before placement. -/
def State.carveChecks (s : State) (src : Option Source) (records : Tab (BitVec 64)) (w : BitVec 64) : Option Ans :=
  if carveWordBad w || (src.any fun x => !x.mayNameTenant (carveTenant w)) then some (bad 32)
  else
    match s.mgr.record with
    | none => some (fail sTopology)
    | some r =>
      if carveBad r w then some (bad 32)
      else if s.mgr.fabricState = 3 then some (fail sTopology)
      else if s.mgr.fabricState ≠ 2 then some (fail sBusy)
      else s.carveQuota r records w

/-- A heat command ends at the head of the queue; the end of a restart's carve stops the work (R241). -/
def State.endQueued (s : State) (q : Queued) (a : Ans) : State :=
  let s := match q.cmd with
    | some id => s.finish id a
    | none => s
  match q.op with
  | .carve w (some r) => s.restartFails r.heat (carveTenant w) r a.status
  | _ => s

/-- The procedure in hand is an epoch switch whose loading has not begun (R166). -/
def State.computing (s : State) : Bool :=
  match s.mgr.jobs with
  | [j] => j.heat.isNone && j.waits.any (· matches .compute _)
  | _ => false

/-- A carve may share that switch (R214), but not a release's: its heat number is free only when it has ended. -/
def State.joinable (s : State) : Bool :=
  s.computing && !(s.mgr.jobs.any fun j => j.steps.any fun x => x matches .released _ _ _ | .undone _ _)

/-- A placed carve: heat number, runs, and the steps of R212; it joins a computation that has not ended. -/
def State.setUpHeat (s : State) (n : Net) (q : Queued) (h : Heat) (transits : List Axis) : State :=
  let no := lowestFree s.mgr.heats 4096 0
  let r := addRuns s.mgr.runs (n.transitRuns no h transits)
  let s := s.setMgr { s.mgr with runs := r.1, heats := tset s.mgr.heats no { h with runs := r.2 } }
  let more : List MStep := setUp r.2 ++ [.assign no, .wait, .carved no q]
  if s.joinable then s.onHead fun j => { j with steps := j.steps ++ more } else s.addJob (epochSteps false ++ more) none

/-- A carve at the head of the queue (R199 to R203). -/
def State.carve (s : State) (q : Queued) (w : BitVec 64) : State :=
  match s.carveChecks ((q.cmd.bind s.cmd).map (·.src)) q.records w, s.net with
  | some a, _ => s.endQueued q a
  | none, none => s.endQueued q (fail sTopology)
  | none, some n =>
    match (s.placing n q.records).search w q.seq with
    | none => s.endQueued q (fail sNoPlace)
    | some (h, ts) => s.setUpHeat n q h ts

/-! ## Releases (R221) -/

/-- Clear the bridges of every splice of a heat. -/
def Heat.unbridge (h : Heat) (no : Nat) : List MStep :=
  if h.splices.isEmpty then [] else (h.splices.map fun x => MStep.bridges no x.1 x.2 false) ++ [.wait]

/-- What comes before the computation of a release (R221). -/
def State.leaving (s : State) (no : Nat) (h : Heat) : List MStep :=
  h.unbridge no ++ [.unassign no, .wait] ++ tearDown (s.runsOf no) ++ [.leave no]

/-- A release at the head of the queue. It joins a computation that has not ended, which starts again with its change (R166,
Table 4-12). -/
def State.releaseHeat (s : State) (q : Queued) (no : Nat) (h : Heat) (keep : Bool) : State :=
  let busy := s.computing
  let s := (((s.abandon no).abortLoad no).abortSteps no).modHeat no fun h => { h with assigned := false }
  if busy && s.computing then
    s.onHead fun j =>
      let full := j.waits.contains (.compute true)
      { j with
        steps := s.leaving no h ++ [.compute full] ++ j.steps ++ [.released no keep q.cmd]
        waits := j.waits.filter fun w => !(w matches .compute _) }
  else s.addJob (s.leaving no h ++ epochSteps false ++ [.released no keep q.cmd]) none

/-! ## Fences -/

/-- An unfence at the head of the queue (R220). -/
def State.unfenceHeat (s : State) (q : Queued) (no rank : Nat) (h : Heat) (e : Nat) : State :=
  if !h.fenced.contains e then s.endQueued q (bad 36)
  else if (s.entry e).boundary || !s.liveEntries.contains e then s.endQueued q (fail sBusy)
  else s.addJob [.clearRank no e, .wait, .unfence no rank q.cmd, .wait, .unfenced no e q.cmd] none

/-- One command of the queue at its head (R198). -/
def State.heatCommand (s : State) (q : Queued) : State :=
  let src := (q.cmd.bind s.cmd).map (·.src)
  let heat (no : Nat) : Option Heat := match src with
    | some x => s.heatFor x no
    | none => tget s.mgr.heats no
  match q.op with
  | .carve w _ => s.carve q w
  | .release no keep =>
    match heat no with
    | some h => s.releaseHeat q no h keep
    | none => s.endQueued q (bad 32)
  | .fence no rank =>
    match heat no, s.mgr.record with
    | some h, some r =>
      match h.entryOf r rank with
      | none => s.endQueued q (bad 36)
      | some e => if h.fenced.contains e then s.endQueued q (fail sFenced) else s.startFence e no q.cmd none
    | _, _ => s.endQueued q (bad 32)
  | .unfence no rank =>
    match heat no, s.mgr.record with
    | some h, some r =>
      match h.entryOf r rank with
      | none => s.endQueued q (bad 36)
      | some e => s.unfenceHeat q no rank h e
    | _, _ => s.endQueued q (bad 32)

/-- A heat is still being carved (Table 5-10). -/
def State.carving (s : State) (no : Nat) : Bool :=
  s.mgr.jobs.any fun j => j.steps.any fun x => match x with
    | .carved k _ => k == no
    | _ => false

/-- A command of the heat queue joins the epoch that is being computed (R166): a carve, and a release or a fence of a heat that is
open. -/
def State.joins (s : State) (op : HeatOp) : Bool :=
  match op with
  | .carve _ _ => s.joinable
  | .release no _ => s.computing && !s.carving no
  | .fence no _ => s.computing && !s.carving no
  | .unfence _ _ => false

/-- The head of the queue is served when the manager has no procedure in hand, and while it can share the epoch that is being
computed. -/
def State.queueHead (s : State) : State :=
  let free := s.mgr.jobs.isEmpty || s.mgr.fabricState != 2
  match s.mgr.queue with
  | [] => s
  | q :: rest => if free || s.joins q.op then (s.setMgr { s.mgr with queue := rest }).heatCommand q else s

/-- HEAT_QUEUE_HEAD (R199). -/
def execHeatQueueHead (s : State) : Host.Outcome State Fault Refusal := .next (s.asMgr State.queueHead)

/-! ## Plans -/

/-- Load an image on a heat that a command names (R299, R401). -/
def State.loadBy (s : State) (c : Cmd) (image : PlanImage) (supplied : Nat) (enter : Bool) : State × Option Ans :=
  let no := c.num 32 2
  match s.heatFor c.src no, s.net with
  | some h, some n =>
    if h.plan.isSome || s.loading no then (s, some (fail sBusy))
    else if 1 < c.num 35 1 then (s, some (bad 35))
    else
      let q : LoadAsk :=
        { image := image, supplied := supplied, stochastic := c.num 35 1 == 1, seed := BitVec.ofNat 64 (c.num 40 8)
          resume := c.num 48 8, savedId := c.num 56 8, hold := c.bit 34 1, enter := enter, cmd := some c.id, restart := none
          moved := if readsBuffer c.opcode then supplied else 0 }
      match s.loadPlan n no h q with
      | .inl a => (s, some a)
      | .inr s => ((s.startLoad no).settle, none)
  | _, _ => (s, some (bad 32))

/-- PLAN_LOAD (R298, R299) of the bytes in the command's data buffer. -/
def execPlanLoad (id : Nat) (image : PlanData) (s : State) : Host.Outcome State Fault Refusal :=
  .next (s.run 0x0501 id fun c s => s.loadBy c (readImage image.bytes image.sections) c.dataLen (!c.bit 34 0))

/-- PLAN_LOAD_CACHED (R303, R401): on a heat without a plan; an uncorrectable word of the entry ends it (R31). -/
def execPlanLoadCached (x : CachedLoad) (s : State) : Host.Outcome State Fault Refusal :=
  .next (s.run 0x0502 x.id fun c s =>
    match s.heatFor c.src (c.num 32 2) with
    | none => (s, some (bad 32))
    | some h =>
      if h.plan.isSome || s.loading (c.num 32 2) then (s, some (fail sBusy)) else
      match s.mem.cache.find? fun e => e.tenant == h.tenant && e.image.hash == c.hash 64 with
      | none => (s, some (s.cacheMiss c))
      | some e => if x.dataError || e.torn then (s, some (fail sDataError)) else s.loadBy c e.image e.image.imageBytes true)

/-- A plan of a heat that is held after its load (R401). -/
def Heat.heldPlan (h : Heat) : Bool := h.state == 1 && h.plan.any (·.held)

/-- PLAN_GO (R401); a heat whose load has not replied holds no plan yet. -/
def execPlanGo (id : Nat) (s : State) : Host.Outcome State Fault Refusal :=
  .next (s.run 0x0503 id fun c s =>
    let no := c.num 32 2
    match s.heatFor c.src no with
    | none => (s, some (bad 32))
    | some h =>
      if !h.heldPlan then (s, some (bad 32))
      else (s.beginPlan no, some (ok [])))

/-- End the plan of a heat (R403): its steps end, its saved step is kept or goes, its placement, groups and runs are
freed. -/
def State.stopPlan (s : State) (no : Nat) (h : Heat) (keep : Bool) : State × Nat :=
  let s := s.abandon no
  let s := if h.state = 3 then s else s.abortSteps no
  let kept := if h.keptId = 0 then (if keep then s.keepLast no else (s, 0))
    else if keep then (s, h.keptId)
    else (s.setMem (s.mem.dropKept h.keptId), 0)
  let ids := kept.1.planRuns no
  let s := (kept.1.freePlan no).modHeat no fun h => { h with keptId := 0 }
  (if ids.isEmpty then s else s.addJob (tearDown ids) none, kept.2)

/-- PLAN_STOP (R403). A heat in STATE 3 may have nothing left but its kept state. -/
def execPlanStop (id : Nat) (s : State) : Host.Outcome State Fault Refusal :=
  .next (s.run 0x0504 id fun c s =>
    let no := c.num 32 2
    match s.heatFor c.src no with
    | none => (s, some (bad 32))
    | some h =>
      if h.plan.isNone && h.state ≠ 3 then (s, some (bad 32))
      else if s.loading no then (s, some (fail sBusy))
      else
        let r := s.stopPlan no h (c.bit 34 0)
        (r.1.settle, some (ok (leBytes 8 0 ++ leBytes 8 r.2))))

/-! ## State import and export (R402) -/

/-- The value of an element that WHAT names: 0 the master weight, 1 to 4 a slot. -/
def Elem.part (e : Elem) (what : Nat) : BitVec 32 :=
  match what with
  | 0 => e.w
  | 1 => e.s1
  | 2 => e.s2
  | 3 => e.s3
  | _ => e.s4

def Elem.putPart (e : Elem) (what : Nat) (v : BitVec 32) : Elem :=
  match what with
  | 0 => { e with w := v }
  | 1 => { e with s1 := v }
  | 2 => { e with s2 := v }
  | 3 => { e with s3 := v }
  | _ => { e with s4 := v }

/-- Bytes of one value: FP32 for a weight, MOM_FMT of its segment for a slot. -/
def valueBytes (u : UpdateSec) (what i : Nat) : Nat :=
  if what = 0 then 4 else if (u.segOf i).any fun x => x.1.momFmt == 1 then 2 else 4

/-- The program of an element uses a slot. -/
def usesPart (u : UpdateSec) (what i : Nat) : Bool :=
  what == 0 || (u.segOf i).any fun x => what ≤ slotsOf u x.1

/-- The forge reduce of an image, with its update section. -/
def imageForge (im : PlanImage) : Option (CollDesc × UpdateSec) :=
  im.update.bind fun u => (im.colls.find? fun d => d.collId == u.forgeColl).map fun d => (d, u)

/-- What is wrong with the range of an import or export. -/
def rangeFault (d : CollDesc) (u : UpdateSec) (c : Cmd) : Option Ans :=
  let what := c.num 34 1
  let first := c.num 40 8
  let count := c.num 48 8
  if 4 < what then some (bad 34)
  else if count = 0 then some (bad 48)
  else if d.elements ≤ first then some (bad 40)
  else if d.elements < first + count then some (bad 48)
  else if (List.range count).all fun i => usesPart u what (first + i) then none
  else some (bad 34)

/-- Bytes of the first n values of a range: where value n stands in the data buffer. -/
def valueAt (u : UpdateSec) (what first n : Nat) : Nat :=
  ((List.range n).map fun i => valueBytes u what (first + i)).sum

/-- Bytes of a range of values. -/
def rangeBytes (u : UpdateSec) (c : Cmd) : Nat := valueAt u (c.num 34 1) (c.num 40 8) (c.num 48 8)

def Forge.rangeFault (f : Forge) (c : Cmd) : Option Ans := Sys2Proof.Machine.rangeFault f.desc f.sec c

def Forge.rangeBytes (f : Forge) (c : Cmd) : Nat := Sys2Proof.Machine.rangeBytes f.sec c

/-- The values of a data buffer go into the elements of a range, in ascending order (R402). -/
def importValues (u : UpdateSec) (what first count : Nat) (data : List Byte) (t : Tab Elem) : Tab Elem :=
  (List.range count).foldl (fun t n =>
    let v := BitVec.ofNat 32 (natAt data (valueAt u what first n) (valueBytes u what (first + n)))
    putElem t (first + n) ((elemOf t (first + n)).putPart what v)) t

/-- The values of a range as the data buffer holds them (R402). -/
def exportValues (u : UpdateSec) (what first count : Nat) (t : Tab Elem) : List Byte :=
  (List.range count).flatMap fun n =>
    bytesAt (bvBytes ((elemOf t (first + n)).part what)) 0 (valueBytes u what (first + n))

/-- STATE_IMPORT (R401, R402): only on a held plan that has not begun, with what the data buffer holds. -/
def execStateImport (id : Nat) (data : List Byte) (s : State) : Host.Outcome State Fault Refusal :=
  .next (s.run 0x0603 id fun c s =>
    let no := c.num 32 2
    match s.heatFor c.src no with
    | none => (s, some (bad 32))
    | some h =>
      if s.loading no || !h.heldPlan then (s, some (fail sBusy))
      else
        match s.forgeOf no with
        | none => (s, some (bad 32))
        | some f =>
          match f.rangeFault c with
          | some a => (s, some a)
          | none =>
            if c.dataLen < f.rangeBytes c then (s, some (bad 24))
            else
              (s.modPlan no fun p => { p with
                elems := importValues f.sec (c.num 34 1) (c.num 40 8) (c.num 48 8) (c.buffer data) p.elems },
                some { ok [] with bytes := f.rangeBytes c }))

/-- What STATE_EXPORT reads: the last saved step under the heat's plan, or a saved state of its tenant under the image
kept with it, or else the plan's (R402). -/
def State.exportFrom (s : State) (h : Heat) (savedId : Nat) : Option (Option Saved × PlanImage) :=
  if savedId = 0 then h.plan.map fun p => (p.lastSaved, p.image)
  else
    match s.mem.saved.find? fun x => x.savedId == savedId && x.tenant == h.tenant with
    | none => h.plan.map fun p => (none, p.image)
    | some x => ((x.image.orElse fun _ => (h.plan.map (·.image)).filter fun im => im.hash == x.hash)).map fun im => (some x, im)

/-- STATE_EXPORT (R402): from the heat's last saved step, or from a saved state of its tenant with its image. -/
def execStateExport (id : Nat) (dataError : Bool) (s : State) : Host.Outcome State Fault Refusal :=
  .next (s.run 0x0604 id fun c s =>
    match (s.heatFor c.src (c.num 32 2)).bind fun h => s.exportFrom h (c.num 56 8) with
    | none => (s, some (bad (if (s.heatFor c.src (c.num 32 2)).isSome && c.num 56 8 != 0 then 56 else 32)))
    | some (x, im) =>
      match imageForge im with
      | none => (s, some (bad 32))
      | some (d, u) =>
        match rangeFault d u c with
        | some a => (s, some a)
        | none =>
          match x with
          | none => (s, some (bad 56))
          | some x =>
            if dataError || x.torn then (s, some (fail sDataError))
            else (s, some (okData c [] (exportValues u (c.num 34 1) (c.num 40 8) (c.num 48 8) x.elems))))

/-- The code of a signed exponent, in two bytes. -/
def expBytes (v : Int) : List Byte := bvBytes (BitVec.ofInt 16 v)

/-- UPDATE_QUERY (R399). -/
def execUpdateQuery (id : Nat) (s : State) : Host.Outcome State Fault Refusal :=
  .next (s.ask 0x0605 id fun c s =>
    match s.heatFor c.src (c.num 32 2), s.forgeOf (c.num 32 2) with
    | some _, some f =>
      ok (expBytes f.plan.lsExp ++ leBytes 6 0 ++ leBytes 8 f.plan.applied ++ bvBytes f.plan.lastNorm ++ bvBytes f.plan.flags)
    | _, _ => bad 32)

/-! ## Memory -/

/-- CACHE_SET (R301, R410). -/
def execCacheSet (id : Nat) (s : State) : Host.Outcome State Fault Refusal :=
  .next (s.run 0x0702 id fun c s =>
    let gib := c.num 32 4
    let room := gib * gibPages
    if 256 < gib then (s, some (bad 32))
    else if room < cacheUse (s.mem.cache.filter s.pinned) then (s, some (fail sBusy))
    else if ((List.range 16).map (s.mem.placeable .c)).sum < room then (s, some (fail sShortMemory))
    else ((s.evict room (room / 16) s.mem.cache.length).store id [] fun k => { k with cacheGib := gib }, none))

/-- A page has been quenched (R468): it is free, its key goes with the last page of an older generation (R466), and loads that waited
for it go on (R331). -/
def State.quenchPage (s : State) : State :=
  match takePage (fun x => x.use.quenching) s.mem.sets with
  | none => s
  | some (x, sets) =>
    let s := (s.setMem { s.mem with sets := sets }).retireKey x.tenant
    let ready := (s.mem.loads.filter fun w => w.waiting &&
      (s.planOf w.heat).any fun p => !s.mem.unsettled p.place).map (·.heat)
    let go (w : LoadWait) : LoadWait := if ready.contains w.heat then { w with waiting := false } else w
    let s := s.setMem { s.mem with loads := s.mem.loads.map go }
    (ready.foldl State.beginLoad s).settle

/-- QUENCH_PAGE_DONE (R468). -/
def execQuenchPageDone (s : State) : Host.Outcome State Fault Refusal := .next s.quenchPage

/-! ## The Hearths -/

/-- HEARTH_GRADIENT_RECEIVE (R327). -/
def execHearthGradientReceive (h : Nat) (dataError : Bool) (s : State) : Host.Outcome State Fault Refusal :=
  .next (s.asMgr fun s => s.receiveGrad h dataError)

/-- MESH_TRANSFER_ACCEPT (R327). -/
def execMeshTransferAccept (h : Nat) (s : State) : Host.Outcome State Fault Refusal := .next (s.asMgr fun s => s.acceptRefused h)

/-- The tier of an operand: 0 P, 1 B, 2 C. -/
def tierOf (n : Nat) : Option Tier :=
  match n with
  | 0 => some .p
  | 1 => some .b
  | 2 => some .c
  | _ => none

/-- HEARTH_RECORD_UPDATE (R325, R332): a tier has read the next record of a Hearth. -/
def execHearthRecordUpdate (h : Nat) (x : TierRead) (s : State) : Host.Outcome State Fault Refusal :=
  .next (match tierOf x.tier with
    | some t => s.asMgr fun s => s.recordAt h t x.dataError
    | none => s)

/-- HEARTH_PASS_END (R318). -/
def execHearthPassEnd (h : Nat) (s : State) : Host.Outcome State Fault Refusal := .next (s.asMgr fun s => s.passEndAt h)

/-- NORM_DECISION (R320). -/
def execNormDecision (s : State) : Host.Outcome State Fault Refusal := .next (s.asMgr State.normDecision)

end Sys2Proof.Machine
end

