-- ==== Sys2Proof/Machine/BringUp.lean ====
section
/-! DEFINITION. Bring-up: power-on, the bellows, the start-up tests, firmware boot, the first discovery, and the restarts
(11_bringup_power_reset.md R411 to R429; 15_standby_and_hotplug.md R516, R517; 16_module_signals_electrical.md R542, R545,
R547, R554, R557). -/

namespace Sys2Proof.Machine

open Sys2Proof

def State.setBoot (s : State) (b : Boot) : State := { s with boot := b }

/-- The trust die keeps a happening in its own flash until the recorder starts (R508). -/
def State.ownNote (s : State) (code : Nat) (detail : List Byte) : State :=
  { s with trust := { s.trust with
    ownNotes := s.trust.ownNotes ++
      [{ code := BitVec.ofNat 16 code, unit := 0, count := 1, first := s.opS, last := s.opS, detail := leBytes 2 code ++ detail }] } }

/-! ## Every die but the trust die stops (R415, R542) -/

/-- All pages of the memory tiers under quench, of no tenant (R467). -/
def quenchedSets : List PageSet :=
  [Tier.p, Tier.b, Tier.c].flatMap fun t => (List.range (tierPiles t)).map fun i =>
    { tier := t, pile := i, count := tierPages t, tenant := noTenant, gen := 0, use := .quench }

/-- What the trust die itself loses with the other dies: keys, quotes asked for, and what it holds of sessions. -/
def Trust.lose (t : Trust) : Trust :=
  { t with gens := [], keys := [], moduleKey := false, quotes := [], sessions := [], failures := [], blocked := [] }

def Fw.lose (f : Fw) : Fw :=
  { f with running := none, activating := none, health := 0, imageSaved := false, noImage := false }

def Cfg.lose (c : Cfg) : Cfg :=
  { c with live := Stored.reset, seq := 0, writing := none, writeCmds := [], nextCmds := [], shadow := [] }

/-- Bring-up begins again; what the board and the trust die know stays. -/
def Boot.again (b : Boot) (stage : Stage) : Boot :=
  { Boot.reset with
    stage := stage, switchOn := b.switchOn, strap := b.strap, restarts := b.restarts, coolant := b.coolant
    coolFlow := b.coolFlow, railFaults := b.railFaults, perst := b.perst, dynAddr := b.dynAddr, inputWatts := b.inputWatts
    hottest := b.hottest }

/-- Every die but the trust die is held in reset or off, and bring-up stands at a stage. -/
def State.blank (s : State) (stage : Stage) : State :=
  { s.stopRecorder with
    link := { LinkTiles.reset with dieFaults := s.link.dieFaults, outFaults := s.link.outFaults }, hub := Hub.reset, mgr := Mgr.reset, hif := { HostIf.reset with nextId := s.hif.nextId }
    mem := { Mem.reset with sets := quenchedSets, nextId := s.mem.nextId }, boot := s.boot.again stage
    trust := s.trust.lose, fw := s.fw.lose, ember := { Ember.reset with grant := s.ember.grant }, cfg := s.cfg.lose, lap := 0 }

/-- A clock-loss restart (R415): a tongs session ends and is recorded (R473); then bring-up goes from step 2, and the holder of the grant is the active as at a power-on; or, for a module without
the grant, into standby. -/
def State.clockRestart (s : State) : State :=
  let s := (s.stopRecorder.endSessions fun x => x.tongs).blank (if s.ember.grant then .pllWait else .standby)
  let s : State := { s with ember := { s.ember with active := s.ember.grant } }
  s.setBoot { s.boot with restarts := s.boot.restarts + 1 }

/-- A clear that was accepted and has not replied when power is lost may have erased some records; how many, oldest first, is an open
value (Table 14-5). -/
def State.cutClear (s : State) : State :=
  match s.hif.cmds.find? fun c => c.opcode == 0x0A03 && (s.sessionCred c.src).isSome with
  | none => s
  | some c =>
    let n := Config.freeNat s.free
    let k (bit : Nat) (xs : List Rec) : List Rec := if (c.num 32 1).testBit bit then xs.drop (n % (xs.length + 1)) else xs
    { s with free := s.free + 1, rcd := { s.rcd with first := k 0 s.rcd.first, last := k 1 s.rcd.last } }

/-- A power loss (R542): the input switch opens, and every die stops, whatever it was writing (R478, R492, R500) or erasing. -/
def State.powerOff (s : State) : State :=
  let s := s.cutRecorder.cutClear.cutWrite.blank .off
  let s := s.setBoot { s.boot with switchOn := false, restarts := 0, coolant := false, railFaults := [], dynAddr := none }
  { s with
    ember := Ember.reset
    trust := { s.trust with
      pairingKey := 0, nonce := [], quoteAddr := 0, quoteLen := 0, quoteTenant := 0, done := false, busy := false
      lenErr := false, dmaErr := false, claimOpen := false, debugged := false, tongsCount := 0 } }

/-! ## Step 1 (R411, R554, R557) -/

/-- INPUT_SWITCH_CLOSE (R557). -/
def execInputSwitchClose (s : State) : Host.Outcome State Fault Refusal :=
  .next (if s.boot.stage = .off then s.setBoot { s.boot with switchOn := true } else s)

/-- The trust die starts: the power-cycle count advances (R19), the signing keys begin a new block (R447), and the boot record
is read and looked at (R478, R492, R493). -/
def State.trustStarts (s : State) : State :=
  let t := s.trust
  ({ s with trust := { t with
    powerCycles := t.powerCycles + 1, identity := t.identity.powerOn, attest := t.attest.powerOn } } : State).powerOnImage

/-- Step 1, with every page of the memory tiers under quench (R467), and GRANT_QUERY at its end; a grant that came during it
answers the query (Table 16-10). -/
def State.powerOn (s : State) : State :=
  let s := s.trustStarts.emit [.i3c 0x07 []]
  let s : State := { s with link := { s.link with dieFaults := [], outFaults := [] } }
  let s := s.setMem { s.mem with sets := quenchedSets }
  let s := s.setBoot { s.boot with stage := if s.ember.grant then .pllWait else .grantWait }
  { s with ember := { s.ember with active := s.ember.grant } }

/-- POWER_ON (R411). -/
def execPowerOn (s : State) : Host.Outcome State Fault Refusal :=
  .next (if s.boot.stage = .off && s.boot.switchOn then s.powerOn else s)

/-- GRANT_QUERY_RETRY (R554). -/
def execGrantQueryRetry (s : State) : Host.Outcome State Fault Refusal :=
  .next (if s.boot.stage = .grantWait then s.emit [.i3c 0x07 []] else s)

/-! ## Steps 2 and 3 -/

/-- Lock: MGMT reaches every die, the straps are latched, and the recorder starts (R414, R505, R552). On a standby the ember
links run and nothing more. An ember link counts as up until it has been silent (R522). -/
def State.lock (s : State) : State :=
  match s.boot.stage with
  | .pllWait =>
    (({ s with ember := { s.ember with up0 := true, up1 := true } } : State).setBoot
      { s.boot with stage := .fuseWait, pllLock := true, strapsLatched := true, strap := Config.strapPins }).startRecorder
  | .standby =>
    ({ s with ember := { s.ember with up0 := true, up1 := true } } : State).setBoot
      { s.boot with pllLock := true, strapsLatched := true, strap := Config.strapPins }
  | _ => s

/-- PLL_LOCK (R414). -/
def execPllLock (s : State) : Host.Outcome State Fault Refusal := .next s.lock

/-- The fuse map passes its check (R422): its CRC-32C holds, and no record is of a reserved class. -/
def fuseMapOk (recs : List (BitVec 32)) (crc : BitVec 32) : Bool :=
  recs.length ≤ 2048 && crc32c (recs.flatMap bvBytes) == crc && recs.all fun r => 1 ≤ unitClass r && unitClass r ≤ 7

/-- The fuse map has been read: the bellows releases wave 1, a standby its one wave (R517), or power-on stops and the trust die records the reason, which
Table 14-4 gives no code. -/
def State.fuseLoaded (s : State) (recs : List (BitVec 32)) (crc : BitVec 32) : State :=
  let waits := s.boot.stage == .fuseWait || (s.boot.stage == .standby && s.boot.pllLock && !s.boot.fuseOk)
  if !waits then s
  else if !fuseMapOk recs crc then
    { s.setBoot { s.boot with stage := .fuseStop } with trust := { s.trust with
      ownNotes := s.trust.ownNotes ++ [{ code := 0, unit := 0, count := 1, first := s.opS, last := s.opS
                                         detail := leBytes 1 (if crc32c (recs.flatMap bvBytes) = crc then 1 else 0) }] } }
  else
    let b : Boot := { s.boot with fuse := recs, fuseOk := true, substep := 1 }
    s.setBoot (if b.stage = .standby then b else { b with stage := .bellows })

/-- FUSE_MAP_LOADED (R422). -/
def execFuseMapLoaded (recs : List (BitVec 32)) (crc : BitVec 32) (s : State) : Host.Outcome State Fault Refusal :=
  .next (s.fuseLoaded recs crc)

/-! ## Step 6: the stored configuration (R406, R409) -/

def Cfg.read (c : Cfg) : Cfg :=
  { c with live := (c.newest.map (·.body)).getD Stored.reset, seq := (c.newest.map (·.seq)).getD 0 }

/-- The calibration set is checked; one that fails, as one that its flash has not kept, is not used, and the event is recorded. The
sensors and the ember links use it (R409). -/
def State.readCal (s : State) : State :=
  let good := s.cfg.calSound && Config.calGood s.free
  let s : State := { s with free := s.free + 1, cfg := { s.cfg with calValid := good, calUsed := [] } }
  let s := ((s.useCal 2048).useCal 2049).useCal 2050
  if good then s else s.note 0x1409 0 []

/-- Keys of generation 0 for every tenant that is enabled, and the module key (R464). -/
def State.firstKeys (s : State) : State :=
  let s := (s.cfg.live.tenants.filter fun t => recEnabled t.2).foldl (fun s t => s.ensureKey t.1) s
  let s := s.holdKey moduleKeyNo (freshPair s.trust.draws)
  { s with trust := { s.trust with moduleKey := true, draws := s.trust.draws + 2 } }

/-- A stored pairing setting makes the module paired, and a standby to be found begins SYNCING (R518, R536). -/
def State.readPairing (s : State) : State :=
  if s.cfg.live.pairing then { s with ember := { s.ember with paired := true, state := .syncing } } else s

/-- Step 6 of power-on; a standby makes no tenant's key (R517), and neither does one that takes over (R471). -/
def State.configRead (s : State) : State :=
  if s.boot.configRead || !s.boot.fuseOk then s
  else
    let s := ({ s with cfg := s.cfg.read } : State).readCal.readPairing
    let s := s.setBoot { s.boot with configRead := true }
    let s := s.setMgr { s.mgr with record := s.cfg.live.record }
    if s.boot.stage = .standby || s.ember.takeover then s else s.firstKeys

/-! ## Step 4: the bellows (R416 to R420) -/

/-- Sub-steps of a wave (Table 11-4). -/
def subSteps (wave : Nat) : Nat :=
  match wave with
  | 1 => 2
  | 2 => 6
  | 3 => 6
  | 4 => 2
  | 5 => 2
  | 6 => 4
  | 7 => 4
  | 8 => 4
  | _ => 0

/-- What a wave adds to the idle load of a rail, in A (Table 11-4). -/
def waveStep (wave rail : Nat) : Nat :=
  match wave, rail with
  | 1, 1 => 40
  | 1, 3 => 40
  | 1, 2 => 28
  | 2, 1 => 24
  | 2, 3 => 180
  | 3, 1 => 24
  | 3, 3 => 180
  | 4, 1 => 80
  | 4, 2 => 47
  | 5, 1 => 80
  | 6, 1 => 240
  | 6, 2 => 118
  | 7, 1 => 80
  | 7, 2 => 47
  | 7, 4 => 91
  | 7, 5 => 60
  | 8, 1 => 80
  | 8, 2 => 47
  | 8, 4 => 91
  | 8, 5 => 40
  | _, _ => 0

/-- Idle load of a rail once a wave is up, in A (Table 11-4). -/
def idleLoad (wave rail : Nat) : Nat := ((List.range wave).map fun w => waveStep (w + 1) rail).sum

/-- Load that bring-up has put on a rail, in mA: the waves that are up, and an equal share of the wave in progress for each
of its sub-steps (R417). -/
def Boot.bringupLoad (b : Boot) (rail : Nat) : Nat :=
  1000 * idleLoad b.wave rail + 1000 * waveStep (b.wave + 1) rail * b.substep / max 1 (subSteps (b.wave + 1))

/-- A standby brings up P0's ember link logic, the tier C links and the tier C piles in one wave (R517). -/
def Boot.standbyWave (b : Boot) : Bool := b.stage == .standby && b.fuseOk && !b.standbyUp

/-- The bellows is at work: in power-on, in phase 2 of a partial reset, or in a standby's one wave. -/
def State.bellowing (s : State) : Bool :=
  (s.boot.stage == .bellows || s.boot.standbyWave || s.boot.partialReset.any fun p => p.phase == 2) && s.boot.wave < 8 &&
    !s.boot.halted && !s.boot.retryWait

/-- The tier C piles of a standby stay in self-refresh (R517), and the tier P piles through phases 1 to 4 of a partial reset
(Table 11-11). -/
def State.selfRefresh (s : State) : Tier → Bool
  | .p => s.boot.partialReset.any fun p => p.phase != 5
  | .b => false
  | .c => s.boot.stage == .standby && s.boot.standbyUp

/-! ### Units and clocks (R414, R417) -/

/-- Place of a unit in the bellows: its wave, its number among the units of the wave, and how many these are (Table 11-4). -/
def unitPlace (r : BitVec 32) : Option (Nat × Nat × Nat) :=
  let i := unitIndex r
  let half (n : Nat) : Nat × Nat × Nat := (if n < 8 then 7 else 8, n % 8, 8)
  match unitClass r with
  | 1 => some (4, i, 136)
  | 2 => some (5, i / 128, 64)
  | 3 => some (6, i / 2048, 4)
  | 4 => some (6, i / 1024, 4)
  | 5 => some (half (i / 4096))
  | 6 => some (half (i / 2 ^ 24))
  | 7 => some (if i / 128 < 4 then 2 else 3, i / 128 % 4, 4)
  | _ => none

/-- The sub-step that releases a unit: the units of a wave go in ascending number, spread evenly over its sub-steps (R417; the
share of each sub-step is a DESIGN CHOICE, log entry 177). -/
def unitSubStep (wave number count : Nat) : Nat := number * subSteps wave / count + 1

/-- A sub-step of a wave has been released. -/
def Boot.released (b : Boot) (wave sub : Nat) : Bool :=
  wave ≤ b.wave || (wave == b.wave + 1 && sub ≤ b.substep)

/-- The bellows has released a unit; one that the fuse map or the start-up test disables is skipped, and its sub-step keeps its
time (R417, R423, R424). -/
def Boot.unitOn (b : Boot) (r : BitVec 32) : Bool :=
  !b.badUnits.contains r && (unitPlace r).any fun x => b.released x.1 (unitSubStep x.1 x.2.1 x.2.2)

/-- The five clocks (R39), and the dies that they reach (Table 11-2). -/
inductive Clk where
  | mgmt | mem | link | core | hub
deriving DecidableEq, Repr

inductive Die where
  | p0 | p1
  | tile (n : Nat)
  | anvil | solver
  | crucible (n : Nat)
  | hearth (n : Nat)
deriving DecidableEq, Repr

/-- The wave of a die, and the clocks that reach it with the wave's first sub-step (Tables 11-2, 11-4). -/
def Die.wave : Die → Nat
  | .p0 => 1
  | .p1 => 1
  | .tile n => if n < 4 then 2 else 3
  | .anvil => 4
  | .solver => 5
  | .crucible _ => 6
  | .hearth n => if n < 8 then 7 else 8

def Die.clocks : Die → List Clk
  | .p0 => [.mem, .link]
  | .p1 => [.mem]
  | .tile _ => [.link, .core]
  | .anvil => [.core, .hub]
  | .solver => [.core, .hub]
  | .crucible _ => [.core, .hub]
  | .hearth _ => [.core, .mem]

/-- A clock reaches a die: MGMT every die from step 3, the others from the first sub-step of the die's wave (R414). -/
def Boot.clocked (b : Boot) (c : Clk) (d : Die) : Bool :=
  match c with
  | .mgmt => b.pllLock
  | c => d.clocks.contains c && b.pllLock && b.released d.wave 1

/-- Sub-steps of the wave in progress; a standby's one wave has 2 (R517). -/
def Boot.stepsNow (b : Boot) : Nat := if b.standbyWave then 2 else subSteps (b.wave + 1)

/-- BELLOWS_SUBSTEP (R417): the next sub-step of the wave in progress, with the units that it releases and the clocks that reach
their dies (Boot.unitOn, Boot.clocked); the first one comes with the wave. -/
def execBellowsSubstep (s : State) : Host.Outcome State Fault Refusal :=
  .next (if s.bellowing && 1 ≤ s.boot.substep && s.boot.substep < s.boot.stepsNow then
    s.setBoot { s.boot with substep := s.boot.substep + 1 } else s)

/-- The trust die copies BRINGUP_STAT (R429). -/
def State.copyStat (s : State) : State := { s with trust := { s.trust with bringupCopy := s.bringupStat } }

/-- A wave has settled, and the next begins; wave 2 waits for coolant (R418, R419). -/
def Boot.settle (b : Boot) : Boot :=
  let w := b.wave + 1
  { b with wave := w, failedOnce := false, substep := if w = 8 ∨ (w = 1 ∧ !b.coolant) then 0 else 1 }

/-- The wave in progress has settled. -/
def Boot.waveUp (b : Boot) : Boot :=
  if b.standbyWave then { b with standbyUp := true, substep := 0, failedOnce := false } else b.settle

/-- WAVE_SETTLED (R418). -/
def execWaveSettled (s : State) : Host.Outcome State Fault Refusal :=
  .next (if s.bellowing && s.boot.substep == s.boot.stepsNow then (s.setBoot s.boot.waveUp).copyStat else s)

/-- A wave fails (R420): once more after 10 ms, or a halt, which at wave 1 only the trust die records (Table 11-5). -/
def State.waveFails (s : State) (rail : Nat) : State :=
  let b := s.boot
  let detail : List Byte := [BitVec.ofNat 8 (b.wave + 1), BitVec.ofNat 8 rail]
  if !b.failedOnce then
    ((s.setBoot { b with failedOnce := true, retried := true, retryWait := true, substep := 0 }).alarm 0x1102 detail).copyStat
  else
    let s := s.setBoot { b with halted := true, haltRail := rail, substep := 0 }
    (if b.wave = 0 then s.ownNote 0x1103 detail else s.alarm 0x1103 detail).copyStat

/-- WAVE_FAIL (R420). -/
def execWaveFail (rail : Nat) (s : State) : Host.Outcome State Fault Refusal :=
  .next (if s.bellowing && 1 ≤ s.boot.substep && 1 ≤ rail && rail ≤ 5 then s.waveFails rail else s)

/-- BELLOWS_RETRY_EXPIRE (R420). -/
def execBellowsRetryExpire (s : State) : Host.Outcome State Fault Refusal :=
  .next (if s.boot.retryWait then s.setBoot { s.boot with retryWait := false, substep := 1 } else s)

/-- The bellows waits for coolant at wave 2 (R419). -/
def State.waitsCoolant (s : State) : Bool :=
  s.boot.stage == .bellows && s.boot.wave == 1 && s.boot.substep == 0 && !s.boot.halted && !s.boot.retryWait

/-- COOLANT_WAIT_TIMEOUT (R419). -/
def execCoolantWaitTimeout (s : State) : Host.Outcome State Fault Refusal :=
  .next (if s.waitsCoolant then
    ((s.setBoot { s.boot with halted := true, haltRail := 6 }).alarm 0x1103 [2, 6]).copyStat else s)

/-! ## Step 5: the start-up tests (R423 to R428), and the training window -/

/-- The ports of the record in force, untrained, and the pools of the tiles (R117, R125). -/
def State.installPorts (s : State) : State :=
  { s with link := { s.link with
    ports := installedPorts s.mgr.record, onSpare := [], pools := (List.range 8).map fun t => (t, s.boot.freshPool t) } }

/-- The training window opens on every Chrohar port, once the link-domain test has ended and the record is read (Table 11-1 steps
6 and 7). -/
def State.openWindow (s : State) : State :=
  if s.boot.linkTest && s.boot.configRead && s.link.ports.isEmpty then
    let s := s.installPorts
    (tkeys s.link.ports).foldl (fun s p => s.startTraining .chrohar p) s
  else s

/-- LINK_TEST_DONE (R411): what failed is kept, and the training window opens. Steps 4 to 8 run side by side: the manager may be
ready before. -/
def execLinkTestDone (failing : List (BitVec 32)) (s : State) : Host.Outcome State Fault Refusal :=
  .next (if (s.boot.stage = .bellows || s.boot.stage = .running) && 3 ≤ s.boot.wave && !s.boot.linkTest then
    let s := s.testFound (failing.filter fun r => unitClass r == 7)
    (s.setBoot { s.boot with linkTest := true }).openWindow
  else s)

/-- CONFIG_READ_DONE (R406). -/
def execConfigReadDone (s : State) : Host.Outcome State Fault Refusal := .next s.configRead.openWindow

/-- The grant is gone: every transmitter of the fabric and peer links goes into electrical idle (R516). -/
def State.loseGrant (s : State) : State :=
  let idle (q : Port) : Port := { q with state := if q.held then .held else .untrained, width := 0, nbrSeen := false, candCount := 0, idle := true }
  ({ s with
    ember := { s.ember with grant := false, active := false }
    link := { s.link with ports := tmap (fun _ q => idle q) s.link.ports } } : State).emit
      ((tkeys s.link.ports).map fun p => .portIdle .chrohar p true)

/-- GRANT_RELEASE gives the grant up (Table 16-7). -/
def State.releaseGrant (s : State) : State := (s.emit [.i3c 0x08 []]).loseGrant

/-- A module that cannot serve gives the grant to a READY standby (Table 15-4). -/
def State.yieldGrant (s : State) : State :=
  if s.ember.state = .ready ∨ s.ember.state = .behind then s.releaseGrant else s

/-- COMPUTE_TEST_DONE (R425): roles are filled, rows are repaired, the grade is known, and firmware boot begins. -/
def execComputeTestDone (failing : List (BitVec 32)) (s : State) : Host.Outcome State Fault Refusal :=
  .next (if s.boot.stage = .bellows && !s.boot.computeTest && (s.boot.wave == 8 || (s.boot.halted && 4 ≤ s.boot.wave)) then
    let s := (s.testFound (failing.filter fun r => unitClass r != 7)).withhold
    let s := (s.setBoot { s.boot with computeTest := true }).regrade.copyImage true
    if s.fw.noImage then s.yieldGrant else s
  else s)

/-! ## Steps 7 to 9 (R412) -/

/-- Discovery begins at power-on once the window has closed and the manager is ready. -/
def State.firstDiscovery (s : State) : State :=
  if s.boot.halted || !s.boot.mgrReady || !s.boot.windowClosed || s.ember.takeover || s.mgr.fabricState != 0 ||
      s.cfg.live.record.isNone then s
  else (s.newDiscovery none).startForget

/-! ## Power and clocks lost -/

/-- LOCK_LOST (R415). -/
def execLockLost (s : State) : Host.Outcome State Fault Refusal :=
  .next (if s.boot.pllLock then
    (s.clockRestart.ownNote 0x1101 (leBytes 4 (s.boot.restarts + 1).toNat)) else s)

/-- INPUT_FAULT (R542, Table 16-6). -/
def execInputFault (cause milliVolts : Nat) (s : State) : Host.Outcome State Fault Refusal :=
  .next (if s.boot.switchOn then (s.ownNote 0x1601 (leBytes 2 cause ++ leBytes 4 milliVolts)).powerOff else s)

/-- The bellows still has waves to bring up (R420, R545). -/
def State.inBellows (s : State) : Bool := s.boot.stage == .bellows && s.boot.wave < 8 && !s.boot.halted

/-- A rail fault outside the bellows (R545). -/
def State.railFails (s : State) (rail kind : Nat) : State :=
  let again := s.boot.railFaults.any fun t => s.opS < t + 600
  let s := s.ownNote 0x1602 [BitVec.ofNat 8 rail, BitVec.ofNat 8 kind]
  let s := s.setBoot { s.boot with railFaults := s.boot.railFaults ++ [s.opS] }
  if again then s.blank .railHeld else s.clockRestart

/-- RAIL_FAULT (R545). -/
def execRailFault (rail kind : Nat) (s : State) : Host.Outcome State Fault Refusal :=
  .next (
    if s.boot.stage = .off then s
    else if rail = 6 ∨ rail = 7 then (s.ownNote 0x1602 [BitVec.ofNat 8 rail, BitVec.ofNat 8 kind]).powerOff
    else if rail = 0 ∨ 7 < rail ∨ [Stage.grantWait, Stage.railHeld, Stage.tripped].contains s.boot.stage then s
    else if s.inBellows then (if s.bellowing && 1 ≤ s.boot.substep then s.waveFails rail else s)
    else s.railFails rail kind)

/-- THERMAL_TRIP (R547). -/
def execThermalTrip (unit : Nat) (celsius : Int) (s : State) : Host.Outcome State Fault Refusal :=
  .next (
    let limit : Int := if 32 ≤ unit then 100 else 115
    if [Stage.off, Stage.grantWait, Stage.railHeld, Stage.tripped].contains s.boot.stage || 48 ≤ unit || celsius < limit then s
    else (s.ownNote 0x1604 (leBytes 2 unit ++ [BitVec.ofInt 8 celsius])).blank .tripped)

/-- THERMAL_TRIP_RESTART (R547): every instance has read below 60 °C; the restart waits for coolant flow too. -/
def execThermalTripRestart (s : State) : Host.Outcome State Fault Refusal :=
  .next (if s.boot.stage = .tripped && s.boot.coolant then s.clockRestart else s)

end Sys2Proof.Machine
end

