-- ==== Sys2Proof/Machine/Device.lean ====
section
/-! DEFINITION. DEV_IDENTIFY and DEV_STATUS (10_host_commands.md R399, R400; 00_scope.md R2). -/

namespace Sys2Proof.Machine

open Sys2Proof

/-- The PCIe identity of a function: what its configuration space says (Table 0-1). -/
structure PcieId where
  vendor   : BitVec 16
  device   : BitVec 16
  revision : BitVec 8
deriving DecidableEq, Repr

/-- Identity of function 0, PF0, and of the VFs; it never changes (R2). -/
def pcieId (fn : Nat) : PcieId :=
  { vendor := Config.vendorId, device := if fn = 0 then 0x6400 else 0x6401, revision := 0x11 }

/-- What Table 10-1 says of the functions: the physical and the virtual ones, where the VFs lie, the BARs in KiB, the MSI-X
vectors of a function, and the sizes in bytes that the endpoint supports (R381). -/
structure PcieCaps where
  totalVfs     : Nat
  firstVf      : Nat
  vfStride     : Nat
  busNumbers   : Nat
  bar0KiB      : Nat
  pf0Bar2KiB   : Nat
  msixVectors  : Nat
  maxPayload   : Nat
  maxReadReq   : Nat
  tagBits      : Nat
deriving DecidableEq, Repr

def pcieCaps : PcieCaps :=
  { totalVfs := 1024, firstVf := 1, vfStride := 1, busNumbers := 5, bar0KiB := 64, pf0Bar2KiB := 16384, msixVectors := 2
    maxPayload := 512, maxReadReq := 4096, tagBits := 14 }

/-- The function number of a tenant's VF (R382). -/
def vfOf (tenant : Nat) : Nat := pcieCaps.firstVf + pcieCaps.vfStride * tenant

/-- ORDER_CODE (Table 0-1): ASCII "CH-6400-A1-LC", zero padded to 16 bytes. -/
def orderCode : List Byte :=
  [0x43, 0x48, 0x2D, 0x36, 0x34, 0x30, 0x30, 0x2D, 0x41, 0x31, 0x2D, 0x4C, 0x43, 0, 0, 0]

/-- Bytes 32 to 100 (Table 10-9). -/
def State.identity (s : State) : List Byte :=
  bvBytes Config.serial ++ orderCode ++ leBytes 1 0x11 ++ leBytes 1 (if s.boot.grade then 1 else 0) ++
    leBytes 2 (s.enabled 1) ++ leBytes 2 (s.enabled 2) ++ leBytes 2 s.spareTiles ++ leBytes 4 (s.enabled 3) ++
    leBytes 4 (s.enabled 4) ++ leBytes 4 (s.enabled 5) ++ leBytes 2 (s.enabled 7) ++ leBytes 2 s.sparePairs ++
    bvBytes ((s.fw.running.map (·.2)).getD 0) ++ bvBytes s.fw.fuse ++ bvBytes s.trust.powerCycles ++
    bvBytes s.trust.operatingS ++ leBytes 1 s.quadSlot

/-- DEV_IDENTIFY (R400). -/
def execDevIdentify (id : Nat) (s : State) : Host.Outcome State Fault Refusal := .next (s.ask 0x0101 id fun _ s => ok s.identity)

/-- CONFIG_STATE. -/
def Cfg.stateBits (c : Cfg) : Nat :=
  let a := c.flashA.any CfgSlot.valid
  let b := c.flashB.any CfgSlot.valid
  if !a && !b then 0 else
  (if a then 1 else 0) + (if b then 2 else 0) + (if c.calValid then 4 else 0) +
    (if c.calFactory then 8 else 0)

/-- DEV_STATUS (R399, Table 10-8). -/
def execDevStatus (id : Nat) (s : State) : Host.Outcome State Fault Refusal :=
  .next (s.ask 0x0102 id fun _ s =>
    ok (bvBytes (BitVec.ofInt 16 s.boot.hottest) ++ leBytes 2 s.boot.inputWatts ++ leBytes 1 s.cfg.stateBits ++
      leBytes 1 s.mgr.fabricState ++ leBytes 2 0 ++ leBytes 8 s.cfg.seq ++ bvBytes s.mgr.fabricGen ++ bvBytes s.hif.dropped))

end Sys2Proof.Machine
end

