-- ==== Sys2Proof/Machine/Inject.lean ====
section
/-! DEFINITION. What an endpoint sends through its agent: inject descriptors, swage conversion, the reduction tree, and
the agent's part of a barrier (07_collectives.md R262 to R266, R288, R291; 09_goson_agent.md R363 to R367, R371 to
R373, R375). -/

namespace Sys2Proof.Machine

open Sys2Proof

/-! ## Checks of a descriptor (Table 9-9) -/

/-- TYPE is allowed for the MODE (Tables 9-8, 9-9): tallies travel on no run, no group and no tree (R63, R104). -/
def typeAllowed (d : Desc) : Bool :=
  let m := d.mode.toNat
  if m = 5 then !d.billet && d.type == tEndpointReport
  else if m = 4 then d.billet && d.type == bContrib
  else if d.billet then d.type == bMessage || d.type == bContrib || d.type == bResult || d.type == bState
  else m = 0 && (d.type == tPaceArrive || d.type == tShortMsg)

/-- A SCALE entry that the descriptor uses lies outside −149 to 80 (R261); an input presented as swage may carry the raw
marker (R365). -/
def scaleBad (d : Desc) : Bool :=
  (d.convert || d.mode == 4 || (d.billet && Desc.asSwage d)) && (List.range 8).any fun k =>
    let x := scaleAt d.scale k
    !((-149 ≤ x.toInt && x.toInt ≤ 80) || (Desc.asSwage d && x == rawMark))

/-- BAD_DESC (Table 9-9, row 1). -/
def descBad (d : Desc) : Bool :=
  5 < d.mode.toNat || d.rsv != 0 || 0xA ≤ d.pfmt.toNat || 0xA ≤ d.inFmt.toNat || !typeAllowed d ||
    6 < d.children.toNat || (d.mode == 3 && d.dest.toNat % 4 == 3) ||
    (d.convert && (d.inFmt == 8 || d.inFmt == 9 || d.pfmt != 8)) || (d.mode == 4 && d.pfmt != 8) || scaleBad d ||
    (d.ovf != 0 && !(d.billet && Desc.asSwage d))

/-- BAD_FORMAT (R68). -/
def formatBad (d : Desc) : Bool := d.billet && d.pfmt == 8 && d.plen.getLsbD 0 == false

/-- CLOSE_x_VALID and CLOSE_RUN_x of an axis: 0 X, 1 Y, 2 Z (Table 5-7). -/
def Agent.closure (g : Agent) (axis : Nat) : Option (BitVec 12) :=
  if g.assignment.getLsbD (44 + 13 * axis) then some (field g.assignment (32 + 13 * axis) 12) else none

/-- The run that a descriptor names: MODE 2 by RUN_ID, MODE 3 from the assignment entry (R364). -/
def Agent.runOf (g : Agent) (d : Desc) : Option (BitVec 12) :=
  if d.mode = 2 then some (d.dest.setWidth 12) else if d.mode = 3 then g.closure (d.dest.toNat % 4) else none

/-- RUN_INACTIVE (R186): the entry is invalid, or lacks SOURCE or ACTIVE. -/
def Agent.runIdle (g : Agent) (r : BitVec 12) : Bool :=
  let e := (tget g.runs r.toNat).getD 0
  !(e.getLsbD 0 && e.getLsbD 11 && e.getLsbD 12)

/-- The bridge entry that a destination selects (R375). -/
def Agent.bridgeOf (g : Agent) (dest : Eid) : Option (BitVec 64) :=
  (g.bridge.find? fun b => b.2.getLsbD 0 && field b.2 2 18 == dest).map (·.2)

/-- SRC_EID toward a destination: the agent's own EID, or on the spare side the alias (R364, R375). -/
def Agent.srcToward (g : Agent) (dest : Eid) : Eid :=
  match g.bridgeOf dest with
  | some b => if b.getLsbD 1 then field b 32 18 else g.own
  | none => g.own

/-! ## Building a packet -/

/-- The kind of key a billet takes: transit on a run that closes a ring or bridges, tenant otherwise (R75, R375). -/
def Agent.keyFor (g : Agent) (transit : Bool) : LaneKey := if transit then transitKey g.tenant else tenantKey g.tenant

/-- TRANSIT of a run entry (Table 4-7). -/
def Agent.isTransit (g : Agent) (r : BitVec 12) : Bool := ((tget g.runs r.toNat).getD 0).getLsbD 10

/-- The billet header of a descriptor (Tables 2-6, 9-8), before the routing fields. -/
def descHdr (d : Desc) (w : Option Swage) : BilletHdr :=
  { zeroHdr with
    plen := d.plen, pfmt := d.pfmt, collId := d.collId, step := d.step, chunk := d.chunk, rank := d.rank
    scale := (match w with
      | some x => x.scale
      | none => 0)
    ovf := (match w with
      | some x => x.ovf
      | none => 0) }

/-- The billet of a descriptor in MODE 0 to 3 (R75, R364, R365, R375). -/
def Agent.descBillet (g : Agent) (d : Desc) (payload : List Byte) : Pkt :=
  let w := if d.convert || Desc.asSwage d then some (descSwage d payload) else none
  let data := descData d payload
  let h := descHdr d w
  let base (key : LaneKey) (src dst : Eid) : Common :=
    { (common key g.epochNow src dst d.type) with baton := d.baton }
  if d.mode = 1 then
    mkBillet { (base (g.keyFor false) g.own noEid) with mcast := true } 0
      { h with mgroup := d.dest.setWidth 12, mmask := d.mmask } data
  else
    match g.runOf d with
    | some r => mkBillet (base (g.keyFor (g.isTransit r)) g.own (Config.runDest r)) 0 { h with run := true, runId := r } data
    | none =>
      match g.bridgeOf d.dest with
      | some b => mkBillet (base (g.keyFor true) (g.srcToward d.dest) d.dest) 0 { h with run := true, runId := field b 20 12 } data
      | none => mkBillet (base (g.keyFor false) g.own d.dest) 0 h data

/-- The guard of an agent's barriers of one collective. -/
def Agent.guardOf (g : Agent) (barrier : BitVec 32) : Option Guard := g.guards.find? fun x => x.barrier == barrier

def putGuard : List Guard → Guard → List Guard
  | [], x => [x]
  | y :: r, x => if y.barrier = x.barrier then x :: r else y :: putGuard r x

/-- The body of a PACE_ARRIVE as sent: TIMED is set when the rank passed the previous barrier by fallback (R291). -/
def Agent.paceBody (g : Agent) (b : BitVec 128) : BitVec 128 :=
  match g.guardOf (field b 0 32) with
  | some x => putField b 76 (BitVec.ofBool x.timed)
  | none => putField b 76 0#1

/-- The rank has sent PACE_ARRIVE for a barrier step (R291): a FALLBACK_LAP held for another step is discarded. Of the steps
passed by fallback only earlier ones count on: a rank that arrives at a step again, as after a roll back, has not passed it. -/
def Agent.paceSent (g : Agent) (b : BitVec 128) : Agent :=
  let old := g.guardOf (field b 0 32)
  let mine : Guard :=
    { barrier := field b 0 32, step := field b 32 32, arrived := true, timed := false
      passed := ((old.map (·.passed)).getD []).filter fun x => seqLater (field b 32 32) x
      fallback := (match old with
        | some x => if x.step = field b 32 32 then x.fallback else 0
        | none => 0) }
  { g with guards := putGuard g.guards mine }

/-- The tally of a descriptor in MODE 0 or 5 (R364): a report takes the stamp and goes to the manager. -/
def Agent.descTally (g : Agent) (d : Desc) (payload : List Byte) : Pkt :=
  let body : BitVec 128 := BitVec.ofNat 128 (natAt payload 0 16)
  if d.mode = 5 then
    mkTally { (common mgrKey g.epochNow g.own (g.mgrEid.getD 0) tEndpointReport) with baton := d.baton } 0
      (putField (putField body 16 (field g.stamp 0 32)) 48 (field g.stamp 32 16))
  else
    let b := if d.type = tPaceArrive then g.paceBody body else body
    mkTally { (common (g.keyFor false) g.epochNow (g.srcToward d.dest) d.dest d.type) with baton := d.baton } 0 b

def Agent.descPkt (g : Agent) (d : Desc) (payload : List Byte) : Pkt :=
  if d.billet then g.descBillet d payload else g.descTally d payload

/-! ## Tree chunks -/

/-- The MODE 4 descriptor of a chunk: its own part, its children, its parent (R372). Parts that came before and are of
no named child are discarded. -/
def ChunkRec.describe (c : ChunkRec) (d : Desc) (w : Swage) : ChunkRec :=
  let children := (List.range d.children.toNat).map fun k => (d.childRanks[k]?).getD 0
  { c with
    own := some { rank := d.rank, elems := w.elems, ovf := w.ovf, scale := w.scale }
    rank := d.rank, children := children, dest := d.dest, plen := d.plen, tag := d.tag
    parts := c.parts.filter fun p => children.contains p.rank }

/-- Put a chunk record in place of the first that matches, or add it. -/
def putChunk (p : ChunkRec → Bool) (c : ChunkRec) : List ChunkRec → List ChunkRec
  | [] => [c]
  | x :: r => if p x then c :: r else x :: putChunk p c r

/-- A MODE 4 descriptor (R372): a second one for a chunk already described completes DONE at once and sends nothing. -/
def Agent.describe (a : Nat) (g : Agent) (d : Desc) (payload : List Byte) : AgentStep :=
  let hit := chunkMatches d.collId d.step d.chunk d.scale
  let c := (g.chunks.find? hit).getD (openChunk d.collId d.step d.chunk d.scale)
  if c.own.isSome then g.complete a d.tag 0x00 0
  else ({ g with chunks := putChunk hit (c.describe d (descSwage d payload)) g.chunks }, [])

/-- Combine a part of a child (R265, R266, R372): a part already combined, or of no named child, is discarded. -/
def ChunkRec.combine (c : ChunkRec) (p : TreePart) : ChunkRec :=
  if c.sent.isSome || (c.parts.any fun x => x.rank == p.rank) || (c.own.isSome && !c.children.contains p.rank) then c
  else { c with parts := c.parts ++ [p] }

/-- TREE_PART_RECEIVE at an agent (R372): the first accepted part. A part whose record has been freed since it was accepted, by
a step completion or with ASSIGNED 0, goes with it (R373, Table 9-6). -/
def Agent.takePart (g : Agent) : Agent :=
  match takeFirst isTreePart g.inbox with
  | none => g
  | some (p, rest) =>
    match pktHdr p with
    | none => g
    | some h =>
      let hit := chunkMatches h.collId h.step h.chunk h.scale
      let part : TreePart := { rank := h.rank, elems := swageElems (pktPayload p) (plenBytes h.plen / 8), ovf := h.ovf
                               scale := h.scale }
      { g with inbox := rest, chunks := modFirst hit (fun c => c.combine part) g.chunks }

/-- TREE_PART_RECEIVE (R372). -/
def execTreePartReceive (a : Nat) (s : State) : Host.Outcome State Fault Refusal :=
  .next (s.onAgent a (whileLive fun g => (g.takePart, [])))

/-- The own part and every named child are combined, and the sum has not been sent (R372). -/
def ChunkRec.complete (c : ChunkRec) : Bool :=
  c.own.isSome && c.sent.isNone && c.children.all fun r => c.parts.any fun p => p.rank == r

/-- The partial sum of a chunk (R265). -/
def ChunkRec.sum (c : ChunkRec) : Swage :=
  match c.own with
  | none => { elems := [], ovf := 0, scale := c.scale }
  | some o =>
    c.parts.foldl (fun w p => addSwage w { elems := p.elems, ovf := p.ovf, scale := p.scale })
      { elems := o.elems, ovf := o.ovf, scale := o.scale }

/-- The CONTRIB billet of a partial sum (R264, R375). -/
def Agent.sumBillet (g : Agent) (c : ChunkRec) : Pkt :=
  let w := c.sum
  let h := { zeroHdr with plen := c.plen, pfmt := 8, collId := c.collId, step := c.step, chunk := c.chunk, rank := c.rank,
                          scale := w.scale, ovf := w.ovf }
  match g.bridgeOf c.dest with
  | some b =>
    mkBillet (common (g.keyFor true) g.epochNow (g.srcToward c.dest) c.dest bContrib) 0
      { h with run := true, runId := field b 20 12 } (swageBytes w.elems)
  | none => mkBillet (common (g.keyFor false) g.epochNow g.own c.dest bContrib) 0 h (swageBytes w.elems)

/-- A sum can leave: it is complete, and its flow has a record or finds one (R337). -/
def Agent.sumReady (g : Agent) (c : ChunkRec) : Bool := c.complete && !g.noRecord (flowKeyOf (g.sumBillet c))

/-- TREE_SUM_FORMED at an agent (R372): the sum goes to the parent and into the record's frame of the sum region. -/
def Agent.formSum (a : Nat) (g : Agent) : AgentStep :=
  match g.chunks.find? g.sumReady with
  | none => (g, [])
  | some c =>
    let p := g.sumBillet c
    let g1 := { g with chunks := modFirst g.sumReady (fun x => { x with sent := some p }) g.chunks }
    let r := g1.offer a p g.resendUs (some c.tag)
    (r.1, .sumFrame a p :: r.2)

/-- TREE_SUM_FORMED (R372). -/
def execTreeSumFormed (a : Nat) (s : State) : Host.Outcome State Fault Refusal :=
  .next (s.onAgent a (whileLive (Agent.formSum a)))

/-! ## The inject ring -/

/-- A descriptor can be read: the build has an endpoint, the rings are enabled and not paused, and one is there (R338,
Tables 9-12, 9-15). -/
def Agent.canRead (g : Agent) : Bool := !g.isSwitch && g.rings.en && !g.rings.pause && g.rings.injHead != g.rings.injTail

/-- The first completion code that applies to a descriptor, in the order of Table 9-9. -/
def Agent.checkDesc (g : Agent) (d : Desc) (payload : List Byte) : Option (BitVec 8) :=
  if descBad d then some 0x06
  else if !g.hasTable then some 0x08
  else if d.mode != 5 && (!g.assigned || g.fenced) then some 0x02
  else if formatBad d then some 0x03
  else if d.mode == 3 && (g.closure (d.dest.toNat % 4)).isNone then some 0x05
  else if (g.runOf d).any g.runIdle then some 0x04
  else
    let k := flowKeyOf (g.descPkt d payload)
    if (g.srcs.find? fun f => f.key == k).any (·.failed) then some 0x01
    else if g.noRecord k then some 0x09
    else none

/-- INJECT_DESCRIPTOR at an agent (R367): the descriptor at INJ_HEAD is read; the first code that applies is posted and
nothing is sent, or its packet is built and sent. A MODE 4 descriptor that finds no record or slot waits in the ring
(R373). -/
def Agent.inject (a : Nat) (d : Desc) (payload : List Byte) (g : Agent) : AgentStep :=
  if !g.canRead then (g, [])
  else
    let read := ({ g with rings := { g.rings with injHead := g.rings.injHead + 1 } } : Agent).seeInput d payload
    match g.checkDesc d payload with
    | some code => read.complete a d.tag code 0
    | none =>
      if d.mode = 4 then
        if g.chunkRoom d.collId d.step d.chunk d.scale then Agent.describe a read d payload else (g, [])
      else
        let p := g.descPkt d payload
        let sent := if !d.billet && d.type == tPaceArrive then read.paceSent (pktTally p) else read
        sent.offer a p (if d.mode = 5 then 20 else g.resendUs) (some d.tag) (some d)

/-- INJECT_DESCRIPTOR (R367). -/
def execInjectDescriptor (a : Nat) (d : Desc) (payload : List Byte) (s : State) : Host.Outcome State Fault Refusal :=
  .next (s.onAgent a (whileLive (Agent.inject a d payload)))

/-! ## Barriers at the agent -/

/-- A barrier step is passed by fallback (R291): its lap is reached, the rank has arrived, and no release has come. -/
def Agent.timedOut (g : Agent) (x : Guard) : Bool :=
  x.fallback != 0 && x.arrived && x.fallback.toNat ≤ g.lapNow.toNat / 16

/-- TIMED_RELEASE at an agent (R291, R377). The notice gives the step in eight bytes and the agent knows STEP_LO alone: the four
upper bytes are zero (DESIGN CHOICE, log entry 167). -/
def Agent.timedRelease (a : Nat) (barrier : BitVec 32) (g : Agent) : AgentStep :=
  match g.guardOf barrier with
  | none => (g, [])
  | some x =>
    if g.timedOut x then
      ({ g with guards := putGuard g.guards { x with passed := x.step :: x.passed, timed := true, fallback := 0, arrived := false } }
        : Agent).notice a 2 [at' 128 0 barrier ||| at' 128 32 x.step]
    else (g, [])

/-- TIMED_RELEASE (R291). -/
def execTimedRelease (a : Nat) (barrier : BitVec 32) (s : State) : Host.Outcome State Fault Refusal :=
  .next (s.onAgent a (whileLive (Agent.timedRelease a barrier)))

/-- The guard after a release of a step (R291): its FALLBACK_LAP guards the step after it, unless the rank is past that
step already. -/
def nextGuard (old : Option Guard) (barrier step : BitVec 32) (fallback : BitVec 64) : Guard :=
  match old with
  | none => { barrier := barrier, step := step + 1, fallback := fallback, arrived := false, passed := [], timed := false }
  | some x =>
    if seqLater x.step (step + 1) || x.passed.contains (step + 1) then x
    else { x with step := step + 1, fallback := fallback, arrived := x.arrived && x.step == step + 1 }

/-- PACE_RELEASE at an agent (R291): it releases its barrier step unless that step was passed by fallback; its
FALLBACK_LAP guards the next step. -/
def Agent.paceRelease (a : Nat) (g : Agent) : AgentStep :=
  match takeFirst (fun p => !isBillet p && p.c.type == tPaceRelease) g.inbox with
  | none => (g, [])
  | some (p, rest) =>
    let b := pktTally p
    let old := g.guardOf (field b 0 32)
    let passed := old.any fun x => x.passed.contains (field b 32 32)
    let g := { g with
      inbox := rest, guards := putGuard g.guards (nextGuard old (field b 0 32) (field b 32 32) (field b 64 64)) }
    if passed then (g, []) else g.deliver a (.packet p)

/-- PACE_RELEASE (R291). -/
def execPaceRelease (a : Nat) (s : State) : Host.Outcome State Fault Refusal :=
  .next (s.onAgent a (whileLive (Agent.paceRelease a)))

end Sys2Proof.Machine
end

