-- ==== Sys2Proof/Machine/ManagerCmds.lean ====
section
/-! DEFINITION. What reaches the manager: answers and reports of agents, timers, discovery replies, and the topology and
route commands (03_discovery_topology.md R136, R137; 04_routing.md R166 to R187; 05_heats.md R216 to R220;
06_faults_and_recovery.md R225 to R252; 10_host_commands.md R399). -/

namespace Sys2Proof.Machine

open Sys2Proof

/-! ## Timers and computations -/

/-- ROUTE_COMPUTE_DONE (R166, R168). -/
def execRouteComputeDone (s : State) : Host.Outcome State Fault Refusal := .next (s.asMgr State.computeDone)

/-- DRAIN_EXPIRE (R176). -/
def execDrainExpire (s : State) : Host.Outcome State Fault Refusal := .next (s.asMgr fun s => s.dropHeadWait .drain)

/-- RUN_TEARDOWN_WAIT_EXPIRE (R187). -/
def execRunTeardownWaitExpire (s : State) : Host.Outcome State Fault Refusal :=
  .next (s.asMgr fun s => s.dropHeadWait .teardown)

/-! ## Answers of agents -/

/-- Take the first accepted tally of a type at the manager, with its source's entry. -/
def State.takeReport (s : State) (type : BitVec 8) (f : Nat → BitVec 128 → State → State) : State :=
  match s.takeInbox type with
  | some x => f x.1.c.src.toNat (pktTally x.1) x.2
  | none => s

/-- One reply of an entry to an operation is in. -/
def State.dropReply (s : State) (e : Nat) (op : BitVec 8) : State :=
  let w := Wait.reply e op
  let cut (j : Job) : Job := { j with waits := dropWait w j.waits }
  s.setMgr { s.mgr with jobs := modFirst (fun (j : Job) => j.waits.contains w) cut s.mgr.jobs }

/-- A CTRL_REPLY (R355): a refused flip or retire is an answer too (R189); a refused seed stops the readmission (R251);
in a takeover the answer to TBL_STATE is kept (Table 15-5). -/
def State.takeCtrlReply (e : Nat) (b : BitVec 128) (s : State) : State :=
  let op := field b 0 8
  let s := s.dropReply e op
  let s := if op = 0x03 then s.probeEnds e true else s
  let s := if op = 0x03 && s.ember.takeover then s.setMgr { s.mgr with slotsSeen := tset s.mgr.slotsSeen e b } else s
  if op = 0x04 ∧ field b 8 4 ≠ 0 then s.readmitStops e else s

/-- CTRL_REPLY (R355). -/
def execCtrlReply (s : State) : Host.Outcome State Fault Refusal :=
  .next (s.asMgr fun s => s.takeReport tCtrlReply State.takeCtrlReply)

/-- An unfence has been applied (R220, R259): the endpoint is in its heat again. -/
def State.unfenceDone (s : State) (e : Nat) : State :=
  let w := Wait.unfenced e
  if !(s.mgr.jobs.head?.any fun j => j.waits.contains w) then s
  else
    match s.heatOfEntry e with
    | none => s.dropHeadWait w
    | some (no, _) =>
      let s := (s.dropHeadWait w).modHeat no fun h => { h with fenced := h.fenced.filter (· != e) }
      let keys := (tget s.mgr.loadedKeys e).getD []
      let s := s.setMgr { s.mgr with
        loadedKeys := tset s.mgr.loadedKeys e (tset keys 17 (((tget keys 17).getD 0) &&& ~~~2#256)) }
      let s := s.fenceGroups no e true
      if (s.entry e).service = .failedForwarding then s.setService e .inService else s

/-- A FENCE_ACK (Table 5-9). -/
def State.takeFenceAck (e : Nat) (b : BitVec 128) (s : State) : State :=
  if b.getLsbD 32 then
    match s.mgr.fencings.find? fun f => f.seq == field b 0 32 && f.entry == e with
    | some f => s.fenceDone f
    | none => s
  else s.unfenceDone e

/-- FENCE_ACK (R219, R220). -/
def execFenceAck (s : State) : Host.Outcome State Fault Refusal :=
  .next (s.asMgr fun s => s.takeReport tFenceAck State.takeFenceAck)

/-! ## Reports (R225 to R228) -/

/-- Take an entry out of service while its endpoint may be in a heat: what it was asked ends at the boundary, and its heat
loses it (R227, R234, R236). -/
def State.withdraw (s : State) (e : Nat) (repair : Bool) : State :=
  let s := s.takeOut e repair true
  let s := (s.mgr.fencings.filter fun f => f.entry == e && !f.boundary).foldl State.toBoundary s
  s.loseEndpoint e false

/-- The stamp fields of a report equal the expected stamp of its entry (R227). -/
def State.fresh (s : State) (e : Nat) (gen : BitVec 32) (pcc : BitVec 16) : Bool :=
  (s.entry e).stamp.any fun x => field x 0 32 == gen && field x 32 16 == pcc

/-- A report with another stamp is discarded and recorded, and its entry leaves service (R227). -/
def State.stale (s : State) (e : Nat) (gen : BitVec 32) (pcc : BitVec 16) : State :=
  let s := s.note 0x1402 (BitVec.ofNat 16 e) (bvBytes gen ++ bvBytes pcc)
  if (s.entry e).service = .inService then s.withdraw e false else s

/-- The step at which an INPUT_ERROR says that it happened (R226): an open one with that low half. -/
def State.stepNamed (s : State) (no : Nat) (collId lo : BitVec 32) : BitVec 64 :=
  ((s.hub.steps.find? fun x => x.heat == no && x.collId == collId && field x.step 0 32 == lo).map (·.step)).getD
    (lo.setWidth 64)

/-- The manager's response to a report, by kind (Table 6-3). -/
def State.takeReportOf (e : Nat) (b : BitVec 128) (s : State) : State :=
  let kind := (field b 0 6).toNat
  let gen := field b 16 32
  let pcc := field b 48 16
  let noted (s : State) : State := s.note 0x1403 (BitVec.ofNat 16 kind)
    (leBytes 2 e ++ leBytes 1 (field b 6 2).toNat ++ bvBytes (field b 8 8))
  if !s.fresh e gen pcc then s.stale e gen pcc
  else
    match kind, s.heatOfEntry e with
    | 1, some _ => s.loseEndpoint e (b.getLsbD 15)
    | 6, some _ => s.loseEndpoint e false
    | 1, none => if (s.entry e).service = .inService then s.takeOut e false true else s
    | 6, none => if (s.entry e).service = .inService then s.takeOut e false false else s
    | 2, some (no, _) =>
      let step := s.stepNamed no (field b 64 32) (field b 96 32)
      (s.failStep no (field b 64 32) step.toNat sDataError).trouble (.step no (field b 64 32) step sDataError)
    | 2, none => s
    | _, _ => noted s

/-- ENDPOINT_REPORT (R226, R227). -/
def execEndpointReport (s : State) : Host.Outcome State Fault Refusal :=
  .next (s.asMgr fun s => s.takeReport tEndpointReport State.takeReportOf)

/-- Width of an agent's port as a LINK_EVENT gives it (Table 9-7): a port that is up and faces what the record names. -/
def eventWidth (r : InstRecord) (own : BitVec 16) (e : Nat) (b : BitVec 128) : Nat :=
  let good := (r.portNbr own e (field b 0 4).toNat).any fun x =>
    field b 12 16 == x.2.1 && (field b 28 8).toNat == x.2.2.1 && (field b 36 2).toNat == x.2.2.2
  if field b 7 3 == stateCode .up && !b.getLsbD 10 && good then widthOfCode (field b 4 3) else 0

/-- A LINK_EVENT of a port that is held is recorded, and the port stays held (R253). -/
def State.noteHeld (s : State) (e : Nat) (b : BitVec 128) : State :=
  if field b 7 3 == stateCode .held then s.note (Config.noticeCode 1) (BitVec.ofNat 16 e) (bvBytes b) else s

/-- A LINK_EVENT whose stamp is the expected one changes the model, and the routes are computed again (R166, R227). A port that is
up below the record's minimum is held (R346). -/
def State.takeLinkEvent (e : Nat) (b : BitVec 128) (s : State) : State :=
  let gen := field b 48 32
  let pcc := field b 80 16
  if !s.fresh e gen pcc then s.stale e gen pcc
  else
    match s.mgr.record with
    | none => s
    | some r =>
      let p := (field b 0 4).toNat
      let k := 16 * e + p
      let up := eventWidth r s.boot.strap e b
      let s := s.noteHeld e b
      let s := if up != 0 && up < r.minOf e p then (s.holdPorts [(e, p)] true).1 else s
      let w := if up < r.minOf e p then 0 else up
      if (tget s.mgr.widths k).getD 0 = w then s
      else (s.setMgr { s.mgr with widths := tset s.mgr.widths k w }).requestEpoch

/-- LINK_EVENT (R227, R361). -/
def execLinkEvent (s : State) : Host.Outcome State Fault Refusal :=
  .next (s.asMgr fun s => s.takeReport tLinkEvent State.takeLinkEvent)

/-- In a takeover, a port whose neighbour differs from the model is held down (Table 15-5 step 4). A peer link was judged as it was
identified, against what the record names of it (R145). -/
def State.checkTaken (s : State) (p : Nat) : State :=
  let q := s.link.port p
  match s.mgr.record with
  | none => s
  | some r =>
    if !q.isUp || !q.nbrSeen || r.peers.any fun y => 4 * y.1 == p then s
    else if s.chGood r p q then s else s.holdCh p

/-- Step 5 of Table 15-5 begins once the manager is ready, the window has closed and every port that is up is identified or held;
the link tiles' tables and bitmaps come from the model. -/
def State.startTakeover (s : State) : State :=
  let due := s.ember.takeover && s.boot.mgrReady && s.boot.windowClosed && s.mgr.fabricState == 1 &&
    !(s.mgr.jobs.any fun j => j.steps.contains .takenOver) && s.link.ports.all fun q => !q.2.isUp || q.2.nbrSeen
  match s.net with
  | none => s
  | some n =>
    if !due then s
    else
      let job : Job :=
        { steps := [.handover, .wait, .clearFlows, .wait, .restamp, .wait, .slotsAll, .wait, .slotsDone, .wait] ++ epochSteps true ++ [.takenOver]
          waits := [], heat := none }
      let maps := (tkeys s.link.ports).foldl (fun t p => tset t p (n.bitmap s.mgr.runs p)) []
      let s := s.checkPeers n.r
      ({ s with link := { s.link with
        current := { epoch := s.mgr.epoch, dest := n.tileTable }, other := { epoch := s.mgr.epoch + 1, dest := n.tileTable }
        bitmaps := maps } } : State).setMgr { s.mgr with jobs := job :: s.mgr.jobs }

/-- The change that a link tile logged for one of its ports (R225). -/
def State.tileChange (p : Nat) (s : State) : State :=
  if !s.link.log.contains p then s
  else
    let s : State := { s with link := { s.link with log := s.link.log.filter (· != p) } }
    let q := s.link.port p
    let s := if s.ember.takeover then s.checkTaken p else s
    let settled := (q.isUp && q.nbrSeen) || (!q.isUp && q.state != .training)
    (if settled then s.trainingEnds p else s).startTakeover.requestEpoch

/-- LINK_TILE_PORT_CHANGE (R225). -/
def execLinkTilePortChange (p : Nat) (s : State) : Host.Outcome State Fault Refusal := .next (s.asMgr (State.tileChange p))

/-! ## Failed flows (R229) -/

/-- A RESEND_FAIL is gathered with the others of its heat; one of a heat whose release is in the queue is recorded and goes no
further (R229, R253). -/
def State.takeResendFail (e : Nat) (b : BitVec 128) (s : State) : State :=
  match s.heatOfEntry e with
  | some (no, _) =>
    if s.releasing no then s.note (Config.noticeCode 0) (BitVec.ofNat 16 no) (leBytes 2 e ++ bvBytes b)
    else s.gatherFail no { src := BitVec.ofNat 18 e, body := b }
  | none => s

/-- RESEND_FAIL (R229). -/
def execResendFail (s : State) : Host.Outcome State Fault Refusal :=
  .next (s.asMgr fun s => s.takeReport tResendFail State.takeResendFail)

/-- The 1 ms of a heat's gathering is over (R229). -/
def State.gatherOver (no : Nat) (s : State) : State :=
  let put (g : Gather) : Gather := if g.heat = no then { g with ended := true } else g
  s.setMgr { s.mgr with gathers := s.mgr.gathers.map put }

/-- RESEND_FAIL_GATHER_EXPIRE (R229). -/
def execResendFailGatherExpire (no : Nat) (s : State) : Host.Outcome State Fault Refusal := .next (s.asMgr (State.gatherOver no))

/-! ## Probing (R249) -/

/-- Release the holds on an entry for one training window. -/
def State.startProbe (s : State) (e : Nat) : State :=
  if s.mgr.probing.contains e || s.mgr.readmit == some e then s
  else (s.setMgr { s.mgr with probing := s.mgr.probing ++ [e] }).holdFacing e false

/-- Every entry that is out of service and not held for repair is probed. -/
def State.probeAll (s : State) : State :=
  match s.mgr.record with
  | none => s
  | some r =>
    if s.mgr.fabricState != 2 then s
    else ((List.range r.agents.length).filter fun e => (s.entry e).service == .outOfService).foldl State.startProbe s

/-- PROBE_TIMER (R249). -/
def execProbeTimer (s : State) : Host.Outcome State Fault Refusal := .next (s.asMgr State.probeAll)

/-- The probe of an entry ends: its ports are held again. -/
def State.probeStops (e : Nat) (s : State) : State :=
  if !s.mgr.probing.contains e then s
  else ((s.setMgr { s.mgr with probing := s.mgr.probing.filter (· != e) }).holdFacing e true).answerReadmit e

/-- The window of a probe closes: an entry that no port has reached is held again (R249); one that a port has reached, as the
record names it, waits for its readmission. -/
def State.probeOver (e : Nat) (s : State) : State := if s.net.any (Net.facedUp · e) then s else s.probeStops e

/-- PROBE_WINDOW_CLOSE (R249). -/
def execProbeWindowClose (e : Nat) (s : State) : Host.Outcome State Fault Refusal := .next (s.asMgr (State.probeOver e))

/-! ## Discovery replies -/

/-- A reply in a readmission (R250 steps 2 and 3): a difference that would refuse the fabric refuses the entry. A port that is up
below the record's minimum is to be held (R346). -/
def State.readmitReply (s : State) (b : BitVec 128) : State :=
  match s.mgr.disc.current, s.mgr.record with
  | some q, some r =>
    let e := q.entry
    if replyId b != s.mgr.disc.queryId then s
    else if replyPage b != q.page then (if replyPage b = 0 then s.readmitStops e else s)
    else if q.page = 0 then
      match page0Rows r e [] b with
      | d :: ds => ((d :: ds).foldl (fun s x => s.differ x (strapAt r e) (field b 21 16)) s).readmitStops e
      | [] => ((s.modEntry e fun z => { z with serialLo := some (field b 71 32) }).setDisc
          { s.mgr.disc with current := none }).dropHeadWait (.page e)
    else
      let k := q.page - 1
      let x := portPage r s.boot.strap e k b
      let s := s.takeFenceDrops e b
      let s := x.rows.foldl (fun s d => s.differ d x.straps.1 x.straps.2) s
      if x.rows.any Diff.refuses then s.readmitStops e
      else
        let low := x.width != 0 && x.width < r.minOf e k
        let s := s.setMgr { s.mgr with widths := tset s.mgr.widths (16 * e + k) (if low then 0 else x.width) }
        (s.setDisc { s.mgr.disc with
          current := none, under := if low then s.mgr.disc.under ++ [(e, k)] else s.mgr.disc.under }).dropHeadWait (.page e)
  | _, _ => s

/-- The first discovery reply that has arrived and passes its checks. -/
def State.takeDiscover (s : State) : State :=
  match takeTally tDiscoverReply s.hub.arrived with
  | none => s
  | some (x, rest) =>
    let s := s.setHub { s.hub with arrived := rest }
    let s : State := { s with link := s.link.release x.origin x.pkt }
    if !tallyGood x.pkt || x.pkt.c.laneKey != mgrKey then s
    else if s.mgr.disc.readmit then s.readmitReply (pktTally x.pkt)
    else s.takeReply (pktTally x.pkt)

/-- DISCOVER_REPLY (R136, R250). -/
def execDiscoverReply (s : State) : Host.Outcome State Fault Refusal := .next (s.asMgr State.takeDiscover)

/-- No reply to the query in hand within 200 µs (R137, R252). -/
def State.discoverLate (s : State) : State :=
  if !s.mgr.disc.readmit then s.replyLate
  else
    match s.mgr.disc.current with
    | none => s
    | some q => if q.tries < 3 then s.sendQuery { q with tries := q.tries + 1 } else s.readmitStops q.entry

/-- DISCOVER_REPLY_TIMEOUT (R137). -/
def execDiscoverReplyTimeout (s : State) : Host.Outcome State Fault Refusal := .next (s.asMgr State.discoverLate)

/-! ## Topology and route commands -/

/-- An entry that the record in force lists. -/
def State.hasEntry (s : State) (e : Nat) : Bool := s.mgr.record.any fun r => e < r.agents.length

/-- Take an entry out for the operator (R236, R253). -/
def State.holdEntry (s : State) (e : Nat) (repair : Bool) : State :=
  let s := (s.readmitStops e).probeStops e
  let v := (s.entry e).service
  if v = .inService ∨ v = .failedForwarding then s.withdraw e repair
  else if repair then s.setService e .repairHeld
  else s

/-- TOPO_ENTRY_HOLD (R236). -/
def execTopoEntryHold (id : Nat) (s : State) : Host.Outcome State Fault Refusal :=
  .next (s.run 0x0205 id fun c s =>
    let e := c.num 32 2
    if !s.hasEntry e then (s, some (bad 32))
    else
      let s := s.holdEntry e (c.bit 34 0)
      (s.settle, some (ok (leBytes 1 (s.entry e).service.code))))

/-- TOPO_READMIT (R249): REPAIR_HELD is cleared, and a probe starts at once. -/
def execTopoReadmit (id : Nat) (s : State) : Host.Outcome State Fault Refusal :=
  .next (s.run 0x0206 id fun c s =>
    let e := c.num 32 2
    if !s.hasEntry e then (s, some (bad 32))
    else
      let v := (s.entry e).service
      if v = .inService ∨ v = .failedForwarding then (s, some (ok (leBytes 1 v.code)))
      else
        let s := s.setService e .outOfService
        let s := s.setMgr { s.mgr with readmitCmds := s.mgr.readmitCmds ++ [(id, e)] }
        ((s.startProbe e).settle, none))

/-- TOPO_ENTRY_QUERY (R399). -/
def execTopoEntryQuery (id : Nat) (s : State) : Host.Outcome State Fault Refusal :=
  .next (s.ask 0x0208 id fun c s =>
    let e := c.num 32 2
    if !s.hasEntry e then bad 32
    else
      let h := s.heatOfEntry e
      let spare := s.mgr.record.any fun r => (r.posOf e).any r.isSpare
      ok (leBytes 1 (s.entry e).service.code ++ leBytes 1 ((if h.isSome then 1 else 0) + (if spare then 2 else 0)) ++
        leBytes 2 ((h.map (·.1)).getD 0) ++ leBytes 4 0 ++ bvBytes ((s.entry e).stamp.getD 0)))

/-- The fabric is in service, or the status that says why not. -/
def State.outOfFabric (s : State) : Option (BitVec 16) :=
  if s.mgr.fabricState = 2 then none
  else if s.mgr.record.isNone ∨ s.mgr.fabricState = 3 then some sTopology
  else some sBusy

/-- TOPO_PORT_RETRAIN (R432). -/
def execTopoPortRetrain (id : Nat) (s : State) : Host.Outcome State Fault Refusal :=
  .next (s.run 0x0209 id fun c s =>
    let p := c.num 32 2
    if (tget s.link.ports p).isNone then (s, some (bad 32))
    else if !(s.link.port p).isUp || s.retraining p then (s, some (fail sBusy))
    else
      match s.outOfFabric with
      | some v => (s, some (fail v))
      | none => ((s.addJob (epochSteps false ++ [.retrain p, .wait, .portReply p id]) none).settle, none))

/-- ROUTE_FULL (R166). -/
def execRouteFull (id : Nat) (s : State) : Host.Outcome State Fault Refusal :=
  .next (s.run 0x0301 id fun _ s =>
    match s.outOfFabric with
    | some v => (s, some (fail v))
    | none => ((s.addJob (epochSteps true ++ [.routeReply id]) none).settle, none))

/-- ROUTE_QUERY (R399). -/
def execRouteQuery (id : Nat) (s : State) : Host.Outcome State Fault Refusal :=
  .next (s.ask 0x0303 id fun _ s =>
    ok (leBytes 1 s.mgr.epoch.toNat ++ leBytes 1 s.mgr.routing ++ leBytes 2 0 ++ leBytes 4 s.cfg.live.drainUs ++
      leBytes 8 s.mgr.lastFull ++ leBytes 8 s.mgr.lastIncr ++ leBytes 4 s.mgr.runs.length ++ leBytes 4 s.mgr.groups.length))

end Sys2Proof.Machine
end

