-- ==== Sys2Proof/Machine/HubRx.lean ====
section
/-! DEFINITION. Packets at their destination and flows at their source, wherever they stand: at an agent, or at Chrohar's
hub units (02_fabric_protocol.md R70, R88 to R99, R107, R108, R562; 07_collectives.md R274, R278). -/

namespace Sys2Proof.Machine

open Sys2Proof

/-! ## The manager's waits for ACKs -/

/-- The ACK of a packet of the manager's flow to an entry is in. -/
def State.ackIn (s : State) (e : Nat) (q : Seq) : Bool :=
  (s.hub.srcs.find? fun f => f.key.laneKey == mgrKey && !f.key.mcast && f.key.peer.toNat == e).any fun f =>
    !(f.copies.any fun c => c.pkt.seq == q) && seqLater f.next q

/-- A wait still holds. -/
def State.waitHolds (s : State) (w : Wait) : Bool :=
  match w with
  | .ack e q => !s.ackIn e q
  | _ => true

def State.dropAcked (s : State) : State :=
  let m := s.mgr
  s.setMgr { m with
    jobs := m.jobs.map fun j => { j with waits := j.waits.filter s.waitHolds }
    fencings := m.fencings.map fun f => { f with waits := f.waits.filter s.waitHolds } }

/-! ## Packets that reach a hub unit -/

/-- Tallies that wait for the manager's or the pacer's own rows. -/
def hubTally (p : Pkt) : Bool :=
  !isBillet p && (p.c.type == tPaceArrive || (p.c.laneKey == mgrKey &&
    [tCtrlReply, tLinkEvent, tFenceAck, tEndpointReport, tResendFail].contains p.c.type))

/-- The contribution of another pod's staged norm, at Hearth 0 (R319). -/
def isNorm (p : Pkt) : Bool :=
  field p.c.dst 0 8 == 0x20#8 &&
    (pktHdr p).any fun h => p.c.type == bContrib && h.pfmt == 9 && h.chunk.toNat == normChunk

/-- A packet for a Crucible. -/
def toCrucible (p : Pkt) : Bool :=
  let u := field p.c.dst 0 8
  0x10#8 ≤ u && u ≤ 0x13#8

/-- Take an accepted packet to the unit that it is for (R278); a billet at a Crucible that is no contribution counts as stray, and
what another hub unit has no use for ends here. -/
def State.hubDeliver (s : State) (p : Pkt) : State :=
  if hubTally p then s.setHub { s.hub with inbox := s.hub.inbox ++ [p] }
  else if isNorm p then s.takeNorm p
  else if isBillet p && (p.c.type == bContrib || toCrucible p) then s.contribute p
  else s

/-- A contribution finds no record, or one of its flow already waits for one (R274). -/
def State.mustWait (s : State) (p : Pkt) : Bool :=
  s.holdsBack p || s.hub.noRoom.any fun q => flowKeyOf q == flowKeyOf p && q.c.src == p.c.src

/-- Deliver what a flow gives out; a contribution that finds no record, and those of its flow behind it, wait. -/
def State.hubHand (s : State) (p : Pkt) : State :=
  if isBillet p && p.c.type == bContrib && s.mustWait p then s.setHub { s.hub with noRoom := s.hub.noRoom ++ [p] }
  else s.hubDeliver p

/-- Send the ACK of a hub unit's record (R93). -/
def State.hubAck (s : State) (d : DstFlow) : State :=
  (s.setHub { s.hub with dsts := putDst s.hub.dsts (acked d) }).hubSend (ackPkt d d.key.peer (d.stamp.getD s.hubEpoch))

/-- Give back the cells of a packet that a hub unit has taken (R84). -/
def State.hubFree (s : State) (x : Arrived) : State :=
  { s with link := s.link.release x.origin x.pkt }

/-- A contribution reads a word of the Crucible's SRAM that cannot be corrected: its step ends with S_DATA_ERROR, and the heat's
recovery is decided (R31, R233). -/
def State.readFails (s : State) (p : Pkt) : State :=
  match s.verdict p with
  | .add a c _ =>
    let s := s.failStep a.no a.desc.collId c.step.toNat sDataError
    s.trouble (.step a.no a.desc.collId c.step sDataError)
  | _ => s

/-- Record, take and acknowledge a packet that is accepted (R92, R93); `lost` says that what it adds to could not be read. -/
def State.hubAccept (s : State) (d : DstFlow) (p : Pkt) (lost : Bool) : State :=
  let r := dstAccept d p false
  let s := if lost then s.readFails p else s
  let s := (if lost then r.2.filter (· != p) else r.2).foldl State.hubHand (s.setHub { s.hub with dsts := putDst s.hub.dsts r.1 })
  let s := s.pumpForge.endReady
  if 8 ≤ r.1.sinceAck then s.hubAck r.1 else s

/-- What becomes of a packet at a hub unit (R70, R90 to R93); `wait` keeps a first contribution without a record (R274), and
`lost` meets an uncorrectable word (R31). -/
def State.hubJudge (s : State) (x : Arrived) (wait lost : Bool) : State :=
  let p := x.pkt
  if reservedPacket p || !headOk p then s.hubFree x
  else if !dataOk p then (s.hubFree x).hubSend (nakPkt p p.c.dst 0 s.hubEpoch)
  else
    match dstJudge (dstOf s.hub.dsts p 0) p with
    | .beyond => s.hubFree x
    | .duplicate d => (s.hubFree x).hubAck d
    | .accept d =>
      if wait && isBillet p && p.c.type == bContrib && s.holdsBack p then
        s.setHub { s.hub with heldBack := s.hub.heldBack ++ [x] }
      else (s.hubFree x).hubAccept d p lost

/-- A takeover has not yet cleared the flows with the agents (R531). -/
def State.handsOver (s : State) : Bool :=
  s.ember.takeover && s.mgr.jobs.any fun j => j.steps.any (· matches .clearFlows)

/-- A contribution waits at the head of the input buffer that a packet is in (R274). -/
def State.behindHeld (s : State) (x : Arrived) : Bool := s.hub.heldBack.any fun y => y.port == x.port && y.vc == x.vc

/-- The hub takes a packet: any in service, only the agents' answers while the manager reconciles (R439, R442), and none
before a takeover has cleared the flows (R531). -/
def State.hubTakes (s : State) (x : Arrived) : Bool :=
  if s.handsOver || s.behindHeld x then false
  else s.service || (s.reconciling && x.pkt.c.laneKey == mgrKey && x.pkt.c.type == tCtrlReply)

/-- The first packet of an acknowledged type that has arrived at the hub. A contribution that meets an uncorrectable word in SRAM
adds nothing (R31). -/
def State.hubTake (dataError : Bool) (s : State) : State :=
  match takeFirst (fun (x : Arrived) => acknowledged x.pkt && s.hubTakes x) s.hub.arrived with
  | none => s
  | some (x, rest) =>
    (s.setHub { s.hub with arrived := rest }).hubJudge x true dataError

/-- PACKET_ARRIVAL (R92, R31). -/
def execPacketArrival (x : SiteRead) (s : State) : Host.Outcome State Fault Refusal :=
  .next (match x.site with
    | .agent a => s.onAgent a (whileLive (Agent.takeArrival a))
    | .chrohar => s.asMgr (State.hubTake x.dataError))

/-- The first contribution out of its order hold that finds a record, with those that stay. -/
def State.roomFor (s : State) : List Pkt → List Pkt → Option (Pkt × List Pkt)
  | _, [] => none
  | before, p :: r =>
    if before.any (fun q => flowKeyOf q == flowKeyOf p && q.c.src == p.c.src) || s.holdsBack p then s.roomFor (before ++ [p]) r
    else some (p, before ++ r)

/-- A contribution that waited finds a record (R274). -/
def State.hubTakeHeld (s : State) : State :=
  match s.roomFor [] s.hub.noRoom with
  | some (p, rest) => ((s.setHub { s.hub with noRoom := rest }).hubDeliver p).pumpForge.endReady
  | none =>
    match takeFirst (fun (x : Arrived) => !s.holdsBack x.pkt) s.hub.heldBack with
    | none => s
    | some (x, rest) => (s.setHub { s.hub with heldBack := rest }).hubJudge x false false

/-- CONTRIB_HELD_ACCEPT (R274). -/
def execContribHeldAccept (s : State) : Host.Outcome State Fault Refusal := .next (s.asMgr State.hubTakeHeld)

/-- An ACK timer of a hub unit (R93). -/
def State.hubAckTimer (key : FlowKey) (s : State) : State :=
  match findDst s.hub.dsts key with
  | some d => if d.timer then s.hubAck d else s
  | none => s

/-- ACK_TIMER_EXPIRE (R93). -/
def execAckTimerExpire (site : Site) (key : FlowKey) (s : State) : Host.Outcome State Fault Refusal :=
  .next (match site with
    | .agent a => s.onAgent a (whileLive (Agent.ackTimer key))
    | .chrohar => s.asMgr (State.hubAckTimer key))

/-! ## Answers at the source -/

/-- A flow act at a hub unit by the flow's key; what is acknowledged may end a step (R281). -/
def State.hubOnFlow (key : FlowKey) (act : SrcFlow → SrcStep) (s : State) : State :=
  match s.hub.srcs.find? fun f => f.key == key with
  | none => s
  | some f => ((s.hubLaunch (act f)).dropAcked).endReady

/-- An answer that the hub hears: any while it serves, and only an ACK, a NAK or a MGR_BUSY to the manager's own flows while it
pauses (R99, R439). -/
def State.hearsAnswer (s : State) (x : Arrived) : Bool :=
  !s.behindHeld x && (s.service && !s.handsOver) ||
    (x.pkt.c.laneKey == mgrKey && x.pkt.c.dst == s.mgrEid && [tAck, tNak, tMgrBusy].contains x.pkt.c.type)

/-- Take an arrived answer of a type at the hub, and act on the source record it names. -/
def State.hubAnswer (type : BitVec 8) (act : BitVec 2 → Pkt → SrcFlow → SrcStep) (key : Pkt → FlowKey) (s : State) : State :=
  match takeFirst (fun (x : Arrived) => !isBillet x.pkt && x.pkt.c.type == type && s.hearsAnswer x) s.hub.arrived with
  | none => s
  | some (x, rest) =>
    let s := (s.setHub { s.hub with arrived := rest }).hubFree x
    if !tallyGood x.pkt then s else s.hubOnFlow (key x.pkt) (act s.hubEpoch x.pkt)

/-- The ACK that an agent answers a takeover's duplicate TBL_STATE with tells where its flow stands (R531). -/
def State.handoverAck (s : State) : State :=
  match s.hub.arrived.find? fun x => x.pkt.c.type == tAck && !isBillet x.pkt && tallyGood x.pkt with
  | none => s
  | some x =>
    let key := ackKey x.pkt
    let w := Wait.handover key.peer.toNat
    let k : Seq := field (pktTally x.pkt) 0 32
    if key.laneKey == mgrKey && !key.mcast && s.mgr.jobs.head?.any fun j => j.waits.contains w then
      let put (f : SrcFlow) : SrcFlow := if f.key = key then { f with next := k + 1, latest := k, copies := [] } else f
      (s.setHub { s.hub with srcs := s.hub.srcs.map put }).dropHeadWait w
    else s

/-- ACK_RECEIVE (R90, R107, R531). -/
def execAckReceive (site : Site) (s : State) : Host.Outcome State Fault Refusal :=
  .next (match site with
    | .agent a => s.onAgent a (whileLive fun g => g.answer a tAck ackAct ackKey)
    | .chrohar => s.asMgr fun s => State.hubAnswer tAck (fun _ => ackAct) ackKey s.handoverAck)

/-- NAK (R95). -/
def execNak (site : Site) (s : State) : Host.Outcome State Fault Refusal :=
  .next (match site with
    | .agent a => s.onAgent a (whileLive fun g => g.answer a tNak (nakAct g.epochNow) nakKey)
    | .chrohar => s.asMgr (State.hubAnswer tNak nakAct nakKey))

/-- MGR_BUSY (R99). -/
def execMgrBusy (site : Site) (s : State) : Host.Outcome State Fault Refusal :=
  .next (match site with
    | .agent a => s.onAgent a (whileLive fun g => g.answer a tMgrBusy busyAct busyKey)
    | .chrohar => s.asMgr (State.hubAnswer tMgrBusy (fun _ => busyAct) busyKey))

/-- FLOW_WINDOW_SEND (R90). -/
def execFlowWindowSend (site : Site) (key : FlowKey) (s : State) : Host.Outcome State Fault Refusal :=
  .next (match site with
    | .agent a => s.onAgent a (whileLive fun g => g.onFlow a key (srcRelease g.epochNow false))
    | .chrohar => s.asMgr fun s => s.hubOnFlow key (srcRelease s.hubEpoch false))

/-- MCAST_CHANGED_SET_SEND (R562). -/
def execMcastChangedSetSend (site : Site) (key : FlowKey) (s : State) : Host.Outcome State Fault Refusal :=
  .next (match site with
    | .agent a => s.onAgent a (whileLive fun g => g.onFlow a key (srcRelease g.epochNow true))
    | .chrohar => s.asMgr fun s => s.hubOnFlow key (srcRelease s.hubEpoch true))

/-- BUSY_HOLD_EXPIRE (R99). -/
def execBusyHoldExpire (site : Site) (key : FlowKey) (seq : Seq) (s : State) : Host.Outcome State Fault Refusal :=
  .next (match site with
    | .agent a => s.onAgent a (whileLive fun g => g.onFlow a key fun f => srcHoldEnd g.epochNow f seq)
    | .chrohar => s.asMgr fun s => s.hubOnFlow key fun f => srcHoldEnd s.hubEpoch f seq)

/-- FENCE_NOTICE (R108). -/
def execFenceNotice (site : Site) (key : FlowKey) (position : Nat) (lifted : Bool) (s : State) :
    Host.Outcome State Fault Refusal :=
  .next (match site with
    | .agent a => s.onAgent a (whileLive fun g => g.fenceNotice a key position lifted)
    | .chrohar => s.asMgr fun s => s.hubOnFlow key fun f => srcFence f position lifted)

/-! ## Resending -/

/-- What a failed flow of a hub unit still owes: its packets, each for the positions outstanding (R230, R232). -/
def owed (f : SrcFlow) : List Pkt :=
  (f.copies.map fun c => if f.key.mcast then withMask c.pkt (outstanding c) false else c.pkt) ++ f.waiting.map (·.pkt)

/-- A flow of a hub unit fails (R98): one of the manager's makes its agent unreachable (R175, R178, R218); a result's is
kept and gathered as the heat's trouble (R229, R230). -/
def State.hubFails (s : State) (f : SrcFlow) (c : Copy) : State :=
  let s := s.hubLaunch (srcFail f)
  if f.key.laneKey = mgrKey then
    let e := f.key.peer.toNat
    let s := s.probeEnds e false
    if s.mgr.readmit = some e then s.readmitStops e else s.unreachable e
  else
    match s.pktHeat c.pkt with
    | none => s
    | some no =>
      let s := s.setHub { s.hub with kept := s.hub.kept ++ owed f }
      if s.releasing no then s else s.gatherFail no { src := f.key.src, body := resendFailBody f c }

/-- A try's timer at a hub unit (R95, R98). -/
def State.hubResend (key : FlowKey) (seq : Seq) (s : State) : State :=
  match s.hub.srcs.find? fun f => f.key == key with
  | none => s
  | some f =>
    if !lastTry f seq then s.hubLaunch (srcExpire s.hubEpoch f seq)
    else
      match copyOf f seq with
      | none => s
      | some c => s.hubFails f c

/-- RESEND_TIMER_EXPIRE (R95, R98). -/
def execResendTimerExpire (site : Site) (key : FlowKey) (seq : Seq) (s : State) : Host.Outcome State Fault Refusal :=
  .next (match site with
    | .agent a => s.onAgent a (whileLive (Agent.resendTimer a key seq))
    | .chrohar => s.asMgr (State.hubResend key seq))

/-! ## While the hub pauses (R99) -/

/-- HOLD_US (R440, R489): the bounds of the current phase of a partial reset and of those after it, counted from its start,
the copy step with phase 4; 1,000 while the compute domain is held or off (Table 11-5). -/
def State.holdUs (s : State) : Nat :=
  match s.boot.partialReset with
  | none => 1000
  | some p =>
    if s.boot.computeHeld then 1000
    else
      let more := if p.copy && p.phase != 5 then 100000 else 0
      more + match p.phase with
        | 1 => 755000
        | 2 => 635000
        | 3 => 620000
        | 5 => 300000
        | _ => 500000

/-- MGR_BUSY for a packet (R99). -/
def busyPkt (p : Pkt) (epoch : BitVec 2) (holdUs : Nat) : Pkt :=
  mkTally (common p.c.laneKey epoch p.c.dst p.c.src tMgrBusy) 0
    (at' 128 0 p.seq ||| at' 128 32 p.c.tryNo ||| at' 128 36 (BitVec.ofNat 20 holdUs))

/-- While the hub does not serve, the first packet that nobody takes is dropped; one of an acknowledged type that passes its
checks is answered. Answers to the manager's own flows wait while it reconciles. -/
def State.turnAway (s : State) : State :=
  let mine (x : Arrived) : Bool := s.behindHeld x || (s.mgrRuns && !acknowledged x.pkt && s.hearsAnswer x) || s.hubTakes x
  match takeFirst (fun x => !mine x) s.hub.arrived with
  | none => s
  | some (x, rest) =>
    let s := (s.setHub { s.hub with arrived := rest }).hubFree x
    if acknowledged x.pkt && tallyGood x.pkt then s.hubSend (busyPkt x.pkt s.hubEpoch s.holdUs) else s

/-- HUB_PACKET_PAUSED (R99). -/
def execHubPacketPaused (s : State) : Host.Outcome State Fault Refusal :=
  .next (if s.service && !s.handsOver then s else s.turnAway)

end Sys2Proof.Machine
end

