-- ==== Sys2Proof/Machine/Power.lean ====
section
/-! DEFINITION. The load governor, the power and thermal limits, and the messages of the I3C sideband that change nothing else
(11_bringup_power_reset.md R421; 16_module_signals_electrical.md R543, R547, R548, R553 to R555, R558). -/

namespace Sys2Proof.Machine

open Sys2Proof

/-! ## The governor (R421) -/

/-- Sub-step limit of a rail in A (Table 11-3). -/
def railStep (rail : Nat) : Nat :=
  match rail with
  | 1 => 60
  | 5 => 40
  | _ => 30

/-- Maximum current of a rail in A (Table 11-3). -/
def railMax (rail : Nat) : Nat :=
  match rail with
  | 1 => 3200
  | 2 => 400
  | 3 => 600
  | 4 => 400
  | 5 => 450
  | _ => 0

/-- Activity that a rail can carry above its idle load after wave 8, in A (Tables 11-3, 11-4). -/
def railRoom (rail : Nat) : Nat := railMax rail - idleLoad 8 rail

/-- No rise is admitted (R543, R547, R548). -/
def Boot.noRise (b : Boot) : Bool := !b.throttled.isEmpty || b.inputHigh || b.packHigh || b.idleOrder

/-- The governor sheds activity (R543, R548). -/
def Boot.sheds (b : Boot) : Bool := b.inputShed || b.packShed || b.idleOrder

/-- One admission on one rail: at most one sub-step limit of change, toward what the units ask for. -/
def Boot.admission (b : Boot) (rail demand : Nat) : Nat :=
  let now := (tget b.activity rail).getD 0
  let want := min demand (railRoom rail)
  if b.sheds then now - railStep rail
  else if now < want then (if b.noRise then now else min want (now + railStep rail))
  else max want (now - railStep rail)

/-- The solver array, a Crucible or a Hearth has work. -/
def State.unitsBusy (s : State) : Bool :=
  (s.mgr.jobs.any fun j => j.waits.any fun w => w matches .compute _) || !s.hub.chunks.isEmpty || !s.hub.hearths.isEmpty

/-- What the units ask for on a rail: open while any has work, and nothing while none has (R421). -/
def State.demand (s : State) (rail : Nat) : Nat := if s.unitsBusy then Config.activity rail s.free else 0

/-- GOVERNOR_ADMIT (R421). That work waits for its admission shows in time alone (log entry 178). -/
def execGovernorAdmit (s : State) : Host.Outcome State Fault Refusal :=
  .next (if s.boot.wave = 8 then
    let b := s.boot
    { s.setBoot { b with activity := [1, 2, 3, 4, 5].map fun r => (r, b.admission r (s.demand r)) } with
      free := s.free + 1 }
  else s)

/-! ## Power (R543) -/

/-- The average of a domain, and where the governor withholds rises and sheds, in W (Table 16-3). -/
def powerBounds (package : Bool) : Nat × Nat := if package then (3700, 3800) else (4500, 4600)

/-- POWER_LIMIT (R543): an average crosses a bound. An episode begins above the lower one, and is raised then. -/
def execPowerLimit (package : Bool) (watts : Nat) (s : State) : Host.Outcome State Fault Refusal :=
  .next (
    if s.boot.stage = .off then s
    else
      let b := s.boot
      let was := if package then b.packHigh else b.inputHigh
      let shed := if package then b.packShed else b.inputShed
      let high := decide ((powerBounds package).1 < watts)
      let shed := decide ((powerBounds package).2 < watts) || (shed && decide ((powerBounds package).1 ≤ watts))
      let s := s.setBoot (if package then { b with packHigh := high, packShed := shed }
        else { b with inputHigh := high, inputShed := shed })
      if high && !was then s.alarm 0x1606 (leBytes 2 (if package then 1 else 0) ++ leBytes 4 watts) else s)

/-! ## Temperature (R547) -/

/-- Throttle limit of a JUNCTION_TEMP instance in °C: a pile or a die. -/
def throttleLimit (unit : Nat) : Int := if 32 ≤ unit then 90 else 100

/-- THERMAL_THROTTLE (R547). -/
def execThermalThrottle (unit : Nat) (celsius : Int) (s : State) : Host.Outcome State Fault Refusal :=
  .next (
    if s.boot.stage = .off || 48 ≤ unit || celsius < throttleLimit unit || s.boot.throttled.contains unit then s
    else (s.setBoot { s.boot with throttled := sortNat (unit :: s.boot.throttled) }).alarm 0x1603
      (leBytes 2 unit ++ [BitVec.ofInt 8 celsius]))

/-- THERMAL_THROTTLE_END (R547). -/
def execThermalThrottleEnd (unit : Nat) (celsius : Int) (s : State) : Host.Outcome State Fault Refusal :=
  .next (if celsius ≤ throttleLimit unit - 2 then
    s.setBoot { s.boot with throttled := s.boot.throttled.filter (· != unit) } else s)

/-! ## The sideband (Table 16-7) -/

/-- COOLANT_OK (R419, R548): it lets wave 2 begin, and ends a coolant hold. -/
def execCoolantOk (flow : BitVec 16) (_inlet : BitVec 8) (s : State) : Host.Outcome State Fault Refusal :=
  .next (
    if s.boot.stage = .off then s
    else
      let b := { s.boot with coolant := true, coolFlow := flow, idleOrder := false }
      s.setBoot (if s.waitsCoolant then { b with substep := 1 } else b))

/-- COOLANT_LOST (R548): after wave 2 the governor reduces compute activity to idle; before it the bellows waits at wave 2. -/
def execCoolantLost (s : State) : Host.Outcome State Fault Refusal :=
  .next (
    if s.boot.stage = .off then s
    else if s.boot.wave < 2 then s.setBoot { s.boot with coolant := false }
    else (s.setBoot { s.boot with coolant := false, idleOrder := true }).alarm 0x1605 (leBytes 2 0 ++ bvBytes s.boot.coolFlow))

/-- Role of the module, 1 active or 0 standby: whether it holds the grant. -/
def State.role (s : State) : Nat := if s.ember.grant then 1 else 0

/-- EJECT_OPEN (R558). -/
def execEjectOpen (s : State) : Host.Outcome State Fault Refusal :=
  .next (if s.boot.stage = .off then s else s.alarm 0x1607 (leBytes 2 s.role))

/-- CONFIRM_REQ (R555): the holder of the grant answers, with 0 only while COMPUTE_HELD is 1 or no image runs. -/
def execConfirmReq (s : State) : Host.Outcome State Fault Refusal :=
  .next (if s.ember.grant && s.boot.stage != .off then
    s.emit [.i3c 0x0B (leBytes 1 (if s.boot.computeHeld || s.fw.noImage then 0 else 1))] else s)

/-- STATUS (Table 16-7). -/
def execStatus (s : State) : Host.Outcome State Fault Refusal :=
  .next (if s.boot.stage = .off then s
  else s.emit [.i3c 0x0C (leBytes 2 s.boot.inputWatts ++ [BitVec.ofInt 8 s.boot.hottest] ++
    leBytes 1 (if s.boot.grade then 1 else 0) ++ leBytes 1 s.role ++ bvBytes (field s.bringupStat 0 8))])

/-- SETDASA (R553). -/
def execSetdasa (addr : BitVec 7) (s : State) : Host.Outcome State Fault Refusal :=
  .next (if s.boot.stage = .off then s else s.setBoot { s.boot with dynAddr := some addr })

end Sys2Proof.Machine
end

