-- ==== Sys2Proof/Machine/Registers.lean ====
section
/-! DEFINITION. Writes of registers that have no row of their own, and the registers of an agent's local bus
(R12 to R14, R379, R385, R388; Tables 9-12, 10-2, 10-4, 12-6). -/

namespace Sys2Proof.Machine

open Sys2Proof

/-! ## The agent's registers -/

/-- A write of AGENT_CTL (Table 9-15). -/
def Rings.writeCtl (r : Rings) (v : BitVec 64) : Rings := { r with en := v.getLsbD 0, pause := v.getLsbD 1 }

/-- A commit of the ring registers (R379): ignored, with COMMIT_REFUSED, while RINGS_EN is 1. -/
def Rings.commit (r : Rings) (v : BitVec 64) : Rings :=
  if !v.getLsbD 0 then r else if r.en then r.raise 6 else { r with live := r.shadow }

/-- A write of the agent's registers by offset (Table 9-12); RING_SIZE holds bits [19:0], and anything else is ignored. A
switch build keeps what is written and uses no ring (R337, R338). A base off its alignment or a RING_SIZE field outside 8 to 15
is stored and committed as it is written: Table 9-12 gives the allowed values and no rule for others (DESIGN CHOICE, log entry
164). -/
def Agent.writeReg (off : Nat) (v : BitVec 64) (g : Agent) : Agent :=
  let r := g.rings
  let k := r.shadow
  let put (x : RingCfg) : Agent := { g with rings := { r with shadow := x } }
  match off with
  | 0x0020 => { g with rings := r.writeCtl v }
  | 0x0028 => { g with rings := r.commit v }
  | 0x0030 => { g with rings := r.clearInts v }
  | 0x0038 => { g with rings := { r with intEn := v &&& 0xFF#64 } }
  | 0x0050 => put { k with sumBase := v }
  | 0x0058 => put { k with injBase := v }
  | 0x0060 => put { k with cplBase := v }
  | 0x0068 => put { k with freeBase := v }
  | 0x0070 => put { k with dlvBase := v }
  | 0x0078 => put { k with tdlvBase := v }
  | 0x0080 => put { k with size := v &&& 0xFFFFF#64 }
  | 0x0088 => { g with rings := { r with injTail := v } }
  | 0x0090 => { g with rings := { r with cplHead := v } }
  | 0x0098 => { g with rings := { r with freeTail := v } }
  | 0x00A0 => { g with rings := { r with dlvHead := v } }
  | 0x00A8 => { g with rings := { r with tdlvHead := v } }
  | _ =>
    if 0x0100 ≤ off ∧ off < 0x0180 ∧ off % 8 = 0 then
      { g with ports := tmod g.ports ((off - 0x0100) / 8) fun q => q.clearStat v }
    else g

/-- AGENT_COMMIT (R379). -/
def execAgentCommit (a : Nat) (v : BitVec 64) (s : State) : Host.Outcome State Fault Refusal :=
  .next (s.onAgent a (whileLive fun g => ({ g with rings := g.rings.commit v }, [])))

/-- PORT_ERR_READ (R12, R14): the count is returned and cleared. -/
def execPortErrRead (a port : Nat) (s : State) : Host.Outcome State Fault Refusal :=
  .next (s.onAgent a (whileLive fun g =>
    ({ g with ports := tmod g.ports port fun q => { q with errCount := 0 } }, [.regRead (g.port port).errCount])))

/-- DST_FULL_DROPS_READ (R12, R14). -/
def execDstFullDropsRead (a : Nat) (s : State) : Host.Outcome State Fault Refusal :=
  .next (s.onAgent a (whileLive fun g => ({ g with dstFull := 0 }, [.regRead g.dstFull])))

/-! ## BAR0 -/

/-- One byte of a command window; a byte that reads as zero is not listed. -/
def putByte (t : Tab Byte) (off : Nat) (b : Byte) : Tab Byte := if b = 0 then tdel t off else tset t off b

/-- Write bytes at an offset of a table of bytes. -/
def putBytes (t : Tab Byte) : Nat → List Byte → Tab Byte
  | _, [] => t
  | off, b :: r => putBytes (putByte t off b) (off + 1) r

/-- The slots whose SEQ field a write touches (R390), ascending. -/
def touched (off len : Nat) : List Nat :=
  (List.range 64).filter fun slot => 256 * slot < off + len && off < 256 * slot + 4

/-- Bytes written into a command window (R389, R390); what lies beyond the window is ignored (R385). -/
def State.writeWindow (s : State) (n off : Nat) (bytes : List Byte) : State :=
  let bytes := bytes.take (0x4000 - off)
  let s := s.modFn n fun f => { f with window := putBytes f.window off bytes }
  (touched off bytes.length).foldl (fun s slot => s.touch n slot) s

/-- A write of a function's registers above the window (Table 10-2). EVENT_CFG holds bits [11:0]. -/
def State.writeBar0 (s : State) (n off : Nat) (v : BitVec 64) : State :=
  match off with
  | 0x4008 => (s.writeCmdEn n (v.getLsbD 0)).modFn n fun f => f.writeEvtEn (v.getLsbD 1)
  | 0x4010 => s.modFn n fun f => f.clearStat v
  | 0x4018 => s.modFn n fun f => { f with shadow := { f.shadow with replyBase := v } }
  | 0x4020 => s.modFn n fun f => { f with shadow := { f.shadow with eventBase := v } }
  | 0x4028 => s.modFn n fun f => { f with shadow := { f.shadow with eventCfg := v &&& 0xFFF#64 } }
  | 0x4030 => s.modFn n fun f => f.commit v
  | 0x4038 => s.writeEventHead n v
  | _ =>
    if off < 0x4000 then s.writeWindow n off (bvBytes v)
    else if 0x8000 ≤ off ∧ off < 0x8020 ∧ off % 8 = 0 then s.modFn n fun f => { f with msix := tset f.msix off v }
    else s

/-- Eight bytes of a function's command window. -/
def Fn.windowWord (f : Fn) (off : Nat) : BitVec 64 :=
  BitVec.ofNat 64 (leNat ((List.range 8).map fun i => (tget f.window (off + i)).getD 0))

/-- The MSI-X pending bits: a vector whose message waits for the end of its interval (R396). The manual does not give the array's
bits (DESIGN CHOICE, log entry 181). -/
def Fn.pba (f : Fn) : BitVec 64 := at' 64 0 (bit f.irq0.due) ||| at' 64 1 (bit f.irq1.due)

/-- What a read of a function's BAR0 returns (R385, Table 10-2): a shadowed register gives its live value (R386), a write-only one and
anything else zero (R12, R385). EVT_LOST is cleared by its read, which EVT_LOST_READ is. -/
def State.readBar0 (s : State) (n off : Nat) : BitVec 64 :=
  let f := s.fn n
  match off with
  | 0x4000 => fnId n
  | 0x4008 => f.ctl
  | 0x4010 => f.stat s.boot.paused
  | 0x4018 => f.live.replyBase
  | 0x4020 => f.live.eventBase
  | 0x4028 => f.live.eventCfg
  | 0x4038 => BitVec.ofNat 64 f.evHead
  | 0x4040 => BitVec.ofNat 64 f.evTail
  | 0x4048 => f.evtLost
  | 0x4050 => f.slotsBusy
  | 0x9000 => f.pba
  | _ =>
    if off < 0x4000 then f.windowWord off
    else if 0x8000 ≤ off ∧ off < 0x8020 ∧ off % 8 = 0 then (tget f.msix off).getD 0
    else 0

/-! ## BAR2 -/

/-- What a read of the trust die mailbox returns (Table 12-6). -/
def Trust.readMailbox (t : Trust) (off : Nat) : BitVec 64 :=
  match off with
  | 0x00 => (t.nonce[0]?).getD 0
  | 0x08 => (t.nonce[1]?).getD 0
  | 0x10 => (t.nonce[2]?).getD 0
  | 0x18 => (t.nonce[3]?).getD 0
  | 0x20 => t.quoteAddr
  | 0x28 => t.quoteLen
  | 0x38 => t.stat
  | 0x40 => t.quoteTenant
  | _ => 0

/-- What a read of PF0's BAR2 returns (R388, R429; Tables 3-4, 10-4, 12-6): the chapters give no other register there, and what is not
listed reads as zero. -/
def State.readBar2 (s : State) (off : Nat) : BitVec 64 :=
  if off < 0x800 then (if off % 8 = 0 then (s.link.port (off / 8)).linkStat else 0)
  else if off = 0x0010_0100 then s.bringupStat
  else if 0x00F00000 ≤ off then s.trust.readMailbox (off - 0x00F00000)
  else 0

/-- A write of the trust die mailbox by offset (Table 12-6). -/
def State.writeMailbox (s : State) (off : Nat) (v : BitVec 64) : State :=
  let t := s.trust
  let nonce (i : Nat) : Trust := { t with nonce := (t.nonce ++ List.replicate (4 - t.nonce.length) 0).set i v }
  match off with
  | 0x00 => { s with trust := nonce 0 }
  | 0x08 => { s with trust := nonce 1 }
  | 0x10 => { s with trust := nonce 2 }
  | 0x18 => { s with trust := nonce 3 }
  | 0x20 => { s with trust := { t with quoteAddr := v } }
  | 0x28 => { s with trust := { t with quoteLen := v } }
  | 0x30 => s.tdGo v
  | 0x38 => { s with trust := t.clearStat v }
  | 0x40 => { s with trust := { t with quoteTenant := v &&& 0x3FF#64 } }
  | _ => s

/-- A write into the module register space (Table 10-4): LINK_STAT and the mailbox take writes; the manual gives no other
register there that does. -/
def State.writeBar2 (s : State) (off : Nat) (v : BitVec 64) : State :=
  if off < 0x800 then
    if off % 8 = 0 then { s with link := { s.link with ports := tmod s.link.ports (off / 8) fun q => q.clearStat v } } else s
  else if 0x00F00000 ≤ off then s.writeMailbox (off - 0x00F00000) v
  else s

/-- A register write that has no row of its own (R12). -/
def State.writeReg (s : State) (w : RegWrite) : State :=
  match w with
  | .bar0 n off v => if s.reaches n then s.writeBar0 n off v else s
  | .window n off bytes => if s.reaches n && off < 0x4000 then s.writeWindow n off bytes else s
  | .bar2 off v => if s.pcieUp then s.writeBar2 off v else s
  | .vfs enable count => if s.pcieUp then s.setVfs enable count else s
  | .agentReg a off v => s.onAgent a (whileLive fun g => (Agent.writeReg off v g, []))

/-- REGISTER_WRITE (R12). -/
def execRegisterWrite (w : RegWrite) (s : State) : Host.Outcome State Fault Refusal := .next (s.writeReg w)

end Sys2Proof.Machine
end

