-- ==== Sys2Proof/Machine/Tongs.lean ====
section
/-! DEFINITION. What an open tongs session does (12_security.md R472, R473, R475), and the COMMAND message of a session (R453). -/

namespace Sys2Proof.Machine

open Sys2Proof

/-- What an open tongs session asks for (R472). -/
inductive TongsOp where
  | readReg (off : Nat)
  | writeReg (off : Nat) (v : BitVec 64)
  | halt (core : Nat)
  | step (core : Nat)
  | resume (core : Nat)
  | readSram (addr : Nat)
  | writeSram (addr : Nat) (v : BitVec 64)
  /-- A data unit of a page of a tier. -/
  | readTier (tier : Tier) (pile page unit : Nat)
deriving DecidableEq, Repr, Inhabited

/-- The operation that a message body asks for: the manual gives it no byte form (log entry 93). -/
opaque tongsOp : List Byte → TongsOp

/-! ## Reading the tiers -/

/-- The set that a page of a pile belongs to, and its place there; a page that no set holds is free. Sets take the pages of a pile in
their order (DESIGN CHOICE, log entry 93). -/
def pageIn : List PageSet → Nat → Option (PageSet × Nat)
  | [], _ => none
  | x :: r, page => if page < x.count then some (x, page) else pageIn r (page - x.count)

/-- The page of a pile, by its number. -/
def Mem.pageAt (m : Mem) (t : Tier) (pile page : Nat) : Option (PageSet × Nat) :=
  pageIn (m.sets.filter fun x => x.tier == t && x.pile == pile) page

/-- The tag of a page (Table 12-8): a free one has STATE 0 and GEN 0 (R468). -/
def Mem.tagAt (m : Mem) (t : Tier) (pile page : Nat) : BitVec 16 := ((m.pageAt t pile page).map fun x => x.1.tag).getD 0

/-- A data unit of a pile as it stands in the pile, with its check bits (R30, R462). A free page holds what quench wrote: 64 zero bytes
past the key (R468). -/
def State.heldUnit (s : State) (t : Tier) (pile page unit : Nat) : List (BitVec 72) :=
  codedUnit (match s.mem.pageAt t pile page with
    | none => 0
    | some _ => Config.tierText t.no pile (32768 * page + unit))

/-- The data bits of coded words, without their check bits. -/
def dataOf (words : List (BitVec 72)) : BitVec 512 := (words.zipIdx).foldl (fun v w => v ||| at' 512 (64 * w.2) (field w.1 0 64)) 0

/-- The generation whose key opens a unit of a page: that of its tag; in the page that the sweep re-encrypts, the older one below the
step in progress and the newer one above it (R466, Table 12-10). `done` is where the step stands, in units. -/
def State.unitGen (s : State) (x : PageSet) (first : Bool) (unit done : Nat) : Nat :=
  match s.trust.live x.tenant with
  | new :: old :: _ => if first && x.gen == old && !x.use.quenching && done ≤ unit then new else x.gen
  | _ => x.gen

/-- The set whose first page the sweep re-encrypts now (R466). -/
def State.sweepSet (s : State) : Option PageSet :=
  s.mem.sets.find? fun x => x.count != 0 && !x.use.quenching && match s.trust.live x.tenant with
    | _ :: old :: _ => x.under x.tenant old
    | _ => false

/-- A data unit as a tongs session reads it: through the controller, which opens it with the key in its slots that the page's tag names
(R472). A page that is free or under quench has no owner, and its words come as they stand. -/
def State.readUnit (s : State) (t : Tier) (pile page unit : Nat) : BitVec 512 :=
  let text := dataOf (s.heldUnit t pile page unit)
  match s.mem.pageAt t pile page with
  | none => text
  | some (x, i) =>
    let done := Config.freeNat s.free % 33 * 1024
    let first := i == 0 && s.sweepSet == some x
    let key := match x.use with
      | .module => moduleKeyNo
      | _ => 4 * x.tenant + s.unitGen x first unit done
    if x.use.quenching then text
    else
      match tget s.mem.slots key with
      | some pair => Config.xtsOpen pair (xtsTweak t (32768 * (tierPages t * pile + page) + unit)) text
      | none => text

/-! ## Operations -/

/-- A word of SRAM as a tongs session reads it: what one wrote there, or what the engines hold (R472). -/
def State.readSram (s : State) (addr : Nat) : BitVec 64 :=
  ((tget s.hub.sram addr).map fun w => field w 0 64).getD (Config.sramWord addr)

/-- The page that a tongs session has read counts once (R473). -/
def Session.countPage (x : Session) (place : Nat) : Session :=
  if x.seen.contains place then x else { x with pages := x.pages + 1, seen := x.seen ++ [place] }

/-- What an operation does, and the bytes that its reply carries. -/
def State.tongs (s : State) (i : Nat) (op : TongsOp) : State × List Byte :=
  match op with
  | .readReg off => (s, bvBytes (s.readBar2 off))
  | .writeReg off v => (s.writeBar2 off v, [])
  | .halt core =>
    ({ s with boot := { s.boot with haltedCores := sortNat ((core :: s.boot.haltedCores).eraseDups) } }, [])
  | .step _ => (s, [])
  | .resume core => ({ s with boot := { s.boot with haltedCores := s.boot.haltedCores.filter (· != core) } }, [])
  | .readSram addr => (s, bvBytes (s.readSram addr))
  | .writeSram addr v => ({ s with hub := { s.hub with sram := tset s.hub.sram addr (codedWord v) } }, [])
  | .readTier t pile page unit =>
    let place := tierPages t * (64 * t.no + pile) + page
    ({ s with
      free := s.free + 1
      trust := s.trust.onSessions (fun y => y.id == i) fun y => y.countPage place }, bvBytes (s.readUnit t pile page unit))

/-- A tongs session's message: its operation is carried out, and answered in the session. -/
def State.takeTongs (s : State) (i : Nat) (body : List Byte) : State :=
  let r := s.tongs i (tongsOp body)
  r.1.sendSessions (fun x => x.id == i && x.opened) 5 r.2

/-- SESSION_COMMAND (R453, R472): ignored from a blocked address; a message that fails closes its session. -/
def execSessionCommand (session : Nat) (m : SessMsg) (s : State) : Host.Outcome State Fault Refusal :=
  .next (match s.session session true with
    | none => s
    | some x =>
      if s.ignores x.source then s else
      match x.msgFault 4 m with
      | some r => (s.endSession session).noteFail r x.source
      | none =>
        let body := Config.decrypt x.inKey m.counter m.body
        let s := s.countIn x
        if x.tongs then s.takeTongs x.id body else s.takeCommand x body)

end Sys2Proof.Machine
end

