-- ==== Sys2Proof/Machine/Reset.lean ====
section
/-! DEFINITION. Partial resets: their phases, the fabric image, and what the manager restores and decides before service
returns (11_bringup_power_reset.md R435 to R442; 13_firmware_update.md R487 to R494; 05_heats.md Table 5-10;
07_collectives.md R285; 08_hearth_update.md R335). -/

namespace Sys2Proof.Machine

open Sys2Proof

/-! ## The fabric image (R438, R524) -/

/-- The last SEQ that each agent has acknowledged of the manager's flow to it (R531). -/
def State.ackedSeqs (s : State) : Tab Seq :=
  s.hub.srcs.foldl (fun t f =>
    if f.key.laneKey == mgrKey && !f.key.mcast then tset t f.key.peer.toNat f.latest else t) []

/-- The fabric and collective state at one point (R23). -/
def State.fabricModel (s : State) : FabricModel :=
  { mgr := s.mgr, steps := s.hub.steps, barriers := s.hub.barriers, acks := s.ackedSeqs, sets := s.mem.sets
    saved := s.mem.saved }

/-- Write a fabric image to tier C, and stream it to a paired standby, as ciphertext under the module key (Table 15-3). -/
def State.saveImage (s : State) : State :=
  let e := s.ember
  let number := e.imageNo + 1
  let bytes := imageBytes s.fabricModel
  let more := if e.streams then emberPieces 0x01 number (s.moduleText number bytes) else []
  { s with
    ember := { e with
      imageNo := number, journalIx := 0, imageLap := s.lap, image := e.image ++ more, ownImage := s.moduleWords number bytes
      ownJournal := [] }
    fw := { s.fw with imageSaved := true } }

/-- FABRIC_IMAGE_SAVE (R438): every 2 s of service. -/
def execFabricImageSave (s : State) : Host.Outcome State Fault Refusal :=
  .next (if s.service then s.saveImage else s)

/-! ## Beginning (R435, R436, R441) -/

/-- Contributions that wait for a record at the head of an input buffer are turned away like any packet that arrives while the hub
pauses (R99, R274). -/
def State.unholdBack (s : State) : State :=
  s.setHub { s.hub with arrived := s.hub.heldBack ++ s.hub.arrived, heldBack := [] }

/-- A partial reset begins at a phase: hub service pauses, and the health checks start their 120 s again. -/
def State.beginReset (s : State) (phase cause : Nat) (cmd : Option Nat) (copy : Bool) : State :=
  let since := ((s.boot.partialReset).map (·.since)).getD s.hif.nextId
  let began := ((s.boot.partialReset).map (·.began)).getD s.ticks
  let s : State := ({ s with fw := { s.fw with health := 0 } } : State).unholdBack
  s.setBoot { s.boot with
    paused := true, prPhase := phase, prCause := cause
    partialReset := some { phase := phase, cause := cause, cmd := cmd, copy := copy, since := since, began := began } }

/-- The SRAM of the compute domain is lost (R437): chunk records and what the Hearths hold; accepted contributions that wait for a
record go, and their sources send them again. -/
def State.loseSram (s : State) : State :=
  let s := s.unholdBack
  let clear (x : Hearth) : Hearth := { x with offered := [], buffer := [], received := [], passed := [], prog := [] }
  s.setHub { s.hub with sram := [], chunks := [], noRoom := [], hearths := tmap (fun _ x => clear x) s.hub.hearths }

/-- Phase 2: clocks are gated, waves 4 to 8 begin again, no core stays halted, the key slots are lost, and no activity is admitted. -/
def State.gateCompute (s : State) : State :=
  let b := s.boot
  (s.loseSram.setMem { s.mem with slots := [] }).setBoot { b with
    haltedCores := [], wave := 3, substep := 1, computeTest := false, halted := false, failedOnce := false, retryWait := false, haltRail := 0, activity := [] }

/-- The compute domain is held in reset (R441); the cause of this reset is the last one (Table 11-8). Commands of group 0x09 that
waited are noticed (R476). -/
def State.holdCompute (s : State) (cause count : Nat) : State :=
  let s := s.loseSram
  let s := s.setBoot { s.boot with
    wave := 3, substep := 0, computeTest := false, computeHeld := true, mgrReady := false, paused := true, prPhase := 0
    prCause := cause, partialReset := none, halted := false, haltRail := 0, failedOnce := false, retryWait := false, activity := [] }
  ((s.alarm 0x1108 (leBytes 2 count)).noticeLater).yieldGrant

/-- Whether a reset that is under way still has its copy step before it (R487). -/
def Partial.copyDue (p : Partial) : Bool := p.copy && p.phase != 4 && p.phase != 5

/-- A planned takeover that has not handed over ends. -/
def Ember.cancelTaking (e : Ember) : Ember :=
  if e.taking.isNone then e
  else { e with taking := none, state := e.readyState }

/-- A page of a heat's newest saved step cannot be read: the older one is the newest readable (R434). -/
def Plan.loseSlot (p : Plan) (slot : Bool) : Plan :=
  if p.slot = slot then { p with lastSaved := p.prevSaved, prevSaved := none, slot := !slot } else { p with prevSaved := none }

/-- The page that was being re-encrypted as an unplanned reset came reads as uncorrectable (Table 12-10): its heat is decided in phase 5
by Table 6-5, from the newest readable saved step; what else it held cannot be read. -/
def State.tearSweep (s : State) : State :=
  match s.sweepSet.map PageSet.use with
  | some (.live no) => s.modHeat no fun h => { h with restore := true }
  | some (.save no slot) => s.modPlan no fun p => p.loseSlot slot
  | some (.kept id) =>
    s.setMem { s.mem with saved := s.mem.saved.map fun x => if x.savedId = id then { x with torn := true } else x }
  | some (.cache n) => s.setMem { s.mem with cache := s.mem.cache.map fun e => if e.order = n then { e with torn := true } else e }
  | _ => s

/-- An unplanned partial reset begins (R435, R436, R441): the page that is being re-encrypted is torn (R475), a pending image falls
back (R493), and the third within 10 minutes holds the compute domain. What an orderly reset was to answer is still to be answered. -/
def State.unplannedReset (s : State) (cause : Nat) : State :=
  let recent := (s.boot.unplanned.filter fun t => s.opS < t + 600) ++ [s.opS]
  let p := s.boot.partialReset
  let fall := s.fw.record.confirm == 1
  let s := if s.fw.burning.isSome then s.writeConfirm else s
  let fall := fall && s.fw.record.confirm == 1
  let s := s.tearSweep.setBoot { s.boot with unplanned := recent }
  let s : State := { s with fw := { s.fw with unplannedSince := true }, ember := s.ember.cancelTaking }
  let s := if fall then s.fallBackFor 1 else s
  if 3 ≤ recent.length then s.holdCompute cause recent.length
  else (s.beginReset 2 cause (p.bind (·.cmd)) (fall || p.any Partial.copyDue)).gateCompute

/-- The Smith cores run: their test has ended, and nothing holds or has handed over. -/
def State.coresRun (s : State) : Bool := s.boot.computeTest && !s.boot.computeHeld && !s.ember.handover

/-- A Smith core runs: it fills a role (R425). -/
def Boot.coreFills (b : Boot) (core : Nat) : Bool := (List.range 128).any fun i => roleUnit 1 b.badUnits 0 i == some core

/-- WATCHDOG_EXPIRE (R435): of a core that fills a role. -/
def execWatchdogExpire (core : Nat) (s : State) : Host.Outcome State Fault Refusal :=
  .next (if s.coresRun && s.boot.coreFills core then s.unplannedReset 2 else s)

/-- MANAGER_STATE_UNCORRECTABLE (R435). -/
def execManagerStateUncorrectable (s : State) : Host.Outcome State Fault Refusal :=
  .next (if s.coresRun && s.boot.mgrReady then s.unplannedReset 3 else s)

/-- DEV_PARTIAL_RESET (R399, R436). -/
def execDevPartialReset (id : Nat) (s : State) : Host.Outcome State Fault Refusal :=
  .next (s.run 0x0103 id fun c s =>
    if !c.bit 32 0 then (s, some (bad 32)) else (s.beginReset 1 0 (some id) false, none))

/-! ## Commands that a pause ends (R405, Table 5-10) -/

/-- Every other command noticed before the pause that has not replied ends with S_BUSY. -/
def State.endCommands (s : State) (p : Partial) : State :=
  (s.hif.cmds.filter fun c => !c.atTrustDie && c.id < p.since && some c.id != p.cmd).foldl (fun s c => s.reply c.id (fail sBusy)) s

/-- A procedure's step without the command that it was to answer. -/
def MStep.mute : MStep → List MStep
  | .portReply _ _ => []
  | .routeReply _ => []
  | .retrain _ => []
  | .unfence no rank _ => [.unfence no rank none]
  | .unfenced no e _ => [.unfenced no e none]
  | .released no keep _ => [.released no keep none]
  | .carved no q => [.carved no { q with cmd := none }]
  | x => [x]

/-- Nothing answers a command that has ended; a port being retrained goes on training, and the routes are computed as it
comes out (Table 11-13). -/
def State.muteAll (s : State) : State :=
  let job (j : Job) : Job :=
    { j with steps := j.steps.flatMap MStep.mute, waits := j.waits.filter fun w => !(w matches .training _) }
  let fence (f : Fencing) : Fencing := { f with cmd := none }
  let link (l : MemLink) : MemLink := { l with cmd := none }
  let cut := s.mgr.jobs.any fun j => j.steps.any fun x => x matches .portReply _ _
  let s := s.setMgr { s.mgr with
    jobs := s.mgr.jobs.map job, fencings := s.mgr.fencings.map fence, readmitCmds := [], disc := { s.mgr.disc with cmd := none } }
  let s := s.setMem { s.mem with links := tmap (fun _ l => link l) s.mem.links }
  let quote (q : QuoteReq) : Bool := match q.asker with
    | .cmd id => (s.cmd id).isSome
    | .mailbox => true
  let wait (w : EmberWait) : Bool := match w with
    | .cmd _ _ id _ _ => (s.cmd id).isSome
    | _ => true
  let s : State := { s with
    trust := { s.trust with quotes := s.trust.quotes.filter quote }
    ember := { s.ember with waits := s.ember.waits.filter wait } }
  if cut then s.requestEpoch else s

/-- A load whose command had not replied is undone. -/
def State.undoLoad (s : State) (w : LoadWait) : State :=
  if w.cmd.isNone then s
  else
    let ids := s.planRuns w.heat
    let s := s.setMem { s.mem with loads := s.mem.loads.filter fun x => x.heat != w.heat }
    (s.freePlan w.heat).addJob (tearDown ids) none

/-- A carve whose command had not replied is undone: its heat is released. -/
def State.undoCarving (s : State) (no : Nat) : State :=
  let s := s.modHeat no fun h => { h with assigned := false }
  s.addJob ([.unassign no, .wait] ++ tearDown (s.runsOf no) ++ [.leave no] ++ epochSteps false ++ [.released no false none]) none

/-- The runs of a heat that its undone release had already freed are placed again (R202, R299). -/
def State.regainRuns (s : State) (no : Nat) : State :=
  match s.net, tget s.mgr.heats no with
  | some n, some h =>
    if !(s.runsOf no).isEmpty then s
    else
      let transits := axes.filter fun a => h.closed[a.no]? == some 1 && !n.owns h a
      let r := addRuns s.mgr.runs (n.transitRuns no h transits)
      let wanted := (h.plan.map fun p => p.image.runs).getD []
      (s.setMgr { s.mgr with runs := (n.placeRuns no h wanted r.1).getD r.1 }).modHeat no fun h => { h with runs := r.2 }
  | _, _ => s

/-- A release that had not ended is undone: the heat stays open, with its routes, runs, bridges and assignments, and keeps the
plan that it held. -/
def State.undoRelease (s : State) (no : Nat) : State :=
  let s := (s.modHeat no fun h => { h with assigned := true, leaving := false }).regainRuns no
  match tget s.mgr.heats no with
  | none => s
  | some h =>
    s.addJob (epochSteps false ++ setUp (s.runsOf no) ++ (h.splices.map fun x => MStep.bridges no x.1 x.2 true) ++
      [.wait, .assign no, .wait]) none

/-- The releases that a procedure carries out, with their commands. -/
def Job.releases (j : Job) : List (Nat × Option Nat) :=
  j.steps.filterMap fun x => match x with
    | .released no _ cmd => some (no, cmd)
    | _ => none

/-- A step by which a heat leaves. -/
def MStep.leaves (nos ids : List Nat) : MStep → Bool
  | .bridges no _ _ on => !on && nos.contains no
  | .unassign no => nos.contains no
  | .leave no => nos.contains no
  | .released no _ _ => nos.contains no
  | .runsStop is => is.any ids.contains
  | .runsClear is => is.any ids.contains
  | _ => false

/-- The carves that a procedure carries out. -/
def Job.carves (j : Job) : List (Nat × Queued) :=
  j.steps.filterMap fun x => match x with
    | .carved no q => some (no, q)
    | _ => none

/-- A queued command of the heat queue that stays: the carve of a restart whose release has ended. -/
def State.staysQueued (s : State) (q : Queued) : Bool :=
  q.cmd.isNone && match q.op with
    | .carve _ (some r) => !s.releasing r.heat
    | _ => false

/-- Heat commands that have not replied are undone or dropped (R439 step 4); `back` are the heats whose undone release a
command had asked for. -/
def State.undoHeatCmds (s : State) : State × List Nat :=
  let jobs := s.mgr.jobs
  let releases := jobs.flatMap Job.releases
  let gone := releases.map (·.1)
  let ids := gone.flatMap s.runsOf
  let carves := (jobs.flatMap Job.carves).filter fun x => x.2.cmd.isSome
  let loads := s.mem.loads
  let stays (j : Job) : Option Job :=
    if !j.releases.isEmpty || (j.carves.any fun x => x.2.cmd.isSome) then
      ({ j with steps := j.steps.filter fun x => !x.leaves gone ids } : Job).switchOnly
    else some j
  let s := s.setMgr { s.mgr with queue := s.mgr.queue.filter s.staysQueued, jobs := jobs.filterMap stays }
  let s := releases.foldl (fun s x => s.undoRelease x.1) s
  let s := carves.foldl (fun s x => s.undoCarving x.1) s
  (loads.foldl State.undoLoad s, (releases.filter fun x => x.2.isSome).map (·.1))

/-! ## Open steps (R285, R335) -/

/-- COLL_RETRY for an open step, to every agent of the heat (R232). -/
def State.retryAll (s : State) (no : Nat) (collId : BitVec 32) (step : BitVec 64) : State :=
  match s.mgr.record, tget s.mgr.heats no with
  | some r, some h =>
    let live := s.liveEntries
    ((h.carriers r).filter fun e => live.contains e && !h.fenced.contains e).foldl (fun s e =>
      s.sendCtrl e 0x07 (at' 128 8 noEid ||| at' 128 26 collId ||| at' 128 58 step)) s
  | _, _ => s

/-- A step that is run again is decided again, from the loss-scale state and the statistics as they stood (R335). -/
def Plan.undecided (p : Plan) : Plan :=
  match p.before with
  | some b => { p with
      decision := none, before := none, lsExp := b.lsExp, streak := b.streak, rowStat := b.rowStat, colStat := b.colStat }
  | none => { p with decision := none }

/-- The open steps of one heat end with S_ABORTED and run again from empty records, which a fenced rank's contribution is missed in
at once (R260); one whose update has written a record is rolled back in place instead. -/
def State.redoSteps (s : State) (no : Nat) : State :=
  if s.forgeWritten no then
    if (tget s.mgr.heats no).any fun h => h.state == 2 then s.abortSteps no else s.rollBack no
  else
    let steps := s.hub.steps.filter fun x => x.heat == no
    let gates := s.hub.barriers.filter fun b => b.heat == no
    let empty (b : Barrier) : Barrier := if b.heat = no then { b with arrived := [] } else b
    let s := s.failSteps no sAborted
    let s := s.setHub { s.hub with
      hearths := s.hub.hearths.filter (fun x => x.1 / 16 != no), barriers := s.hub.barriers.map empty }
    let s := (s.dropKept no).modPlan no fun p => { p.undecided with saving := none }
    let s := steps.foldl (fun s x => match s.descOf no x.collId with
      | some d => if d.fromHub then s.startStep no d x.step.toNat else s.retryAll no x.collId x.step
      | none => s) s
    (gates.foldl (fun s b => s.retryAll no b.barrier (BitVec.ofNat 64 b.openStep)) s).checkPlan no

/-! ## Heats in recovery (Table 6-7) -/

/-- A heat in recovery is decided afresh by Table 6-5; its steps have ended, so one that can go on is rolled back in place. -/
def State.decideAfresh (s : State) (no : Nat) : State :=
  match s.net, tget s.mgr.heats no with
  | some n, some h =>
    if h.active && !s.releasing no && s.allServe n.r h && s.heatStands n no h then s.rollBack no else s.decideHeat no []
  | _, _ => s

/-! ## Restore and reconcile (R439) -/

/-- The reads of phase 5 come before every other procedure (Table 4-12). -/
def State.beginReads (s : State) : State :=
  let old (j : Job) : Bool := j.steps.contains .prEnd
  let rest := s.mgr.jobs.filter fun j => !old j
  s.setMgr { s.mgr with jobs := { steps := [.slotsAll, .wait, .prEnd], waits := [], heat := none } :: rest }

/-- Phase 5 begins: the model is as it was, the logged port changes are read, and TBL_STATE goes to every agent. After a halt at
wave 5 to 8 nothing is restored (Table 11-5). -/
def State.beginRestore (s : State) : State :=
  let s := s.setBoot { s.boot with mgrReady := true, stage := .running }
  if s.boot.halted then s else (s.link.log.foldl (fun s p => State.tileChange p s) s).beginReads.settle

/-- Steps 4 to 6 of R439. -/
def State.reconcile (s : State) (p : Partial) : State :=
  let s := s.endCommands p
  let recovering := (s.mgr.heats.filter fun h => h.2.state == 2 || (h.2.state == 1 && h.2.restore)).map (·.1)
  let r := s.undoHeatCmds
  let s := r.1.muteAll
  let open' := (s.hub.steps.map (·.heat) ++ s.hub.barriers.map (·.heat)).eraseDups
  let s := open'.foldl State.redoSteps s
  let s := recovering.foldl State.decideAfresh s
  (r.2.filter fun no => !recovering.contains no).foldl (fun s no => if (tget s.mgr.heats no).any Heat.active then s.rollBack no else s) s

/-- A halt leaves no model: FABRIC_STATE stays 0. -/
def State.noModel (s : State) (p : Partial) : State :=
  let s := s.endCommands p
  s.setMgr { Mgr.reset with fabricGen := s.mgr.fabricGen, record := s.mgr.record }

/-! ## The end (R405, R436, R490) -/

/-- An activation ends: DEADLINE is set, and the reply names the running version; one that fell back has failed. -/
def State.activationEnds (s : State) (id : Nat) (p : Partial) : State :=
  let f := s.fw
  let s : State := { s with fw := { f with activating := none } }
  if f.record.confirm ≠ 1 then s.reply id (fail (if p.cause = 1 then sBadSignature else sBusy))
  else
    let version := ((f.running).map (·.2)).getD 0
    let s : State := { s with fw := { s.fw.write { s.fw.record with deadline := s.opS + 600 } with activating := none } }
    (s.reply id (ok (bvBytes version))).alarm 0x1301 (leBytes 2 0 ++ bvBytes version ++ bvBytes f.former)

/-- The command that a reset was to answer is answered. -/
def State.answerReset (s : State) (p : Partial) : State :=
  match p.cmd with
  | none => s
  | some id =>
    if s.fw.activating = some id then s.activationEnds id p
    else if (s.cmd id).any fun c => c.opcode == 0x0B03 then s.reply id (fail sBusy)
    else s.reply id (ok [])

/-- Microseconds since a tick of the lap counter, which counts 625 ps and wraps after 2^60 (R292). -/
def State.usSince (s : State) (tick : Nat) : Nat := (s.ticks + 2 ^ 60 - tick) % 2 ^ 60 / 1600

/-- The command behind the reset is answered, PAUSED clears, service returns, and what waited is noticed in order (R405). The alarm
PARTIAL_RESET gives the pause in µs (Table 11-9), rounded down (DESIGN CHOICE, log entry 102). -/
def State.endPause (s : State) (p : Partial) : State :=
  let us := s.usSince p.began
  let s := (s.answerReset p).setBoot { s.boot with paused := false, prPhase := 0, partialReset := none }
  let s := s.alarm 0x1106 ([BitVec.ofNat 8 p.cause, 0] ++ leBytes 4 us)
  (s.noticeLater.firstDiscovery).settle

/-! ## From phase to phase -/

def State.setPhase (s : State) (p : Partial) (phase : Nat) : State :=
  s.setBoot { s.boot with prPhase := if phase = 6 then 3 else phase, partialReset := some { p with phase := phase } }

/-- The final point of a planned takeover (Table 15-4): a fabric image, its journal, and HANDOVER behind it. -/
def State.sendFinal (s : State) : State :=
  let s := s.saveImage
  let e := s.ember
  { s with ember := { e with
    handover := true, image := e.image ++ [emberPkt 0x0A e.imageNo e.journalIx []] } }

/-- The end of phase 2: wave 8 has settled, or the bellows has halted (Table 11-5). The trust die has loaded the key slots (R463). -/
def State.endPhase2 (s : State) (p : Partial) : State :=
  if s.boot.halted && s.boot.wave < 4 then
    s.setBoot { s.boot with partialReset := none, prPhase := 0, mgrReady := false }
  else if s.boot.halted || s.boot.wave = 8 then s.loadSlots.setPhase p 3
  else s

/-- The end of phase 3: roles are filled anew, and the grade is known (R428). -/
def State.endPhase3 (s : State) (p : Partial) (failing : List (BitVec 32)) : State :=
  let s := s.testFound (failing.filter fun r => 1 ≤ unitClass r && unitClass r ≤ 5)
  let s := (s.setBoot { s.boot with computeTest := true }).regrade
  s.setPhase p (if p.copy then 6 else 4)

/-- The end of the copy step (R487, R495). -/
def State.endCopy (s : State) (p : Partial) : State :=
  let s := s.copyImage false
  if s.fw.noImage then
    (s.setBoot { s.boot with partialReset := none, prPhase := 0, mgrReady := false }).yieldGrant
  else s.setPhase p 4

/-- One phase ends; a record that the reset was begun with has long been written. -/
def State.endPhase (s : State) (p : Partial) (failing : List (BitVec 32)) : State :=
  let s : State := { s with fw := { s.fw with writing := false } }
  match p.phase with
  | 1 =>
    if s.ember.handover then s
    else if s.ember.taking.isSome then s.sendFinal
    else (s.saveImage.setPhase p 2).gateCompute
  | 2 => s.endPhase2 p
  | 3 => s.endPhase3 p failing
  | 6 => s.endCopy p
  | 4 => (s.setPhase p 5).beginRestore
  | _ =>
    if s.boot.halted then (s.noModel p).endPause p
    else
      match s.mgr.jobs with
      | { steps := .prEnd :: _, .. } :: rest => ((s.setMgr { s.mgr with jobs := rest }).reconcile p).endPause p
      | _ => s

/-- PR_PHASE_END (R436): `failing` is what a start-up test found. -/
def execPrPhaseEnd (failing : List (BitVec 32)) (s : State) : Host.Outcome State Fault Refusal :=
  .next (match s.boot.partialReset with
    | some p => s.endPhase p failing
    | none => s)

end Sys2Proof.Machine
end

