-- ==== Sys2Proof/Machine/EmberLink.lean ====
section
/-! DEFINITION. The ember links: what is sent and in which order, acknowledgement and resending, what a standby stores, and what
waits for an acknowledgement (15_standby_and_hotplug.md R519 to R528). -/

namespace Sys2Proof.Machine

open Sys2Proof

/-! ## The links -/

/-- The ember links run: the clocks do, and P0's link logic has power, on a standby once its one wave has settled (Table 11-4,
R517). -/
def State.emberOn (s : State) : Bool := s.boot.pllLock && s.p0Up

/-! ## Packets and credits (R521) -/

/-- The header of an ember packet (Table 15-2). -/
def emberHead (p : EmberPkt) : List Byte :=
  leBytes 4 0x4D424545 ++ bvBytes p.type ++ leBytes 1 (if p.last then 1 else 0) ++ leBytes 2 0 ++ leBytes 8 p.seq ++
    bvBytes p.object ++ bvBytes p.offset ++ leBytes 4 p.payload.length ++ bvBytes p.srcUnit ++ leBytes 20 0

/-- CRC-64 of an ember packet, over its header and payload. -/
def emberCrc (p : EmberPkt) : BitVec 64 := crc64 (emberHead p ++ p.payload)

/-- Bytes of an ember packet: header, payload and CRC-64. -/
def emberBytes (p : EmberPkt) : Nat := 72 + p.payload.length

/-- Cells of the frame of an ember packet: the frame word, the packet and the hop check, as of any frame (R59). -/
def emberCells (p : EmberPkt) : Nat := (emberBytes p + 12 + 31) / 32

/-- The frame word of an ember packet: VC B0 (Table 2-2, R521). -/
def emberWord (p : EmberPkt) : BitVec 64 := frameWord 2 (BitVec.ofNat 8 (emberCells p)) p.sent 0

/-- The hop check of an ember packet's frame, over its frame word and the packet (R59). -/
def emberHop (p : EmberPkt) : BitVec 32 := crc32 (bvBytes (emberWord p) ++ emberHead p ++ p.payload ++ bvBytes p.crc)

/-- Credit counters of a link. -/
def Ember.credit (e : Ember) (link : Nat) : Credit := if link = 0 then e.credit0 else e.credit1

def Ember.setCredit (e : Ember) (link : Nat) (c : Credit) : Ember := if link = 0 then { e with credit0 := c } else { e with credit1 := c }

/-- A link that is up holds credits for every cell of a packet: the grant of VC B0 at width 4 (R83, R84). -/
def Ember.holds (e : Ember) (link : Nat) (p : EmberPkt) : Bool :=
  (if link = 0 then e.up0 else e.up1) &&
    emberCells p ≤ grantCells 2 4 - ((e.credit link).sent - (e.credit link).freedSeen).toNat

/-- The link for a packet: the lower-numbered one that holds credits (R521). -/
def Ember.link (e : Ember) (p : EmberPkt) : Option Nat := if e.holds 0 p then some 0 else if e.holds 1 p then some 1 else none

/-- A packet as it leaves on a link: its check, SENT_CUM of its frame word, FREED_CUM of the link's control cells, and the hop check
of its frame. -/
def Ember.dress (e : Ember) (link : Nat) (p : EmberPkt) : EmberPkt :=
  let q : EmberPkt := { p with crc := emberCrc p, sent := (e.credit link).sent, freed := (e.credit link).freed }
  { q with hop := emberHop q }

/-- The cell stream of a link. -/
def Ember.tx (e : Ember) (link : Nat) : TxStream := if link = 0 then e.tx0 else e.tx1

def Ember.setTx (e : Ember) (link : Nat) (t : TxStream) : Ember := if link = 0 then { e with tx0 := t } else { e with tx1 := t }

/-- Put a packet on a link: its frame takes the next free ordinary slots of the link's blocks, and its cells count as sent (R56, R57,
R83). -/
def State.emberOn' (s : State) (link : Nat) (p : EmberPkt) : State :=
  let e := s.ember
  let c := e.credit link
  let t := e.tx link
  let q := e.dress link p
  (s.setEmber ((e.setCredit link { c with sent := c.sent + BitVec.ofNat 16 (emberCells p) }).setTx link (t.takeFrame (emberCells p)))).emit
    [.ember link (slotNo t.next) (emberWord q) q q.hop]

/-- Put a packet on the link that takes it; while none does, it does not go. -/
def State.emberOut (s : State) (p : EmberPkt) : State :=
  match s.ember.link p with
  | some k => s.emberOn' k p
  | none => s

/-- ACK and HEARTBEAT carry the number that the next packet will take, take none themselves, and are not acknowledged. -/
def Ember.answer (e : Ember) (type : BitVec 8) (object : BitVec 64) : EmberPkt :=
  { (emberPkt type object 0 []) with seq := e.txNext }

/-- Send ACK with the highest SEQ received with no gap (R522). -/
def State.sendEmberAck (s : State) : State :=
  let s := s.setEmber { s.ember with sinceAck := 0, ackTimer := false }
  if s.ember.rxNext = 0 then s else s.emberOut (s.ember.answer 0x09 (BitVec.ofNat 64 (s.ember.rxNext - 1)))

/-! ## Sending (R527) -/

/-- The next saved-step packet: heat by heat in ascending number, one at a time in turn. -/
def nextPage (turn : Nat) (l : List EmberPkt) : Option (EmberPkt × List EmberPkt × Nat) :=
  let heats := sortNat ((l.map fun p => objectHeat p.object).eraseDups)
  match (heats.find? fun h => turn < h).orElse fun _ => heats.head? with
  | none => none
  | some h => (takeFirst (fun p => objectHeat p.object == h) l).map fun x => (x.1, x.2, h)

/-- The next packet by priority, and the queues without it. -/
def Ember.next (e : Ember) : Option (EmberPkt × Ember) :=
  match e.urgent, e.image with
  | p :: r, _ => some (p, { e with urgent := r })
  | [], p :: r => some (p, { e with image := r })
  | [], [] => (nextPage e.pageTurn e.pages).map fun x => (x.1, { e with pages := x.2.1, pageTurn := x.2.2 })

/-- Number a packet, keep it until it is acknowledged, and put it on a link. -/
def State.emberNumber (s : State) (p : EmberPkt) : State :=
  let e := s.ember
  let q := { p with seq := e.txNext }
  let more : List EmberWait := if q.type = 0x04 then [.stepDone (objectHeat q.object) (objectStep q.object)] else []
  (s.setEmber { e with txNext := e.txNext + 1, unacked := e.unacked ++ [q], waits := e.waits ++ more }).emberOut q

/-- Send one packet; HANDOVER is followed by GRANT_RELEASE (Table 15-4). -/
def State.emberSend (s : State) : State :=
  match s.ember.next with
  | none => s
  | some (p, e) =>
    let s := (s.setEmber e).emberNumber p
    if p.type = 0x0A then s.releaseGrant else s

/-- EMBER_SEND (R527). -/
def execEmberSend (s : State) : Host.Outcome State Fault Refusal :=
  .next (if s.emberOn && s.ember.active && s.ember.next.any fun x => (s.ember.link x.1).isSome then s.emberSend else s)

/-- EMBER_RESEND_EXPIRE (R522): one packet that no ACK covers goes again. -/
def execEmberResendExpire (seq : Nat) (s : State) : Host.Outcome State Fault Refusal :=
  .next (if s.emberOn then
    match s.ember.unacked.find? fun p => p.seq == seq with
    | some p => s.emberOut p
    | none => s
  else s)

/-- EMBER_ACK_TIMER (R522). -/
def execEmberAckTimer (s : State) : Host.Outcome State Fault Refusal :=
  .next (if s.emberOn && s.ember.ackTimer then s.sendEmberAck else s)

/-- EMBER_HEARTBEAT_SEND (R522): on each link that is up. -/
def execEmberHeartbeatSend (s : State) : Host.Outcome State Fault Refusal :=
  .next (if s.emberOn then
    let p := s.ember.answer 0x08 s.lap
    [0, 1].foldl (fun s k => if s.ember.holds k p then s.emberOn' k p else s) s
  else s)

/-! ## Starting and losing the standby (R519, R524, Table 15-6) -/

/-- A standby discards what it holds of the active's state. -/
def Ember.discard (e : Ember) : Ember :=
  { e with slotA := ImageSlot.reset, slotB := ImageSlot.reset, journalRx := [], mirrorA := [], mirrorB := [], keys := []
           configRx := [], handover := false }

/-- The links return after LOST. -/
def State.resync (s : State) : State :=
  if s.ember.state ≠ .lost then s
  else if s.boot.stage = .standby then s.setEmber { s.ember.discard with state := .syncing }
  else s.startSync

/-- What waited for acknowledgements of a lost standby: replies leave, and the rest is of no use. -/
def State.dropEmberWaits (s : State) : State :=
  let ws := s.ember.waits
  let s := s.setEmber { s.ember with waits := [], urgent := [], image := [], pages := [], streaming := [], abandons := [] }
  ws.foldl (fun s w => match w with
    | .cmd _ _ id n result => s.reply id { ok result with bytes := n }
    | _ => s) s

/-- Both links have been down for 50 ms (R522): the active reports LOST, and a takeover that has not handed over ends; the standby
asks for the grant (R529). -/
def State.emberLost (s : State) : State :=
  if s.boot.stage = .standby then (s.setEmber { s.ember with state := .lost }).emit [.i3c 0x09 []]
  else
    let e := s.ember
    let s := s.setEmber (if e.grant then { e with state := .lost, handover := false, taking := none } else { e with state := .lost })
    s.dropEmberWaits

/-- EMBER_LOST_TIMER (R522). -/
def execEmberLostTimer (s : State) : Host.Outcome State Fault Refusal :=
  .next (
    let e := s.ember
    if s.emberOn && !e.up0 && !e.up1 && e.paired && e.state != .none && e.state != .lost then s.emberLost else s)

/-- EMBER_LINK_SILENT (R522): a link with no packet for 10 ms counts as down. -/
def execEmberLinkSilent (link : Nat) (s : State) : Host.Outcome State Fault Refusal :=
  .next (match link with
    | 0 => s.setEmber { s.ember with up0 := false }
    | 1 => s.setEmber { s.ember with up1 := false }
    | _ => s)

/-! ## Receiving -/

/-- A packet has come on a link: the link is up, the peer's FREED_CUM is known, and the packet's cells, with those lost before it,
are received and at once freed (R84, R85). -/
def Ember.hear (e : Ember) (link : Nat) (p : EmberPkt) : Ember :=
  let c := (e.credit link).take p.sent (emberCells p)
  let e := e.setCredit link { c with freedSeen := p.freed, freed := c.freed + BitVec.ofNat 16 (emberCells p) }
  if link = 0 then { e with up0 := true } else { e with up1 := true }

/-- A packet is for its row: the links run, its TYPE is the row's, and its hop check and CRC-64 hold; one that fails is as if it had
not come, and is sent again (R61, R521, R522). -/
def State.hears (s : State) (link : Nat) (p : EmberPkt) (type : BitVec 8) : Bool :=
  s.emberOn && link < 2 && p.type == type && p.hop == emberHop p && p.crc == emberCrc p

/-- The pairing setting of a standby goes into its stored configuration (R407, R518). -/
def State.storePairing (s : State) : State :=
  let id := s.hif.nextId
  ({ s with hif := { s.hif with nextId := id + 1 } } : State).store id [] fun k => { k with pairing := true }

/-- The standby's part of the handshake (R471, Table 12-4): it answers as the module does in a session, with the identity key's
signature over T2; the pairing key is the first 256 bits that both sides compute. Counts of packets begin at 0 (Table 15-2). -/
def State.answerPairing (s : State) (index : Nat) (k : KeyIndex) : State :=
  let d := s.trust.draws
  let m1 := Config.partnerMsg s.free
  let m2 := serverBytes d
  let sig := Config.sign 1 index (bvBytes (Config.shake256 (m1 ++ m2)))
  let ct := (Config.partnerMsg (s.free + 1)).take 1568
  let t3 := Config.shake256 (m1 ++ m2 ++ sig ++ ct)
  let key := field (Config.shake256Wide (Config.decapsulate d ct ++ bvBytes t3)) 0 256
  ({ s with
    free := s.free + 2
    ember := { s.ember with paired := true, state := .syncing, txNext := 0, rxNext := 0, rxAhead := [], unacked := [] }
    trust := { s.trust with identity := k, pairingKey := key, draws := d + 1 } } : State).emit [.pairing (m2 ++ sig)]

/-- The first packet that reaches an unpaired standby shows that the trust dies have agreed a key, which takes one signature of the
identity key (R471, R518); without an index to sign with it stays unpaired. -/
def State.meetPartner (s : State) : State :=
  if s.boot.stage = .standby && !s.ember.paired then
    match s.trust.identity.take s.skips with
    | none => s
    | some (i, k) => (s.answerPairing i k).storePairing
  else s

/-- Advance past every number that has come. -/
def Ember.gapless : Nat → Ember → Ember
  | 0, e => e
  | fuel + 1, e =>
    if e.rxAhead.contains e.rxNext then
      Ember.gapless fuel { e with rxNext := e.rxNext + 1, rxAhead := e.rxAhead.filter (· != e.rxNext) }
    else e

/-- A number has been received: an ACK after every 8, or by the timer (R522). -/
def State.countRx (s : State) (seq : Nat) : State :=
  let e := s.ember
  let e := { e with rxAhead := sortNat (seq :: e.rxAhead), sinceAck := e.sinceAck + 1, ackTimer := true }
  let s := s.setEmber (Ember.gapless (e.rxAhead.length + 1) e)
  if 8 ≤ s.ember.sinceAck then s.sendEmberAck else s

/-- Take a numbered packet: a second copy is acknowledged and changes nothing else. -/
def State.emberTake (s : State) (link : Nat) (p : EmberPkt) (type : BitVec 8) (f : State → State) : State :=
  if !s.hears link p type then s
  else
    let s := (s.meetPartner.setEmber (s.meetPartner.ember.hear link p)).resync
    if p.seq < s.ember.rxNext || s.ember.rxAhead.contains p.seq then s.sendEmberAck
    else (f s).countRx p.seq

/-- A packet of a stored object, at a standby. -/
def State.standbyTake (s : State) (link : Nat) (p : EmberPkt) (type : BitVec 8) (f : State → State) : State :=
  if s.boot.stage = .standby then s.emberTake link p type f else s

/-- HEARTBEAT (R522). -/
def execHeartbeat (link : Nat) (p : EmberPkt) (s : State) : Host.Outcome State Fault Refusal :=
  .next (if s.hears link p 0x08 then (s.meetPartner.setEmber (s.meetPartner.ember.hear link p)).resync else s)

/-! ## What a standby stores (R523) -/

/-- The newest complete image: true for slot B. -/
def Ember.newest (e : Ember) : Option Bool :=
  if e.slotA.complete && e.slotB.complete then some (decide (e.slotA.number.toNat < e.slotB.number.toNat))
  else if e.slotA.complete then some false
  else if e.slotB.complete then some true
  else none

/-- The slot of the newest complete image. -/
def Ember.newestSlot (e : Ember) : Option ImageSlot := e.newest.map fun b => if b then e.slotB else e.slotA

/-- Put a piece into a slot; an object of another number begins it afresh. -/
def ImageSlot.put (x : ImageSlot) (p : EmberPkt) : ImageSlot :=
  let x := if x.number = p.object then x else { ImageSlot.reset with number := p.object }
  let x := if x.pieces.any fun y => y.1 == p.offset then x else { x with pieces := x.pieces ++ [(p.offset, p.payload)] }
  let x := if p.last then { x with total := some (p.offset.toNat + p.payload.length) } else x
  { x with complete := x.total == some ((x.pieces.map fun y => y.2.length).sum) }

/-- The journal records that still follow the newest complete image. -/
def Ember.trimJournal (e : Ember) : Ember :=
  match e.newestSlot with
  | none => e
  | some x => { e with journalRx := e.journalRx.filter fun p => x.number.toNat ≤ p.object.toNat }

/-- Journal records after the newest complete image that have no gap, in order: those of each image number, from index 0, with
no image number left out. -/
def Ember.gaplessFrom (e : Ember) : Nat → Nat → Nat → List EmberPkt
  | 0, _, _ => []
  | fuel + 1, number, index =>
    match e.journalRx.find? fun p => p.object.toNat == number && p.offset.toNat == index with
    | some p => p :: e.gaplessFrom fuel number (index + 1)
    | none =>
      if e.journalRx.any fun p => p.object.toNat == number + 1 && p.offset == 0 then e.gaplessFrom fuel (number + 1) 0 else []

/-- The model of the newest takeover point (R524). -/
def Ember.takeoverPoint (e : Ember) : Option FabricModel :=
  e.newestSlot.bind fun x => modelOf x.pieces (e.gaplessFrom (2 * e.journalRx.length + 1) x.number.toNat 0)

/-- A mirror slot that the takeover point may still refer to (R525, R528): a kept saved state, or a step of a heat that it holds, not
older than the heat's MIRRORED_STEP. With no takeover point every slot stays. -/
def Ember.mirrorStays (e : Ember) (no : Nat) (m : Mirror) : Bool :=
  match e.takeoverPoint with
  | none => true
  | some x =>
    (x.saved.any fun k => k.heat == no && k.step == m.step) ||
      (tget x.mgr.heats no).any fun h => match h.mirrored with
        | some step => !m.complete || step ≤ m.step
        | none => true

/-- Drop the mirror slots that the takeover point no longer refers to (R528). -/
def Ember.trimMirrors (e : Ember) : Ember :=
  { e with
    mirrorA := e.mirrorA.filter fun x => e.mirrorStays x.1 x.2, mirrorB := e.mirrorB.filter fun x => e.mirrorStays x.1 x.2 }

/-- Store an image piece in the slot that does not hold the newest complete image; once one is complete, the standby holds a
takeover point. -/
def Ember.putImage (e : Ember) (p : EmberPkt) : Ember :=
  let intoB := e.newest == some false
  if e.newestSlot.any fun x => x.number == p.object then e
  else
    let e := if intoB then { e with slotB := e.slotB.put p } else { e with slotA := e.slotA.put p }
    let done := if intoB then e.slotB.complete else e.slotA.complete
    let e := e.trimJournal.trimMirrors
    if done && e.state == .syncing then { e with state := .ready } else e

/-- FABRIC (R523). -/
def execFabric (link : Nat) (p : EmberPkt) (s : State) : Host.Outcome State Fault Refusal :=
  .next (s.standbyTake link p 0x01 fun s => s.setEmber (s.ember.putImage p))

/-- Keep a journal record that follows the newest complete image. -/
def Ember.putJournal (e : Ember) (p : EmberPkt) : Ember :=
  if (e.newestSlot.any fun x => p.object.toNat < x.number.toNat) ||
      e.journalRx.any (fun q => q.object == p.object && q.offset == p.offset) then e
  else ({ e with journalRx := e.journalRx ++ [p] } : Ember).trimMirrors

/-- JOURNAL (R523). -/
def execJournal (link : Nat) (p : EmberPkt) (s : State) : Host.Outcome State Fault Refusal :=
  .next (s.standbyTake link p 0x02 fun s => s.setEmber (s.ember.putJournal p))

def Mirror.fresh (step seq : Nat) : Mirror := { step := step, pages := [], count := 0, complete := false, since := seq }

/-- The mirror slot that takes a heat's next step: the one without the newest complete step. -/
def Ember.intoB (e : Ember) (no : Nat) : Bool :=
  match tget e.mirrorA no, tget e.mirrorB no with
  | some a, some b => a.complete && (!b.complete || b.step < a.step)
  | some a, none => a.complete
  | none, _ => false

/-- Change the slot that takes a heat's step; one that holds another step begins afresh. A packet of a step whose stream was abandoned
that comes after the next step's first one changes nothing (R526). -/
def Ember.onMirror (e : Ember) (no step seq : Nat) (f : Mirror → Mirror) : Ember :=
  let late := [tget e.mirrorA no, tget e.mirrorB no].any fun m => m.any fun m => m.step != step && seq < m.since
  if late || [tget e.mirrorA no, tget e.mirrorB no].any fun m => m.any fun m => m.complete && m.step == step then e
  else
    let old := if e.intoB no then tget e.mirrorB no else tget e.mirrorA no
    let m := match old with
      | some m => if m.step = step && !m.complete then m else Mirror.fresh step seq
      | none => Mirror.fresh step seq
    if e.intoB no then { e with mirrorB := tset e.mirrorB no (f m) } else { e with mirrorA := tset e.mirrorA no (f m) }

/-- A page with its ciphertext and source unit address. -/
def Mirror.putPage (m : Mirror) (p : EmberPkt) : Mirror :=
  if m.pages.any fun x => x.1 == p.offset then m
  else
    let pages := m.pages ++ [(p.offset, p.payload, p.srcUnit)]
    { m with pages := pages, complete := m.count != 0 && pages.length == m.count }

/-- PAGE (R523). -/
def execPage (link : Nat) (p : EmberPkt) (s : State) : Host.Outcome State Fault Refusal :=
  .next (s.standbyTake link p 0x03 fun s =>
    s.setEmber (s.ember.onMirror (objectHeat p.object) (objectStep p.object) p.seq fun m => m.putPage p))

/-- STEP_DONE names the pages of its step; the step is complete once they are all there. -/
def Mirror.done (m : Mirror) (count : Nat) : Mirror := { m with count := count, complete := m.pages.length == count }

/-- STEP_DONE (R523). -/
def execStepDone (link : Nat) (p : EmberPkt) (s : State) : Host.Outcome State Fault Refusal :=
  .next (s.standbyTake link p 0x04 fun s =>
    s.setEmber (s.ember.onMirror (objectHeat p.object) (objectStep p.object) p.seq fun m => m.done p.offset.toNat))

/-- KEY (R471, R523): the key pair is unwrapped under the pairing key, and held in volatile memory. -/
def execKey (link : Nat) (p : EmberPkt) (s : State) : Host.Outcome State Fault Refusal :=
  .next (s.standbyTake link p 0x05 fun s =>
    s.setEmber { s.ember with keys := tset s.ember.keys p.object.toNat (Config.unwrap s.trust.pairingKey p.payload) })

/-- Mirror slots without those that hold a page under a key (R528). -/
def mirrorsWithout (key : Nat) (t : Tab Mirror) : Tab Mirror :=
  t.filter fun x => !x.2.pages.any fun y => Config.pageKey x.1 x.2.step y.1.toNat == key

/-- KEY_DESTROY (R523, R528). -/
def execKeyDestroy (link : Nat) (p : EmberPkt) (s : State) : Host.Outcome State Fault Refusal :=
  .next (s.standbyTake link p 0x06 fun s =>
    let key := p.object.toNat
    s.setEmber { s.ember with
      keys := tdel s.ember.keys key, mirrorA := mirrorsWithout key s.ember.mirrorA, mirrorB := mirrorsWithout key s.ember.mirrorB })

/-- CONFIG (Table 15-3): the piece takes the place of the former one of its object and offset; the first piece of an object
begins it afresh. -/
def execConfig (link : Nat) (p : EmberPkt) (s : State) : Host.Outcome State Fault Refusal :=
  .next (s.standbyTake link p 0x07 fun s =>
    let keep (q : EmberPkt) : Bool := q.object != p.object || (p.offset != 0 && q.offset != p.offset)
    s.setEmber { s.ember with configRx := s.ember.configRx.filter keep ++ [p] })

/-- HANDOVER (R529): the image and journal so far are the final takeover point. -/
def execHandover (link : Nat) (p : EmberPkt) (s : State) : Host.Outcome State Fault Refusal :=
  .next (s.standbyTake link p 0x0A fun s => s.setEmber { s.ember with handover := true })

/-! ## Acknowledgements at the active (R524 to R526) -/

/-- A packet of a kind is still to be sent or acknowledged. -/
def Ember.pendingPkt (e : Ember) (type : BitVec 8) (object offset : BitVec 64) : Bool :=
  (e.urgent ++ e.pages ++ e.unacked).any fun p => p.type == type && p.object == object && p.offset == offset

def Ember.stepPending (e : Ember) (no step : Nat) : Bool :=
  (e.pages ++ e.unacked).any fun p => p.type == 0x04 && p.object == stepObject no step

/-- What waited for an acknowledgement that has come. -/
def Ember.waitOver (e : Ember) (w : EmberWait) : Bool :=
  match w with
  | .cmd image index _ _ _ => !e.pendingPkt 0x02 image index
  | .stepDone no step => !e.stepPending no step
  | .mirrored image index _ => !e.pendingPkt 0x02 image index

/-- A heat's stream is done: the next saved step may follow, and BEHIND ends with the last abandoned heat. -/
def State.streamDone (s : State) (no : Nat) : State :=
  let e : Ember := { s.ember with streaming := tdel s.ember.streaming no, abandons := tdel s.ember.abandons no }
  let e : Ember := if e.state == .behind && !e.abandons.any fun x => 2 ≤ x.2 then { e with state := .ready } else e
  (s.setEmber e).startStream no

/-- One wait ends: a reply leaves; MIRRORED_STEP advances with a journal record; a stream is done. -/
def State.endEmberWait (s : State) (w : EmberWait) : State :=
  match w with
  | .cmd _ _ id n result => s.reply id { ok result with bytes := n }
  | .stepDone no step =>
    let image := s.ember.imageNo
    let index := s.ember.journalIx
    let s := (s.modHeat no fun h => { h with mirrored := some step }).journal
    s.setEmber { s.ember with waits := s.ember.waits ++ [.mirrored image index no] }
  | .mirrored _ _ no => s.streamDone no

/-- The manager goes on with what has been acknowledged. -/
def State.endEmberWaits (s : State) : State :=
  if !s.mgrRuns then s
  else
    let ended := s.ember.waits.filter s.ember.waitOver
    let s := s.setEmber { s.ember with waits := s.ember.waits.filter fun w => !s.ember.waitOver w }
    ended.foldl State.endEmberWait s

/-- An ACK covers every packet up to a SEQ; the first whole fabric image makes the standby READY. -/
def State.takeEmberAck (s : State) (upTo : Nat) : State :=
  let e := s.ember
  let whole := e.unacked.any fun p => p.seq ≤ upTo && p.type == 0x01 && p.last
  let e := { e with unacked := e.unacked.filter fun p => upTo < p.seq }
  (s.setEmber (if whole && e.state == .syncing then { e with state := e.readyState } else e)).endEmberWaits

/-- EMBER_ACK (R522). -/
def execEmberAck (link : Nat) (p : EmberPkt) (s : State) : Host.Outcome State Fault Refusal :=
  .next (if s.hears link p 0x09 then
    let s := (s.setEmber (s.ember.hear link p)).resync
    s.takeEmberAck p.object.toNat
  else s)

end Sys2Proof.Machine
end

