-- ==== Sys2Proof/Machine/FwCmds.lean ====
section
/-! DEFINITION. Firmware delivery, activation, confirmation and fallback (13_firmware_update.md R481 to R497). -/

namespace Sys2Proof.Machine

open Sys2Proof

/-! ## FW_PIECE (R481 to R484) -/

/-- Row 1 of Table 13-3; a reserved field has been looked at before. -/
def pieceFault (c : Cmd) : Option Ans :=
  let no := c.num 36 4
  let count := c.num 40 4
  let bytes := c.num 44 4
  if c.num 32 4 = 0 then some (bad 32)
  else if count = 0 ∨ 1024 < count then some (bad 40)
  else if count ≤ no then some (bad 36)
  else if bytes = 0 ∨ 65536 < bytes ∨ (no + 1 ≠ count ∧ bytes ≠ 65536) then some (bad 44)
  else none

/-- Rows 2 and 3. -/
def Fw.pieceBusy (f : Fw) (c : Cmd) : Bool :=
  match f.staging with
  | some g => g.imageId != BitVec.ofNat 32 (c.num 32 4) || g.count != c.num 40 4
  | none => (f.record.areaOf .free).isNone

/-- The check value of a piece (row 4). -/
def pieceCheck (c : Cmd) (data : List Byte) : BitVec 256 :=
  Config.shake256 (leBytes 4 (c.num 32 4) ++ leBytes 4 (c.num 36 4) ++ data)

/-- The delivery that a piece belongs to: the first piece turns the lowest FREE area into STAGING (R482). -/
def Fw.delivery (f : Fw) (c : Cmd) : Fw × Staging :=
  match f.staging with
  | some g => (f, g)
  | none =>
    let f := match f.record.areaOf .free with
      | some a => f.write (f.record.setRole a .staging)
      | none => f
    (f, { imageId := BitVec.ofNat 32 (c.num 32 4), count := c.num 40 4, held := [], state := 1 })

/-- The STAGING area returns to FREE, and its piece log is emptied (R484, R485). -/
def Fw.freeStaging (f : Fw) : Fw :=
  let f : Fw := { f with staging := none, areas := match f.record.areaOf .staging with
    | some a => tdel f.areas a
    | none => f.areas }
  f.write (f.record.turn .staging .free)

/-- A piece is recorded; the last one completes the image, which is verified (Table 13-5). -/
def Fw.record1 (f : Fw) (c : Cmd) (data : List Byte) : Fw × Ans :=
  let d := f.delivery c
  let g : Staging := { d.2 with held := tset d.2.held (c.num 36 4) (c.hash 64, data) }
  let held := ok (leBytes 4 g.held.length)
  if g.held.length < g.count then ({ d.1 with staging := some g }, held)
  else
    let image := g.image
    let status := verifyImage d.1.fuse image
    if status = sOk then
      ({ d.1 with
        staging := some { g with state := 3 }
        areas := match d.1.record.areaOf .staging with
          | some a => tset d.1.areas a image
          | none => d.1.areas }, held)
    else ({ d.1 with staging := some g } |>.freeStaging, fail status)

/-- FW_PIECE (R481). -/
def execFwPiece (id : Nat) (piece : List Byte) (s : State) : Host.Outcome State Fault Refusal :=
  .next (s.run 0x0901 id fun c s =>
    let data := bytesAt (c.buffer piece) 0 (c.num 44 4)
    let before := s.fw.staging.bind fun g => tget g.held (c.num 36 4)
    match pieceFault c with
    | some a => (s, some a)
    | none =>
      if s.fw.pieceBusy c then (s, some (fail sBusy))
      else if pieceCheck c data != c.hash 64 then (s, some (fail sBadCheck))
      else
        match before with
        | some x =>
          (s, some (if x.1 = c.hash 64 then ok (leBytes 4 ((s.fw.staging.map fun g => g.held.length).getD 0)) else bad 64))
        | none =>
          let good := Config.flashGood s.free
          let s : State := { s with free := s.free + 1 }
          if !good then (s, some (fail sBadCheck))
          else
            let r := s.fw.record1 c data
            ({ s with fw := r.1 }, some r.2))

/-! ## FW_STATUS (R483) -/

/-- The lowest piece that is not held; PIECE_COUNT when all are. -/
def Staging.firstMissing (g : Staging) : Nat :=
  ((List.range g.count).find? fun i => (tget g.held i).isNone).getD g.count

/-- Bytes 32 to 71 of the result. -/
def State.fwStatus (s : State) : List Byte :=
  let f := s.fw
  let staged := f.verified.map Staging.image
  let g := f.staging
  let num (p : Staging → Nat) : Nat := (g.map p).getD 0
  let left := if f.record.confirm = 1 then f.record.deadline - s.opS else 0
  bvBytes ((g.map (·.imageId)).getD 0) ++ leBytes 4 (num fun g => g.held.length) ++ leBytes 4 (num (·.count)) ++
    leBytes 1 (num (·.state)) ++ leBytes 3 0 ++ bvBytes ((f.running.map (·.2)).getD 0) ++
    leBytes 4 ((staged.map imageVersion).getD 0) ++ leBytes 1 f.record.confirm ++ leBytes 1 ((staged.map imageSec).getD 0) ++
    leBytes 2 0 ++ leBytes 4 (num Staging.firstMissing) ++ leBytes 4 left ++ leBytes 4 (fusedVersion f.fuse)

/-- FW_STATUS (R483). -/
def execFwStatus (id : Nat) (s : State) : Host.Outcome State Fault Refusal := .next (s.ask 0x0902 id fun _ s => ok s.fwStatus)

/-! ## FW_ACTIVATE (R486, R487) -/

/-- Table 13-6. -/
def State.activateFault (s : State) (c : Cmd) : Option Ans :=
  match s.fw.verified, s.fw.imageIn .staging with
  | some g, some b =>
    if g.imageId ≠ BitVec.ofNat 32 (c.num 32 4) then some (bad 32)
    else if s.fw.record.confirm = 1 then some (fail sBusy)
    else if s.boot.computeHeld || s.boot.partialReset.isSome then some (fail sBusy)
    else if imageSec b < fusedVersion s.fw.fuse then some (fail sVersion)
    else none
  | _, _ => some (bad 32)

/-- The boot record of an accepted activation: STAGING becomes CURRENT, CURRENT becomes FALLBACK. -/
def Fw.activated (f : Fw) (b : List Byte) : BootRec :=
  { (((f.record.turn .fallback .free).turn .current .fallback).turn .staging .current) with
    confirm := 1, starts := 0, hash := imageHash b }

/-- Firmware boots, and the manager is not ready yet. -/
def State.booting (s : State) : Bool := s.boot.stage == .bellows && s.boot.computeTest && !s.boot.mgrReady && !s.boot.computeHeld

/-- The partial reset of an activation or of a deadline (R487, R494). Where the manager does not run yet it begins at phase 2, for there
is no service to end; and where firmware has not begun to boot, the copy at its boot takes the restored or new image, and no reset is
needed (DESIGN CHOICE, log entry 185). -/
def State.restartOn (s : State) (cmd : Option Nat) : State :=
  if s.boot.mgrReady then s.beginReset 1 1 cmd true
  else if s.booting then (s.beginReset 2 1 cmd true).gateCompute
  else s

/-- An accepted activation. -/
def State.activate (s : State) (id : Nat) : State :=
  let f := s.fw
  let f : Fw := { f.write (f.activated ((f.imageIn .staging).getD [])) with
    staging := none, activating := some id, fabricAt := s.mgr.fabricState, imageSaved := false, unplannedSince := false
    fallback := false, former := (f.running.map (·.2)).getD 0, writing := true }
  ({ s with fw := f } : State).restartOn (some id)

/-- FW_ACTIVATE (R486, R487, R490): it replies once service returns. -/
def execFwActivate (id : Nat) (s : State) : Host.Outcome State Fault Refusal :=
  .next (s.run 0x0903 id fun c s =>
    match s.activateFault c with
    | some a => (s, some a)
    | none => (s.activate id, none))

/-- FW_DISCARD (R485). -/
def execFwDiscard (id : Nat) (s : State) : Host.Outcome State Fault Refusal :=
  .next (s.run 0x0904 id fun c s =>
    if s.fw.staging.any fun g => g.imageId == BitVec.ofNat 32 (c.num 32 4) then
      ({ s with fw := s.fw.freeStaging }, some (ok []))
    else (s, some (bad 32)))

/-! ## Health and deadline (R491 to R494) -/

/-- The checks of Table 13-7. -/
def State.healthy (s : State) (coresServiced recorderOk : Bool) : Bool :=
  s.boot.mgrReady && !s.boot.paused && coresServiced && s.fw.fabricAt ≤ s.mgr.fabricState && s.fw.imageSaved &&
    s.rcd.running && recorderOk && (!s.ember.paired || (s.ember.streams && (s.ember.up0 || s.ember.up1))) &&
    !s.fw.unplannedSince

/-- HEALTH_CHECK (R491, R492): each second while CONFIRM is 1; 120 in a row confirm the image: the fuse bits first, and the record with
the next. -/
def execHealthCheck (coresServiced recorderOk : Bool) (s : State) : Host.Outcome State Fault Refusal :=
  .next (
    if s.fw.record.confirm ≠ 1 ∨ s.fw.activating.isSome then s
    else
      let n := if s.healthy coresServiced recorderOk then s.fw.health + 1 else 0
      let s : State := { s with fw := { s.fw with health := n } }
      if 120 ≤ n || s.fw.burning.isSome then s.confirmImage else s)

/-- A fallback at DEADLINE while a partial reset runs (Table 13-9): it takes the place of the copy step, and a reset that has passed that
step goes back to phase 2 on the restored image (DEDUCED, log entry 185). The reset's command still replies. -/
def State.deadlineIn (s : State) (p : Partial) : State :=
  let s := s.fallBackFor 0
  if p.phase = 4 ∨ p.phase = 5 then (s.beginReset 2 1 p.cmd true).gateCompute
  else s.setBoot { s.boot with partialReset := some { p with copy := true } }

/-- FW_DEADLINE (R493, R494): a fallback whenever operating seconds reach DEADLINE. A confirmation that has burned its bits is completed
in its place (R492). -/
def execFwDeadline (s : State) : Host.Outcome State Fault Refusal :=
  .next (
    if s.fw.record.confirm ≠ 1 ∨ s.fw.activating.isSome ∨ s.opS < s.fw.record.deadline then s
    else if s.fw.burning.isSome then s.writeConfirm
    else
      match s.boot.partialReset with
      | some p => s.deadlineIn p
      | none => (s.fallBackFor 0).restartOn none)

end Sys2Proof.Machine
end

