-- ==== Sys2Proof/Machine/RecCmds.lean ====
section
/-! DEFINITION. Reading and clearing the event recorder (14_event_recorder.md R509 to R513). -/

namespace Sys2Proof.Machine

open Sys2Proof

/-- REC_QUERY (R511): records in the first area, the lowest SEQ of the last one, and the highest SEQ ever assigned; a record whose
CHECK fails is none (log entry 186). -/
def execRecQuery (id : Nat) (s : State) : Host.Outcome State Fault Refusal :=
  .next (s.ask 0x0A01 id fun _ s =>
    ok (leBytes 8 (s.rcd.first.countP Rec.good) ++ leBytes 8 (((s.rcd.last.find? Rec.good).map (·.seq)).getD 0) ++ leBytes 8 (s.rcd.nextSeq - 1)))

/-- The records that a read returns (R512): none whose CHECK fails (R500). -/
def Recorder.readFrom (r : Recorder) (area fromSeq count : Nat) : List Rec :=
  ((if area = 0 then r.first else r.last).filter fun x => x.good && fromSeq ≤ x.seq).take count

/-- REC_READ (R512). -/
def execRecRead (id : Nat) (s : State) : Host.Outcome State Fault Refusal :=
  .next (s.ask 0x0A02 id fun c s =>
    let count := c.num 48 4
    if 1 < c.num 32 1 then bad 32
    else if 65536 < count then bad 48
    else if c.dataLen < 64 * count then { bad 24 with bytes := 64 * count }
    else
      let rs := s.rcd.readFrom (c.num 32 1) (c.num 40 8) count
      okData c (leBytes 4 rs.length ++ leBytes 4 0 ++ leBytes 8 (s.rcd.nextSeq - 1)) (rs.flatMap recBytes))

/-- The CLEAR record of some areas and the records that it removes (Table 14-2). -/
def State.clearRec (s : State) (areas cred : Nat) (gone : List Rec) : Rec :=
  let seqs := gone.map (·.seq)
  let low : Nat := match seqs with
    | [] => 0
    | x :: r => r.foldl min x
  let high : Nat := seqs.foldl max 0
  { seq := 0, opS := s.opS, pcc := s.trust.powerCycles.toNat, kind := 5, cut := false, series := 0, unit := 0
    body := [areas, cred, 0, low, high, gone.length], duration := 0 }

/-- Empty areas and write the CLEAR record (R509, R510). -/
def State.clearAreas (s : State) (areas cred : Nat) : State :=
  let one := areas.testBit 0
  let two := areas.testBit 1
  let r := s.rcd
  let gone := (if one then r.first else []) ++ (if two then r.last else [])
  let r : Recorder := { r with first := if one then [] else r.first, last := if two then [] else r.last }
  { s with rcd := r.writeAll [s.clearRec areas cred gone] }

/-- REC_CLEAR (R509): only in a session opened with an operator credential. -/
def execRecClear (id : Nat) (s : State) : Host.Outcome State Fault Refusal :=
  .next (s.run 0x0A03 id fun c s =>
    match s.sessionCred c.src with
    | none => (s, some (fail sDenied))
    | some k => if c.num 32 1 = 0 then (s, some (bad 32)) else (s.clearAreas (c.num 32 1) k, some (ok [])))

end Sys2Proof.Machine
end

