-- ==== Sys2Proof/Machine/Takeover.lean ====
section
/-! DEFINITION. The fabric grant, standby and takeover, the close of the training window and the manager's start, and the
redundancy commands (11_bringup_power_reset.md R411, R412; 15_standby_and_hotplug.md R516 to R538; 16_module_signals_electrical.md
R554, R555). -/

namespace Sys2Proof.Machine

open Sys2Proof

/-! ## Restoring the model (Table 15-5 step 3, R530) -/

/-- The manager's flows as the takeover point has them. -/
def flowsOf (own : Eid) (acks : Tab Seq) : List SrcFlow :=
  acks.map fun x =>
    let key : FlowKey := { src := own, mcast := false, peer := BitVec.ofNat 18 x.1, laneKey := mgrKey }
    { srcOf [] key 20 with latest := x.2 }

/-- A restored model without what the former active had in hand: commands, procedures, fences and probes that it resends
nothing of (R531). -/
def Mgr.takenFrom (m : Mgr) : Mgr :=
  let clean (h : Heat) : Heat := { h with keptId := 0, fails := [] }
  { m with
    fabricState := 0, fabricGen := m.fabricGen + 1, disc := Disc.reset, queue := [], jobs := [], fencings := [], gathers := []
    probing := [], readmit := none, seeded := false, readmitCmds := [], troubles := [], routing := 0
    heats := tmap (fun _ h => clean h) m.heats }

/-- The mirrored pages of a kept saved state, as it was (R533). -/
def Ember.mirrorOf (e : Ember) (k : Saved) : Option Saved :=
  (([tget e.mirrorA k.heat, tget e.mirrorB k.heat].filterMap id).find? fun m => m.complete && m.step == k.step).bind fun m =>
    (savedOf m.pages).map fun x => { x with savedId := k.savedId, tenant := k.tenant, hash := k.hash, step := k.step, heat := k.heat }

/-- The page tags of the model are those of the pages of its heats and of the saved states that come over (R463); each keeps its key
generation (R471). -/
def State.placeTags (s : State) (x : FabricModel) : State :=
  let kept := x.saved.filterMap s.ember.mirrorOf
  let held (u : PageUse) : Bool := match u with
    | .live _ => true
    | .save _ _ => true
    | .kept id => kept.any fun k => k.savedId == id
    | _ => false
  let m := (x.sets.filter fun y => held y.use).foldl Mem.add s.mem
  s.setMem { m with saved := m.saved ++ kept, nextId := (kept.map (·.savedId + 1)).foldl max m.nextId }

/-- Restore the model, or, with no takeover point, prepare a discovery (R530, R535). -/
def State.restoreModel (s : State) : State :=
  match s.ember.takeoverPoint with
  | none => ({ s with ember := { s.ember with takeover := false, active := true } } : State).firstKeys
  | some x =>
    let m := x.mgr
    let s := ({ s with hub := { s.hub with
      srcs := flowsOf s.mgrEid x.acks, steps := x.steps, barriers := x.barriers } } : State).setMgr
        { m.takenFrom with peersRefused := s.mgr.peersRefused }
    let s := s.placeTags x
    let s := m.heats.foldl (fun s x => match x.2.joining with
      | some (rank, spare) => s.endJoining x.1 rank spare
      | none => s) s
    let s := (m.jobs.flatMap Job.releases).foldl (fun s x => s.undoRelease x.1) s
    let s := (m.jobs.flatMap Job.carves).foldl (fun s x => s.undoCarving x.1) s
    s.setFabric 1

/-! ## Steps 7 to 9 of power-on -/

/-- The manager is ready (R412); an activation that was accepted before it ends (R490). -/
def State.readyNow (s : State) : State :=
  let s := s.setBoot { s.boot with mgrReady := true, stage := .running }
  let s := if s.ember.takeover then s.restoreModel else s
  let s := if s.ember.streams then s.startSync else s
  let s := match s.fw.activating with
    | some id => s.activationEnds id { phase := 5, cause := 1, cmd := some id, copy := true, since := 0 }
    | none => s
  (s.firstDiscovery.startTakeover.noticeLater).settle

/-- MANAGER_READY (R411, R412): firmware has booted after the compute-domain test, with the configuration read. -/
def execManagerReady (s : State) : Host.Outcome State Fault Refusal :=
  .next (if s.boot.stage = .bellows && s.boot.computeTest && s.boot.configRead && !s.boot.computeHeld &&
      s.boot.partialReset.isNone then s.readyNow else s)

/-- TOPO_DISCOVER's own window has closed on every port: 20 ms of forget cells begin (R141, R142). -/
def State.discoveryTrained (s : State) : State :=
  if s.mgrRuns && s.mgr.fabricState == 1 && !s.ember.takeover && s.mgr.entries.isEmpty && !s.mgr.disc.active &&
      !s.link.forgetting then s.startForget else s

/-- Every Chrohar window that was open has closed. -/
def State.windowsClosed (s : State) : State :=
  if !s.boot.linkTest || !s.boot.configRead || s.link.ports.any fun q => q.2.state == .training then s
  else if s.boot.windowClosed then s.discoveryTrained
  else
    let s := s.setBoot { s.boot with windowClosed := true }
    (s.firstDiscovery.startTakeover).settle

/-- TRAINING_WINDOW_CLOSE (R118, R125, R412, R428). -/
def execTrainingWindowClose (site : Site) (reports : List LaneReport) (s : State) : Host.Outcome State Fault Refusal :=
  .next (match site with
    | .agent a => s.onAgent a (whileLive (Agent.closeWindow a reports))
    | .chrohar =>
      let later := s.boot.windowClosed
      let trained := (reports.filter fun x => (s.link.port x.port).state == .training).map (·.port)
      let s : State := { s with
        link := s.link.closeWindow s.mgr.record s.boot.badPairs reports
        hub := { s.hub with
          arrived := trained.foldl (fun l p => forgetOwed p l) s.hub.arrived
          heldBack := trained.foldl (fun l p => forgetOwed p l) s.hub.heldBack } }
      (if later || s.boot.computeTest then s.regradePort else s).windowsClosed)

/-! ## The grant (R516, R529, R530, R554, R555) -/

/-- The bytes of an object of the configuration that a standby holds. -/
def Ember.configBytes (e : Ember) (object : BitVec 64) : List Byte :=
  let ps := e.configRx.filter fun p => p.object == object
  (sortBy (fun (x y : EmberPkt) => x.offset.toNat ≤ y.offset.toNat) ps).flatMap (·.payload)

/-- Configuration and credentials as the former active streamed them (R533). -/
def State.takeConfig (s : State) : State :=
  let slot := s.ember.configBytes 0
  let creds := s.ember.configBytes 1
  let s : State := match storedOf slot with
    | some x => { s with cfg := { s.cfg.written (CfgSlot.of (s.cfg.seq + 1) x) with live := x } }
    | none => s
  if creds.isEmpty then s
  else { s with trust := (s.trust.writeCreds (credsOf creds)).setIndices (indexOf (creds.drop 1152)) }

/-- Live generations of the keys that a standby holds, newest first (R465, R471). -/
def gensOf (keys : Tab (BitVec 512)) : Tab (List Nat) :=
  (keys.filter fun k => k.1 < 4096).foldl (fun t k =>
    let held := (tget t (k.1 / 4)).getD []
    let g := k.1 % 4
    tset t (k.1 / 4) (if held.any fun x => g == (x + 1) % 4 then g :: held else held ++ [g])) []

/-- A standby receives the grant: it powers up what is not up, and takes over when it holds a takeover point. -/
def State.beginTakeover (s : State) : State :=
  let point := s.ember.newest.isSome
  let b := s.boot
  let s := s.setBoot { b with
    stage := if !b.pllLock then .pllWait else if !b.fuseOk then .fuseWait else .bellows
    wave := 0, substep := 1, configRead := b.configRead && point }
  let s : State := { s with ember := { s.ember with
    grant := true, active := !point, takeover := point, lapWait := true, state := if point then s.ember.state else
      if s.ember.paired then .syncing else .none } }
  let s := if point then
    let s := s.takeConfig
    ({ s with
      trust := { s.trust with gens := gensOf s.ember.keys, keys := s.ember.keys, moduleKey := true }
      ember := { s.ember with keys := [] } } : State).loadSlots
  else s
  let s := s.setMgr { s.mgr with record := s.cfg.live.record }
  if b.pllLock then s.startRecorder else s

/-- The grant comes back to a module that had lost it: its ports train again, and a takeover that came to nothing ends in phases 2
to 5 (R534). -/
def State.grantBack (s : State) : State :=
  let back := s.ember.takeBack
  let e := s.ember.cancelTaking
  let s : State := { s with ember := { e with grant := true, active := true, takeBack := false, handover := e.handover && !back } }
  let s := (tkeys s.link.ports).foldl (fun s p => s.startTraining .chrohar p) s
  match back, s.boot.partialReset with
  | true, some p => (s.setPhase p 2).gateCompute
  | _, _ => s

/-- FABRIC_GRANT (R530, R554, R555). -/
def execFabricGrant (s : State) : Host.Outcome State Fault Refusal :=
  .next (
    if s.ember.grant then s
    else
      match s.boot.stage with
      | .off => if s.boot.switchOn then { s with ember := { s.ember with grant := true } } else s
      | .grantWait =>
        ({ s with ember := { s.ember with grant := true, active := true } } : State).setBoot { s.boot with stage := .pllWait }
      | .standby => s.beginTakeover
      | _ => s.grantBack)

/-! ## After a planned takeover (R534) -/

/-- The module enters standby: sessions close, tier C goes under quench, no key is left, and SYNCING begins. The clocks and the
ember links run on. -/
def State.enterStandby (s : State) : State :=
  let e := s.ember
  let b := s.boot
  let straps := b.strap
  let s := (s.endSessions fun _ => true).blank .standby
  let s := s.setBoot { s.boot with
    pllLock := true, strapsLatched := true, strap := straps, fuse := b.fuse, fuseOk := b.fuseOk, standbyUp := true }
  s.setEmber { Ember.reset with
    paired := true, state := .syncing, up0 := e.up0, up1 := e.up1, txNext := e.txNext, rxNext := e.rxNext
    rxAhead := e.rxAhead, sinceAck := e.sinceAck, ackTimer := e.ackTimer }

/-- STANDBY (R517, R554, R555): to a module in step 1, to the holder of the grant, or to a former active that gave the grant up
because it cannot serve: the standby has taken over, and COMPUTE_HELD ends with it (R441). -/
def execStandby (s : State) : Host.Outcome State Fault Refusal :=
  .next (
    if s.ember.grant then s.loseGrant
    else if s.boot.stage = .grantWait then s.setBoot { s.boot with stage := .standby }
    else if s.boot.computeHeld || s.fw.noImage then s.enterStandby
    else s)

/-- The reply that a TAKEN packet carries (Table 10-6). -/
def takenAns (b : List Byte) : Ans :=
  { status := BitVec.ofNat 16 (natAt b 6 2), arg := BitVec.ofNat 16 (natAt b 8 2), bytes := natAt b 24 8
    result := bytesAt b 32 224, data := [] }

/-- The former active hears that it has been taken over. -/
def State.takeTaken (s : State) (p : EmberPkt) : State :=
  match s.ember.taking with
  | none => s
  | some id => if s.ember.handover && !s.ember.grant then (s.reply id (takenAns p.payload)).enterStandby else s

/-- TAKEN (R534). -/
def execTaken (link : Nat) (p : EmberPkt) (s : State) : Host.Outcome State Fault Refusal :=
  .next (s.emberTake link p 0x0B fun s => s.takeTaken p)

/-- TAKEN_TIMEOUT (R534): the former active asks for the grant; what follows comes with FABRIC_GRANT. -/
def execTakenTimeout (s : State) : Host.Outcome State Fault Refusal :=
  .next (if s.ember.handover && !s.ember.grant && s.ember.taking.isSome then
    (s.setEmber { s.ember with takeBack := true }).emit [.i3c 0x09 []] else s)

/-! ## Commands (R518, R519, R524, R529) -/

/-- Code of a standby state (Table 15-1). -/
def StandbyState.code : StandbyState → Nat
  | .none => 0 | .syncing => 1 | .ready => 2 | .behind => 3 | .lost => 4 | .taking => 5

/-- RED_STATUS (R519, R527). -/
def execRedStatus (id : Nat) (s : State) : Host.Outcome State Fault Refusal :=
  .next (s.ask 0x0B01 id fun _ s =>
    let e := s.ember
    ok (leBytes 1 (if e.paired then 1 else 0) ++ leBytes 1 e.state.code ++ leBytes 6 0 ++ bvBytes e.imageLap ++
      leBytes 8 (((e.urgent ++ e.image ++ e.pages).map emberBytes).sum)))

/-- RED_SAVE_NOW (R524). -/
def execRedSaveNow (id : Nat) (s : State) : Host.Outcome State Fault Refusal :=
  .next (s.run 0x0B02 id fun _ s => (s.saveImage, some (ok (leBytes 8 0 ++ bvBytes s.lap))))

/-- RED_TAKEOVER (R529): phase 1 begins; the new active writes the reply. -/
def execRedTakeover (id : Nat) (s : State) : Host.Outcome State Fault Refusal :=
  .next (s.run 0x0B03 id fun c s =>
    if !c.bit 32 0 then (s, some (bad 32))
    else if (s.ember.state ≠ .ready ∧ s.ember.state ≠ .behind) ∨ s.ember.taking.isSome then (s, some (fail sBusy))
    else
      let s := s.setEmber { s.ember with taking := some id, state := .taking }
      (s.beginReset 1 s.boot.prCause (some id) false, none))

/-- The active's part of the handshake, as the client of Table 12-4 (R471; DESIGN CHOICE, log entry 183): message 1, and message 3
with the identity key's signature over T3; the pairing key is the first 256 bits that both sides compute. -/
def State.askPairing (s : State) (index : Nat) (identity : KeyIndex) : State :=
  let t := s.trust
  let m1 := helloBytes 0xFF false (Config.random t.draws)
  let m2 := Config.partnerMsg s.free
  let ct := Config.encapText m2 (t.draws + 1)
  let t3 := Config.shake256 (m1 ++ m2 ++ ct)
  let key := field (Config.shake256Wide (Config.encapSecret m2 (t.draws + 1) ++ bvBytes t3)) 0 256
  ({ s with
    free := s.free + 1, trust := { t with identity := identity, pairingKey := key, draws := t.draws + 2 } } : State).emit
      [.pairing m1, .pairing (ct ++ Config.sign 1 index (bvBytes t3))]

/-- The trust dies agree a pairing key, which takes one signature of the identity key (R471), and the standby is filled. -/
def State.pair (s : State) (id : Nat) (index : Nat) (identity : KeyIndex) : State :=
  let s := s.askPairing index identity
  let s := s.dropEmberWaits
  let s := s.setEmber { s.ember with
    paired := true, txNext := 0, rxNext := 0, rxAhead := [], unacked := [], up0 := s.ember.up0 || !s.ember.up1 }
  s.startSync.store id [] fun k => { k with pairing := true }

/-- Streaming stops, and every key at the standby is destroyed. -/
def State.unpair (s : State) (id : Nat) : State :=
  let gone := s.keyPackets.map fun p => emberPkt 0x06 p.object 0 []
  let s := s.dropEmberWaits
  let s := s.setEmber { s.ember with paired := false, state := .none, urgent := gone }
  s.store id [] fun k => { k with pairing := false }

/-- RED_PAIR_SET (R518): what the partner did is the happening's own: 1 no answer, 2 its endorsement or handshake fails, 3 it holds
the grant. -/
def execRedPairSet (id : Nat) (partner : Nat) (s : State) : Host.Outcome State Fault Refusal :=
  .next (s.run 0x0B04 id fun c s =>
    if !c.bit 32 0 then (s.unpair id, none)
    else
      match partner with
      | 1 => (s, some (fail sTopology))
      | 2 => (s, some (fail sBadSignature))
      | 3 => (s, some (fail sBusy))
      | _ =>
        match s.trust.identity.take s.skips with
        | none => (s, some (fail sNoIndex))
        | some (i, k) => (s.pair id i k, none))

end Sys2Proof.Machine
end

