-- ==== Sys2Proof/Machine/Dispatch.lean ====
section
/-! DEFINITION. The dispatch of the commands: one arm per row of spec/opcode_table.json. -/

namespace Sys2Proof.Machine

open Sys2Proof

/-- The effect of a command on everything but the queue. -/
def exec (i : Instr) (s : State) : Host.Outcome State Fault Refusal :=
  match i with
  | .registerWrite w => Sys2Proof.Machine.execRegisterWrite w s
  | .evtLostRead fn => Sys2Proof.Machine.execEvtLostRead fn s
  | .portErrRead a port => Sys2Proof.Machine.execPortErrRead a port s
  | .dstFullDropsRead a => Sys2Proof.Machine.execDstFullDropsRead a s
  | .cfgCommit fn v => Sys2Proof.Machine.execCfgCommit fn v s
  | .cmdEnWrite fn v => Sys2Proof.Machine.execCmdEnWrite fn v s
  | .evtEnWrite fn v => Sys2Proof.Machine.execEvtEnWrite fn v s
  | .eventHeadWrite fn v => Sys2Proof.Machine.execEventHeadWrite fn v s
  | .agentCommit a v => Sys2Proof.Machine.execAgentCommit a v s
  | .tdGo v => Sys2Proof.Machine.execTdGo v s
  | .quoteDone dmaOk => Sys2Proof.Machine.execQuoteDone dmaOk s
  | .powerOn => Sys2Proof.Machine.execPowerOn s
  | .grantQueryRetry => Sys2Proof.Machine.execGrantQueryRetry s
  | .pllLock => Sys2Proof.Machine.execPllLock s
  | .fuseMapLoaded recs crc => Sys2Proof.Machine.execFuseMapLoaded recs crc s
  | .configReadDone => Sys2Proof.Machine.execConfigReadDone s
  | .waveSettled => Sys2Proof.Machine.execWaveSettled s
  | .bellowsSubstep => Sys2Proof.Machine.execBellowsSubstep s
  | .waveFail rail => Sys2Proof.Machine.execWaveFail rail s
  | .bellowsRetryExpire => Sys2Proof.Machine.execBellowsRetryExpire s
  | .coolantWaitTimeout => Sys2Proof.Machine.execCoolantWaitTimeout s
  | .linkTestDone failing => Sys2Proof.Machine.execLinkTestDone failing s
  | .computeTestDone failing => Sys2Proof.Machine.execComputeTestDone failing s
  | .managerReady => Sys2Proof.Machine.execManagerReady s
  | .lockLost => Sys2Proof.Machine.execLockLost s
  | .governorAdmit => Sys2Proof.Machine.execGovernorAdmit s
  | .powerLimit package watts => Sys2Proof.Machine.execPowerLimit package watts s
  | .thermalThrottle unit celsius => Sys2Proof.Machine.execThermalThrottle unit celsius s
  | .thermalTrip unit celsius => Sys2Proof.Machine.execThermalTrip unit celsius s
  | .thermalTripRestart => Sys2Proof.Machine.execThermalTripRestart s
  | .inputFault cause milliVolts => Sys2Proof.Machine.execInputFault cause milliVolts s
  | .railFault rail kind => Sys2Proof.Machine.execRailFault rail kind s
  | .inputSwitchClose => Sys2Proof.Machine.execInputSwitchClose s
  | .ejectOpen => Sys2Proof.Machine.execEjectOpen s
  | .perstN => Sys2Proof.Machine.execPerstN s
  | .functionLevelReset fn => Sys2Proof.Machine.execFunctionLevelReset fn s
  | .coolantOk flow inlet => Sys2Proof.Machine.execCoolantOk flow inlet s
  | .coolantLost => Sys2Proof.Machine.execCoolantLost s
  | .claimOpen isOpen => Sys2Proof.Machine.execClaimOpen isOpen s
  | .credClear => Sys2Proof.Machine.execCredClear s
  | .fabricGrant => Sys2Proof.Machine.execFabricGrant s
  | .standby => Sys2Proof.Machine.execStandby s
  | .confirmReq => Sys2Proof.Machine.execConfirmReq s
  | .status => Sys2Proof.Machine.execStatus s
  | .agentRstNAssert a => Sys2Proof.Machine.execAgentRstNAssert a s
  | .agentRstNDeassert a strap switchBuild instW minW => Sys2Proof.Machine.execAgentRstNDeassert a strap switchBuild instW minW s
  | .trainingAttemptStart site port => Sys2Proof.Machine.execTrainingAttemptStart site port s
  | .trainingWindowClose site reports => Sys2Proof.Machine.execTrainingWindowClose site reports s
  | .laneUpChange site port lanes => Sys2Proof.Machine.execLaneUpChange site port lanes s
  | .identifyTimeout site port => Sys2Proof.Machine.execIdentifyTimeout site port s
  | .controlCellSend site port => Sys2Proof.Machine.execControlCellSend site port s
  | .idleCell site port cell => Sys2Proof.Machine.execIdleCell site port cell s
  | .lapExchangeCell site port cell => Sys2Proof.Machine.execLapExchangeCell site port cell s
  | .lapSlew a => Sys2Proof.Machine.execLapSlew a s
  | .neighbourDiscoveryCell site port cell => Sys2Proof.Machine.execNeighbourDiscoveryCell site port cell s
  | .forgetCell site port cell => Sys2Proof.Machine.execForgetCell site port cell s
  | .forgetSendEnd a => Sys2Proof.Machine.execForgetSendEnd a s
  | .frameReceive site port f => Sys2Proof.Machine.execFrameReceive site port f s
  | .frameSend site port => Sys2Proof.Machine.execFrameSend site port s
  | .packetArrival x => Sys2Proof.Machine.execPacketArrival x s
  | .contribHeldAccept => Sys2Proof.Machine.execContribHeldAccept s
  | .treePartReceive a => Sys2Proof.Machine.execTreePartReceive a s
  | .treeSumFormed a => Sys2Proof.Machine.execTreeSumFormed a s
  | .ackTimerExpire site key => Sys2Proof.Machine.execAckTimerExpire site key s
  | .ackReceive site => Sys2Proof.Machine.execAckReceive site s
  | .flowWindowSend site key => Sys2Proof.Machine.execFlowWindowSend site key s
  | .mcastChangedSetSend site key => Sys2Proof.Machine.execMcastChangedSetSend site key s
  | .nak site => Sys2Proof.Machine.execNak site s
  | .mgrBusy site => Sys2Proof.Machine.execMgrBusy site s
  | .busyHoldExpire site key seq => Sys2Proof.Machine.execBusyHoldExpire site key seq s
  | .hubPacketPaused => Sys2Proof.Machine.execHubPacketPaused s
  | .resendTimerExpire site key seq => Sys2Proof.Machine.execResendTimerExpire site key seq s
  | .mgrFlowRestart a key seq => Sys2Proof.Machine.execMgrFlowRestart a key seq s
  | .fenceNotice site key position lifted => Sys2Proof.Machine.execFenceNotice site key position lifted s
  | .injectDescriptor a d payload => Sys2Proof.Machine.execInjectDescriptor a d payload s
  | .deliveryRoomResume a => Sys2Proof.Machine.execDeliveryRoomResume a s
  | .dlvStall a => Sys2Proof.Machine.execDlvStall a s
  | .timedRelease a barrier => Sys2Proof.Machine.execTimedRelease a barrier s
  | .paceArrive => Sys2Proof.Machine.execPaceArrive s
  | .paceRelease a => Sys2Proof.Machine.execPaceRelease a s
  | .discoverQuery a => Sys2Proof.Machine.execDiscoverQuery a s
  | .discoverReply => Sys2Proof.Machine.execDiscoverReply s
  | .discoverReplyTimeout => Sys2Proof.Machine.execDiscoverReplyTimeout s
  | .discoveryStart => Sys2Proof.Machine.execDiscoveryStart s
  | .linkEvent => Sys2Proof.Machine.execLinkEvent s
  | .linkTilePortChange port => Sys2Proof.Machine.execLinkTilePortChange port s
  | .routeComputeDone => Sys2Proof.Machine.execRouteComputeDone s
  | .drainExpire => Sys2Proof.Machine.execDrainExpire s
  | .runTeardownWaitExpire => Sys2Proof.Machine.execRunTeardownWaitExpire s
  | .tableBillet a => Sys2Proof.Machine.execTableBillet a s
  | .tblFlip a => Sys2Proof.Machine.execTblFlip a s
  | .tblRetire a => Sys2Proof.Machine.execTblRetire a s
  | .tblState a => Sys2Proof.Machine.execTblState a s
  | .tblSeed a => Sys2Proof.Machine.execTblSeed a s
  | .fence a => Sys2Proof.Machine.execFence a s
  | .unfence a => Sys2Proof.Machine.execUnfence a s
  | .collRetry a => Sys2Proof.Machine.execCollRetry a s
  | .portHold a => Sys2Proof.Machine.execPortHold a s
  | .ctlAdmit a => Sys2Proof.Machine.execCtlAdmit a s
  | .flowClear a => Sys2Proof.Machine.execFlowClear a s
  | .bridgeSet a => Sys2Proof.Machine.execBridgeSet a s
  | .ctrlReply => Sys2Proof.Machine.execCtrlReply s
  | .fenceAck => Sys2Proof.Machine.execFenceAck s
  | .endpointReport => Sys2Proof.Machine.execEndpointReport s
  | .resendFail => Sys2Proof.Machine.execResendFail s
  | .resendFailGatherExpire heat => Sys2Proof.Machine.execResendFailGatherExpire heat s
  | .agentIsolationTimeout a => Sys2Proof.Machine.execAgentIsolationTimeout a s
  | .probeTimer => Sys2Proof.Machine.execProbeTimer s
  | .probeWindowClose entry => Sys2Proof.Machine.execProbeWindowClose entry s
  | .heatQueueHead => Sys2Proof.Machine.execHeatQueueHead s
  | .hearthGradientReceive h dataError => Sys2Proof.Machine.execHearthGradientReceive h dataError s
  | .meshTransferAccept h => Sys2Proof.Machine.execMeshTransferAccept h s
  | .hearthRecordUpdate h x => Sys2Proof.Machine.execHearthRecordUpdate h x s
  | .hearthPassEnd h => Sys2Proof.Machine.execHearthPassEnd h s
  | .normDecision => Sys2Proof.Machine.execNormDecision s
  | .fabricImageSave => Sys2Proof.Machine.execFabricImageSave s
  | .watchdogExpire core => Sys2Proof.Machine.execWatchdogExpire core s
  | .managerStateUncorrectable => Sys2Proof.Machine.execManagerStateUncorrectable s
  | .prPhaseEnd failing => Sys2Proof.Machine.execPrPhaseEnd failing s
  | .memLinkLoss tier link => Sys2Proof.Machine.execMemLinkLoss tier link s
  | .configWriteDone readBackOk => Sys2Proof.Machine.execConfigWriteDone readBackOk s
  | .irqGapExpire fn vector => Sys2Proof.Machine.execIrqGapExpire fn vector s
  | .quenchPageDone => Sys2Proof.Machine.execQuenchPageDone s
  | .reencryptPageDone => Sys2Proof.Machine.execReencryptPageDone s
  | .clientHello path source credIndex events nonce rsv => Sys2Proof.Machine.execClientHello path source credIndex events nonce rsv s
  | .clientAuth session ciphertext sigIndex signature rsv => Sys2Proof.Machine.execClientAuth session ciphertext sigIndex signature rsv s
  | .sessionCommand session m => Sys2Proof.Machine.execSessionCommand session m s
  | .sessionClose session m => Sys2Proof.Machine.execSessionClose session m s
  | .sessionIdleTimeout session => Sys2Proof.Machine.execSessionIdleTimeout session s
  | .sessionBlockExpire source => Sys2Proof.Machine.execSessionBlockExpire source s
  | .healthCheck coresServiced recorderOk => Sys2Proof.Machine.execHealthCheck coresServiced recorderOk s
  | .fwDeadline => Sys2Proof.Machine.execFwDeadline s
  | .recorderSample samples => Sys2Proof.Machine.execRecorderSample samples s
  | .recorderWindowClose => Sys2Proof.Machine.execRecorderWindowClose s
  | .recorderCheckpoint => Sys2Proof.Machine.execRecorderCheckpoint s
  | .emberSend => Sys2Proof.Machine.execEmberSend s
  | .emberAckTimer => Sys2Proof.Machine.execEmberAckTimer s
  | .emberResendExpire seq => Sys2Proof.Machine.execEmberResendExpire seq s
  | .emberHeartbeatSend => Sys2Proof.Machine.execEmberHeartbeatSend s
  | .emberLinkSilent link => Sys2Proof.Machine.execEmberLinkSilent link s
  | .emberLostTimer => Sys2Proof.Machine.execEmberLostTimer s
  | .fabric link p => Sys2Proof.Machine.execFabric link p s
  | .journal link p => Sys2Proof.Machine.execJournal link p s
  | .page link p => Sys2Proof.Machine.execPage link p s
  | .stepDone link p => Sys2Proof.Machine.execStepDone link p s
  | .key link p => Sys2Proof.Machine.execKey link p s
  | .keyDestroy link p => Sys2Proof.Machine.execKeyDestroy link p s
  | .config link p => Sys2Proof.Machine.execConfig link p s
  | .heartbeat link p => Sys2Proof.Machine.execHeartbeat link p s
  | .emberAck link p => Sys2Proof.Machine.execEmberAck link p s
  | .handover link p => Sys2Proof.Machine.execHandover link p s
  | .taken link p => Sys2Proof.Machine.execTaken link p s
  | .takenTimeout => Sys2Proof.Machine.execTakenTimeout s
  | .devIdentify id => Sys2Proof.Machine.execDevIdentify id s
  | .devStatus id => Sys2Proof.Machine.execDevStatus id s
  | .devPartialReset id => Sys2Proof.Machine.execDevPartialReset id s
  | .devCalRead id => Sys2Proof.Machine.execDevCalRead id s
  | .devCalWrite id data => Sys2Proof.Machine.execDevCalWrite id data s
  | .topoRecWrite id data => Sys2Proof.Machine.execTopoRecWrite id data s
  | .topoRecCommit id => Sys2Proof.Machine.execTopoRecCommit id s
  | .topoRecRead id => Sys2Proof.Machine.execTopoRecRead id s
  | .topoDiscover id => Sys2Proof.Machine.execTopoDiscover id s
  | .topoEntryHold id => Sys2Proof.Machine.execTopoEntryHold id s
  | .topoReadmit id => Sys2Proof.Machine.execTopoReadmit id s
  | .topoProbeSet id => Sys2Proof.Machine.execTopoProbeSet id s
  | .topoEntryQuery id => Sys2Proof.Machine.execTopoEntryQuery id s
  | .topoPortRetrain id => Sys2Proof.Machine.execTopoPortRetrain id s
  | .routeFull id => Sys2Proof.Machine.execRouteFull id s
  | .routeDrainSet id => Sys2Proof.Machine.execRouteDrainSet id s
  | .routeQuery id => Sys2Proof.Machine.execRouteQuery id s
  | .heatCarve id => Sys2Proof.Machine.execHeatCarve id s
  | .heatRelease id => Sys2Proof.Machine.execHeatRelease id s
  | .heatFence id => Sys2Proof.Machine.execHeatFence id s
  | .heatUnfence id => Sys2Proof.Machine.execHeatUnfence id s
  | .heatQuery id => Sys2Proof.Machine.execHeatQuery id s
  | .heatList id => Sys2Proof.Machine.execHeatList id s
  | .tenantSet id => Sys2Proof.Machine.execTenantSet id s
  | .tenantGet id => Sys2Proof.Machine.execTenantGet id s
  | .planLoad id image => Sys2Proof.Machine.execPlanLoad id image s
  | .planLoadCached x => Sys2Proof.Machine.execPlanLoadCached x s
  | .planGo id => Sys2Proof.Machine.execPlanGo id s
  | .planStop id => Sys2Proof.Machine.execPlanStop id s
  | .cacheList id => Sys2Proof.Machine.execCacheList id s
  | .cacheDrop id => Sys2Proof.Machine.execCacheDrop id s
  | .savedList id => Sys2Proof.Machine.execSavedList id s
  | .savedDiscard id => Sys2Proof.Machine.execSavedDiscard id s
  | .stateImport id data => Sys2Proof.Machine.execStateImport id data s
  | .stateExport id dataError => Sys2Proof.Machine.execStateExport id dataError s
  | .updateQuery id => Sys2Proof.Machine.execUpdateQuery id s
  | .memQuery id => Sys2Proof.Machine.execMemQuery id s
  | .cacheSet id => Sys2Proof.Machine.execCacheSet id s
  | .memRetrain id => Sys2Proof.Machine.execMemRetrain id s
  | .secQuote id => Sys2Proof.Machine.execSecQuote id s
  | .secKeyRotate id => Sys2Proof.Machine.execSecKeyRotate id s
  | .secKeyState id => Sys2Proof.Machine.execSecKeyState id s
  | .secIndexState id => Sys2Proof.Machine.execSecIndexState id s
  | .secCredSet id data => Sys2Proof.Machine.execSecCredSet id data s
  | .fwPiece id piece => Sys2Proof.Machine.execFwPiece id piece s
  | .fwStatus id => Sys2Proof.Machine.execFwStatus id s
  | .fwActivate id => Sys2Proof.Machine.execFwActivate id s
  | .fwDiscard id => Sys2Proof.Machine.execFwDiscard id s
  | .recQuery id => Sys2Proof.Machine.execRecQuery id s
  | .recRead id => Sys2Proof.Machine.execRecRead id s
  | .recClear id => Sys2Proof.Machine.execRecClear id s
  | .redStatus id => Sys2Proof.Machine.execRedStatus id s
  | .redSaveNow id => Sys2Proof.Machine.execRedSaveNow id s
  | .redTakeover id => Sys2Proof.Machine.execRedTakeover id s
  | .redPairSet id partner => Sys2Proof.Machine.execRedPairSet id partner s
  | .unlistedOpcode id => Sys2Proof.Machine.execUnlistedOpcode id s
  | .unlistedCtrlOp a => Sys2Proof.Machine.execUnlistedCtrlOp a s
  | .perstNDeassert => Sys2Proof.Machine.execPerstNDeassert s
  | .memLinkRetrainDone tier link up => Sys2Proof.Machine.execMemLinkRetrainDone tier link up s
  | .thermalThrottleEnd unit celsius => Sys2Proof.Machine.execThermalThrottleEnd unit celsius s
  | .setdasa addr => Sys2Proof.Machine.execSetdasa addr s

end Sys2Proof.Machine
end

