-- ==== Sys2Proof/Safety.lean ====
section
/-! DEFINITION. What counts as a safe run: every step answers a next state, for the manual lets no happening stop the
block. -/

namespace Sys2Proof

/-- A step that goes on. -/
def Safe (s : Machine.State) : Prop := ∃ t, Machine.step s = .next t

/-- Every one of the next `n` steps goes on. -/
def SafeFor : Nat → Machine.State → Prop
  | 0, _ => True
  | n + 1, s => ∃ t, Machine.step s = .next t ∧ SafeFor n t

namespace Machine

/-- What hardly any command touches: the agents, the queue, the power-cycle count (R19), the index areas of the two
signing keys (R445), the fuse thermometer (R480) and what a burn adds to it (R492). -/
structure Kept where
  agents      : Tab Agent
  pending     : List Instr
  powerCycles : BitVec 32
  identity    : KeyIndex
  attest      : KeyIndex
  fuse        : BitVec 64
  burning     : Option (BitVec 64)
deriving DecidableEq, Repr

def State.kept (s : State) : Kept :=
  { agents := s.agents, pending := s.pending, powerCycles := s.trust.powerCycles, identity := s.trust.identity
    attest := s.trust.attest, fuse := s.fw.fuse, burning := s.fw.burning }

/-- The source record that an agent holds of a flow, and its destination record. -/
def Agent.srcFlow (g : Agent) (k : FlowKey) : Option SrcFlow := g.srcs.find? fun f => f.key == k

def Agent.dstFlow (g : Agent) (k : FlowKey) : Option DstFlow := findDst g.dsts k

/-- Every index below the next one lies in a block that the record in force covers (R446). -/
def KeyIndex.covered (k : KeyIndex) : Bool := k.next ≤ k.blockEnd

end Machine

/-- The agent at a site. -/
def Site.agentOf : Site → Option Nat
  | .agent a => some a
  | .chrohar => none

/-- The agent that a row concerns; none for a row of the module. -/
def Instr.agentOf : Instr → Option Nat
  | .registerWrite (.agentReg a _ _) => some a
  | .portErrRead a _ | .dstFullDropsRead a | .agentCommit a _ => some a
  | .agentRstNAssert a | .agentRstNDeassert a _ _ _ _ | .agentIsolationTimeout a => some a
  | .trainingAttemptStart x _ | .trainingWindowClose x _ | .laneUpChange x _ _ | .identifyTimeout x _ => x.agentOf
  | .controlCellSend x _ | .idleCell x _ _ | .lapExchangeCell x _ _ | .neighbourDiscoveryCell x _ _ => x.agentOf
  | .lapSlew a | .forgetSendEnd a => some a
  | .forgetCell x _ _ | .frameReceive x _ _ | .frameSend x _ | .packetArrival ⟨x, _⟩ | .ackTimerExpire x _ | .ackReceive x => x.agentOf
  | .flowWindowSend x _ | .mcastChangedSetSend x _ | .nak x | .mgrBusy x | .busyHoldExpire x _ _ => x.agentOf
  | .resendTimerExpire x _ _ | .fenceNotice x _ _ _ => x.agentOf
  | .treePartReceive a | .treeSumFormed a | .mgrFlowRestart a _ _ | .injectDescriptor a _ _ => some a
  | .deliveryRoomResume a | .dlvStall a | .timedRelease a _ | .paceRelease a | .discoverQuery a => some a
  | .tableBillet a | .tblFlip a | .tblRetire a | .tblState a | .tblSeed a | .fence a | .unfence a => some a
  | .collRetry a | .portHold a | .ctlAdmit a | .flowClear a | .bridgeSet a | .unlistedCtrlOp a => some a
  | _ => none

namespace Machine

/-- Command `c` of opcode `op` waits under `id`, may start (R393), and passes the checks of R11, R383, R394 and R404. -/
def State.Ready (s : State) (id : Nat) (op : BitVec 16) (c : Cmd) : Prop :=
  s.cmd id = some c ∧ c.opcode = op ∧ s.mayStart c = true ∧ s.precheck c = none

/-- Whether the read of a command's data buffer fails on PCIe (R394): an open value for a function, and always without a grant (R516); never in
a session. -/
def State.bufferFails (s : State) (c : Cmd) : Bool :=
  match c.src with
  | .fn _ => s.hostFails.1
  | .session _ => false

end Machine

/-- The accepted command that a row of the host commands carries out, with its opcode (Table 10-8). -/
def Instr.hostOp : Instr → Option (Nat × BitVec 16)
  | .devIdentify id => some (id, 0x0101#16)
  | .devStatus id => some (id, 0x0102#16)
  | .devPartialReset id => some (id, 0x0103#16)
  | .devCalRead id => some (id, 0x0104#16)
  | .devCalWrite id _ => some (id, 0x0105#16)
  | .topoRecWrite id _ => some (id, 0x0201#16)
  | .topoRecCommit id => some (id, 0x0202#16)
  | .topoRecRead id => some (id, 0x0203#16)
  | .topoDiscover id => some (id, 0x0204#16)
  | .topoEntryHold id => some (id, 0x0205#16)
  | .topoReadmit id => some (id, 0x0206#16)
  | .topoProbeSet id => some (id, 0x0207#16)
  | .topoEntryQuery id => some (id, 0x0208#16)
  | .topoPortRetrain id => some (id, 0x0209#16)
  | .routeFull id => some (id, 0x0301#16)
  | .routeDrainSet id => some (id, 0x0302#16)
  | .routeQuery id => some (id, 0x0303#16)
  | .heatCarve id => some (id, 0x0401#16)
  | .heatRelease id => some (id, 0x0402#16)
  | .heatFence id => some (id, 0x0403#16)
  | .heatUnfence id => some (id, 0x0404#16)
  | .heatQuery id => some (id, 0x0405#16)
  | .heatList id => some (id, 0x0406#16)
  | .tenantSet id => some (id, 0x0407#16)
  | .tenantGet id => some (id, 0x0408#16)
  | .planLoad id _ => some (id, 0x0501#16)
  | .planLoadCached x => some (x.id, 0x0502#16)
  | .planGo id => some (id, 0x0503#16)
  | .planStop id => some (id, 0x0504#16)
  | .cacheList id => some (id, 0x0505#16)
  | .cacheDrop id => some (id, 0x0506#16)
  | .savedList id => some (id, 0x0601#16)
  | .savedDiscard id => some (id, 0x0602#16)
  | .stateImport id _ => some (id, 0x0603#16)
  | .stateExport id _ => some (id, 0x0604#16)
  | .updateQuery id => some (id, 0x0605#16)
  | .memQuery id => some (id, 0x0701#16)
  | .cacheSet id => some (id, 0x0702#16)
  | .memRetrain id => some (id, 0x0703#16)
  | .secQuote id => some (id, 0x0801#16)
  | .secKeyRotate id => some (id, 0x0802#16)
  | .secKeyState id => some (id, 0x0803#16)
  | .secIndexState id => some (id, 0x0804#16)
  | .secCredSet id _ => some (id, 0x0805#16)
  | .fwPiece id _ => some (id, 0x0901#16)
  | .fwStatus id => some (id, 0x0902#16)
  | .fwActivate id => some (id, 0x0903#16)
  | .fwDiscard id => some (id, 0x0904#16)
  | .recQuery id => some (id, 0x0A01#16)
  | .recRead id => some (id, 0x0A02#16)
  | .recClear id => some (id, 0x0A03#16)
  | .redStatus id => some (id, 0x0B01#16)
  | .redSaveNow id => some (id, 0x0B02#16)
  | .redTakeover id => some (id, 0x0B03#16)
  | .redPairSet id _ => some (id, 0x0B04#16)
  | _ => none

/-- A row that only the manager, or a hub unit in service, carries out. -/
def Instr.managed : Instr → Bool
  | .heatQueueHead | .hearthGradientReceive _ _ | .meshTransferAccept _ | .hearthRecordUpdate _ _ | .hearthPassEnd _ => true
  | .normDecision | .contribHeldAccept | .routeComputeDone | .drainExpire | .runTeardownWaitExpire | .ctrlReply => true
  | .fenceAck | .endpointReport | .linkEvent | .linkTilePortChange _ | .resendFail | .resendFailGatherExpire _ => true
  | .probeTimer | .probeWindowClose _ | .discoverReply | .discoverReplyTimeout => true
  | .packetArrival ⟨.chrohar, _⟩ | .ackTimerExpire .chrohar _ | .ackReceive .chrohar | .nak .chrohar | .mgrBusy .chrohar => true
  | .flowWindowSend .chrohar _ | .mcastChangedSetSend .chrohar _ | .busyHoldExpire .chrohar _ _ => true
  | .fenceNotice .chrohar _ _ _ | .resendTimerExpire .chrohar _ _ => true
  | _ => false

end Sys2Proof
end

