-- ==== Sys2Proof/Certificates/Slice0/Obligations.lean ====
section
/-! DEFINITION. The statements of this row: what the commands do, what they leave as it is, and what holds of the whole
block. -/

open Sys2Proof Sys2Proof.Machine

/-! ## The block as a whole -/

/-- A step takes the command at the front of the queue, runs it on the rest, and answers its outcome. -/
def Obligations.StepTakesTheFrontCommand : Prop :=
  ∀ (c : Instr) (rest : List Instr) (s : State), s.pending = c :: rest → step s = exec c { s with pending := rest }

/-- On an empty queue one lap tick passes (the model's choice, log entry 35): the module's LAP advances by one tick of
sixteen sixteenths once the link domain is out of reset, each agent's LAP unless the agent is held in reset, and nothing
else of the module changes. -/
def Obligations.StepOnEmptyQueueIsOneTick : Prop :=
  ∀ s : State, s.pending = [] → ∃ t, step s = .next t ∧
    t = { s with lap := t.lap, agents := t.agents } ∧
    (2 ≤ s.boot.wave → t.lap = s.lap + 16) ∧ (s.boot.wave < 2 → t.lap = s.lap) ∧
    ∀ a, t.agent a = { s.agent a with lapSync := (t.agent a).lapSync } ∧
      (t.agent a).lapSync.lap = if (s.agent a).inReset then (s.agent a).lapSync.lap else (s.agent a).lapSync.lap + 16

/-- Every command answers a next state, in every state (log entry 15). No command changes the queue. -/
def Obligations.CommandsAnswerAndLeaveTheQueue : Prop :=
  (
    ∀ (c : Instr) (s : State), ∃ t, exec c s = .next t) ∧ (
    ∀ (c : Instr) (s t : State), exec c s = .next t → t.pending = s.pending)

/-- A command that concerns one agent changes nothing of the module but what is put out and the count of open values, and no
other agent. A command that concerns no agent changes no agent, those of a firmware update among them (R339). -/
def Obligations.RowsStayAtTheirAgent : Prop :=
  (
    ∀ (c : Instr) (a : Nat) (s t : State), c.agentOf = some a → exec c s = .next t →
      t = { s with agents := t.agents, out := t.out, free := t.free } ∧ ∀ b, b ≠ a → t.agent b = s.agent b) ∧ (
    ∀ (c : Instr) (s t : State), c.agentOf = none → exec c s = .next t → t.agents = s.agents)

/-- The power-cycle count advances once at a power-on, and at nothing else: no partial reset and no activation moves it; and
at that power-on no other die leaves reset (R19): no wave rises, no agent changes, and the module waits for the grant or for
PLL lock. -/
def Obligations.PowerCycleCountAdvancesAtPowerOnAlone : Prop :=
  ∀ (c : Instr) (s t : State), exec c s = .next t →
    t.trust.powerCycles =
        (if c = .powerOn ∧ s.boot.stage = .off ∧ s.boot.switchOn = true then s.trust.powerCycles + 1 else s.trust.powerCycles) ∧
      (c = .powerOn → s.boot.stage = .off → t.agents = s.agents ∧ t.boot.wave = s.boot.wave ∧ t.boot.mgrReady = s.boot.mgrReady ∧
        (t.boot.stage = .off ∨ t.boot.stage = .grantWait ∨ t.boot.stage = .pllWait))

/-- The index areas of both signing keys keep every used index below BLOCK_END of the record in force (R446). -/
def Obligations.IndexRecordsCoverUsedIndices : Prop :=
  ∀ (s t : State), s.trust.identity.covered = true → s.trust.attest.covered = true → step s = .next t →
    t.trust.identity.covered = true ∧ t.trust.attest.covered = true

/-- No index of a signing key comes back: from any state whose records cover the used indices, no command lowers the next
index of either key (R446, R447). A burned bit of the security version fuse stays burned (R480). -/
def Obligations.WhatIsBurnedOrUsedStays : Prop :=
  (
    ∀ (c : Instr) (s t : State), s.trust.identity.covered = true → s.trust.attest.covered = true → exec c s = .next t →
      s.trust.identity.next ≤ t.trust.identity.next ∧ s.trust.attest.next ≤ t.trust.attest.next) ∧ (
    ∀ (c : Instr) (s t : State) (i : Nat), exec c s = .next t → s.fw.fuse.getLsbD i = true → t.fw.fuse.getLsbD i = true)

/-- Right after reset the module is off and its queue empty; FABRIC_STATE, the LAP and BRINGUP_STAT are 0, every agent is
held in reset, no function has CMD_EN or EVT_EN, and the configuration in use has a probe interval of 30 s, a drain of 200
µs and a plan cache of 64 GiB. The records of both keys cover what is used at reset. -/
def Obligations.TheStateAfterReset : Prop :=
  (
    State.reset.boot.stage = .off ∧ State.reset.pending = [] ∧ State.reset.mgr.fabricState = 0 ∧ State.reset.lap = 0 ∧
      State.bringupStat State.reset = 0 ∧ (∀ a, (State.reset.agent a).inReset = true) ∧
      (∀ n, (State.reset.fn n).cmdEn = false ∧ (State.reset.fn n).evtEn = false) ∧
      State.reset.cfg.live.probeS = 30 ∧ State.reset.cfg.live.drainUs = 200 ∧ State.reset.cfg.live.cacheGib = 64) ∧ (
    State.reset.trust.identity.covered = true ∧ State.reset.trust.attest.covered = true)

/-! ## An agent: registers, reset, ports and cells -/

/-- Reads of the RC registers PORT_ERR and DST_FULL_DROPS return the count and clear it, and nothing else of the agent
changes (R12); AGENT_COMMIT with bit 0 set copies the shadow ring registers into the live ones while RINGS_EN is 0, and with
RINGS_EN 1 only raises COMMIT_REFUSED (R379), on which AGENT_IRQ follows INT_STAT and INT_EN (Table 9-2). A write on an
agent's register bus (R12, R379): a shadowed ring register takes the value in its shadow alone, an index register takes it
at once, and INT_STAT loses the bits written as 1. Forms that complete here, each with a next state given under hypotheses
on state and operands alone: portErrRead, dstFullDropsRead, agentCommit, registerWrite. -/
def Obligations.AgentRegisters : Prop :=
  (
    ∀ (a port : Nat) (s : State), (s.agent a).inReset = false →
      exec (.portErrRead a port) s = .next
        ((s.setAgent a { s.agent a with ports := tmod (s.agent a).ports port fun q => { q with errCount := 0 } }).emit
          [.regRead ((s.agent a).port port).errCount]) ∧
      exec (.dstFullDropsRead a) s = .next
        ((s.setAgent a { s.agent a with dstFull := 0 }).emit [.regRead (s.agent a).dstFull]) ∧
      ((s.agent a).rings.en = false → exec (.agentCommit a 1) s = .next
        (s.setAgent a { s.agent a with rings := { (s.agent a).rings with live := (s.agent a).rings.shadow } })) ∧
      ((s.agent a).rings.en = true → exec (.agentCommit a 1) s = .next
        ((s.setAgent a { s.agent a with rings := (s.agent a).rings.raise 6 }).emit
          (irqChange a (s.agent a) { s.agent a with rings := (s.agent a).rings.raise 6 })))) ∧ (
    ∀ (a : Nat) (v : BitVec 64) (s : State), (s.agent a).inReset = false →
      exec (.registerWrite (.agentReg a 0x0058 v)) s = .next (s.setAgent a { s.agent a with rings :=
        { (s.agent a).rings with shadow := { (s.agent a).rings.shadow with injBase := v } } }) ∧
      exec (.registerWrite (.agentReg a 0x0088 v)) s = .next (s.setAgent a { s.agent a with rings :=
        { (s.agent a).rings with injTail := v } }) ∧
      ∃ t, exec (.registerWrite (.agentReg a 0x0030 v)) s = .next t ∧ t = { s with agents := t.agents, out := t.out } ∧
        t.agent a = { s.agent a with rings := { (s.agent a).rings with intStat := (t.agent a).rings.intStat } } ∧
        t.out = s.out ++ irqChange a (s.agent a) (t.agent a) ∧
        ∀ i, i < 8 → (t.agent a).rings.intStat.getLsbD i = ((s.agent a).rings.intStat.getLsbD i && !v.getLsbD i))

/-- AGENT_RST_N: while it is asserted the agent is at reset (R343); when it deasserts, the straps are latched, every present
port begins to train, and EID, slots, flows and LAP are as after reset (R342). TRAINING_ATTEMPT_START at an agent: a present
port that is down, not held and not down for a changed identity begins to train, its transmitters leave electrical idle, and
the port says so; any other port stays as it is (R130, R347, R348, R431). Forms that complete here, each with a next state
given under hypotheses on state and operands alone: agentRstNAssert, agentRstNDeassert, trainingAttemptStart. -/
def Obligations.AgentResetAndTraining : Prop :=
  (
    ∀ (a : Nat) (strap : BitVec 16) (sw : Bool) (iw mw : List (BitVec 3)) (s : State),
      exec (.agentRstNAssert a) s = .next ((s.setAgent a Agent.reset).emit (irqChange a (s.agent a) Agent.reset)) ∧
      ((s.agent a).inReset = true → ∃ t, exec (.agentRstNDeassert a strap sw iw mw) s = .next t ∧
        t.agent a = { Agent.reset with inReset := false, isSwitch := sw, strap := strap, ports := (t.agent a).ports } ∧
        (∀ p, p < (if sw then 16 else 8) →
          ((t.agent a).port p).state =
            (if 2 ≤ ((iw[p]?).getD 0).toNat ∧ ((iw[p]?).getD 0).toNat ≤ 5 then .training else .untrained)) ∧
        ∃ es, t.out = s.out ++ (presentPorts (t.agent a)).map (fun p => .portTrain (.agent a) p) ++ es ∧
          es = irqChange a (s.agent a) (t.agent a))) ∧ (
    ∀ (a p : Nat) (q : Port) (s : State), (s.agent a).inReset = false → tget (s.agent a).ports p = some q →
      (q.instW ≠ 0 → q.held = false → q.shut = false → (q.state = .untrained ∨ q.state = .noLane ∨ q.state = .belowMin) →
        ∃ t es, exec (.trainingAttemptStart (.agent a) p) s = .next t ∧ ((t.agent a).port p).state = .training ∧
          ((t.agent a).port p).idle = false ∧ ((t.agent a).port p).instW = q.instW ∧
          t.out = s.out ++ es ++ [.portTrain (.agent a) p]) ∧
      ((q.held = true ∨ q.shut = true ∨ q.instW = 0 ∨ q.state = .training ∨ q.state = .up ∨ q.state = .held ∨ q.state = .idChanged) →
        exec (.trainingAttemptStart (.agent a) p) s = .next s))

/-- The trained width is the largest of 1, 2, 4, 6 and 8 lanes that is within the installed width and that the trained lanes
cover (R118); the port is up just when that is not zero and not below its minimum width (R122). -/
def Obligations.TrainedWidthIsTheLargestCovered : Prop :=
  ∀ (q : Port) (lanes : BitVec 8) (n : Nat), q.instW ≤ 8 → (q.trained lanes n).width = trainedWidth q.instW (countLanes lanes) ∧
    (q.trained lanes n).width ≤ q.instW ∧ (q.trained lanes n).width ≤ countLanes lanes ∧
    (∀ w, (w = 1 ∨ w = 2 ∨ w = 4 ∨ w = 6 ∨ w = 8) → w ≤ q.instW → w ≤ countLanes lanes → w ≤ (q.trained lanes n).width) ∧
    ((q.trained lanes n).state = .up ↔ (q.trained lanes n).width ≠ 0 ∧ q.minW ≤ (q.trained lanes n).width)

/-- At an agent the end of a training window gives a reported port in training its width, state and lanes (R118, R122); a
trained port whose lanes change takes its width, state and lanes from them, and one that is not identified within 10 ms
counts as not trained, with width 0 (R131). Forms that complete here, each with a next state given under hypotheses on state
and operands alone: trainingWindowClose, laneUpChange, identifyTimeout. -/
def Obligations.PortsFollowTheirLanes : Prop :=
  ∀ (a p : Nat) (lanes : BitVec 8) (s : State), (s.agent a).inReset = false →
    (tget (s.agent a).ports p).isSome = true →
    (((s.agent a).port p).state = .training →
      ∃ t, exec (.trainingWindowClose (.agent a) [{ port := p, ok := lanes, spareOk := 0 }]) s = .next t ∧
        let q := ((s.agent a).port p).trained (lanes &&& laneMask 0 ((s.agent a).port p).instW) 0
        ((t.agent a).port p).width = q.width ∧ ((t.agent a).port p).state = q.state ∧ ((t.agent a).port p).laneOk = q.laneOk) ∧
    (((s.agent a).port p).state = .up →
      ((s.agent a).port p).laneOk ≠ lanes &&& laneMask 0 ((s.agent a).port p).instW →
      ∃ t, exec (.laneUpChange (.agent a) p lanes) s = .next t ∧
        let q := ((s.agent a).port p).lanesChange (lanes &&& laneMask 0 ((s.agent a).port p).instW)
        ((t.agent a).port p).width = q.width ∧ ((t.agent a).port p).state = q.state ∧ ((t.agent a).port p).laneOk = q.laneOk) ∧
    (((s.agent a).port p).state = .up → ((s.agent a).port p).nbrSeen = false →
      ∃ t, exec (.identifyTimeout (.agent a) p) s = .next t ∧
        ((t.agent a).port p).state = .noLane ∧ ((t.agent a).port p).width = 0)

/-- CONTROL_CELL_SEND at a port that is up: the slot carries an idle cell or one of the cells that are due, with FREED_CUM
of the four channels, at its place among the slots (R57, R60); with as many control slots of the 16 FEC blocks left as cells
still to go, one of those goes (R128, R142, R293). Which one goes otherwise is open (log entry 11). Control cells that a
port of an agent takes while it is up: an idle cell gives the four FREED_CUM (R84); the third matching neighbour cell in a
row identifies the port (R130); a forget cell with a new tag makes the agent forget its slots, runs, keys, flows, EID, stamp
and held packets, keep its straps and its lap count, and send the tag on, and one with the kept tag gives FREED_CUM alone
(R142). FORGET_SEND_END ends the sending of the tag. The lap counter of an agent: a cell from the parent whose offset is
more than 1 µs takes the offset off the counter and makes it STEPPING, but in HOLDOVER (R294, R295); a slew of a locked
counter whose offsets are late moves it down by one sixteenth of a tick, and within 64 ticks of the last one nothing (R295).
How the offset is rounded and which offsets are held are the model's choice (log entry 135). Forms that complete here, each
with a next state given under hypotheses on state and operands alone: controlCellSend, idleCell, neighbourDiscoveryCell,
forgetCell, forgetSendEnd, lapExchangeCell, lapSlew. -/
def Obligations.ControlCells : Prop :=
  (
    ∀ (site : Site) (p : Nat) (s : State), s.hasPort site p = true → (s.portAt site p).state = .up →
      let q := s.portAt site p
      let still := (s.dueCells site p).filter fun c => !q.tx.sent.contains c.1
      ∃ t c, exec (.controlCellSend site p) s = .next t ∧ (c ∈ s.dueCells site p ∨ c = (0, 0)) ∧
        (still ≠ [] → 64 - q.tx.ctl % 64 ≤ still.length → c ∈ still) ∧ t.free = s.free + 1 ∧
        t.out = s.out ++ ([.cell site p (20 * q.tx.ctl + 19) (mkCell c.1 q.freedWord c.2)] ++ q.tx.ended site p) ∧
        t.portAt site p = { q with tx := q.tx.takeCtl c.1 }) ∧ (
    ∀ (a p : Nat) (c : CtlCell) (s : State), (s.agent a).inReset = false → (tget (s.agent a).ports p).isSome = true →
      ((s.agent a).port p).state = .up → cellOk c = true →
      (c.csub = 0 → exec (.idleCell (.agent a) p c) s = .next
        (s.setAgent a ((s.agent a).setPort p (((s.agent a).port p).takeFreed c.freed)))) ∧
      (c.csub = 2 → ((s.agent a).port p).nbrSeen = false → ((s.agent a).port p).cand = nbrOf c →
        ((s.agent a).port p).candCount = 2 →
        ∃ t, exec (.neighbourDiscoveryCell (.agent a) p c) s = .next t ∧ ((t.agent a).port p).nbrSeen = true ∧
          ((t.agent a).port p).nbr = nbrOf c) ∧
      (c.csub = 3 → field c.data 0 64 ≠ (s.agent a).discTag →
        ∃ t, exec (.forgetCell (.agent a) p c) s = .next t ∧ (t.agent a).discTag = field c.data 0 64 ∧
          (t.agent a).forgetting = true ∧ (t.agent a).eid = none ∧ (t.agent a).stamp = 0 ∧ (t.agent a).keys = [] ∧
          (t.agent a).srcs = [] ∧ (t.agent a).dsts = [] ∧ (t.agent a).arrived = [] ∧ (t.agent a).inbox = [] ∧
          (t.agent a).slot0 = Slot.reset ∧ (t.agent a).slot1 = Slot.reset ∧ (t.agent a).runs = [] ∧ (t.agent a).strap = (s.agent a).strap ∧
          (t.agent a).lapSync.lap = (s.agent a).lapSync.lap ∧ (t.agent a).lapSync.lock = .free ∧
          (t.agent a).lapSync.parent = none) ∧
      (c.csub = 3 → field c.data 0 64 = (s.agent a).discTag → exec (.forgetCell (.agent a) p c) s = .next
        (s.setAgent a ((s.agent a).setPort p (((s.agent a).port p).takeFreed c.freed)))) ∧
      exec (.forgetSendEnd a) s = .next (s.setAgent a { s.agent a with forgetting := false })) ∧ (
    ∀ (a p : Nat) (c : CtlCell) (s : State), (s.agent a).inReset = false → (tget (s.agent a).ports p).isSome = true →
      ((s.agent a).port p).state = .up → cellOk c = true → c.csub = 1 →
      (s.agent a).lapSync.parent = some p → field c.data 40 32 ≠ 0x80000000#32 →
      let off := lapOffset (field (s.agent a).lapNow 0 40) (field c.data 0 40) (field c.data 40 32)
      ((s.agent a).lapSync.lock ≠ .holdover → 25600 < off.natAbs → ∃ t, exec (.lapExchangeCell (.agent a) p c) s = .next t ∧
        (t.agent a).lapSync.lock = .stepping ∧
        (t.agent a).lapSync.lap = (s.agent a).lapSync.lap - BitVec.ofInt 64 off) ∧
      ((s.agent a).lapSync.lock = .locked → 64 ≤ (s.agent a).lapSync.sinceSlew → 0 < (s.agent a).lapSync.total →
        ∃ t, exec (.lapSlew a) s = .next t ∧ (t.agent a).lapSync.lap = (s.agent a).lapSync.lap - 1 ∧
          (t.agent a).lapSync.sinceSlew = 0) ∧
      ((s.agent a).lapSync.sinceSlew < 64 → ∃ t, exec (.lapSlew a) s = .next t ∧
        (t.agent a).lapSync = (s.agent a).lapSync))

/-- After 1 ms with every port down an agent gives up its routes, keys, flows, chunk records and lap parent, and keeps its
EID and ADMIT_STAMP (R237, R374, R376); with a port up nothing happens. Forms that complete here, each with a next state
given under hypotheses on state and operands alone: agentIsolationTimeout. -/
def Obligations.IsolationKeepsTheEid : Prop :=
  ∀ (a : Nat) (s : State), (s.agent a).inReset = false →
    ((∀ e ∈ (s.agent a).ports, e.2.state ≠ .up) → ∃ t, exec (.agentIsolationTimeout a) s = .next t ∧
      (t.agent a).eid = (s.agent a).eid ∧ (t.agent a).stamp = (s.agent a).stamp ∧ (t.agent a).slot0 = Slot.reset ∧
      (t.agent a).slot1 = Slot.reset ∧ (t.agent a).runs = [] ∧ (t.agent a).keys = [] ∧ (t.agent a).bridge = [] ∧
      (t.agent a).srcs = [] ∧ (t.agent a).dsts = [] ∧ (t.agent a).chunks = [] ∧ (t.agent a).mgrEid = none ∧
      (t.agent a).lapSync.parent = none ∧ (t.agent a).strap = (s.agent a).strap) ∧
    (∀ e ∈ (s.agent a).ports, e.2.state = .up → ∃ t, exec (.agentIsolationTimeout a) s = .next t ∧ t.agent a = s.agent a)

/-! ## Flows at an agent -/

/-- A resend timer at an agent (R95, R98, R362, R366): before the eighth try the packet's record counts the next try, with
its payload read anew and its timer running; after the eighth the flow fails and keeps no packet, but in a flow to the
manager only the timer stops, and MGR_FLOW_RESTART begins that packet again at try 1. The end of a MGR_BUSY hold starts the
timer again and counts no try (R99). Forms that complete here, each with a next state given under hypotheses on state and
operands alone: resendTimerExpire, mgrFlowRestart, busyHoldExpire. -/
def Obligations.ResendScheduleAtAnAgent : Prop :=
  ∀ (a : Nat) (key : FlowKey) (seq : Seq) (f : SrcFlow) (c : Copy) (s : State), (s.agent a).inReset = false →
    (s.agent a).srcFlow key = some f → copyOf ((s.agent a).fresh f) seq = some c →
    let now := (s.agent a).fresh f
    (c.timer = true → c.tries < 8 → ∃ t, exec (.resendTimerExpire (.agent a) key seq) s = .next t ∧
      (t.agent a).srcFlow key = some (modCopy now seq (nextTry (s.agent a).epochNow now))) ∧
    (c.timer = true → 8 ≤ c.tries → (s.agent a).isMgrFlow key = false →
      ∃ t, exec (.resendTimerExpire (.agent a) key seq) s = .next t ∧
        (t.agent a).srcFlow key = some { f with copies := [], waiting := [], failed := true }) ∧
    (c.timer = true → 8 ≤ c.tries → (s.agent a).isMgrFlow key = true →
      ∃ t, exec (.resendTimerExpire (.agent a) key seq) s = .next t ∧
        (t.agent a).srcFlow key = some (modCopy f seq fun d => { d with timer := false })) ∧
    (c.timer = false → c.tries = 8 → (s.agent a).isMgrFlow key = true →
      ∃ t, exec (.mgrFlowRestart a key seq) s = .next t ∧ (t.agent a).srcFlow key =
        some (modCopy now seq fun d =>
          { d with pkt := resendPkt (s.agent a).epochNow now c 0, tries := 1, timer := true })) ∧
    (c.busy.isSome = true → ∃ t, exec (.busyHoldExpire (.agent a) key seq) s = .next t ∧ (t.agent a).srcFlow key =
      some (modCopy now seq fun d =>
        { d with pkt := resendPkt (s.agent a).epochNow now c (c.tries - 1), timer := true, busy := none }))

/-- An answer at an agent that is the source of a flow with one destination: an ACK ends every packet that it covers and
moves the window (R90); a NAK of the latest try, before the eighth, brings the next try at once, and any other NAK changes
nothing of the record (R95); a MGR_BUSY for the latest try stops that packet's timer for HOLD_US (R99). What waits at a
source of an agent: at FLOW_WINDOW_SEND the first packet of a flow with one destination goes once the window is open (R90),
at MCAST_CHANGED_SET_SEND one of a multicast flow with another position set once no packet is outstanding (R562); it takes
the flow's next number and is kept for its resend, on try 1 with its timer running. A fence notice marks the position fenced
in the flow and its packets, and its lifting unmarks it in the flow (R108). Forms that complete here, each with a next state
given under hypotheses on state and operands alone: ackReceive, nak, mgrBusy, flowWindowSend, mcastChangedSetSend,
fenceNotice. -/
def Obligations.AnswersAndWaitingPackets : Prop :=
  (
    ∀ (a : Nat) (x : Arrived) (rest : List Arrived) (f : SrcFlow) (s : State), (s.agent a).inReset = false →
      tallyGood x.pkt = true →
      let now := (s.agent a).fresh f
      (takeTally tAck (s.agent a).arrived = some (x, rest) → (pktTally x.pkt).getLsbD 112 = false →
        (s.agent a).srcFlow (ackKey x.pkt) = some f →
        let ackSeq : Seq := field (pktTally x.pkt) 0 32
        ∃ t, exec (.ackReceive (.agent a)) s = .next t ∧ (t.agent a).srcFlow (ackKey x.pkt) = some { now with
          copies := now.copies.filter fun c => !ackCovers ackSeq (field (pktTally x.pkt) 32 64) c.pkt.seq
          latest := if seqLater ackSeq f.latest then ackSeq else f.latest }) ∧
      (takeTally tNak (s.agent a).arrived = some (x, rest) → (s.agent a).srcFlow (nakKey x.pkt) = some f →
        ∀ c, copyOf now (field (pktTally x.pkt) 0 32) = some c → c.tries < 8 →
        ∃ t, exec (.nak (.agent a)) s = .next t ∧ (t.agent a).srcFlow (nakKey x.pkt) =
          some (if c.tries - 1 = (field (pktTally x.pkt) 32 3).toNat then
            modCopy now (field (pktTally x.pkt) 0 32) (nextTry (s.agent a).epochNow now) else now)) ∧
      (takeTally tMgrBusy (s.agent a).arrived = some (x, rest) → (s.agent a).srcFlow (busyKey x.pkt) = some f →
        ∀ c, copyOf now (field (pktTally x.pkt) 0 32) = some c → c.tries - 1 = (field (pktTally x.pkt) 32 3).toNat →
        ∃ t, exec (.mgrBusy (.agent a)) s = .next t ∧ (t.agent a).srcFlow (busyKey x.pkt) =
          some (modCopy now (field (pktTally x.pkt) 0 32) fun d =>
            { d with timer := false, busy := some (field (pktTally x.pkt) 36 20).toNat }))) ∧ (
    ∀ (a : Nat) (key : FlowKey) (f : SrcFlow) (s : State), (s.agent a).inReset = false →
      (s.agent a).srcFlow key = some f →
      let now := (s.agent a).fresh f
      (∀ w r, f.waiting = w :: r → f.key.mcast = false → windowOpen f = true →
        ∃ t c, exec (.flowWindowSend (.agent a) key) s = .next t ∧ c.pkt.seq = f.next ∧ c.tries = 1 ∧ c.timer = true ∧
          (t.agent a).srcFlow key = some { now with next := f.next + 1, waiting := r, lastSet := none
                                                    copies := now.copies ++ [c] }) ∧
      (∀ w r, f.waiting = w :: r → f.key.mcast = true → positionSet f w.pkt ≠ 0 → setChanged f w.pkt = true →
        f.copies = [] → windowOpen f = true →
        ∃ t c, exec (.mcastChangedSetSend (.agent a) key) s = .next t ∧ c.pkt.seq = f.next ∧ c.tries = 1 ∧ c.timer = true ∧
          (t.agent a).srcFlow key = some { now with next := f.next + 1, waiting := r
                                                    lastSet := some (positionSet f w.pkt), copies := [c] }) ∧
      (∀ pos, pos < 16 → ∃ t f', exec (.fenceNotice (.agent a) key pos false) s = .next t ∧
        (t.agent a).srcFlow key = some f' ∧ f'.fenced.getLsbD pos = true ∧
        ∀ c ∈ f'.copies, (outstanding c).getLsbD pos = false) ∧
      (∀ pos, pos < 16 → ∃ t f', exec (.fenceNotice (.agent a) key pos true) s = .next t ∧
        (t.agent a).srcFlow key = some f' ∧ f'.fenced.getLsbD pos = false ∧ f'.copies = now.copies))

/-- PACKET_ARRIVAL at an agent, for the first packet that may be taken, in a flow whose record it holds (R90 to R93): of a
packet already received the record stands as after an ACK, and one beyond ACK_SEQ + 64 changes no record; neither is handed
on. A billet that is new is entered in the record, which stands as after an ACK with the eighth since the last one. At
ACK_TIMER_EXPIRE the record stands as after an ACK. Forms that complete here, each with a next state given under hypotheses
on state and operands alone: packetArrival, ackTimerExpire. -/
def Obligations.ArrivalsAtAnAgent : Prop :=
  ∀ (a : Nat) (x : Arrived) (rest : List Arrived) (d : DstFlow) (s : State), (s.agent a).inReset = false →
    ((s.agent a).pick [] (s.agent a).arrived = some (x, rest) →
      reservedPacket x.pkt = false → headOk x.pkt = true → dataOk x.pkt = true → x.pkt.c.mcast = false →
      isTable x.pkt = false → (isBillet x.pkt = false → x.pkt.c.type ≠ tCtrl) →
      (s.agent a).dstFlow (flowKeyOf x.pkt) = some d →
      (dstJudge d x.pkt = .duplicate d → ∃ t, exec (.packetArrival ⟨.agent a, false⟩) s = .next t ∧
        (t.agent a).dstFlow (flowKeyOf x.pkt) = some (acked d) ∧ (t.agent a).inbox = (s.agent a).inbox ∧
        (t.agent a).rings = (s.agent a).rings) ∧
      (dstJudge d x.pkt = .beyond → ∃ t, exec (.packetArrival ⟨.agent a, false⟩) s = .next t ∧
        (t.agent a).dsts = (s.agent a).dsts ∧ (t.agent a).inbox = (s.agent a).inbox ∧
        (t.agent a).rings = (s.agent a).rings) ∧
      (dstJudge d x.pkt = .accept d → isBillet x.pkt = true → ∃ t, exec (.packetArrival ⟨.agent a, false⟩) s = .next t ∧
        let r := (dstAccept d x.pkt (isFromManager (s.agent a) x.pkt)).1
        (t.agent a).dstFlow (flowKeyOf x.pkt) = some (if 8 ≤ r.sinceAck then acked r else r))) ∧
    (∀ key, (s.agent a).dstFlow key = some d → d.timer = true →
      ∃ t, exec (.ackTimerExpire (.agent a) key) s = .next t ∧ (t.agent a).dstFlow key = some (acked d))

/-! ## The endpoint interface, tree sums and barriers -/

/-- INJECT_DESCRIPTOR: a descriptor that the agent can read moves INJ_HEAD by one. If a code of Table 9-9 applies, the first
is posted with the descriptor's TAG and no port, flow or chunk record changes (R367); else, in MODE 0 to 3 or 5, the
packet's flow has its record, and in MODE 4 the part joins the record of its chunk, for which it waits in the ring while no
record or slot is free (R372, R373). An agent that can read none stays as it is. Forms that complete here, each with a next
state given under hypotheses on state and operands alone: injectDescriptor. -/
def Obligations.InjectDescriptorReads : Prop :=
  ∀ (a : Nat) (d : Desc) (payload : List Byte) (s : State), (s.agent a).inReset = false →
    ((s.agent a).canRead = false → exec (.injectDescriptor a d payload) s = .next (s.setAgent a (s.agent a))) ∧
    ((s.agent a).canRead = true → ∀ code, (s.agent a).checkDesc d payload = some code →
      ∃ t, exec (.injectDescriptor a d payload) s = .next t ∧
        (t.agent a).rings.injHead = (s.agent a).rings.injHead + 1 ∧
        (t.agent a).rings.cplTail = (s.agent a).rings.cplTail + 1 ∧ (t.agent a).srcs = (s.agent a).srcs ∧
        (t.agent a).chunks = (s.agent a).chunks ∧ (t.agent a).ports = (s.agent a).ports ∧
        t.out = s.out ++ [.completion a (s.agent a).rings.cplTail d.tag code (s.agent a).rings.cplPhase 0 (s.agent a).lapNow]
          ++ irqChange a (s.agent a) (t.agent a)) ∧
    ((s.agent a).canRead = true → (s.agent a).checkDesc d payload = none → d.mode = 4 →
      let hit := chunkMatches d.collId d.step d.chunk d.scale
      ((s.agent a).chunkRoom d.collId d.step d.chunk d.scale = true → (∀ c ∈ (s.agent a).chunks, hit c = true → c.own = none) →
        ∃ t c, exec (.injectDescriptor a d payload) s = .next t ∧
          (t.agent a).rings.injHead = (s.agent a).rings.injHead + 1 ∧ (t.agent a).srcs = (s.agent a).srcs ∧
          c ∈ (t.agent a).chunks ∧ c.dest = d.dest ∧ c.tag = d.tag ∧ c.rank = d.rank ∧ c.own =
            some { rank := d.rank, elems := (descSwage d payload).elems, ovf := (descSwage d payload).ovf
                   scale := (descSwage d payload).scale }) ∧
      ((s.agent a).chunkRoom d.collId d.step d.chunk d.scale = false →
        exec (.injectDescriptor a d payload) s = .next (s.setAgent a (s.agent a)))) ∧
    ((s.agent a).canRead = true → (s.agent a).checkDesc d payload = none → d.mode ≠ 4 →
      ∃ t, exec (.injectDescriptor a d payload) s = .next t ∧
        (t.agent a).rings.injHead = (s.agent a).rings.injHead + 1 ∧
        ((t.agent a).srcFlow (flowKeyOf ((s.agent a).descPkt d payload))).isSome = true)

/-- TREE_PART_RECEIVE takes the first accepted part to its chunk's record: a part of a named child that is not there yet
joins the parts, and one that is there already changes no record (R266, R372). TREE_SUM_FORMED, for a record with its own
part and every named child whose flow has or finds a record (R337), writes the sum into its frame of the sum region,
addressed to the parent, and keeps it as sent (R265, R372). Forms that complete here, each with a next state given under
hypotheses on state and operands alone: treePartReceive, treeSumFormed. -/
def Obligations.TreePartsAndSums : Prop :=
  ∀ (a : Nat) (s : State), (s.agent a).inReset = false →
    (∀ p rest h, takeFirst isTreePart (s.agent a).inbox = some (p, rest) → pktHdr p = some h →
      let hit := chunkMatches h.collId h.step h.chunk h.scale
      ∀ c, (s.agent a).chunks.find? hit = some c →
        (c.sent = none → c.own.isSome = true → c.children.contains h.rank = true → (∀ x ∈ c.parts, x.rank ≠ h.rank) →
          ∃ t, exec (.treePartReceive a) s = .next t ∧ (t.agent a).inbox = rest ∧
            (t.agent a).chunks = modFirst hit (fun c => { c with parts := c.parts ++
              [{ rank := h.rank, elems := swageElems (pktPayload p) (plenBytes h.plen / 8), ovf := h.ovf, scale := h.scale }] })
                (s.agent a).chunks) ∧
        ((∃ x ∈ c.parts, x.rank = h.rank) → ∃ t, exec (.treePartReceive a) s = .next t ∧ (t.agent a).inbox = rest ∧
          (t.agent a).chunks = (s.agent a).chunks)) ∧
    (∀ c, (s.agent a).chunks.find? (s.agent a).sumReady = some c →
      ∃ t p es, exec (.treeSumFormed a) s = .next t ∧ p = (s.agent a).sumBillet c ∧ p.c.dst = c.dest ∧
        t.out = s.out ++ .sumFrame a p :: es ∧ (t.agent a).chunks = modFirst (s.agent a).sumReady
          (fun x => { x with sent := some p }) (s.agent a).chunks)

/-- Parts of one length and scale give the same sum, elements and overflow marks, in whichever order two of them are added
(R265). -/
def Obligations.SwageSumIgnoresOrder : Prop :=
  ∀ (u v w : Swage), u.elems.length = v.elems.length → v.elems.length = w.elems.length →
    u.scale = v.scale → v.scale = w.scale →
    (addSwage (addSwage u v) w).elems = (addSwage (addSwage u w) v).elems ∧
    (addSwage (addSwage u v) w).ovf = (addSwage (addSwage u w) v).ovf

/-- DELIVERY_ROOM_RESUME writes a notice that waits alone once the tally delivery ring has room, and changes nothing while
nothing that waits has room (R368, R369). DLV_STALL sets bit 7 of INT_STAT while a billet waits for a buffer, and nothing
otherwise (Table 9-15); AGENT_IRQ follows. A barrier at an agent (R291): TIMED_RELEASE passes the step that is guarded when
its lap is reached after the rank has arrived, and changes no guard before. PACE_RELEASE of a step passed by fallback is not
delivered, and any other is delivered or waits for room; its FALLBACK_LAP guards the step after it, unless a later step is
guarded or that step has been passed. Forms that complete here, each with a next state given under hypotheses on state and
operands alone: deliveryRoomResume, dlvStall, timedRelease, paceRelease. -/
def Obligations.DeliveriesAndBarriers : Prop :=
  (
    ∀ (a : Nat) (s : State), (s.agent a).inReset = false →
      (∀ w ws, (s.agent a).room = [.notice w ws] → (s.agent a).rings.tdlvRoom = true →
        ∃ t, exec (.deliveryRoomResume a) s = .next t ∧ (t.agent a).room = [] ∧
          (t.agent a).rings.tdlvTail = (s.agent a).rings.tdlvTail + 1 ∧
          t.out = s.out ++ [.noticeTo a (s.agent a).rings.tdlvTail w ws (s.agent a).rings.tdlvPhase (s.agent a).lapNow]
            ++ irqChange a (s.agent a) (t.agent a)) ∧
      ((∀ d ∈ (s.agent a).room, (s.agent a).roomFor d = false) →
        ∃ t, exec (.deliveryRoomResume a) s = .next t ∧ t.agent a = s.agent a ∧ t.out = s.out) ∧
      ((s.agent a).stalled = true → ∃ t, exec (.dlvStall a) s = .next t ∧
        t.agent a = { s.agent a with rings := (s.agent a).rings.raise 7 } ∧
        t.out = s.out ++ irqChange a (s.agent a) (t.agent a)) ∧
      ((s.agent a).stalled = false → exec (.dlvStall a) s = .next (s.setAgent a (s.agent a)))) ∧ (
    ∀ (a : Nat) (barrier : BitVec 32) (x : Guard) (s : State), (s.agent a).inReset = false →
      (s.agent a).guardOf barrier = some x →
      (x.fallback ≠ 0 → x.arrived = true → x.fallback.toNat ≤ (s.agent a).lapNow.toNat / 16 →
        ∃ t, exec (.timedRelease a barrier) s = .next t ∧ (t.agent a).guardOf barrier =
          some { x with passed := x.step :: x.passed, timed := true, fallback := 0, arrived := false }) ∧
      ((x.arrived = false ∨ (s.agent a).lapNow.toNat / 16 < x.fallback.toNat) →
        ∃ t, exec (.timedRelease a barrier) s = .next t ∧ (t.agent a).guardOf barrier = some x) ∧
      (∀ p rest, takeFirst (fun p => !isBillet p && p.c.type == tPaceRelease) (s.agent a).inbox = some (p, rest) →
        field (pktTally p) 0 32 = barrier →
        let step : BitVec 32 := field (pktTally p) 32 32
        ∃ t y, exec (.paceRelease a) s = .next t ∧ (t.agent a).inbox = rest ∧ (t.agent a).guardOf barrier = some y ∧
          (seqLater x.step (step + 1) = false → x.passed.contains (step + 1) = false →
            y.step = step + 1 ∧ y.fallback = field (pktTally p) 64 64 ∧ y.passed = x.passed) ∧
          (seqLater x.step (step + 1) = true ∨ x.passed.contains (step + 1) = true → y = x) ∧
          (x.passed.contains step = true → t.out = s.out ∧ (t.agent a).room = (s.agent a).room) ∧
          (x.passed.contains step = false → (t.agent a).room = (s.agent a).room ++ [.packet p] ∨
            (t.agent a).rings.tdlvTail = (s.agent a).rings.tdlvTail + 1)))

/-- DISCOVER_QUERY at an agent without an EID (R133): the agent takes NEW_EID, the manager's EID and the arrival port as
uplink, and stages an empty slot of epoch 1; an agent that has its EID keeps it and its slots. Forms that complete here,
each with a next state given under hypotheses on state and operands alone: discoverQuery. -/
def Obligations.DiscoveryQueryAdoptsOnce : Prop :=
  ∀ (a : Nat) (x : Arrived) (rest : List Arrived) (s : State), (s.agent a).inReset = false →
    takeTally tDiscoverQuery (s.agent a).arrived = some (x, rest) → tallyGood x.pkt = true → x.pkt.c.laneKey = mgrKey →
    ((s.agent a).eid = none → ∃ t, exec (.discoverQuery a) s = .next t ∧
      (t.agent a).eid = some (field (pktTally x.pkt) 21 18) ∧ (t.agent a).mgrEid = some x.pkt.c.src ∧
      (t.agent a).uplink = some x.port ∧ (t.agent a).slot0 = { Slot.reset with state := .staged, epoch := 1 } ∧
      (t.agent a).slot1 = Slot.reset) ∧
    (∀ e, (s.agent a).eid = some e → ∃ t, exec (.discoverQuery a) s = .next t ∧ (t.agent a).eid = some e ∧
      (t.agent a).slot0 = (s.agent a).slot0 ∧ (t.agent a).slot1 = (s.agent a).slot1)

/-! ## The manager's operations at an agent -/

/-- TBL_FLIP, TBL_RETIRE, TBL_SEED and TBL_STATE at an agent (R170, R251, R356): a flip makes the STAGED slot of its epoch
CURRENT and the other DRAINING, and starts the count of rejected billets again; a retire turns the DRAINING slot of its
epoch into a STAGED copy of the other with the next epoch; a seed gives an agent without a CURRENT and a DRAINING slot one
empty STAGED slot of its epoch, and changes no slot of any other; TBL_STATE changes no slot and no key, and a flip or a
retire of another epoch changes no slot. TABLE_BILLET with the manager's next packet: one that fails its checks, or of kinds
1 to 3 with no STAGED slot of its epoch, is counted as rejected and changes no table (R164); of kinds 1 to 3 every entry is
written to the STAGED slot of its epoch, and the discovery table goes (R164, R174); of kind 4 every entry is written to the
run table and of kind 5 to the attribute table. A CTRL body that Table 9-4 does not list changes no table, key or stamp
(R353). Which billets fail beyond the words of R164 is the model's choice (log entry 136). Forms that complete here, each
with a next state given under hypotheses on state and operands alone: tblFlip, tblRetire, tblState, tblSeed, tableBillet,
unlistedCtrlOp. -/
def Obligations.TableOperations : Prop :=
  (
    ∀ (a : Nat) (p : Pkt) (rest : List Pkt) (s : State), (s.agent a).inReset = false →
      (s.agent a).nextOrder = some (p, rest) → isTable p = false → ctrlUnlisted (pktTally p) = false →
      let g := s.agent a
      let e : BitVec 2 := field (pktTally p) 8 2
      (field (pktTally p) 0 8 = 0x01#8 → ∃ t, exec (.tblFlip a) s = .next t ∧ (t.agent a).rejected = 0 ∧
        (g.slot0.state = .staged → g.slot0.epoch = e →
          (t.agent a).slot0 = { g.slot0 with state := .current } ∧ (t.agent a).slot1.state = .draining) ∧
        (¬(g.slot0.state = .staged ∧ g.slot0.epoch = e) → g.slot1.state = .staged → g.slot1.epoch = e →
          (t.agent a).slot1 = { g.slot1 with state := .current } ∧ (t.agent a).slot0.state = .draining) ∧
        (¬(g.slot0.state = .staged ∧ g.slot0.epoch = e) → ¬(g.slot1.state = .staged ∧ g.slot1.epoch = e) →
          (t.agent a).slot0 = g.slot0 ∧ (t.agent a).slot1 = g.slot1)) ∧
      (field (pktTally p) 0 8 = 0x02#8 → ∃ t, exec (.tblRetire a) s = .next t ∧
        (g.slot0.state = .draining → g.slot0.epoch = e →
          (t.agent a).slot0 = { g.slot1 with state := .staged, epoch := g.slot1.epoch + 1 } ∧ (t.agent a).slot1 = g.slot1) ∧
        (¬(g.slot0.state = .draining ∧ g.slot0.epoch = e) → g.slot1.state = .draining → g.slot1.epoch = e →
          (t.agent a).slot1 = { g.slot0 with state := .staged, epoch := g.slot0.epoch + 1 } ∧ (t.agent a).slot0 = g.slot0) ∧
        (¬(g.slot0.state = .draining ∧ g.slot0.epoch = e) → ¬(g.slot1.state = .draining ∧ g.slot1.epoch = e) →
          (t.agent a).slot0 = g.slot0 ∧ (t.agent a).slot1 = g.slot1)) ∧
      (field (pktTally p) 0 8 = 0x03#8 → ∃ t, exec (.tblState a) s = .next t ∧ (t.agent a).slot0 = g.slot0 ∧
        (t.agent a).slot1 = g.slot1 ∧ (t.agent a).keys = g.keys) ∧
      (field (pktTally p) 0 8 = 0x04#8 → ∃ t, exec (.tblSeed a) s = .next t ∧
        ((g.slot0.state = .current ∨ g.slot0.state = .draining ∨ g.slot1.state = .current ∨ g.slot1.state = .draining) →
          (t.agent a).slot0 = g.slot0 ∧ (t.agent a).slot1 = g.slot1) ∧
        (¬(g.slot0.state = .current ∨ g.slot0.state = .draining ∨ g.slot1.state = .current ∨ g.slot1.state = .draining) →
          (t.agent a).slot0 = { Slot.reset with state := .staged, epoch := e } ∧ (t.agent a).slot1 = Slot.reset))) ∧ (
    ∀ (a : Nat) (p : Pkt) (rest : List Pkt) (s : State), (s.agent a).inReset = false →
      (s.agent a).nextOrder = some (p, rest) →
      let g := s.agent a
      let d := tableDesc (pktPayload p)
      (isTable p = true → tableBad d (pktPayload p) = true → exec (.tableBillet a) s = .next
        (s.setAgent a { g with inbox := rest, rejected := g.rejected + 1 })) ∧
      (isTable p = true → tableBad d (pktPayload p) = false → d.kind ≤ 3 →
        let es := tableEntries d ((tableShape d.kind).getD (1, 0)).1 (pktPayload p)
        (g.slot0.state = .staged → g.slot0.epoch = d.epoch → exec (.tableBillet a) s = .next
          (s.setAgent a { g with inbox := rest, discTab := [], slot0 := es.foldl (Slot.write d.kind) g.slot0 })) ∧
        (¬(g.slot0.state = .staged ∧ g.slot0.epoch = d.epoch) → g.slot1.state = .staged → g.slot1.epoch = d.epoch →
          exec (.tableBillet a) s = .next
            (s.setAgent a { g with inbox := rest, discTab := [], slot1 := es.foldl (Slot.write d.kind) g.slot1 })) ∧
        (¬(g.slot0.state = .staged ∧ g.slot0.epoch = d.epoch) → ¬(g.slot1.state = .staged ∧ g.slot1.epoch = d.epoch) →
          exec (.tableBillet a) s = .next (s.setAgent a { g with inbox := rest, rejected := g.rejected + 1 }))) ∧
      (isTable p = true → tableBad d (pktPayload p) = false → d.kind = 4 → exec (.tableBillet a) s = .next
        (s.setAgent a { g with inbox := rest, runs := (tableEntries d 4 (pktPayload p)).foldl (fun t e => putEntry t e.1 e.2) g.runs })) ∧
      (isTable p = true → tableBad d (pktPayload p) = false → d.kind = 5 → ∃ t, exec (.tableBillet a) s = .next t ∧
        (t.agent a).rejected = g.rejected ∧ (t.agent a).slot0 = g.slot0 ∧ (t.agent a).slot1 = g.slot1 ∧
        (t.agent a).runs = g.runs ∧ (t.agent a).keys = g.keys ∧
        (t.agent a).attrs = (tableEntries d 1 (pktPayload p)).foldl (fun t e => putEntry t e.1 e.2) g.attrs) ∧
      (isTable p = false → ctrlUnlisted (pktTally p) = true → ∃ t, exec (.unlistedCtrlOp a) s = .next t ∧
        (t.agent a).inbox = rest ∧ (t.agent a).slot0 = g.slot0 ∧ (t.agent a).slot1 = g.slot1 ∧ (t.agent a).runs = g.runs ∧
        (t.agent a).attrs = g.attrs ∧ (t.agent a).keys = g.keys ∧ (t.agent a).bridge = g.bridge ∧ (t.agent a).stamp = g.stamp))

/-- FENCE at an endpoint build sets FENCED, keeps the rest of the assignment, and empties entry 16 of the lane key table,
whose keys it keeps as not withdrawn (R88, R216); UNFENCE clears FENCED and keeps the rest of the assignment and entry 16
(R353). At a switch build neither changes a key entry, which is the model's choice (log entry 137). ADMIT writes ADMIT_STAMP
and changes neither slot 0 nor a key (R357); BRIDGE_SET writes a valid entry without reserved bits on an endpoint build, and
none on a switch build (R374); FLOW_CLEAR leaves no record that it names, flows to the manager apart (R354); COLL_RETRY
leaves chunk records, slot 0 and keys as they are (R358); PORT_HOLD holds every port of its mask that lanes are tied to,
with width 0, or lets a held one train, but one that is down for a changed identity stays so (R130, Table 9-4). Forms that
complete here, each with a next state given under hypotheses on state and operands alone: fence, unfence, ctlAdmit,
bridgeSet, flowClear, collRetry, portHold. -/
def Obligations.ControlOperationsAtAnAgent : Prop :=
  (
    ∀ (a : Nat) (p : Pkt) (rest : List Pkt) (s : State), (s.agent a).inReset = false →
      (s.agent a).nextOrder = some (p, rest) → isTable p = false → ctrlUnlisted (pktTally p) = false →
      (field (pktTally p) 0 8 = 0x05#8 → (s.agent a).isSwitch = false → ∃ t, exec (.fence a) s = .next t ∧
        (t.agent a).fenced = true ∧ (t.agent a).assignment = (s.agent a).assignment ||| 2#256 ∧ (t.agent a).keyEntry 16 = 0 ∧
        ((s.agent a).keyEntry 16 ≠ 0 → (t.agent a).fencedKeys = (s.agent a).keyEntry 16)) ∧
      ((s.agent a).isSwitch = true → ∃ t u, exec (.fence a) s = .next t ∧ (t.agent a).keys = (s.agent a).keys ∧
        exec (.unfence a) s = .next u ∧ (u.agent a).keys = (s.agent a).keys) ∧
      (field (pktTally p) 0 8 = 0x06#8 → (s.agent a).isSwitch = false → ∃ t, exec (.unfence a) s = .next t ∧ (t.agent a).fenced = false ∧
        (t.agent a).assignment = (s.agent a).assignment &&& ~~~(2#256) ∧
        (t.agent a).keyEntry 16 = (s.agent a).keyEntry 16)) ∧ (
    ∀ (a : Nat) (p : Pkt) (rest : List Pkt) (s : State), (s.agent a).inReset = false →
      (s.agent a).nextOrder = some (p, rest) → isTable p = false → ctrlUnlisted (pktTally p) = false →
      let g := s.agent a
      let b := pktTally p
      (field b 0 8 = 0x09#8 → ∃ t, exec (.ctlAdmit a) s = .next t ∧ (t.agent a).stamp = field b 8 64 ∧
        (t.agent a).slot0 = g.slot0 ∧ (t.agent a).keys = g.keys) ∧
      (field b 0 8 = 0x0B#8 → ∃ t, exec (.bridgeSet a) s = .next t ∧
        (g.isSwitch = true → (t.agent a).bridge = g.bridge) ∧
        (g.isSwitch = false → field (field b 11 64 : BitVec 64) 50 14 = 0#14 → b.getLsbD 11 = true →
          tget (t.agent a).bridge (field b 8 3).toNat = some (field b 11 64))) ∧
      (field b 0 8 = 0x0A#8 → ∃ t, exec (.flowClear a) s = .next t ∧
        (b.getLsbD 40 = true → ∀ d ∈ (t.agent a).dsts, clearMatches b d.key d.key.src = false) ∧
        (b.getLsbD 39 = true → ∀ f ∈ (t.agent a).srcs, g.isMgrFlow f.key = false → clearMatches b f.key f.key.peer = false)) ∧
      (field b 0 8 = 0x07#8 → ∃ t, exec (.collRetry a) s = .next t ∧ (t.agent a).slot0 = g.slot0 ∧
        (t.agent a).keys = g.keys ∧ (t.agent a).chunks = g.chunks) ∧
      (field b 0 8 = 0x08#8 → b.getLsbD 24 = true → (∀ i, i < 16 → (field b 8 16).getLsbD i = true → i < g.portCount) →
        ∃ t, exec (.portHold a) s = .next t ∧ ∀ i, i < 16 → (field b 8 16).getLsbD i = true → (g.port i).instW ≠ 0 →
          ((t.agent a).port i).held = true ∧ ((t.agent a).port i).state = .held ∧ ((t.agent a).port i).width = 0) ∧
      (field b 0 8 = 0x08#8 → b.getLsbD 24 = false → (∀ i, i < 16 → (field b 8 16).getLsbD i = true → i < g.portCount) →
        ∃ t, exec (.portHold a) s = .next t ∧ ∀ i, i < 16 → (field b 8 16).getLsbD i = true → (g.port i).instW ≠ 0 →
          (g.port i).held = true → ((t.agent a).port i).held = false ∧
            ((t.agent a).port i).state = if (g.port i).shut then .idChanged else .training))

/-! ## The host interface -/

/-- CFG_COMMIT checks the shadows of the function together (R386): when REPLY_BASE, EVENT_LOG2, EVENT_BASE and the overlap
are good, all three become live, EVENT_HEAD and EVENT_TAIL return to 0 and PHASE to 1; otherwise nothing becomes live,
COMMIT_ERR is set, and COMMIT_FIELD is 1 just when REPLY_BASE is bad. A write of 0, or one that does not reach the function,
changes nothing of it, and no write changes another function. Forms that complete here, each with a next state given under
hypotheses on state and operands alone: cfgCommit. -/
def Obligations.FunctionCommit : Prop :=
  ∀ (n : Nat) (v : BitVec 64) (s : State), ∃ t, exec (.cfgCommit n v) s = .next t ∧
    (s.reaches n = false ∨ v.getLsbD 0 = false → t.fn n = s.fn n) ∧
    (s.reaches n = true → v.getLsbD 0 = true →
      let f := s.fn n
      let r := f.shadow.replyBase.toNat
      let e := f.shadow.eventBase.toNat
      let log2 := (field f.shadow.eventCfg 0 4).toNat
      let size := 32 * 2 ^ log2
      (r ≠ 0 ∧ r % 16384 = 0 ∧ 6 ≤ log2 ∧ log2 ≤ 14 ∧ e ≠ 0 ∧ e % size = 0 ∧ (e + size ≤ r ∨ r + 16384 ≤ e) →
        t.fn n = { f with live := f.shadow, committed := true, evHead := 0, evTail := 0, phase := true }) ∧
      (¬(r ≠ 0 ∧ r % 16384 = 0 ∧ 6 ≤ log2 ∧ log2 ≤ 14 ∧ e ≠ 0 ∧ e % size = 0 ∧ (e + size ≤ r ∨ r + 16384 ≤ e)) →
        t.fn n = { f with commitErr := true, commitField := (t.fn n).commitField } ∧
          ((t.fn n).commitField = 1 ↔ (r = 0 ∨ r % 16384 ≠ 0)))) ∧
    ∀ m, m ≠ n → t.fn m = s.fn m

/-- A write of 1 to CMD_EN or EVT_EN sets the bit with committed registers, and without them leaves it and sets ENABLE_ERR
(R387); a write of 0 clears it. Forms that complete here, each with a next state given under hypotheses on state and
operands alone: cmdEnWrite, evtEnWrite. -/
def Obligations.EnableWrites : Prop :=
  ∀ (n : Nat) (s : State), s.reaches n = true →
    exec (.cmdEnWrite n false) s = .next (s.modFn n fun f => { f with cmdEn := false }) ∧
    ((s.fn n).committed = false → exec (.cmdEnWrite n true) s = .next (s.modFn n fun f => { f with enableErr := true })) ∧
    ((s.fn n).committed = true → ∃ t, exec (.cmdEnWrite n true) s = .next t ∧ (t.fn n).cmdEn = true ∧
      (t.fn n).enableErr = (s.fn n).enableErr) ∧
    (∃ t, exec (.evtEnWrite n false) s = .next t ∧ t.fn n = { s.fn n with evtEn := false }) ∧
    ∃ t, exec (.evtEnWrite n true) s = .next t ∧
      t.fn n = if (s.fn n).committed then { s.fn n with evtEn := true } else { s.fn n with enableErr := true }

/-- EVT_LOST_READ returns the count and clears it, and changes nothing else (R12); after EVENT_HEAD_WRITE the register holds
what was written, and with no event lost nothing else changes (R397). EVENT_HEAD_WRITE that returns ring space after a loss,
with EVT_EN set: one EVENTS_LOST record with the count goes to EVENT_TAIL, which advances, the count since starts again, and
HOST_DMA_ERR tells of a write that fails on PCIe (R397). IRQ_GAP_EXPIRE (R396): with a message due it goes and begins the
next interval; with none due the interval ends, and without an interval nothing changes. A module without the grant sends
none, and its interval ends (R516). Forms that complete here, each with a next state given under hypotheses on state and
operands alone: evtLostRead, eventHeadWrite, irqGapExpire. -/
def Obligations.EventsAndInterrupts : Prop :=
  (
    ∀ (n : Nat) (s : State), s.reaches n = true →
      exec (.evtLostRead n) s = .next ((s.modFn n fun f => { f with evtLost := 0 }).emit [.regRead (s.fn n).evtLost]) ∧
      ∀ v, (∃ t, exec (.eventHeadWrite n v) s = .next t ∧ (t.fn n).evHead = v.toNat) ∧
        ((s.fn n).lostSince = 0 → exec (.eventHeadWrite n v) s = .next (s.modFn n fun f => { f with evHead := v.toNat }))) ∧ (
    ∀ (n : Nat) (v : BitVec 64) (s : State), s.reaches n = true → (s.fn n).evtEn = true → (s.fn n).lostSince ≠ 0 →
      ((s.fn n).evTail + 1) % (s.fn n).ring ≠ v.toNat % (s.fn n).ring →
      ∃ t, exec (.eventHeadWrite n v) s = .next t ∧ (t.fn n).lostSince = 0 ∧
        (t.fn n).evTail = ((s.fn n).evTail + 1) % (s.fn n).ring ∧
        (t.fn n).dmaErr = ((s.fn n).dmaErr || Config.hostFails s.free) ∧
        ((t.out.any fun e => match e with
          | .event m addr b => m == n && addr == (s.fn n).live.eventBase + BitVec.ofNat 64 (32 * (s.fn n).evTail) &&
              b == eventBytes { code := 8, heat := 0, tenant := 0, step := 0, detail := leBytes 4 (s.fn n).lostSince } (s.fn n).phase
          | _ => false) = true ∨ Config.hostFails s.free = true)) ∧ (
    ∀ (n v : Nat) (f : Fn) (s : State), tget s.hif.fns n = some f → ∃ t, exec (.irqGapExpire n v) s = .next t ∧
      ((f.irq v).gapOpen = true → (f.irq v).due = true → s.ember.grant = true →
        t.out = s.out ++ [.msix n v] ∧ ((t.fn n).irq v).gapOpen = true ∧ ((t.fn n).irq v).due = false) ∧
      ((f.irq v).gapOpen = true → ((f.irq v).due = false ∨ s.ember.grant = false) → t.out = s.out ∧ ((t.fn n).irq v).gapOpen = false) ∧
      ((f.irq v).gapOpen = false → t = s))

/-- A function-level reset returns one function's registers, window and sequence records to reset and mutes the replies of
its commands (R384), and changes nothing else; PERST_N does so for every function and resets nothing else but the PCIe port,
which is out of reset again after it deasserts (R551). Forms that complete here, each with a next state given under
hypotheses on state and operands alone: functionLevelReset, perstN, perstNDeassert. -/
def Obligations.PcieResets : Prop :=
  ∀ s : State,
    (∀ n, (tget s.hif.fns n).isSome = true → ∃ t, exec (.functionLevelReset n) s = .next t ∧ t.fn n = Fn.reset true ∧
      (∀ m, m ≠ n → t.fn m = s.fn m) ∧ t = { s with hif := { s.hif with
        fns := t.hif.fns, cmds := s.hif.cmds.map fun c => if c.src = .fn n then { c with mute := true } else c } }) ∧
    (∃ t, exec .perstN s = .next t ∧ t.boot.perst = true ∧ t = { s with hif := t.hif, boot := t.boot } ∧
      t.boot = { s.boot with perst := true } ∧ (∀ n, (tget s.hif.fns n).isSome = true → t.fn n = Fn.reset true) ∧
      t.hif = { s.hif with fns := t.hif.fns, cmds := s.hif.cmds.map fun c => match c.src with
        | .fn n => if (tget s.hif.fns n).isSome = true then { c with mute := true } else c
        | .session _ => c }) ∧
    exec .perstNDeassert s = .next { s with boot := { s.boot with perst := false } }

/-- REGISTER_WRITE into BAR0 of a function: into the command window with CMD_EN 0 it changes those bytes of the window alone
(R390); REPLY_BASE, EVENT_BASE and EVENT_CFG take the value in their shadows, and the live values stay (R386); FN_STAT loses
what is written as 1 (R12), the MSI-X table takes what is written, and 0x4040 to 0x7FFF ignore writes (R385). REGISTER_WRITE
into BAR2 and of VF Enable (R12, R381, R384, R388): ID_CHANGED of a LINK_STAT is cleared by a write of 1; QUOTE_ADDR and
QUOTE_LEN take what is written and QUOTE_TENANT its low 10 bits; VF Enable 0 leaves PF0 as it is and no VF present, and VF
Enable 1 the VFs up to NumVFs, with nothing but the host interface changed. A write that PCIe does not carry changes
nothing. Forms that complete here, each with a next state given under hypotheses on state and operands alone: registerWrite.
-/
def Obligations.RegisterWrites : Prop :=
  (
    ∀ (n : Nat) (s : State), s.reaches n = true →
      (∀ off bytes, off < 0x4000 → (s.fn n).cmdEn = false → ∃ t, exec (.registerWrite (.window n off bytes)) s = .next t ∧
        t = { s with hif := t.hif } ∧ t.hif.cmds = s.hif.cmds ∧ t.fn n = { s.fn n with window := (t.fn n).window } ∧
        ∀ i, i < 0x4000 → (tget (t.fn n).window i).getD 0 =
          if off ≤ i ∧ i < off + bytes.length then (bytes[i - off]?).getD 0 else (tget (s.fn n).window i).getD 0) ∧
      (∀ v : BitVec 64, ∃ t, exec (.registerWrite (.bar0 n 0x4018 v)) s = .next t ∧ t = { s with hif := t.hif } ∧
        t.fn n = { s.fn n with shadow := { (s.fn n).shadow with replyBase := v } }) ∧
      (∀ v : BitVec 64, ∃ t, exec (.registerWrite (.bar0 n 0x4020 v)) s = .next t ∧ t = { s with hif := t.hif } ∧
        t.fn n = { s.fn n with shadow := { (s.fn n).shadow with eventBase := v } }) ∧
      (∀ v : BitVec 64, ∃ t, exec (.registerWrite (.bar0 n 0x4028 v)) s = .next t ∧ t = { s with hif := t.hif } ∧
        t.fn n = { s.fn n with shadow := { (s.fn n).shadow with eventCfg := v &&& 0xFFF#64 } }) ∧
      (∀ v : BitVec 64, ∃ t, exec (.registerWrite (.bar0 n 0x4010 v)) s = .next t ∧ t = { s with hif := t.hif } ∧
        t.fn n = (s.fn n).clearStat v) ∧
      (∀ k v, k < 4 → exec (.registerWrite (.bar0 n (0x8000 + 8 * k) v)) s =
        .next (s.modFn n fun f => { f with msix := tset f.msix (0x8000 + 8 * k) v })) ∧
      ∀ off v, 0x4040 ≤ off → off < 0x8000 → exec (.registerWrite (.bar0 n off v)) s = .next s) ∧ (
    ∀ s : State,
      (s.pcieUp = false → (∀ off v, exec (.registerWrite (.bar2 off v)) s = .next s) ∧
        (∀ e k, exec (.registerWrite (.vfs e k)) s = .next s) ∧ ∀ n off v, exec (.registerWrite (.bar0 n off v)) s = .next s) ∧
      (s.pcieUp = true →
        (∀ p v, p < 256 → (tget s.link.ports p).isSome = true → ∃ t, exec (.registerWrite (.bar2 (8 * p) v)) s = .next t ∧
          t = { s with link := { s.link with ports := t.link.ports } } ∧
          t.link.port p = { s.link.port p with idChanged := (s.link.port p).idChanged && !v.getLsbD 25 }) ∧
        (∀ v, exec (.registerWrite (.bar2 0x00F00020 v)) s = .next { s with trust := { s.trust with quoteAddr := v } }) ∧
        (∀ v, exec (.registerWrite (.bar2 0x00F00028 v)) s = .next { s with trust := { s.trust with quoteLen := v } }) ∧
        (∀ v, exec (.registerWrite (.bar2 0x00F00040 v)) s =
          .next { s with trust := { s.trust with quoteTenant := v &&& 0x3FF#64 } }) ∧
        (∀ k, ∃ t, exec (.registerWrite (.vfs false k)) s = .next t ∧ t = { s with hif := t.hif } ∧ t.fn 0 = s.fn 0 ∧
          ∀ n, 0 < n → t.fn n = Fn.reset false) ∧
        ∀ k, ∃ t, exec (.registerWrite (.vfs true k)) s = .next t ∧ t = { s with hif := t.hif } ∧
          ∀ n, 0 < n → (tget t.hif.fns n).isSome = decide (n ≤ min k 1024)))

/-- A host command that does not pass its checks ends with the reply that they give, and nothing else is done; one that is
not waiting, is of another opcode, or may not start yet is left alone (R383, R393, R399, R404, R405). An encoding that Table
10-8 does not list ends with S_BAD_ARG and ARG_OFFSET 4, the OPCODE field (R398, R399). Forms that complete here, each with
a next state given under hypotheses on state and operands alone: unlistedOpcode. -/
def Obligations.CommandsAreChecked : Prop :=
  (
    ∀ (i : Instr) (id : Nat) (op : BitVec 16) (s : State), i.hostOp = some (id, op) →
      (∀ c a, s.cmd id = some c → c.opcode = op → s.mayStart c = true → s.precheck c = some a →
        exec i s = .next ((s.markStarted id).reply id a)) ∧
      ((∀ c, s.cmd id = some c → ¬(c.opcode = op ∧ s.mayStart c = true)) → exec i s = .next s)) ∧ (
    ∀ (id : Nat) (c : Cmd) (s : State), s.cmd id = some c → sourcesOf c.opcode = none → s.mayStart c = true →
      exec (.unlistedOpcode id) s = .next ((s.markStarted id).reply id (bad 4)))

/-- A reply ends its command (R391, R394, R395): in a session whose port carries messages it leaves with its data as one
message (R453); a function's, with the grant held, leaves its slot free and is written, with HOST_DMA_ERR where that fails
on PCIe, and so is the data that goes with it; of a function that was reset since, the command alone ends (R384). -/
def Obligations.RepliesEndCommands : Prop :=
  ∀ (id : Nat) (c : Cmd) (a : Ans) (s : State), s.cmd id = some c →
    (c.mute = true → s.reply id a = s.dropCmd id) ∧
    (∀ i x, c.mute = false → c.src = .session i → s.trust.sessions.filter (fun y => y.id == i && y.opened) = [x] →
      s.carries x = true →
      (s.reply id a).out = s.out ++ x.message 5 (replyBytes c a s.lap ++ a.data) ∧
      (s.reply id a).hif = (s.dropCmd id).hif) ∧
    ∀ n f, c.mute = false → c.src = .fn n → tget s.hif.fns n = some f → f.later = [] → s.ember.grant = true →
      ((s.reply id a).fn n).busy = f.busy.filter (· != c.slot) ∧ (s.reply id a).hif.cmds = (s.dropCmd id).hif.cmds ∧
      (a.data = [] →
        if Config.hostFails s.free = true then ((s.reply id a).fn n).dmaErr = true
        else ∀ w ∈ replyWrites n (f.replyAt c.slot) (replyBytes c a s.lap), w ∈ (s.reply id a).out) ∧
      (a.data ≠ [] → Config.hostFails s.free = false → .dma c.dataAddr a.data ∈ (s.reply id a).out)

/-! ## Power-on, the bellows and the restarts -/

/-- Step 1 of power-on (R411, R447, R467, R554). With the input switch closed POWER_ON begins a new block of both index
areas, puts every page of the memory tiers under quench, counts the power cycle (R19) and sends GRANT_QUERY at the end of
the step; step 2 comes next where the grant is there, and the wait for it where not. In that wait GRANT_QUERY_RETRY sends
the query again, FABRIC_GRANT begins step 2, and STANDBY begins standby. INPUT_SWITCH_CLOSE closes the switch of a module
that is off. STANDBY takes the grant from the module that holds it (R516): every Chrohar port has width 0 and its
transmitters are in electrical idle, and nothing of the manager's model, of the bring-up or of the memory tiers changes.
Forms that complete here, each with a next state given under hypotheses on state and operands alone: powerOn,
inputSwitchClose, grantQueryRetry, fabricGrant, standby. -/
def Obligations.PowerOnBeginsAndGrantLost : Prop :=
  (
    ∀ s : State,
      (s.boot.stage = .off → s.boot.switchOn = true → ∃ t, exec .powerOn s = .next t ∧ t.out.getLast? = some (.i3c 7 []) ∧
        t.mem.sets = quenchedSets ∧ t.trust.powerCycles = s.trust.powerCycles + 1 ∧ t.boot.stage = (if s.ember.grant then .pllWait else .grantWait) ∧
        t.trust.identity = { s.trust.identity with next := s.trust.identity.blockEnd, fresh := true } ∧
        t.trust.attest = { s.trust.attest with next := s.trust.attest.blockEnd, fresh := true }) ∧
      (s.boot.stage = .off → exec .inputSwitchClose s = .next { s with boot := { s.boot with switchOn := true } }) ∧
      (s.boot.stage = .grantWait → exec .grantQueryRetry s = .next (s.emit [.i3c 7 []])) ∧
      (s.boot.stage = .grantWait → s.ember.grant = false → ∃ t, exec .fabricGrant s = .next t ∧ t.ember.grant = true ∧
        t.ember.active = true ∧ t.boot = { s.boot with stage := .pllWait }) ∧
      (s.boot.stage = .grantWait → s.ember.grant = false →
        exec .standby s = .next { s with boot := { s.boot with stage := .standby } })) ∧ (
    ∀ s : State, s.ember.grant = true → ∃ t, exec .standby s = .next t ∧ t.ember.grant = false ∧ t.ember.active = false ∧
      t.mgr = s.mgr ∧ t.boot = s.boot ∧ t.mem = s.mem ∧
      t.out = s.out ++ (tkeys s.link.ports).map (fun p => .portIdle .chrohar p true) ∧
      (∀ p, (t.link.port p).width = 0) ∧ ∀ p q, tget t.link.ports p = some q → q.idle = true)

/-- PLL lock latches the straps, brings up the ember links and starts the recorder, whose window begins at the operating
second (R414, R505, R552). A fuse map that fails its CRC-32C, holds more than 2,048 records or one of a reserved class stops
power-on; a good one begins the bellows at wave 1 (R422). CONFIG_READ_DONE puts the valid slot with the higher CFG_SEQ in
force, slot 0 when both are equal, the reset configuration when none is valid, and the record of it (R406). The start-up
tests (R411, R424, R425, R428): a unit that fails counts as bad from then on. The link test is followed, with the
configuration read, by the Chrohar ports as the record installs them; it may end after the manager has begun. The compute
test leaves the grade, whether any role is unfilled, and COMPUTE_HELD where no image may run. Once firmware has booted after
the compute-domain test, with the configuration read, hub service begins (R412): the manager is ready, the first discovery
begins if it may, what waited for service is noticed, and the manager goes to work. Said of a module that is neither taking
over, nor streaming to a standby, nor ending an activation. Forms that complete here, each with a next state given under
hypotheses on state and operands alone: pllLock, fuseMapLoaded, configReadDone, linkTestDone, computeTestDone, managerReady.
-/
def Obligations.PowerOnToTheManager : Prop :=
  (
    ∀ s : State,
      (s.boot.stage = .pllWait → ∃ t, exec .pllLock s = .next t ∧ t.boot.stage = .fuseWait ∧ t.boot.pllLock = true ∧
        t.boot.strapsLatched = true ∧ t.boot.strap = Config.strapPins ∧ t.rcd.running = true ∧ t.ember.up0 = true ∧ t.ember.up1 = true ∧
        t.rcd.win.start = s.trust.operatingS.toNat) ∧
      (∀ recs crc, s.boot.stage = .fuseWait →
        (recs.length ≤ 2048 ∧ crc32c (recs.flatMap bvBytes) = crc ∧ (∀ r ∈ recs, 1 ≤ unitClass r ∧ unitClass r ≤ 7) →
          exec (.fuseMapLoaded recs crc) s =
            .next { s with boot := { s.boot with fuse := recs, fuseOk := true, stage := .bellows, substep := 1 } }) ∧
        (¬(recs.length ≤ 2048 ∧ crc32c (recs.flatMap bvBytes) = crc ∧ (∀ r ∈ recs, 1 ≤ unitClass r ∧ unitClass r ≤ 7)) →
          ∃ t, exec (.fuseMapLoaded recs crc) s = .next t ∧ t.boot = { s.boot with stage := .fuseStop })) ∧
      (s.boot.configRead = false → s.boot.fuseOk = true → ∃ t, exec .configReadDone s = .next t ∧ t.boot.configRead = true ∧
        t.mgr.record = t.cfg.live.record ∧
        (s.cfg.flashA.any CfgSlot.valid = false → s.cfg.flashB.any CfgSlot.valid = false → t.cfg.live = Stored.reset) ∧
        (∀ a, s.cfg.flashA = some a → a.valid = true → s.cfg.flashB.any CfgSlot.valid = false → t.cfg.live = a.body) ∧
        (∀ b, s.cfg.flashA.any CfgSlot.valid = false → s.cfg.flashB = some b → b.valid = true → t.cfg.live = b.body) ∧
        ∀ a b, s.cfg.flashA = some a → a.valid = true → s.cfg.flashB = some b → b.valid = true →
          t.cfg.live = if a.seq < b.seq then b.body else a.body)) ∧ (
    ∀ (failing : List (BitVec 32)) (s : State), s.boot.stage = .bellows ∨ s.boot.stage = .running →
      (3 ≤ s.boot.wave → s.boot.configRead = true → s.boot.linkTest = false → s.link.ports = [] → ∃ t, exec (.linkTestDone failing) s = .next t ∧
        t.boot.linkTest = true ∧ (∀ r ∈ failing, unitClass r = 7 → r ∈ t.boot.badUnits) ∧
        tkeys t.link.ports = tkeys (installedPorts s.mgr.record)) ∧
      (s.boot.stage = .bellows → s.boot.wave = 8 → s.boot.computeTest = false → ∃ t, exec (.computeTestDone failing) s = .next t ∧
        t.boot.computeTest = true ∧ (∀ r ∈ failing, unitClass r ≠ 7 → r ∈ t.boot.badUnits) ∧
        t.boot.grade = (t.allUnfilled != 0) ∧ (t.fw.noImage = true → t.boot.computeHeld = true))) ∧ (
    ∀ s : State, s.boot.stage = .bellows → s.boot.computeTest = true → s.boot.configRead = true → s.boot.computeHeld = false →
      s.boot.partialReset = none → s.ember.takeover = false → s.ember.streams = false → s.fw.activating = none →
      exec .managerReady s =
        .next (({ s with boot := { s.boot with mgrReady := true, stage := .running } } : State).firstDiscovery.startTakeover.noticeLater).settle)

/-- The bellows (R416 to R420, R517): sub-steps come one by one, and a settled wave begins the next, but for wave 2, which
waits for coolant, and after wave 8; a standby's one wave has 2 sub-steps. The trust die copies BRINGUP_STAT (R429). A wave
that fails waits to be tried once more, and its second failure halts the bellows, with the rail's code. What ends the waits
of the bellows (R419, R420): BELLOWS_RETRY_EXPIRE begins the failed wave again, coolant that comes begins wave 2, and
COOLANT_WAIT_TIMEOUT halts the bellows with rail code 6. Forms that complete here, each with a next state given under
hypotheses on state and operands alone: bellowsSubstep, waveSettled, waveFail, bellowsRetryExpire, coolantWaitTimeout,
coolantOk. -/
def Obligations.BellowsAtWork : Prop :=
  (
    (∀ s : State, s.bellowing = true → s.boot.standbyWave = true →
      (s.boot.substep = 1 → exec .bellowsSubstep s = .next { s with boot := { s.boot with substep := 2 } }) ∧
      (s.boot.substep = 2 → ∃ t, exec .waveSettled s = .next t ∧
        t.boot = { s.boot with standbyUp := true, substep := 0, failedOnce := false } ∧ t.trust.bringupCopy = t.bringupStat)) ∧
    ∀ s : State, s.bellowing = true → s.boot.standbyWave = false →
      (1 ≤ s.boot.substep → s.boot.substep < subSteps (s.boot.wave + 1) →
        exec .bellowsSubstep s = .next { s with boot := { s.boot with substep := s.boot.substep + 1 } }) ∧
      (s.boot.substep = subSteps (s.boot.wave + 1) → ∃ t, exec .waveSettled s = .next t ∧ t.boot.wave = s.boot.wave + 1 ∧
        t.boot.failedOnce = false ∧ t.boot.substep = (if s.boot.wave = 7 ∨ (s.boot.wave = 0 ∧ s.boot.coolant = false) then 0 else 1) ∧
        t.trust.bringupCopy = t.bringupStat ∧ field t.trust.bringupCopy 0 4 = BitVec.ofNat 4 (s.boot.wave + 1)) ∧
      (∀ rail, 1 ≤ s.boot.substep → 1 ≤ rail → rail ≤ 5 → s.boot.failedOnce = false → ∃ t, exec (.waveFail rail) s = .next t ∧
        t.boot = { s.boot with failedOnce := true, retried := true, retryWait := true, substep := 0 } ∧
        t.trust.bringupCopy = t.bringupStat) ∧
      (∀ rail, 1 ≤ s.boot.substep → 1 ≤ rail → rail ≤ 5 → s.boot.failedOnce = true → ∃ t, exec (.waveFail rail) s = .next t ∧
        t.boot = { s.boot with halted := true, haltRail := rail, substep := 0 } ∧ t.trust.bringupCopy.getLsbD 4 = true ∧
        field t.trust.bringupCopy 5 3 = BitVec.ofNat 3 rail)) ∧ (
    ∀ s : State,
      (s.boot.retryWait = true → exec .bellowsRetryExpire s = .next { s with boot := { s.boot with retryWait := false, substep := 1 } }) ∧
      (s.waitsCoolant = true → ∃ t, exec .coolantWaitTimeout s = .next t ∧
        t.boot = { s.boot with halted := true, haltRail := 6 }) ∧
      ∀ flow inlet, s.boot.stage ≠ .off → ∃ t, exec (.coolantOk flow inlet) s = .next t ∧ t = { s with boot := t.boot } ∧
        t.boot = { s.boot with coolant := true, coolFlow := flow, idleOrder := false,
                               substep := if s.waitsCoolant then 1 else s.boot.substep })

/-- A loss of clocks, of the input or of a rail, a trip, and the restart after one stop every die but the trust die (R415,
R542, R545, R547): the model, the hub and the functions are at reset, the recorder's window is gone, every page of the
memory tiers is under quench, and no key generation and no session is left. The agents, the power-cycle count and
configuration slot 0 stay, and so do the recorder's records, but for a record write or a clear that a power loss cuts
(R507). Bring-up stands where the cause says: without input power, in a rail hold, tripped, or at step 2, in standby without
the grant. Forms that complete here, each with a next state given under hypotheses on state and operands alone: lockLost,
inputFault, railFault, thermalTrip, thermalTripRestart. -/
def Obligations.DiesStop : Prop :=
  let stopped (s t : State) : Prop := t.mgr = Mgr.reset ∧ t.hub = Hub.reset ∧
    t.hif = { HostIf.reset with nextId := s.hif.nextId } ∧ t.rcd.running = false ∧ t.rcd.win = Win.reset ∧
    t.mem.sets = quenchedSets ∧ t.trust.gens = [] ∧ t.trust.sessions = [] ∧ t.lap = 0 ∧ t.agents = s.agents ∧
    t.trust.powerCycles = s.trust.powerCycles ∧ t.cfg.flashA = s.cfg.flashA
  let kept (s t : State) : Prop := t.rcd.first = s.rcd.first ∧ t.rcd.last = s.rcd.last
  ∀ s : State,
    (s.boot.pllLock = true → ∃ t, exec .lockLost s = .next t ∧ stopped s t ∧ kept s t ∧ t.boot.restarts = s.boot.restarts + 1 ∧
      t.boot.stage = if s.ember.grant then .pllWait else .standby) ∧
    (∀ cause mv, s.boot.switchOn = true → ∃ t, exec (.inputFault cause mv) s = .next t ∧ stopped s t ∧ t.boot.stage = .off ∧
      t.boot.switchOn = false ∧ t.ember.grant = false ∧ (s.rcd.writing = none → s.hif.cmds = [] → kept s t)) ∧
    (∀ kind, s.boot.stage ≠ .off → ∃ t, exec (.railFault 6 kind) s = .next t ∧ stopped s t ∧ t.boot.stage = .off ∧
      (s.rcd.writing = none → s.hif.cmds = [] → kept s t)) ∧
    (∀ rail kind, s.boot.stage = .running → 1 ≤ rail → rail ≤ 5 → ∃ t, exec (.railFault rail kind) s = .next t ∧ stopped s t ∧ kept s t ∧
      t.boot.stage = if s.boot.railFaults.any (fun x => s.opS < x + 600) then .railHeld
        else if s.ember.grant then .pllWait else .standby) ∧
    (∀ unit celsius, s.boot.stage = .running → unit < 48 → (if 32 ≤ unit then 100 else 115) ≤ celsius →
      ∃ t, exec (.thermalTrip unit celsius) s = .next t ∧ stopped s t ∧ kept s t ∧ t.boot.stage = .tripped) ∧
    (s.boot.stage = .tripped → s.boot.coolant = true → ∃ t, exec .thermalTripRestart s = .next t ∧ stopped s t ∧ kept s t ∧
      t.boot.restarts = s.boot.restarts + 1 ∧ t.boot.stage = if s.ember.grant then .pllWait else .standby)

/-- At wave 8 one admission of the governor moves each rail by at most its sub-step limit, and not above what the rail can
carry; no rise is admitted under a standing order, and shedding takes a whole step down, to 0 at the least (R421, R543,
R547, R548), whatever the units ask for. Forms that complete here, each with a next state given under hypotheses on state
and operands alone: governorAdmit. -/
def Obligations.GovernorSteps : Prop :=
  ∀ s : State, s.boot.wave = 8 → ∃ t, exec .governorAdmit s = .next t ∧
    t = { s with boot := { s.boot with activity := t.boot.activity }, free := s.free + 1 } ∧
    ∀ r, 1 ≤ r → r ≤ 5 →
      let was := (tget s.boot.activity r).getD 0
      let now := (tget t.boot.activity r).getD 0
      now ≤ was + railStep r ∧ was ≤ now + railStep r ∧ (was ≤ railRoom r → now ≤ railRoom r) ∧
        (s.boot.noRise = true → now ≤ was) ∧ (s.boot.sheds = true → now = was - railStep r)

/-- Power and temperature (R543, R547, R548): an average above the lower bound of its domain withholds rises, one above the
upper bound sheds until it is below the lower bound; a junction at its throttle limit withholds rises until it is 2 °C
below; coolant lost before wave 2 has settled is only noted, and afterwards the governor is to reduce compute activity to
idle. The sideband (R553, R555, R558, Table 16-7): the holder of the grant, and no other, answers CONFIRM_REQ, with 0 only
while COMPUTE_HELD is 1 or no image runs; STATUS tells input power, the hottest junction, grade, role and the low byte of
BRINGUP_STAT; SETDASA gives the dynamic address; an open ejector raises alarm 0x1607 with the role. Forms that complete
here, each with a next state given under hypotheses on state and operands alone: powerLimit, thermalThrottle,
thermalThrottleEnd, coolantLost, confirmReq, status, setdasa, ejectOpen. -/
def Obligations.PowerThermalAndSideband : Prop :=
  (
    ∀ s : State, s.boot.stage ≠ .off →
      (∀ watts, ∃ t, exec (.powerLimit false watts) s = .next t ∧
        t.boot = { s.boot with
          inputHigh := decide (4500 < watts),
          inputShed := decide (4600 < watts) || (s.boot.inputShed && decide (4500 ≤ watts)) }) ∧
      (∀ watts, ∃ t, exec (.powerLimit true watts) s = .next t ∧
        t.boot = { s.boot with
          packHigh := decide (3700 < watts),
          packShed := decide (3800 < watts) || (s.boot.packShed && decide (3700 ≤ watts)) }) ∧
      (∀ unit celsius, unit < 48 → (if 32 ≤ unit then 90 else 100) ≤ celsius → ∃ t, exec (.thermalThrottle unit celsius) s = .next t ∧
        unit ∈ t.boot.throttled ∧ t.boot.noRise = true ∧ t.boot = { s.boot with throttled := t.boot.throttled }) ∧
      (∀ unit celsius, celsius ≤ (if 32 ≤ unit then 88 else 98) → exec (.thermalThrottleEnd unit celsius) s =
        .next { s with boot := { s.boot with throttled := s.boot.throttled.filter (· != unit) } }) ∧
      (s.boot.wave < 2 → exec .coolantLost s = .next { s with boot := { s.boot with coolant := false } }) ∧
      (2 ≤ s.boot.wave → ∃ t, exec .coolantLost s = .next t ∧ t.boot = { s.boot with coolant := false, idleOrder := true })) ∧ (
    ∀ s : State, s.boot.stage ≠ .off →
      (s.ember.grant = true → exec .confirmReq s =
        .next (s.emit [.i3c 0x0B [if s.boot.computeHeld = true ∨ s.fw.noImage = true then 0 else 1]])) ∧
      (s.ember.grant = false → exec .confirmReq s = .next s) ∧
      (∃ b, exec .status s = .next (s.emit [.i3c 0x0C b]) ∧ b.length = 6 ∧ natAt b 0 2 = s.boot.inputWatts % 65536 ∧
        b[2]? = some (BitVec.ofInt 8 s.boot.hottest) ∧
        b[4]? = some (if s.ember.grant then 1 else 0) ∧ b[3]? = some (if s.boot.grade then 1 else 0) ∧
        b[5]? = some (field s.bringupStat 0 8)) ∧
      (∀ a, exec (.setdasa a) s = .next { s with boot := { s.boot with dynAddr := some a } }) ∧
      exec .ejectOpen s = .next (s.alarm 0x1607 (leBytes 2 s.role)))

/-! ## Partial resets -/

/-- An unplanned partial reset (R435, R436, R441): a core's watchdog, or lost manager state, pauses hub service at phase 2
with the compute domain's records lost and waves 4 to 8 to come; the third within 10 minutes holds the compute domain
instead. PR_CAUSE is 2 or 3. The heats are as they were, unless a page was being re-encrypted. A core that fills no role
(R425), or a module whose cores do not run, begins none. Forms that complete here, each with a next state given under
hypotheses on state and operands alone: watchdogExpire, managerStateUncorrectable. -/
def Obligations.UnplannedResets : Prop :=
  ∀ (s : State),
    let recent := s.boot.unplanned.filter fun t => s.opS < t + 600
    let begun (t : State) (cause : Nat) : Prop :=
      t.service = false ∧ t.hub.chunks = [] ∧ t.boot.wave = 3 ∧ t.boot.computeTest = false ∧ t.boot.unplanned = recent ++ [s.opS] ∧
        (s.sweepSet = none → t.mgr.heats = s.mgr.heats) ∧ t.boot.prCause = cause ∧ t.boot.paused = true ∧
        if recent.length < 2 then t.boot.prPhase = 2 ∧ t.boot.substep = 1
        else t.boot.computeHeld = true ∧ t.boot.partialReset = none
    (∀ core role, role < 128 → roleUnit 1 s.boot.badUnits 0 role = some core → s.coresRun = true →
      ∃ t, exec (.watchdogExpire core) s = .next t ∧ begun t 2) ∧
    (∀ core, (∀ role, role < 128 → roleUnit 1 s.boot.badUnits 0 role ≠ some core) → exec (.watchdogExpire core) s = .next s) ∧
    (∀ core, s.coresRun = false → exec (.watchdogExpire core) s = .next s) ∧
    (s.coresRun = true → s.boot.mgrReady = true → ∃ t, exec .managerStateUncorrectable s = .next t ∧ begun t 3) ∧
    (s.coresRun = false ∨ s.boot.mgrReady = false → exec .managerStateUncorrectable s = .next s)

/-- An orderly partial reset pauses hub service at once and answers nothing yet (R405, R436), and contributions that waited
for a record are among the packets to be turned away (R99); a command without ARM ends with S_BAD_ARG. FABRIC_IMAGE_SAVE,
every 2 s of service, writes a fabric image with the next number and the LAP, and begins a new journal; none is saved during
a pause (R438). From phase to phase (R436, R439, R463, R487): phase 1 saves an image and loses the chunk records, phase 2
ends with wave 8 and the trust die loads the key slots, phase 3 ends with the grade and goes to the copy step where there is
one, phase 4 goes to phase 5, and phase 5 ends, with the manager's reads done, in reconciliation and the end of the pause.
Each phase ends with the boot record written. Forms that complete here, each with a next state given under hypotheses on
state and operands alone: devPartialReset, fabricImageSave, prPhaseEnd. -/
def Obligations.OrderlyAndPartialResets : Prop :=
  (
    ∀ s : State,
      (∀ id c, s.Ready id 0x0103 c → c.bit 32 0 = true → ∃ t, exec (.devPartialReset id) s = .next t ∧ t.boot.paused = true ∧
        t.boot.prPhase = 1 ∧ t.boot.prCause = 0 ∧ t.hif = (s.markStarted id).hif ∧ t.out = s.out ∧ t.mgr = s.mgr ∧
        t.hub = { s.hub with arrived := s.hub.heldBack ++ s.hub.arrived, heldBack := [] }) ∧
      (∀ id c, s.Ready id 0x0103 c → c.bit 32 0 = false → exec (.devPartialReset id) s = .next ((s.markStarted id).finish id (bad 32))) ∧
      (s.service = true → ∃ t, exec .fabricImageSave s = .next t ∧ t.ember.imageNo = s.ember.imageNo + 1 ∧ t.ember.journalIx = 0 ∧
        t.ember.imageLap = s.lap ∧ t.fw.imageSaved = true ∧ t.mgr = s.mgr ∧ t.ember.ownJournal = [] ∧
        t.ember.ownImage = s.moduleWords (s.ember.imageNo + 1) (imageBytes s.fabricModel)) ∧
      (s.boot.paused = true → exec .fabricImageSave s = .next s)) ∧ (
    ∀ (failing : List (BitVec 32)) (p : Partial) (s : State), s.boot.partialReset = some p →
      let fw : Fw := { s.fw with writing := false }
      (p.phase = 1 → s.ember.handover = false → s.ember.taking = none → ∃ t, exec (.prPhaseEnd failing) s = .next t ∧
        t.boot.prPhase = 2 ∧ t.boot.wave = 3 ∧ t.boot.substep = 1 ∧ t.ember.imageNo = s.ember.imageNo + 1 ∧ t.hub.chunks = [] ∧
        t.mgr = s.mgr) ∧
      (p.phase = 2 → s.boot.wave = 8 → s.boot.halted = false → exec (.prPhaseEnd failing) s =
        .next { s with fw := fw, mem := { s.mem with slots := s.trust.keys },
                       boot := { s.boot with prPhase := 3, partialReset := some { p with phase := 3 } } }) ∧
      (p.phase = 3 → ∃ t, exec (.prPhaseEnd failing) s = .next t ∧ t.boot.computeTest = true ∧ t.boot.grade = (t.allUnfilled != 0) ∧
        t.boot.partialReset = some { p with phase := if p.copy then 6 else 4 }) ∧
      (p.phase = 4 → s.boot.halted = true → exec (.prPhaseEnd failing) s = .next { s with fw := fw, boot := { s.boot with
        prPhase := 5, partialReset := some { p with phase := 5 }, mgrReady := true, stage := .running } }) ∧
      (p.phase = 4 → s.boot.halted = false → exec (.prPhaseEnd failing) s =
        .next ((({ s with fw := fw } : State).setPhase p 5).beginRestore)) ∧
      (p.phase = 5 → s.boot.halted = false → ∀ j rest tail, s.mgr.jobs = j :: rest → j.steps = .prEnd :: tail →
        exec (.prPhaseEnd failing) s = .next ((({ s with fw := fw, mgr := { s.mgr with jobs := rest } } : State).reconcile p).endPause p)) ∧
      (p.phase = 5 → s.boot.halted = false → s.mgr.jobs = [] → exec (.prPhaseEnd failing) s = .next { s with fw := fw }))

/-! ## Firmware -/

/-- The pieces of an image (R481 to R485): a piece that Table 13-3 refuses, or whose delivery is not the one in hand,
changes nothing of the delivery; the first good one of a delivery of more than one piece begins it and is held with its
check value, where it reads back right from the flash (open, log entry 43); one that is held already is answered again.
FW_STATUS is answered. A discard that names the delivery empties it, and one that does not is S_BAD_ARG. Activation,
confirmation and fallback (R486, R487, R491 to R494): an activation that Table 13-6 admits makes the staged image CURRENT
with CONFIRM 1 and begins an orderly partial reset while the manager runs, and one that it refuses ends with the table's
status. A health check that fails starts the count again; the 120th good one burns the fuse bits up to SEC_VER of the
running image, and the next check writes the record, with CONFIRM 0 and the FALLBACK area free (log entry 184: the two steps
come in two acts). Past DEADLINE the FALLBACK image becomes CURRENT with CONFIRM 2, in a partial reset of its own while the
manager runs and none is under way; a confirmation whose bits are burned is completed in its place. With CONFIRM other than
1 neither does anything. Forms that complete here, each with a next state given under hypotheses on state and operands
alone: fwPiece, fwStatus, fwDiscard, fwActivate, healthCheck, fwDeadline. -/
def Obligations.FirmwareUpdates : Prop :=
  (
    ∀ (id : Nat) (c : Cmd) (s : State),
      (s.Ready id 0x0901 c →
        (∀ piece a, pieceFault c = some a → exec (.fwPiece id piece) s = .next ((s.markStarted id).finish id a)) ∧
        (∀ piece, pieceFault c = none → s.fw.pieceBusy c = true →
          exec (.fwPiece id piece) s = .next ((s.markStarted id).finish id (fail sBusy))) ∧
        ∀ piece, pieceFault c = none → s.fw.pieceBusy c = false → ∃ t, exec (.fwPiece id piece) s = .next t ∧
          if pieceCheck c (bytesAt (c.buffer piece) 0 (c.num 44 4)) ≠ c.hash 64 then t = (s.markStarted id).finish id (fail sBadCheck)
          else
            (∀ g x, s.fw.staging = some g → tget g.held (c.num 36 4) = some x →
              t = (s.markStarted id).finish id (if x.1 = c.hash 64 then ok (leBytes 4 g.held.length) else bad 64)) ∧
            (s.fw.staging = none → 2 ≤ c.num 40 4 → t.fw.staging = if Config.flashGood s.free then
              some { imageId := BitVec.ofNat 32 (c.num 32 4), count := c.num 40 4
                     held := [(c.num 36 4, (c.hash 64, bytesAt (c.buffer piece) 0 (c.num 44 4)))], state := 1 } else none)) ∧
      (s.Ready id 0x0902 c → exec (.fwStatus id) s = .next ((s.markStarted id).finish id (ok s.fwStatus))) ∧
      (s.Ready id 0x0904 c →
        (∀ g, s.fw.staging = some g → g.imageId = BitVec.ofNat 32 (c.num 32 4) → ∃ t, exec (.fwDiscard id) s = .next t ∧
          t.fw.staging = none ∧ t.fw.fuse = s.fw.fuse ∧ t.fw.running = s.fw.running) ∧
        ((s.fw.staging.any fun g => g.imageId == BitVec.ofNat 32 (c.num 32 4)) = false →
          exec (.fwDiscard id) s = .next ((s.markStarted id).finish id (bad 32))))) ∧ (
    ∀ s : State,
      (∀ id c, s.Ready id 0x0903 c → s.activateFault c = none → ∃ t, exec (.fwActivate id) s = .next t ∧
        t.fw.record.confirm = 1 ∧ t.fw.record.seq = s.fw.record.seq + 1 ∧ t.fw.activating = some id ∧ t.fw.staging = none ∧
        t.fw.record.roles.length = s.fw.record.roles.length ∧ (∀ a, s.fw.record.areaOf .staging = some a → t.fw.record.roles[a]? = some .current) ∧
        (s.boot.mgrReady = true → t.boot.paused = true ∧ t.boot.prPhase = 1 ∧ t.boot.prCause = 1)) ∧
      (∀ id c a, s.Ready id 0x0903 c → s.activateFault c = some a →
        exec (.fwActivate id) s = .next ((s.markStarted id).finish id a)) ∧
      (∀ cores rec, s.fw.record.confirm = 1 → s.fw.activating = none → s.fw.burning = none →
        (s.healthy cores rec = false → exec (.healthCheck cores rec) s = .next { s with fw := { s.fw with health := 0 } }) ∧
        (s.healthy cores rec = true → s.fw.health < 119 →
          exec (.healthCheck cores rec) s = .next { s with fw := { s.fw with health := s.fw.health + 1 } }) ∧
        (s.healthy cores rec = true → 119 ≤ s.fw.health → ∃ t, exec (.healthCheck cores rec) s = .next t ∧
          t.fw.record = s.fw.record ∧ t.fw.fuse = s.fw.fuse ∧
          t.fw.burning = some (s.fw.fuse ||| BitVec.ofNat 64 (2 ^ imageSec ((s.fw.imageIn .current).getD []) - 1)))) ∧
      (∀ b i, s.fw.record.confirm = 1 → s.fw.activating = none → s.fw.burning = some b →
        ((∃ cores rec, i = .healthCheck cores rec) ∨ (i = .fwDeadline ∧ s.fw.record.deadline ≤ s.opS)) → ∃ t, exec i s = .next t ∧
          t.fw.record.confirm = 0 ∧ t.fw.record.roles = s.fw.record.roles.map (fun x => if x = .fallback then .free else x) ∧
          t.fw.fuse = s.fw.fuse ||| b ∧ t.fw.burning = none) ∧
      (∀ b, s.fw.record.confirm = 1 → s.fw.activating = none → s.fw.record.deadline ≤ s.opS → s.fw.burning = none →
        s.fw.imageIn .fallback = some b → ∃ t, exec .fwDeadline s = .next t ∧ t.fw.record.confirm = 2 ∧
        t.fw.record.hash = imageHash b ∧ t.fw.fuse = s.fw.fuse ∧
        (s.boot.partialReset = none → s.boot.mgrReady = true → t.boot.paused = true ∧ t.boot.prPhase = 1)) ∧
      (s.fw.record.confirm ≠ 1 → exec .fwDeadline s = .next s ∧ ∀ cores rec, exec (.healthCheck cores rec) s = .next s))

/-! ## Sessions, credentials and quotes -/

/-- Sessions (R450 to R453): CLIENT_HELLO under a key that may open a session answers SERVER_HELLO, signed with one identity
index, and holds a session that is not open; without an index, from a blocked address, where the path is not open, or with
16 sessions held, it is ignored, and one with a reserved field or a key that may not open a session fails. A management
port's path is open at its link-local and its stored addresses (R34) while P0 serves and the module holds the grant; the
tongs port's while P0 serves (R556). CLIENT_AUTH opens the session, records the index that was accepted (R455) and, on the
tongs port, marks the module as debugged (R473); or it ends the session as a handshake that fails. Messages in a session
(R452, R453, R472): a COMMAND that holds is accepted in order of arrival, or, on the tongs port, carried out and answered;
one with a reserved field, another count or a tag that fails closes the session, and so does a CLOSE, with the failure noted
where it does not hold. A message of a blocked address is ignored (R450), and SESSION_BLOCK_EXPIRE ends that. An idle
session ends, alone; a claim session ends as the window closes; and every session ends, with no credential and no accepted
index left, when the credentials are cleared, which an open heat forbids (R456). Forms that complete here, each with a next
state given under hypotheses on state and operands alone: clientHello, clientAuth, sessionCommand, sessionClose,
sessionIdleTimeout, sessionBlockExpire, claimOpen, credClear. -/
def Obligations.Sessions : Prop :=
  (
    ∀ s : State,
      (∀ path source cred events nonce, s.reached path = true → source ∉ s.trust.blocked →
        s.trust.sessions.length < 16 →
        (s.helloAllowed path.isTongs cred = true → ∀ i k, s.trust.identity.take s.skips = some (i, k) →
          ∃ t sig, exec (.clientHello path source cred events nonce 0) s = .next t ∧
            sig = Config.sign 1 i (bvBytes (Config.shake256 (helloBytes cred events nonce ++ serverBytes s.trust.draws))) ∧
            t.out = s.out ++ .serverHello s.trust.nextSession (serverBytes s.trust.draws) sig ::
              tongsFrame path.isTongs (serverBytes s.trust.draws ++ sig) ∧ t.trust.identity = k ∧
            t.trust.sessions.length = s.trust.sessions.length + 1 ∧
            ∃ x ∈ t.trust.sessions, x.id = s.trust.nextSession ∧ x.opened = false ∧ x.source = source ∧ x.tongs = path.isTongs ∧
              x.port = path.port) ∧
        (s.helloAllowed path.isTongs cred = true → s.trust.identity.take s.skips = none →
          exec (.clientHello path source cred events nonce 0) s = .next s) ∧
        (s.helloAllowed path.isTongs cred = false →
          exec (.clientHello path source cred events nonce 0) s = .next (s.failHandshake 2 source)) ∧
        ∀ rsv, rsv ≠ 0 → exec (.clientHello path source cred events nonce rsv) s = .next (s.failHandshake 5 source)) ∧
      (∀ path source cred events nonce rsv, source ∈ s.trust.blocked ∨ 16 ≤ s.trust.sessions.length ∨ s.reached path = false →
        exec (.clientHello path source cred events nonce rsv) s = .next s) ∧
      (∀ port dest, s.reached (.mgmt port dest) = true ↔ (1 ≤ s.boot.wave ∨ s.boot.standbyUp = true) ∧ s.ember.grant = true ∧
        port < 2 ∧ (dest = linkLocal port ∨ dest ∈ (tget s.cfg.live.addrs port).getD [])) ∧
      (s.reached .tongs = true ↔ 1 ≤ s.boot.wave ∨ s.boot.standbyUp = true) ∧
      ∀ i x ct ix sig, s.session i false = some x → x.source ∉ s.trust.blocked → ∃ t, exec (.clientAuth i ct ix sig 0) s = .next t ∧
        if s.clientSigned x ct ix sig = true then
          (∃ y, t.session i true = some y ∧ y.cred = x.cred ∧ y.openAt = s.opS) ∧
            (∀ e, x.cred = some e → t.trust.lastIndex e = ix) ∧ (x.tongs = true → t.trust.debugged = true)
        else t = (s.endSession i).failHandshake 1 x.source) ∧ (
    ∀ s : State,
      (∀ i x m, s.session i true = some x → x.source ∈ s.trust.blocked →
        exec (.sessionCommand i m) s = .next s ∧ exec (.sessionClose i m) s = .next s) ∧
      (∀ i x m, s.session i true = some x → x.source ∉ s.trust.blocked →
        (∃ t, exec (.sessionCommand i m) s = .next t ∧
          match x.msgFault 4 m with
          | some r => t = (s.endSession i).noteFail r x.source
          | none =>
            if x.tongs = true then t = (s.countIn x).takeTongs x.id (Config.decrypt x.inKey m.counter m.body)
            else t.hif.nextId = s.hif.nextId + 1 ∧ ∃ c, t.hif.cmds = s.hif.cmds ++ [c] ∧ c.id = s.hif.nextId ∧ c.src = .session x.id ∧
              c.started = false ∧ c.data = (Config.decrypt x.inKey m.counter m.body).drop 256) ∧
        (exec (.sessionClose i m) s = .next (match x.msgFault 7 m with
          | some r => (s.endSession i).noteFail r x.source
          | none => s.endSession i)) ∧
        (m.counter ≠ x.inCount → ∀ type, (x.msgFault type m).isSome = true)) ∧
      (∀ i, ∃ t, exec (.sessionIdleTimeout i) s = .next t ∧ (∀ x ∈ t.trust.sessions, x.id ≠ i) ∧
        (∀ x ∈ s.trust.sessions, x.id ≠ i → x ∈ t.trust.sessions) ∧ t.hif = s.hif) ∧
      (∀ a, exec (.sessionBlockExpire a) s = .next { s with trust := { s.trust with blocked := s.trust.blocked.filter (· != a) } }) ∧
      exec (.claimOpen true) s = .next { s with trust := { s.trust with claimOpen := true } } ∧
      (∃ t, exec (.claimOpen false) s = .next t ∧ t.trust.claimOpen = false ∧ t.trust.creds = s.trust.creds ∧
        (∀ x ∈ s.trust.sessions, x.cred = none → ∀ y ∈ t.trust.sessions, y.id ≠ x.id)) ∧
      (s.mgr.heats = [] → ∃ t, exec .credClear s = .next t ∧ t.trust.creds = [] ∧ t.trust.creds2 = [] ∧
        t.trust.acceptedA = [] ∧ t.trust.acceptedB = [] ∧ t.trust.sessions = []) ∧
      (s.mgr.heats ≠ [] → exec .credClear s = .next (s.note 0x1408 1 [])))

/-- Quotes (R448, R457 to R461): a SEC_QUOTE whose buffer holds one, and TD_GO, put a request into the queue of 64, and
refuse it with the queue full, a mailbox request pending, or a buffer short of 11,628 bytes. QUOTE_DONE signs the first
request under the next index of the attestation key and delivers it: to the mailbox's buffer with DONE, to a function's
buffer with the reply, or in a session's reply; a write that fails sets DMA_ERR, or ends the command with S_HOST_ERROR.
Without an index the command ends with S_NO_INDEX. With no request, and without PCIe or the GO bit, nothing is done. Keys
and credentials (R448, R454, R455, R465, R466): a rotation makes the next generation the newest, ends with S_BUSY while two
generations live, and with S_BAD_ARG for a tenant without a key; live generations and the pages under the older one, and
what indices remain, are answered; a new credential set takes the place of the old one in both copies, the records of
entries with a different key start at zero and the others stand; a set that is not acceptable ends with S_BAD_ARG. Forms
that complete here, each with a next state given under hypotheses on state and operands alone: tdGo, secQuote, quoteDone,
secKeyRotate, secKeyState, secIndexState, secCredSet. -/
def Obligations.QuotesKeysAndCredentials : Prop :=
  (
    ∀ s : State,
      (∀ v : BitVec 64, s.pcieUp = true → v.getLsbD 0 = true →
        (s.trust.quotes.length < 64 → s.trust.mailPending = false → 11628 ≤ s.trust.quoteLen.toNat → ∃ q, q.asker = .mailbox ∧
          q.fnNo = 0xFFFF ∧ exec (.tdGo v) s = .next { s with trust := { s.trust with quotes := s.trust.quotes ++ [q] } }) ∧
        (s.trust.quotes.length < 64 → s.trust.mailPending = false → s.trust.quoteLen.toNat < 11628 →
          exec (.tdGo v) s = .next { s with trust := { s.trust with lenErr := true } }) ∧
        (64 ≤ s.trust.quotes.length ∨ s.trust.mailPending = true → ∃ t, exec (.tdGo v) s = .next t ∧ t.trust.busy = true ∧
          t.trust.quotes = s.trust.quotes)) ∧
      (∀ v : BitVec 64, s.pcieUp = false ∨ v.getLsbD 0 = false → exec (.tdGo v) s = .next s) ∧
      (∀ id c, s.Ready id 0x0801 c →
        (11628 ≤ c.dataLen → s.trust.quotes.length < 64 → ∃ q, q.asker = .cmd id ∧ q.nonce = c.hash 32 ∧
          (c.src = .fn 0 → q.fnNo = 0 ∧ q.tenant = c.num 64 2 % 1024) ∧
          (∀ n, c.src = .fn (n + 1) → q.fnNo = BitVec.ofNat 16 (n + 1) ∧ q.tenant = n) ∧
          (∀ i, c.src = .session i → q.fnNo = 0xFFFF ∧ q.tenant = c.num 64 2 % 1024) ∧
          exec (.secQuote id) s = .next { s.markStarted id with trust := { s.trust with quotes := s.trust.quotes ++ [q] } }) ∧
        (11628 ≤ c.dataLen → 64 ≤ s.trust.quotes.length →
          exec (.secQuote id) s = .next (((s.markStarted id).tally 0x0033 0 1).finish id (fail sBusy))) ∧
        (c.dataLen < 11628 →
          exec (.secQuote id) s = .next ((s.markStarted id).finish id { bad 24 with bytes := 11628 }))) ∧
      (s.trust.quotes = [] → ∀ dmaOk, exec (.quoteDone dmaOk) s = .next s) ∧
      (∀ q rest dmaOk, s.trust.quotes = q :: rest →
        (∀ i k, s.trust.attest.take s.skips = some (i, k) → ∃ t, exec (.quoteDone dmaOk) s = .next t ∧ t.trust.attest = k ∧
          t.trust.quotes = rest ∧
          let quote := s.quoteBody q i ++ Config.sign 2 i (s.quoteBody q i) ++ Config.endorsement
          let u : State := ({ s with free := s.free + 1, trust := { s.trust with quotes := rest, attest := k } } : State).tally 0x0032 0 1
          let done : Ans := { ok (leBytes 4 11628) with bytes := 11628 }
          (q.asker = .mailbox → if dmaOk = true then t.trust.done = true ∧ Emission.quote s.trust.quoteAddr quote ∈ t.out
            else t.trust.dmaErr = true) ∧
          ∀ id c, q.asker = .cmd id → s.cmd id = some c → c.mute = false →
            (∀ n, c.src = .session n → t = u.reply id { done with data := quote }) ∧
            ∀ n, c.src = .fn n → t = if dmaOk = true then (u.emit [.quote c.dataAddr quote]).reply id done
              else u.reply id (fail sHostError)) ∧
        (s.trust.attest.take s.skips = none → q.asker = .mailbox →
          exec (.quoteDone dmaOk) s = .next { s with trust := { s.trust with quotes := rest } }) ∧
        (∀ id, s.trust.attest.take s.skips = none → q.asker = .cmd id → exec (.quoteDone dmaOk) s =
          .next (({ s with trust := { s.trust with quotes := rest } } : State).reply id (fail sNoIndex))))) ∧ (
    ∀ (id : Nat) (c : Cmd) (s : State),
      (s.Ready id 0x0802 c → c.src.mayNameTenant (c.num 32 2) = true →
        (∀ g, s.trust.live (c.num 32 2) = [g] → ∃ t, exec (.secKeyRotate id) s = .next t ∧
          (t.trust.live (c.num 32 2)).head? = some ((g + 1) % 4)) ∧
        (∀ g h r, s.trust.live (c.num 32 2) = g :: h :: r →
          exec (.secKeyRotate id) s = .next ((s.markStarted id).finish id (fail sBusy))) ∧
        (s.trust.live (c.num 32 2) = [] → exec (.secKeyRotate id) s = .next ((s.markStarted id).finish id (bad 32)))) ∧
      (s.Ready id 0x0803 c → c.src.mayNameTenant (c.num 32 2) = true → ∃ n : Nat, (∀ g, g < 4 → n.testBit g = decide (g ∈ s.trust.live (c.num 32 2))) ∧
        exec (.secKeyState id) s =
          .next ((s.markStarted id).finish id (ok (leBytes 4 n ++ leBytes 4 (s.olderPages (c.num 32 2)))))) ∧
      (s.Ready id 0x0804 c → exec (.secIndexState id) s = .next ((s.markStarted id).finish id
        (ok (leBytes 8 s.trust.attest.next ++ leBytes 8 s.trust.attest.blockEnd ++ leBytes 8 (2 ^ 60 - s.trust.attest.next))))) ∧
      (∀ data, s.Ready id 0x0805 c → let set := c.buffer data; credForm set = true → credsOk (credsOf set) = true →
        ∃ t, exec (.secCredSet id data) s = .next t ∧ t.trust.creds = credsOf set ∧ t.trust.creds2 = credsOf set ∧
          ∀ i, i < 16 → t.trust.lastIndex i =
            if (s.trust.creds[i]?).map (fun x => (x.oid, x.root, x.seed)) = ((credsOf set)[i]?).map (fun x => (x.oid, x.root, x.seed))
            then s.trust.lastIndex i else 0) ∧
      (∀ data, s.Ready id 0x0805 c → let set := c.buffer data; (credForm set && credsOk (credsOf set)) = false →
        exec (.secCredSet id data) s = .next ((s.markStarted id).finish id (fail sBadArg))))

/-! ## The event recorder -/

/-- The recorder (R499 to R512): each second the operating seconds advance and a sample goes into the open window; at a
multiple of 3,600 the window's records, at most 1,024, take the next SEQs, a fresh window begins, and its checkpoints go; a
checkpoint keeps the records of the window as they stand. REC_QUERY counts the records whose CHECK holds and names the
lowest and the highest SEQ; REC_READ returns such records of one area from a SEQ on, in order; neither changes anything
else. REC_CLEAR of both areas in a session with a credential leaves the CLEAR record alone in each, with the next SEQ; in a
claim session it ends with S_DENIED. Forms that complete here, each with a next state given under hypotheses on state and
operands alone: recorderSample, recorderWindowClose, recorderCheckpoint, recQuery, recRead, recClear. -/
def Obligations.RecorderWindowsAndReads : Prop :=
  ∀ s : State,
    (∀ xs, s.boot.stage ≠ .off → ∃ t, exec (.recorderSample xs) s = .next t ∧ t.trust.operatingS = s.trust.operatingS + 1 ∧
      t.rcd.first = s.rcd.first ∧ t.rcd.last = s.rcd.last ∧
      (s.rcd.running = true → ∀ x, xs = [x] → s.takesSample x = true → s.rcd.win.hists = [] →
        t.rcd.win.hists = [Hist.add s.opS x.value (emptyHist x.series x.unit)])) ∧
    (s.rcd.running = true → s.opS % 3600 = 0 → s.opS ≠ s.rcd.win.start → ∃ t, exec .recorderWindowClose s = .next t ∧
      t.rcd.nextSeq = s.rcd.nextSeq + (s.rcd.win.records s.link false (s.opS - s.rcd.win.start)).length ∧
      t.rcd.win = s.freshWin ∧ t.rcd.ckpt = none ∧ t.rcd.last.length ≤ max 65536 s.rcd.last.length ∧
      (s.rcd.win.records s.link false (s.opS - s.rcd.win.start)).length ≤ 1024) ∧
    (s.rcd.running = true → exec .recorderCheckpoint s = .next { s with rcd := { s.rcd with
      ckptWriting := true, older := s.rcd.ckpt, ckpt := some (s.rcd.win.records s.link false (s.opS - s.rcd.win.start)) } }) ∧
    (∀ id c, s.Ready id 0x0A01 c → exec (.recQuery id) s = .next ((s.markStarted id).finish id
      (ok (leBytes 8 (s.rcd.first.countP Rec.good) ++ leBytes 8 (((s.rcd.last.find? Rec.good).map (·.seq)).getD 0) ++ leBytes 8 (s.rcd.nextSeq - 1))))) ∧
    (∀ id c, s.Ready id 0x0A02 c → c.num 32 1 ≤ 1 → c.num 48 4 ≤ 65536 → 64 * c.num 48 4 ≤ c.dataLen →
      let rs := ((if c.num 32 1 = 0 then s.rcd.first else s.rcd.last).filter fun r => r.good && c.num 40 8 ≤ r.seq).take (c.num 48 4)
      exec (.recRead id) s = .next ((s.markStarted id).finish id
        (okData c (leBytes 4 rs.length ++ leBytes 4 0 ++ leBytes 8 (s.rcd.nextSeq - 1)) (rs.flatMap recBytes)))) ∧
    (∀ id c i x, s.Ready id 0x0A03 c → c.src = .session i → (s.trust.sessions.find? fun x => x.id == i) = some x → x.cred = none →
      exec (.recClear id) s = .next ((s.markStarted id).finish id (fail sDenied))) ∧
    (∀ id c i x k, s.Ready id 0x0A03 c → c.src = .session i → (s.trust.sessions.find? fun x => x.id == i) = some x →
      x.cred = some k → c.num 32 1 = 3 → ∃ t, exec (.recClear id) s = .next t ∧ t.rcd.first.length = 1 ∧ t.rcd.last.length = 1 ∧
        (t.rcd.last.map (·.kind)) = [5] ∧ (t.rcd.last.map (·.seq)) = [s.rcd.nextSeq])

/-! ## The ember links -/

/-- What leaves on the ember links (R521, R522, R527): urgent packets first, then image pieces, then a saved step's,
numbered and kept until acknowledged, in a frame on the lower-numbered link that is up and holds credits, whose SENT_CUM
counts its cells; with credits on no link, or nothing to send, nothing goes. HANDOVER gives up the grant behind it; ACK
names the highest number received without a gap; one packet that no ACK covers goes again as it was numbered; a heartbeat
with the LAP goes on each link that takes it. A silent link counts as down (R522); with both down past the lost timer, a
standby asks for the grant and the active is LOST and gives up what waited for the standby; with a link up, nothing is lost.
A former active that hears nothing after the hand-over asks for the grant (R534). Forms that complete here, each with a next
state given under hypotheses on state and operands alone: emberSend, emberAckTimer, emberResendExpire, emberHeartbeatSend,
emberLinkSilent, emberLostTimer, takenTimeout. -/
def Obligations.EmberSending : Prop :=
  (
    ∀ s : State, s.emberOn = true →
      let sent (k : Nat) (p : EmberPkt) : Emission :=
        let q := s.ember.dress k p
        .ember k (slotNo (s.ember.tx k).next) (emberWord q) q (emberHop q)
      (∀ k p r, s.ember.active = true → (s.ember.urgent = p :: r ∨ (s.ember.urgent = [] ∧ s.ember.image = p :: r)) →
        s.ember.link p = some k →
        ∃ t, exec .emberSend s = .next t ∧ t.ember.txNext = s.ember.txNext + 1 ∧
          t.ember.unacked = s.ember.unacked ++ [{ p with seq := s.ember.txNext }] ∧
          (t.ember.credit k).sent = (s.ember.credit k).sent + BitVec.ofNat 16 (emberCells p) ∧
          (s.ember.urgent = p :: r → t.ember.urgent = r ∧ t.ember.image = s.ember.image) ∧
          (s.ember.urgent = [] → t.ember.urgent = [] ∧ t.ember.image = r) ∧
          (p.type ≠ 0x0A → t.out = s.out ++ [sent k { p with seq := s.ember.txNext }] ∧
            t.ember.grant = s.ember.grant) ∧
          (p.type = 0x0A → t.ember.grant = false ∧ t.ember.active = false ∧ Emission.i3c 8 [] ∈ t.out)) ∧
      (∀ p r, (s.ember.urgent = p :: r ∨ (s.ember.urgent = [] ∧ s.ember.image = p :: r)) → s.ember.link p = none →
        exec .emberSend s = .next s) ∧
      (s.ember.active = true → s.ember.urgent = [] → s.ember.image = [] → s.ember.pages ≠ [] →
        (∀ p ∈ s.ember.pages, (s.ember.link p).isSome = true) → ∃ t, exec .emberSend s = .next t ∧
        t.ember.txNext = s.ember.txNext + 1 ∧ t.ember.pages.length + 1 = s.ember.pages.length ∧
        ∃ p ∈ s.ember.pages, t.ember.unacked = s.ember.unacked ++ [{ p with seq := s.ember.txNext }]) ∧
      (s.ember.urgent = [] → s.ember.image = [] → s.ember.pages = [] → exec .emberSend s = .next s) ∧
      (∀ k, s.ember.ackTimer = true → s.ember.rxNext ≠ 0 →
        let ack := s.ember.answer 0x09 (BitVec.ofNat 64 (s.ember.rxNext - 1))
        s.ember.link ack = some k → ∃ t, exec .emberAckTimer s = .next t ∧ t.ember.sinceAck = 0 ∧ t.ember.ackTimer = false ∧
          t.out = s.out ++ [sent k ack]) ∧
      (∀ n p, (s.ember.unacked.find? fun p => p.seq == n) = some p →
        (∀ k, s.ember.link p = some k → ∃ t, exec (.emberResendExpire n) s = .next t ∧ t.out = s.out ++ [sent k p] ∧
          t.ember.unacked = s.ember.unacked ∧ t.ember.txNext = s.ember.txNext ∧
          (t.ember.credit k).sent = (s.ember.credit k).sent + BitVec.ofNat 16 (emberCells p)) ∧
        (s.ember.link p = none → exec (.emberResendExpire n) s = .next s)) ∧
      (∀ n, (s.ember.unacked.find? fun p => p.seq == n) = none → exec (.emberResendExpire n) s = .next s) ∧
      (∃ t, exec .emberHeartbeatSend s = .next t ∧ ∀ k, k < 2 → s.ember.holds k (s.ember.answer 0x08 s.lap) = true →
        sent k (s.ember.answer 0x08 s.lap) ∈ t.out) ∧
      ((∀ k, k < 2 → s.ember.holds k (s.ember.answer 0x08 s.lap) = false) → exec .emberHeartbeatSend s = .next s)) ∧ (
    ∀ s : State,
      exec (.emberLinkSilent 0) s = .next { s with ember := { s.ember with up0 := false } } ∧
      exec (.emberLinkSilent 1) s = .next { s with ember := { s.ember with up1 := false } } ∧
      (s.ember.up0 = true ∨ s.ember.up1 = true → exec .emberLostTimer s = .next s) ∧
      (s.emberOn = true → s.ember.up0 = false → s.ember.up1 = false → s.ember.paired = true → s.ember.state ≠ .none →
        s.ember.state ≠ .lost →
        (s.boot.stage = .standby → exec .emberLostTimer s =
          .next { s with ember := { s.ember with state := .lost }, out := s.out ++ [.i3c 9 []] }) ∧
        (s.boot.stage ≠ .standby → ∃ t, exec .emberLostTimer s = .next t ∧ t.ember.state = .lost ∧ t.ember.waits = [] ∧
          t.ember.urgent = [] ∧ t.ember.image = [] ∧ t.ember.pages = [])) ∧
      (s.ember.handover = true → s.ember.grant = false → s.ember.taking.isSome = true → exec .takenTimeout s =
        .next { s with ember := { s.ember with takeBack := true }, out := s.out ++ [.i3c 9 []] }))

/-- What a standby stores (R523, R528, R529): each kind of packet goes to its own place, and a number in order advances what
ACK names; a packet whose CRC-64 or whose frame's hop check fails is as if it had not come (R61, R521). An image piece and a
journal record are said of a standby with no whole image yet, a page of a heat with no mirror slot, STEP_DONE of the slot
that its step fills. What an active hears (R522, R526, R534) in a frame whose checks hold: a heartbeat shows that its link
is up and what the peer freed; an ACK covers every packet up to its number, and READY comes with the first whole image, or
BEHIND where two streams of a heat were abandoned in a row; TAKEN, after the hand-over, closes every session and puts the
module into standby with its memory under quench and no key; a second copy changes neither bring-up nor the model. Forms
that complete here, each with a next state given under hypotheses on state and operands alone: fabric, journal, page,
stepDone, key, keyDestroy, config, handover, heartbeat, emberAck, taken. -/
def Obligations.EmberReceiving : Prop :=
  (
    ∀ (l : Nat) (p : EmberPkt) (s : State), s.boot.stage = .standby → s.emberOn = true → l < 2 → s.ember.paired = true →
      s.ember.state ≠ .lost → s.ember.rxNext ≤ p.seq → p.seq ∉ s.ember.rxAhead →
      (p.crc ≠ emberCrc p ∨ p.hop ≠ emberHop p → ∀ i ∈ [Instr.fabric l p, .journal l p, .page l p, .stepDone l p, .key l p, .keyDestroy l p, .config l p,
        .handover l p], exec i s = .next s) ∧
      (p.crc = emberCrc p → p.hop = emberHop p →
      let e := s.ember
      let numbered (t : State) : Prop := p.seq = e.rxNext → e.rxAhead = [] → t.ember.rxNext = e.rxNext + 1
      let no := objectHeat p.object
      (p.type = 0x01 → ∃ t, exec (.fabric l p) s = .next t ∧ numbered t ∧ (e.newest = none → e.slotA.number = p.object →
        (∀ y ∈ e.slotA.pieces, y.1 ≠ p.offset) → t.ember.slotA.pieces = e.slotA.pieces ++ [(p.offset, p.payload)]) ∧
        t.ember.keys = e.keys ∧ t.ember.configRx = e.configRx) ∧
      (p.type = 0x02 → ∃ t, exec (.journal l p) s = .next t ∧ numbered t ∧ (e.newest = none →
        (∀ q ∈ e.journalRx, ¬(q.object = p.object ∧ q.offset = p.offset)) → t.ember.journalRx = e.journalRx ++ [p])) ∧
      (p.type = 0x03 → ∃ t, exec (.page l p) s = .next t ∧ numbered t ∧ (tget e.mirrorA no = none → tget e.mirrorB no = none →
        ∃ m, tget t.ember.mirrorA no = some m ∧ m.step = objectStep p.object ∧ m.pages = [(p.offset, p.payload, p.srcUnit)] ∧
          m.complete = false)) ∧
      (p.type = 0x04 → ∃ t, exec (.stepDone l p) s = .next t ∧ numbered t ∧ ∀ m, tget e.mirrorA no = some m → tget e.mirrorB no = none →
        m.step = objectStep p.object → m.complete = false → ∃ m', tget t.ember.mirrorA no = some m' ∧
          m'.complete = (m.pages.length == p.offset.toNat) ∧ m'.pages = m.pages) ∧
      (p.type = 0x05 → ∃ t, exec (.key l p) s = .next t ∧ numbered t ∧
        tget t.ember.keys p.object.toNat = some (Config.unwrap s.trust.pairingKey p.payload)) ∧
      (p.type = 0x06 → ∃ t, exec (.keyDestroy l p) s = .next t ∧ numbered t ∧ tget t.ember.keys p.object.toNat = none ∧
        (∀ x ∈ t.ember.mirrorA, ∀ y ∈ x.2.pages, Config.pageKey x.1 x.2.step y.1.toNat ≠ p.object.toNat) ∧
        ∀ k, k ≠ p.object.toNat → tget t.ember.keys k = tget e.keys k) ∧
      (p.type = 0x07 → ∃ t, exec (.config l p) s = .next t ∧ numbered t ∧ p ∈ t.ember.configRx ∧
        ∀ q ∈ e.configRx, q.object ≠ p.object → q ∈ t.ember.configRx) ∧
      (p.type = 0x0A → ∃ t, exec (.handover l p) s = .next t ∧ numbered t ∧ t.ember.handover = true))) ∧ (
    ∀ (l : Nat) (p : EmberPkt) (s : State), s.emberOn = true → l < 2 → s.boot.stage ≠ .standby → s.ember.state ≠ .lost →
      p.crc = emberCrc p → p.hop = emberHop p →
      let up (t : State) : Prop := (if l = 0 then t.ember.up0 else t.ember.up1) = true
      (p.type = 0x08 → ∃ t, exec (.heartbeat l p) s = .next t ∧ up t ∧
        (t.ember.credit l).freedSeen = p.freed ∧ t = { s with ember := { s.ember with
          up0 := t.ember.up0, up1 := t.ember.up1, credit0 := t.ember.credit0, credit1 := t.ember.credit1 } }) ∧
      (p.type = 0x09 → (s.mgrRuns = false ∨ s.ember.waits = []) → ∃ t, exec (.emberAck l p) s = .next t ∧ up t ∧
        t.ember.unacked = s.ember.unacked.filter (fun q => p.object.toNat < q.seq) ∧ t.ember.waits = s.ember.waits ∧
        (s.ember.state = .syncing → (∃ q ∈ s.ember.unacked, q.seq ≤ p.object.toNat ∧ q.type = 0x01 ∧ q.last = true) →
          t.ember.state = if s.ember.abandons.any (fun x => 2 ≤ x.2) then .behind else .ready)) ∧
      (p.type = 0x0B → s.ember.taking.isSome = true → s.ember.handover = true → s.ember.grant = false → s.ember.rxNext ≤ p.seq →
        p.seq ∉ s.ember.rxAhead → ∃ t, exec (.taken l p) s = .next t ∧ t.boot.stage = .standby ∧ t.trust.sessions = [] ∧
        t.trust.gens = [] ∧ t.mem.sets = quenchedSets ∧ t.mgr = Mgr.reset ∧ t.ember.state = .syncing ∧ t.ember.taking = none) ∧
      (p.type = 0x0B → p.seq < s.ember.rxNext → ∃ t, exec (.taken l p) s = .next t ∧ t.boot = s.boot ∧ t.mgr = s.mgr ∧
        t.ember.taking = s.ember.taking))

/-- The redundancy commands (R518, R524, R529, Table 15-6): status and a save answer at once; a takeover with ARM begins an
orderly reset from READY or BEHIND, and is refused with S_BUSY from any other state, and with S_BAD_ARG without ARM; pairing
takes one identity index and is stored, and ends with S_NO_INDEX where there is none; a partner that does not answer, fails
its endorsement or holds the grant leaves everything as it is; unpairing is stored too. FABRIC_GRANT at a standby brings up
what is not up, for a takeover where it holds a takeover point and as the active without one (R530, R535), with the record
of the stored configuration; a running module that lost the grant takes it back (R534); one that is off with the input
switch closed notes it (R554); one that holds it is not moved. Forms that complete here, each with a next state given under
hypotheses on state and operands alone: redStatus, redSaveNow, redTakeover, redPairSet, fabricGrant. -/
def Obligations.RedundancyAndTakeover : Prop :=
  (
    ∀ (id : Nat) (c : Cmd) (s : State),
      (s.Ready id 0x0B01 c → ∃ b, exec (.redStatus id) s = .next ((s.markStarted id).finish id (ok b)) ∧ b.length = 24 ∧
        natAt b 0 1 = (if s.ember.paired then 1 else 0) ∧ natAt b 1 1 = s.ember.state.code ∧ natAt b 8 8 = s.ember.imageLap.toNat ∧
        natAt b 16 8 = ((s.ember.urgent ++ s.ember.image ++ s.ember.pages).map emberBytes).sum % 2 ^ 64) ∧
      (s.Ready id 0x0B02 c → ∃ t : State, exec (.redSaveNow id) s = .next (t.finish id (ok (leBytes 8 0 ++ bvBytes s.lap))) ∧
        t.ember.imageNo = s.ember.imageNo + 1 ∧ t.ember.imageLap = s.lap ∧ t.fw.imageSaved = true ∧ t.mgr = s.mgr ∧
        t.hif = (s.markStarted id).hif) ∧
      (s.Ready id 0x0B03 c → c.bit 32 0 = false → exec (.redTakeover id) s = .next ((s.markStarted id).finish id (bad 32))) ∧
      (s.Ready id 0x0B03 c → c.bit 32 0 = true →
        (s.ember.state = .ready ∨ s.ember.state = .behind → s.ember.taking = none → ∃ t, exec (.redTakeover id) s = .next t ∧
          t.ember.taking = some id ∧ t.ember.state = .taking ∧ t.boot.paused = true ∧ t.boot.prPhase = 1) ∧
        ((s.ember.state ≠ .ready ∧ s.ember.state ≠ .behind) ∨ s.ember.taking.isSome = true →
          exec (.redTakeover id) s = .next ((s.markStarted id).finish id (fail sBusy)))) ∧
      (s.Ready id 0x0B04 c → c.bit 32 0 = true →
        exec (.redPairSet id 1) s = .next ((s.markStarted id).finish id (fail sTopology)) ∧
        exec (.redPairSet id 2) s = .next ((s.markStarted id).finish id (fail sBadSignature)) ∧
        exec (.redPairSet id 3) s = .next ((s.markStarted id).finish id (fail sBusy)) ∧
        (s.trust.identity.take s.skips = none →
          exec (.redPairSet id 0) s = .next ((s.markStarted id).finish id (fail sNoIndex))) ∧
        ∀ i k, s.trust.identity.take s.skips = some (i, k) → ∃ t, exec (.redPairSet id 0) s = .next t ∧ t.trust.identity = k ∧
          t.ember.paired = true ∧ t.ember.state = .syncing ∧ t.cfg.live.pairing = true ∧ t.ember.txNext = 0 ∧ t.ember.rxNext = 0) ∧
      (∀ partner, s.Ready id 0x0B04 c → c.bit 32 0 = false → ∃ t, exec (.redPairSet id partner) s = .next t ∧ t.ember.paired = false ∧
        t.ember.state = .none ∧ t.cfg.live.pairing = false)) ∧ (
    ∀ s : State,
      (s.ember.grant = true → exec .fabricGrant s = .next s) ∧
      (s.ember.grant = false → s.boot.stage = .standby → ∃ t, exec .fabricGrant s = .next t ∧ t.ember.grant = true ∧
        t.ember.takeover = s.ember.newest.isSome ∧ t.ember.active = !s.ember.newest.isSome ∧ t.boot.wave = 0 ∧ t.boot.substep = 1 ∧
        t.boot.stage = (if s.boot.pllLock = false then .pllWait else if s.boot.fuseOk = false then .fuseWait else .bellows) ∧
        t.mgr.record = t.cfg.live.record) ∧
      (s.ember.grant = false → s.boot.stage = .running → ∃ t, exec .fabricGrant s = .next t ∧ t.ember.grant = true ∧
        t.ember.active = true ∧ t.ember.takeBack = false) ∧
      (s.ember.grant = false → s.boot.stage = .off → exec .fabricGrant s =
        .next (if s.boot.switchOn = true then { s with ember := { s.ember with grant := true } } else s)))

/-! ## Host commands -/

/-- Commands that only ask (R197, R399, R400, R408, R409, R511) change nothing but their own slot: each ends with S_OK and
the bytes of its table, or with S_BAD_ARG for a tenant, heat or entry that the source may not name. Forms that complete
here, each with a next state given under hypotheses on state and operands alone: devIdentify, devStatus, devCalRead,
topoRecRead, topoEntryQuery, routeQuery, heatQuery, heatList, tenantGet, cacheList, savedList, updateQuery, memQuery. -/
def Obligations.QueriesAnswer : Prop :=
  ∀ (id : Nat) (c : Cmd) (s : State),
    let done (a : Ans) : State := (s.markStarted id).finish id a
    let mine : Bool := c.src.mayNameTenant (c.num 32 2)
    (s.Ready id 0x0101 c → ∃ b, exec (.devIdentify id) s = .next (done (ok b)) ∧ b.length = 69 ∧ bytesAt b 8 16 = orderCode ∧
      natAt b 25 1 = (if s.boot.grade then 1 else 0) ∧ natAt b 60 4 = s.trust.powerCycles.toNat ∧
      natAt b 64 4 = s.trust.operatingS.toNat) ∧
    (s.Ready id 0x0102 c → ∃ b, exec (.devStatus id) s = .next (done (ok b)) ∧ b.length = 24 ∧ natAt b 5 1 = s.mgr.fabricState % 256 ∧
      natAt b 16 4 = s.mgr.fabricGen.toNat ∧ natAt b 20 4 = s.hif.dropped.toNat) ∧
    (s.Ready id 0x0104 c → exec (.devCalRead id) s = .next (done (okData c
      (leBytes 4 s.cfg.cal.length ++ leBytes 1 (if s.cfg.calFactory then 1 else 0)) s.cfg.cal))) ∧
    (s.Ready id 0x0203 c → exec (.topoRecRead id) s = .next (done (okData c [] (if c.bit 32 0 then shadowBytes s.cfg.shadow
      else (s.mgr.record.map Config.recordBytes).getD [])))) ∧
    (s.Ready id 0x0208 c → (s.hasEntry (c.num 32 2) = false → exec (.topoEntryQuery id) s = .next (done (bad 32))) ∧
      (s.hasEntry (c.num 32 2) = true → ∃ b, exec (.topoEntryQuery id) s = .next (done (ok b)) ∧ b.length = 16 ∧
        natAt b 0 1 = (s.entry (c.num 32 2)).service.code ∧ natAt b 8 8 = ((s.entry (c.num 32 2)).stamp.getD 0).toNat)) ∧
    (s.Ready id 0x0303 c → ∃ b, exec (.routeQuery id) s = .next (done (ok b)) ∧ b.length = 32 ∧ natAt b 0 1 = s.mgr.epoch.toNat ∧
      natAt b 1 1 = s.mgr.routing % 256 ∧ natAt b 4 4 = s.cfg.live.drainUs % 2 ^ 32) ∧
    (s.Ready id 0x0405 c → exec (.heatQuery id) s = .next (done (match s.heatFor c.src (c.num 32 2) with
      | some h => ok (s.heatResult (c.num 32 2) h)
      | none => bad 32))) ∧
    (s.Ready id 0x0406 c → exec (.heatList id) s = .next (done (if mine then okData c (leBytes 4 (s.heatsOf (c.num 32 2)).length)
      ((s.heatsOf (c.num 32 2)).flatMap fun h => leBytes 2 h.1) else bad 32))) ∧
    (s.Ready id 0x0408 c → (mine = false → exec (.tenantGet id) s = .next (done (bad 32))) ∧ (mine = true → ∃ b, exec (.tenantGet id) s = .next (done (ok b)) ∧
      b.length = 20 ∧ natAt b 8 8 = (tenantRec s.cfg.live.tenants (c.num 32 2)).toNat ∧
      natAt b 16 2 = (s.heatsOf (c.num 32 2)).length % 65536)) ∧
    (s.Ready id 0x0505 c → (mine = false → exec (.cacheList id) s = .next (done (bad 32))) ∧ (mine = true → ∃ b,
      exec (.cacheList id) s = .next (done (okData c (leBytes 4 (s.mem.cache.filter fun e => e.tenant == c.num 32 2).length) b)) ∧
      b.length = 48 * (s.mem.cache.filter fun e => e.tenant == c.num 32 2).length)) ∧
    (s.Ready id 0x0601 c → (mine = false → exec (.savedList id) s = .next (done (bad 32))) ∧ (mine = true → ∃ b,
      exec (.savedList id) s = .next (done (okData c (leBytes 4 (s.mem.saved.filter fun x => x.tenant == c.num 32 2).length) b)) ∧
      b.length = 48 * (s.mem.saved.filter fun x => x.tenant == c.num 32 2).length)) ∧
    (s.Ready id 0x0605 c → exec (.updateQuery id) s = .next (done (match s.heatFor c.src (c.num 32 2), s.forgeOf (c.num 32 2) with
      | some _, some f => ok (expBytes f.plan.lsExp ++ leBytes 6 0 ++ leBytes 8 f.plan.applied ++ bvBytes f.plan.lastNorm ++
          bvBytes f.plan.flags)
      | _, _ => bad 32))) ∧
    (s.Ready id 0x0701 c → ∃ b, exec (.memQuery id) s = .next (done (ok b)) ∧ b.length = 80 ∧
      (∀ h, h < 16 → natAt b (4 * h) 4 = s.mem.free .p h % 2 ^ 32) ∧ natAt b 76 4 = s.cfg.live.cacheGib % 2 ^ 32)

/-- Stored settings (R177, R193, R249, R301, R407): a value in range takes force at once and joins the next write, without a
reply or anything else sent; once that write has been read back the slot that was not in force holds it, and its commands
are answered; a value out of range is S_BAD_ARG. An enabled tenant has a key (R464). The installation record and the
calibration set (R404, R408, R409): a piece goes into the shadow alone, at its offset; a record is stored only with no heat
open and with every limit kept, and not when it has no bytes, and the record in force stays as it is; a whole calibration
set with ARM takes the place of the former one, with its header, and clears CAL_FACTORY; without ARM it is S_BAD_ARG. A
buffer that PCIe does not deliver leaves the stored configuration as it is (R394). Forms that complete here, each with a
next state given under hypotheses on state and operands alone: topoProbeSet, routeDrainSet, tenantSet, cacheSet,
configWriteDone, topoRecWrite, topoRecCommit, devCalWrite. -/
def Obligations.SettingsAndRecords : Prop :=
  (
    ∀ (id : Nat) (c : Cmd) (s : State),
      let refused (i : Instr) (a : Ans) : Prop := exec i s = .next ((s.markStarted id).finish id a)
      let stored (t : State) (live : Stored) : Prop := t.cfg.live = live ∧ t.hif = (s.markStarted id).hif ∧ t.out = s.out ∧
        (s.cfg.writing = none → t.cfg.writing = some (CfgSlot.of (s.cfg.seq + 1) live) ∧ t.cfg.writeCmds.map (·.cmd) = [id]) ∧
        (s.cfg.writing.isSome = true → t.cfg.writing = s.cfg.writing ∧ t.cfg.nextCmds.map (·.cmd) = s.cfg.nextCmds.map (·.cmd) ++ [id])
      (s.Ready id 0x0207 c →
        (5 ≤ c.num 32 4 → c.num 32 4 ≤ 3600 → ∃ t, exec (.topoProbeSet id) s = .next t ∧
          stored t { s.cfg.live with probeS := c.num 32 4 }) ∧
        (c.num 32 4 < 5 ∨ 3600 < c.num 32 4 → refused (.topoProbeSet id) (bad 32))) ∧
      (s.Ready id 0x0302 c →
        (20 ≤ c.num 32 4 → c.num 32 4 ≤ 20000 → ∃ t, exec (.routeDrainSet id) s = .next t ∧
          stored t { s.cfg.live with drainUs := c.num 32 4 }) ∧
        (c.num 32 4 < 20 ∨ 20000 < c.num 32 4 → refused (.routeDrainSet id) (bad 32))) ∧
      (s.Ready id 0x0407 c → let v : BitVec 64 := BitVec.ofNat 64 (c.num 40 8)
        (recGood v = true → ∃ t, exec (.tenantSet id) s = .next t ∧
          stored t { s.cfg.live with tenants := tset s.cfg.live.tenants (c.num 32 2) v } ∧
          (recEnabled v = true → t.trust.live (c.num 32 2) ≠ [])) ∧
        (recGood v = false → refused (.tenantSet id) (bad 40))) ∧
      (s.Ready id 0x0702 c →
        (256 < c.num 32 4 → refused (.cacheSet id) (bad 32)) ∧
        (c.num 32 4 ≤ 256 → cacheUse (s.mem.cache.filter s.pinned) ≤ c.num 32 4 * gibPages →
          c.num 32 4 * gibPages ≤ ((List.range 16).map (s.mem.placeable .c)).sum →
          ∃ t, exec (.cacheSet id) s = .next t ∧ stored t { s.cfg.live with cacheGib := c.num 32 4 })) ∧
      (∀ w, s.cfg.writing = some w →
        exec (.configWriteDone false) s = .next s ∧
        ∃ t, exec (.configWriteDone true) s = .next t ∧ t.cfg.seq = w.seq ∧ t.cfg.live = s.cfg.live ∧
          (s.cfg.nextCmds = [] → t.cfg.writing = none ∧
            t = s.cfg.writeCmds.foldl (fun t x => t.finish x.cmd (ok x.result))
              (({ s with cfg := s.cfg.written w } : State).streamConfig w.body) ∧
            if s.cfg.flashA.map (·.seq) = some s.cfg.seq then t.cfg.flashB = some w ∧ t.cfg.flashA = s.cfg.flashA
            else t.cfg.flashA = some w ∧ t.cfg.flashB = s.cfg.flashB)) ∧
      (s.cfg.writing = none → exec (.configWriteDone true) s = .next s)) ∧ (
    ∀ (id : Nat) (c : Cmd) (s : State),
      (∀ data, s.Ready id 0x0201 c → c.dataLen ≤ 1048576 → s.mgr.heats = [] → ∃ t, exec (.topoRecWrite id data) s = .next t ∧
        t.mgr = s.mgr ∧ t.cfg = { s.cfg with shadow := t.cfg.shadow } ∧ ∀ i, tget t.cfg.shadow i =
          if s.bufferFails c = false ∧ c.num 32 8 ≤ i ∧ i < c.num 32 8 + c.dataLen then some (((c.buffer data)[i - c.num 32 8]?).getD 0)
          else tget s.cfg.shadow i) ∧
      (s.Ready id 0x0202 c →
        (s.mgr.heats ≠ [] → exec (.topoRecCommit id) s = .next ((s.markStarted id).finish id (fail sBusy))) ∧
        (s.mgr.heats = [] → ∃ t, exec (.topoRecCommit id) s = .next t ∧ t.mgr = s.mgr ∧
          match s.shadowRecord (c.num 32 8) with
          | none => t = (s.markStarted id).finish id (bad 32)
          | some r => c.num 32 8 ≠ 0 ∧ r.good s.quadSlot = true ∧ t.cfg.live = { s.cfg.live with record := some r })) ∧
      (∀ data, s.Ready id 0x0105 c → c.bit 32 0 = true → c.dataLen + 32 ≤ 1048576 → ∃ t, exec (.devCalWrite id data) s = .next t ∧
        if s.bufferFails c = true then t.cfg = s.cfg
        else let set := bytesAt (c.buffer data) 0 c.dataLen
          t.cfg = { s.cfg with cal := set, calHead := bytesAt (slotBytes 0 set) 0 32, calValid := true, calFactory := false }) ∧
      (∀ data, s.Ready id 0x0105 c → c.bit 32 0 = false → s.bufferFails c = false → ∃ u : State,
        exec (.devCalWrite id data) s = .next (u.finish id (bad 32)) ∧ u = { s.markStarted id with free := u.free }))

/-- Topology and route commands (R141, R166, R236, R249, R432): a discovery begins only with no heat open, a record stored
and none under way, and makes FABRIC_STATE 1 with the ports of the stored record; a full computation and the retraining of a
Chrohar port that is up and not being retrained are put on the manager's work when the fabric is in service; an entry of the
record is held, with REPAIR_HELD where that is asked; one that is out of service is probed, and one in service is answered
at once. Forms that complete here, each with a next state given under hypotheses on state and operands alone: topoDiscover,
routeFull, topoPortRetrain, topoEntryHold, topoReadmit. -/
def Obligations.TopologyCommands : Prop :=
  ∀ (id : Nat) (c : Cmd) (s : State),
    let ended (i : Instr) (a : Ans) : Prop := exec i s = .next ((s.markStarted id).finish id a)
    let e := c.num 32 2
    (s.Ready id 0x0204 c →
      (s.mgr.heats ≠ [] → ended (.topoDiscover id) (fail sBusy)) ∧
      (s.mgr.heats = [] → s.cfg.live.record = none → ended (.topoDiscover id) (fail sTopology)) ∧
      (s.mgr.heats = [] → s.cfg.live.record.isSome = true → s.mgr.fabricState ≠ 1 → ∃ t, exec (.topoDiscover id) s = .next t ∧
        t.mgr.fabricState = 1 ∧ t.mgr.record = s.cfg.live.record ∧ t.mgr.entries = [] ∧ t.mgr.jobs = [] ∧
        t.mgr.disc.cmd = some id ∧ tkeys t.link.ports = tkeys (installedPorts s.cfg.live.record))) ∧
    (s.Ready id 0x0301 c →
      (∀ v, s.outOfFabric = some v → ended (.routeFull id) (fail v)) ∧
      (s.outOfFabric = none → exec (.routeFull id) s =
        .next ((s.markStarted id).addJob (epochSteps true ++ [.routeReply id]) none).settle)) ∧
    (s.Ready id 0x0209 c →
      (tget s.link.ports e = none → ended (.topoPortRetrain id) (bad 32)) ∧
      ((tget s.link.ports e).isSome = true → (s.link.port e).isUp = false ∨ s.retraining e = true →
        ended (.topoPortRetrain id) (fail sBusy)) ∧
      ((tget s.link.ports e).isSome = true → (s.link.port e).isUp = true → s.retraining e = false → s.outOfFabric = none →
        exec (.topoPortRetrain id) s =
          .next ((s.markStarted id).addJob (epochSteps false ++ [.retrain e, .wait, .portReply e id]) none).settle)) ∧
    (s.Ready id 0x0205 c →
      (s.hasEntry e = false → ended (.topoEntryHold id) (bad 32)) ∧
      (s.hasEntry e = true → ∃ t : State, exec (.topoEntryHold id) s =
        .next (t.settle.finish id (ok (leBytes 1 (t.entry e).service.code))) ∧ t = (s.markStarted id).holdEntry e (c.bit 34 0))) ∧
    (s.Ready id 0x0206 c →
      (s.hasEntry e = false → ended (.topoReadmit id) (bad 32)) ∧
      (s.hasEntry e = true → (s.entry e).service = .inService ∨ (s.entry e).service = .failedForwarding →
        ended (.topoReadmit id) (ok (leBytes 1 (s.entry e).service.code))) ∧
      (s.hasEntry e = true → (s.entry e).service = .repairHeld ∨ (s.entry e).service = .outOfService → ∃ t : State,
        exec (.topoReadmit id) s = .next (t.startProbe e).settle ∧ (t.entry e).service = .outOfService ∧
        t.mgr.readmitCmds = s.mgr.readmitCmds ++ [(id, e)]))

/-- Heat commands enter the heat queue in order, with the next sequence number and the tenant records then in force (R193,
R198); nothing is answered before the queue comes to them. The head of the heat queue (R166, R199, R214, R215, Table 5-3):
it is served when the manager has nothing in hand, and also while it can share the epoch that is being computed, which an
unfence never does; a bad carve word ends with S_BAD_ARG, one before discovery with S_BUSY, one of a tenant that is not
enabled with S_QUOTA, one that passes every check and finds a place sets its heat up, and a release or fence of no open heat
ends with S_BAD_ARG. Forms that complete here, each with a next state given under hypotheses on state and operands alone:
heatCarve, heatRelease, heatFence, heatUnfence, heatQueueHead. -/
def Obligations.HeatCommands : Prop :=
  (
    ∀ (id : Nat) (c : Cmd) (s : State),
      let queued (op : HeatOp) : State := { s.markStarted id with mgr := { s.mgr with
        queue := s.mgr.queue ++ [{ op := op, seq := s.mgr.heatSeq, cmd := some id, records := s.cfg.live.tenants }],
        heatSeq := s.mgr.heatSeq + 1 } }
      (s.Ready id 0x0401 c → exec (.heatCarve id) s = .next (queued (.carve (BitVec.ofNat 64 (c.num 32 8)) none))) ∧
      (s.Ready id 0x0402 c → exec (.heatRelease id) s = .next (queued (.release (c.num 32 2) (c.bit 34 0)))) ∧
      (s.Ready id 0x0403 c → exec (.heatFence id) s = .next (queued (.fence (c.num 32 2) (c.num 36 2)))) ∧
      (s.Ready id 0x0404 c → exec (.heatUnfence id) s = .next (queued (.unfence (c.num 32 2) (c.num 36 2))))) ∧ (
    ∀ (s : State), s.mgrRuns = true →
      (s.mgr.queue = [] → exec .heatQueueHead s = .next s.settle) ∧
      (∀ q rest, s.mgr.jobs ≠ [] → s.mgr.fabricState = 2 → s.mgr.queue = q :: rest →
        s.joins q.op = false ∨ s.computing = false ∨ (∃ no rank, q.op = .unfence no rank) →
        exec .heatQueueHead s = .next s.settle) ∧
      ∀ q rest id, s.mgr.jobs = [] ∨ s.mgr.fabricState ≠ 2 ∨ s.joins q.op = true →
        s.mgr.queue = q :: rest → q.cmd = some id →
        let u : State := { s with mgr := { s.mgr with queue := rest } }
        (∀ w, q.op = .carve w none →
          (carveWordBad w = true → exec .heatQueueHead s = .next (u.finish id (bad 32)).settle) ∧
          (carveWordBad w = false → (∀ k, s.cmd id = some k → k.src.mayNameTenant (carveTenant w) = true) → ∀ r, s.mgr.record = some r → carveBad r w = false → s.mgr.fabricState ≠ 2 →
            s.mgr.fabricState ≠ 3 → exec .heatQueueHead s = .next (u.finish id (fail sBusy)).settle) ∧
          (carveWordBad w = false → (∀ k, s.cmd id = some k → k.src.mayNameTenant (carveTenant w) = true) → ∀ r, s.mgr.record = some r → carveBad r w = false → s.mgr.fabricState = 2 →
            recEnabled (tenantRec q.records (carveTenant w)) = false →
            exec .heatQueueHead s = .next (u.finish id (fail sQuota)).settle) ∧
          (s.carveChecks ((s.cmd id).map (·.src)) q.records w = none → ∀ n h ts, s.net = some n →
            (s.placing n q.records).search w q.seq = some (h, ts) → exec .heatQueueHead s = .next (u.setUpHeat n q h ts).settle)) ∧
        (∀ no keep, q.op = .release no keep → tget s.mgr.heats no = none →
          exec .heatQueueHead s = .next (u.finish id (bad 32)).settle) ∧
        (∀ no rank, q.op = .fence no rank ∨ q.op = .unfence no rank → tget s.mgr.heats no = none →
          exec .heatQueueHead s = .next (u.finish id (bad 32)).settle))

/-- Plan loads (R31, R298, R299, R303, R382, R394, R401): one for a heat that its source may not name is S_BAD_ARG, then one
on a heat that has a plan or a load under way S_BUSY, then a cached one of an image that the cache does not hold
S_NOT_CACHED, or S_BAD_ARG from a VF where another tenant's entry has the hash, and one whose entry cannot be read
S_DATA_ERROR; any other is judged, placed and begun, or ends with the status that its checks give. An image that PCIe does
not deliver is S_HOST_ERROR. Plan commands (R401 to R403): a held plan begins with PLAN_GO, and only a held one; a stop of a
heat without a plan that is not in STATE 3 is S_BAD_ARG, one during a load S_BUSY, and any other leaves no plan; values are
imported only into a held plan, and exported only of a saved step that can be read. Forms that complete here, each with a
next state given under hypotheses on state and operands alone: planLoadCached, planLoad, planGo, planStop, stateImport,
stateExport. -/
def Obligations.PlanCommands : Prop :=
  (
    ∀ (id : Nat) (c : Cmd) (s : State),
      let ended (i : Instr) (a : Ans) : Prop := exec i s = .next ((s.markStarted id).finish id a)
      let no := c.num 32 2
      (s.Ready id 0x0502 c →
        (∀ err, s.heatFor c.src no = none → ended (.planLoadCached ⟨id, err⟩) (bad 32)) ∧
        (∀ err h, s.heatFor c.src no = some h → h.plan.isSome = true ∨ s.loading no = true →
          ended (.planLoadCached ⟨id, err⟩) (fail sBusy)) ∧
        (∀ err h, s.heatFor c.src no = some h → h.plan = none → s.loading no = false →
          (s.mem.cache.find? fun e => e.tenant == h.tenant && e.image.hash == c.hash 64) = none →
          ended (.planLoadCached ⟨id, err⟩)
            (if c.src.isVf = true ∧ ∃ e ∈ s.mem.cache, e.image.hash = c.hash 64 then bad 64 else fail sNotCached)) ∧
        (∀ err h e, s.heatFor c.src no = some h → h.plan = none → s.loading no = false →
          (s.mem.cache.find? fun e => e.tenant == h.tenant && e.image.hash == c.hash 64) = some e → err = true ∨ e.torn = true →
          ended (.planLoadCached ⟨id, err⟩) (fail sDataError)) ∧
        (∀ h e n, s.heatFor c.src no = some h → (s.mem.cache.find? fun e => e.tenant == h.tenant && e.image.hash == c.hash 64) = some e →
          s.net = some n → e.torn = false →
          (h.plan = none → s.loading no = false → c.num 35 1 ≤ 1 → exec (.planLoadCached ⟨id, false⟩) s = .next (
            match (s.markStarted id).loadPlan n no h { image := e.image, supplied := e.image.imageBytes, stochastic := c.num 35 1 == 1
                                                       seed := BitVec.ofNat 64 (c.num 40 8), resume := c.num 48 8
                                                       savedId := c.num 56 8, hold := c.bit 34 1, enter := true, cmd := some c.id
                                                       restart := none, moved := 0 } with
            | .inl a => (s.markStarted id).finish id a
            | .inr u => (u.startLoad no).settle)))) ∧
      (∀ bytes sections, s.Ready id 0x0501 c → ∃ t u : State, exec (.planLoad id ⟨bytes, sections⟩) s = .next t ∧ u = { s.markStarted id with free := u.free } ∧
          if s.bufferFails c = true then t = u.reply id (fail sHostError)
          else
            (s.heatFor c.src no = none → t = u.finish id (bad 32)) ∧
            ∀ h n, s.heatFor c.src no = some h → s.net = some n →
              (h.plan.isSome = true ∨ s.loading no = true → t = u.finish id (fail sBusy)) ∧
              (h.plan = none → s.loading no = false → c.num 35 1 ≤ 1 → t = (
                match u.loadPlan n no h { image := readImage bytes sections, supplied := c.dataLen, stochastic := c.num 35 1 == 1
                                          seed := BitVec.ofNat 64 (c.num 40 8), resume := c.num 48 8
                                          savedId := c.num 56 8, hold := c.bit 34 1, enter := !c.bit 34 0, cmd := some c.id
                                          restart := none, moved := c.dataLen } with
                | .inl a => u.finish id a
                | .inr v => (v.startLoad no).settle)))) ∧ (
    ∀ (id : Nat) (c : Cmd) (s : State),
      let ended (i : Instr) (a : Ans) : Prop := exec i s = .next ((s.markStarted id).finish id a)
      let no := c.num 32 2
      (s.Ready id 0x0503 c → ∀ h, s.heatFor c.src no = some h →
        (h.heldPlan = false → ended (.planGo id) (bad 32)) ∧
        (h.heldPlan = true → ∃ t : State, exec (.planGo id) s = .next (t.finish id (ok [])) ∧
          ∀ p, h.plan = some p → h.fenced = [] → ∃ k q, tget t.mgr.heats no = some k ∧ k.plan = some q ∧ k.state = 1 ∧ q.held = false ∧
            q.elems = p.elems ∧ (q.lastSaved.map (·.step)) = some p.resume)) ∧
      (s.Ready id 0x0504 c → ∀ h, s.heatFor c.src no = some h →
        (h.plan = none → h.state ≠ 3 → ended (.planStop id) (bad 32)) ∧
        (h.plan.isSome = true ∨ h.state = 3 → s.loading no = true → ended (.planStop id) (fail sBusy)) ∧
        (h.plan.isSome = true ∨ h.state = 3 → s.loading no = false → ∃ (t : State) (k : Nat), exec (.planStop id) s =
          .next (t.settle.finish id (ok (leBytes 8 0 ++ leBytes 8 k))) ∧ ∀ g, tget t.mgr.heats no = some g → g.plan = none)) ∧
      (∀ data, s.Ready id 0x0603 c → ∀ h f, s.heatFor c.src no = some h → s.forgeOf no = some f →
        ∃ t u : State, exec (.stateImport id data) s = .next t ∧ u = { s.markStarted id with free := u.free } ∧
          if s.bufferFails c = true then t = u.reply id (fail sHostError)
          else (s.loading no = true ∨ h.heldPlan = false → t = u.finish id (fail sBusy)) ∧
            (s.loading no = false → h.heldPlan = true → ∀ a, f.rangeFault c = some a → t = u.finish id a) ∧
            (s.loading no = false → h.heldPlan = true → f.rangeFault c = none → f.rangeBytes c ≤ c.dataLen → c.num 34 1 = 0 →
              c.num 48 8 = 1 → ∃ v : State, t = v.finish id { ok [] with bytes := f.rangeBytes c } ∧ ∀ p, h.plan = some p → ∃ k q, tget v.mgr.heats no = some k ∧
                k.plan = some q ∧ (elemOf q.elems (c.num 40 8)).w = BitVec.ofNat 32 (natAt (c.buffer data) 0 4))) ∧
      (∀ err, s.Ready id 0x0604 c → ∀ h, s.heatFor c.src no = some h →
        (s.exportFrom h (c.num 56 8) = none → ended (.stateExport id err) (bad (if c.num 56 8 = 0 then 32 else 56))) ∧
        ∀ x im, s.exportFrom h (c.num 56 8) = some (x, im) →
          (imageForge im = none → ended (.stateExport id err) (bad 32)) ∧
          ∀ d u, imageForge im = some (d, u) →
            (∀ a, rangeFault d u c = some a → ended (.stateExport id err) a) ∧
            (rangeFault d u c = none → x = none → ended (.stateExport id err) (bad 56)) ∧
            (∀ y, rangeFault d u c = none → x = some y → ended (.stateExport id true) (fail sDataError) ∧
              (y.torn = true → ended (.stateExport id err) (fail sDataError)) ∧
              (y.torn = false → ∃ b, exec (.stateExport id false) s = .next ((s.markStarted id).finish id (okData c [] b)) ∧ b.length = rangeBytes u c ∧
                (c.num 34 1 = 0 → c.num 48 8 = 1 → b = bvBytes (elemOf y.elems (c.num 40 8)).w)))))

/-! ## Frames -/

/-- A received frame (R61, R62, R76, R77, R85): one that fails a check is dropped and counted; while a port looks for a
frame start the others are skipped; one whose lane key the port does not allow ends there, counted, with its first key kept.
At the link tiles a packet for a hub EID of this module waits for its unit. A port that is down takes nothing. A frame
leaves a port that is up from its next ordinary slot (R57), only with credits for every cell of it on its channel (R83), and
its cells then count as sent (R84); at T0's turn its first tally that may start goes before what waits behind it (R185);
without one that may start, nothing leaves; a port that is down sends nothing, and drops what waits in it (R180). Forms that
complete here, each with a next state given under hypotheses on state and operands alone: frameReceive, frameSend. -/
def Obligations.Frames : Prop :=
  (
    ∀ (p : Nat) (f : Frame) (s : State),
      let good : Bool := f.fecOk && fwOk f.word && fwKind f.word == 0 && f.hop == hopCheck f.word f.pkt && fwLen f.word == pktCells f.pkt &&
        (fwVc f.word).getLsbD 1 == isBillet f.pkt
      (∀ a, (s.agent a).inReset = false →
        let g := s.agent a
        let q := g.port p
        (q.isUp = false → exec (.frameReceive (.agent a) p f) s = .next (s.setAgent a g)) ∧
        (q.isUp = true → q.resync = true → f.atFsp = false → ∃ t, exec (.frameReceive (.agent a) p f) s = .next t ∧
          (t.agent a).port p = q ∧ (t.agent a).arrived = g.arrived) ∧
        (q.isUp = true → (q.resync = false ∨ f.atFsp = true) → good = false → ∃ t, exec (.frameReceive (.agent a) p f) s = .next t ∧
          (t.agent a).port p = { q with errCount := q.errCount + 1, resync := !fwOk f.word } ∧ (t.agent a).arrived = g.arrived) ∧
        (q.isUp = true → (q.resync = false ∨ f.atFsp = true) → good = true → keyAllowed (g.keyEntry p) f.pkt.c.laneKey = false →
          ∃ t, exec (.frameReceive (.agent a) p f) s = .next t ∧ (t.agent a).arrived = g.arrived ∧
            ((t.agent a).port p).errCount = q.errCount ∧
            ((t.agent a).port p).fenceDrops = (if q.fenceDrops = BitVec.allOnes 32 then q.fenceDrops else q.fenceDrops + 1) ∧
            ((t.agent a).port p).fenceFirst = if q.fenceDrops = 0 then f.pkt.c.laneKey else q.fenceFirst)) ∧
      (s.hasPort .chrohar p = true → (s.link.port p).isUp = true → ((s.link.port p).resync = false ∨ f.atFsp = true) →
        (good = false → ∃ t, exec (.frameReceive .chrohar p f) s = .next t ∧ t.hub = s.hub ∧
          t.link.port p = { s.link.port p with errCount := (s.link.port p).errCount + 1, resync := !fwOk f.word }) ∧
        (good = true → s.link.allows p f.pkt.c.laneKey = true → s.isOwnHub f.pkt.c.dst = true → f.pkt.c.mcast = false →
          ∃ t, exec (.frameReceive .chrohar p f) s = .next t ∧
            t.hub = { s.hub with arrived := s.hub.arrived ++ [{ port := p, vc := fwVc f.word, pkt := f.pkt, hold := none, owed := true }] } ∧
            t.link.port p = { s.link.port p with resync := false, vcs := (t.link.port p).vcs }))) ∧ (
    ∀ (p : Nat) (s : State),
      (∀ a, (s.agent a).inReset = false →
        let g := s.agent a
        let q := g.port p
        (q.isUp = false → ∃ t, exec (.frameSend (.agent a) p) s = .next t ∧ t.out = s.out ∧
          ((t.agent a).port p).queue = [] ∧ (q.queue = [] → t.agent a = g)) ∧
        (q.isUp = true → (∀ x ∈ q.queue, x.void = false) → ∃ t, exec (.frameSend (.agent a) p) s = .next t ∧
          ((t.out = s.out ∧ (t.agent a).port p = { q with deficits := ((t.agent a).port p).deficits }) ∨
            ∃ x ∈ q.queue, q.ready x = true ∧ (x.origin = none →
              ((t.agent a).port p).queue.length + 1 = q.queue.length ∧ ((t.agent a).port p).tx.next = q.tx.next + pktCells x.pkt ∧
              (((t.agent a).port p).vcs.get x.vc).sent = (q.vcs.get x.vc).sent + BitVec.ofNat 16 (pktCells x.pkt)) ∧
              t.out = s.out ++ [.frame (.agent a) p (slotNo q.tx.next) (frameOf x.pkt x.vc (q.vcs.get x.vc).sent).1 x.pkt
                (frameOf x.pkt x.vc (q.vcs.get x.vc).sent).2])) ∧
        (∀ x y, q.isUp = true → q.tallyTurn = false → q.queue = [x, y] → x.void = false → y.void = false → lineOf x = 0 → q.ready x = true →
          ∃ t, exec (.frameSend (.agent a) p) s = .next t ∧ t.out = s.out ++ [.frame (.agent a) p (slotNo q.tx.next)
            (frameOf x.pkt x.vc (q.vcs.get x.vc).sent).1 x.pkt (frameOf x.pkt x.vc (q.vcs.get x.vc).sent).2])) ∧
      (∀ x, s.hasPort .chrohar p = true → (s.link.port p).isUp = true → (s.link.port p).tallyTurn = false →
        (s.link.port p).queue = [x] → x.void = false → x.origin = none → lineOf x = 0 →
        if (s.link.port p).ready x = true then ∃ t, exec (.frameSend .chrohar p) s = .next t ∧ (t.link.port p).queue = [] ∧
          t.out = s.out ++ [.frame .chrohar p (slotNo (s.link.port p).tx.next) (frameOf x.pkt x.vc ((s.link.port p).vcs.get x.vc).sent).1 x.pkt
            (frameOf x.pkt x.vc ((s.link.port p).vcs.get x.vc).sent).2]
        else ∃ t, exec (.frameSend .chrohar p) s = .next t ∧ t.out = s.out ∧ (t.link.port p).queue = [x]))

/-- Cells of dropped frames are made up for (R85): where an accepted frame's SENT_CUM is ahead of the count of cells
received on its channel, the difference counts as received and, at once, in FREED_CUM; the frame's own cells then count as
received, and as freed where the packet ends at the port. Forms that complete here, each with a next state given under
hypotheses on state and operands alone: frameReceive. -/
def Obligations.LostCellsAreReconciled : Prop :=
  ∀ (p d : Nat) (f : Frame) (s : State), d < 2 ^ 15 →
    f.fecOk && fwOk f.word && fwKind f.word == 0 && f.hop == hopCheck f.word f.pkt && fwLen f.word == pktCells f.pkt &&
      (fwVc f.word).getLsbD 1 == isBillet f.pkt →
    let n : BitVec 16 := BitVec.ofNat 16 (pktCells f.pkt)
    (∀ a, (s.agent a).inReset = false →
      let q := (s.agent a).port p
      let c := q.vcs.get (fwVc f.word)
      q.isUp = true → (q.resync = false ∨ f.atFsp = true) → fwSent f.word = c.received + BitVec.ofNat 16 d →
      ∃ t, exec (.frameReceive (.agent a) p f) s = .next t ∧
        (((t.agent a).port p).vcs.get (fwVc f.word)).received = c.received + BitVec.ofNat 16 d + n ∧
        (keyAllowed ((s.agent a).keyEntry p) f.pkt.c.laneKey = false →
          (((t.agent a).port p).vcs.get (fwVc f.word)).freed = c.freed + BitVec.ofNat 16 d + n)) ∧
    (let q := s.link.port p
      let c := q.vcs.get (fwVc f.word)
      s.hasPort .chrohar p = true → q.isUp = true → (q.resync = false ∨ f.atFsp = true) →
      fwSent f.word = c.received + BitVec.ofNat 16 d → s.link.allows p f.pkt.c.laneKey = true → s.isOwnHub f.pkt.c.dst = true →
      f.pkt.c.mcast = false → ∃ t, exec (.frameReceive .chrohar p f) s = .next t ∧
        ((t.link.port p).vcs.get (fwVc f.word)).received = c.received + BitVec.ofNat 16 d + n ∧
        ((t.link.port p).vcs.get (fwVc f.word)).freed = c.freed + BitVec.ofNat 16 d)

/-! ## Memory -/

/-- Pages (R222, R223, R301, R302, R466, R468): a quenched page is free; a page of the older key moves to the newer one, and
no page is gained or lost; a discarded saved state and a dropped cache entry keep none of their pages, which stay in the
count. A hash that only another tenant's entry has is an argument that a VF may not name (R382). A memory link (R433, R434):
its first loss is retrained at once, a second within 1 s holds it down, and a retraining that ends replies 0 for up and 1
for held; MEM_RETRAIN is refused while a retraining is under way, and the pages of a link that was held stay withheld until
it is up. Forms that complete here, each with a next state given under hypotheses on state and operands alone:
quenchPageDone, reencryptPageDone, cacheDrop, savedDiscard, memLinkLoss, memLinkRetrainDone, memRetrain. -/
def Obligations.PagesAndMemoryLinks : Prop :=
  (
    ∀ s : State,
      let pages (t : State) : Nat := (t.mem.sets.map (·.count)).sum
      let quench (t : State) : Nat := ((t.mem.sets.filter fun x => x.use.quenching).map (·.count)).sum
      (s.mem.loads = [] → quench s ≠ 0 → ∃ t, exec .quenchPageDone s = .next t.settle ∧ quench t + 1 = quench s ∧
        pages t + 1 = pages s ∧ t.mgr = s.mgr ∧ t.hif = s.hif ∧ t.mem.cache = s.mem.cache ∧ t.mem.saved = s.mem.saved) ∧
      (quench s = 0 → exec .quenchPageDone s = .next s) ∧
      (∃ t, exec .reencryptPageDone s = .next t ∧ pages t = pages s ∧ t.mgr = s.mgr ∧ t.hif = s.hif) ∧
      (∀ ten g o r x, s.trust.live ten = g :: o :: r → g ≠ o → s.mem.sets = [x] → x.tenant = ten → x.gen = o → x.count = 2 →
        x.use = .live 0 → ∃ t, exec .reencryptPageDone s = .next t ∧
          t.mem.sets = [{ x with count := 1 }, { x with count := 1, gen := g }]) ∧
      (∀ id c, s.Ready id 0x0506 c → c.src.mayNameTenant (c.num 32 2) = true →
        ((s.mem.cache.find? fun e => e.tenant == c.num 32 2 && e.image.hash == c.hash 64) = none →
          exec (.cacheDrop id) s = .next ((s.markStarted id).finish id
            (if c.src.isVf = true ∧ ∃ e ∈ s.mem.cache, e.image.hash = c.hash 64 then bad 64 else fail sNotCached))) ∧
        ∀ e, (s.mem.cache.find? fun e => e.tenant == c.num 32 2 && e.image.hash == c.hash 64) = some e →
          (s.pinned e = true → exec (.cacheDrop id) s = .next ((s.markStarted id).finish id (fail sBusy))) ∧
          (s.pinned e = false → ∃ t : State, exec (.cacheDrop id) s = .next (t.finish id (ok [])) ∧
            t.mem.cache = s.mem.cache.filter (fun y => y.order != e.order) ∧ pages t = pages s ∧
            (∀ y ∈ t.mem.sets, y.use ≠ .cache e.order) ∧ t.mgr = s.mgr ∧ t.hif = (s.markStarted id).hif)) ∧
      (∀ id c, s.Ready id 0x0602 c → c.src.mayNameTenant (c.num 32 2) = true →
        ((s.mem.saved.any fun x => x.savedId == c.num 56 8 && x.tenant == c.num 32 2) = false →
          exec (.savedDiscard id) s = .next ((s.markStarted id).finish id (bad 56))) ∧
        ((s.mem.saved.any fun x => x.savedId == c.num 56 8 && x.tenant == c.num 32 2) = true →
          ∃ t : State, exec (.savedDiscard id) s = .next (t.finish id (ok [])) ∧ pages t = pages s ∧
            t.mem.saved = s.mem.saved.filter (fun x => x.savedId != c.num 56 8) ∧ (∀ y ∈ t.mem.sets, y.use ≠ .kept (c.num 56 8))))) ∧ (
    ∀ (tier link : Nat) (t : Tier) (i : Nat) (s : State), memLink tier link = some (t, i) →
      let l := s.mem.link t i
      (l.state = 0 → (∀ x, l.lastLoss = some x → x + tickPerS ≤ s.ticks) → ∃ u, exec (.memLinkLoss tier link) s = .next u ∧
        u.mem = s.mem.setLink t i { l with state := 1, lastLoss := some s.ticks }) ∧
      (∀ x, l.state = 0 → l.lastLoss = some x → s.ticks < x + tickPerS → ∃ u, exec (.memLinkLoss tier link) s = .next u ∧
        u.mem = s.mem.setLink t i { state := 2, lastLoss := some s.ticks, cmd := none }) ∧
      ((l.state = 1 ∨ l.state = 3) → l.cmd = none →
        exec (.memLinkRetrainDone tier link true) s = .next { s with mem := s.mem.setLink t i { l with state := 0 } } ∧
        ∃ u, exec (.memLinkRetrainDone tier link false) s = .next u ∧ u.mem = s.mem.setLink t i { l with state := 2 }) ∧
      (∀ id, (l.state = 1 ∨ l.state = 3) → l.cmd = some id → exec (.memLinkRetrainDone tier link true) s =
        .next (({ s with mem := s.mem.setLink t i { l with state := 0, cmd := none } } : State).finish id (ok [0])) ∧
        ∃ u : State, exec (.memLinkRetrainDone tier link false) s = .next (u.finish id (ok [1])) ∧
          u.mem = s.mem.setLink t i { l with state := 2, cmd := none }) ∧
      (l.state ≠ 1 → l.state ≠ 3 → ∀ up, exec (.memLinkRetrainDone tier link up) s = .next s) ∧
      (l.state = 2 → ∀ x, (s.mem.setLink t i { l with state := 3, cmd := x }).withheldOf t i = s.mem.withheldOf t i) ∧
      ∀ id c, s.Ready id 0x0703 c → c.num 32 1 = tier → c.num 33 1 = link →
        ((l.state = 1 ∨ l.state = 3) → exec (.memRetrain id) s = .next ((s.markStarted id).finish id (fail sBusy))) ∧
        (l.state ≠ 1 → l.state ≠ 3 → ∃ u, exec (.memRetrain id) s = .next u ∧
          u.mem = s.mem.setLink t i { l with state := if l.state = 2 then 3 else 1, cmd := some id } ∧ u.out = s.out))

/-! ## The manager and the hub units -/

/-- While the manager is not there (no service, and no reconciliation) what is its own to take changes nothing (R436). -/
def Obligations.NothingHappensWithoutTheManager : Prop :=
  ∀ (c : Instr) (s : State), c.managed = true → s.mgrRuns = false → exec c s = .next s

/-- What ends a wait of the manager's work (R166, R176, R187, R355): the wait goes and the manager goes on; a procedure with
nothing left to do or to wait for is over. Reports of agents (R219, R226, R227, R229): each is taken from the hub's inbox; a
report with another stamp than the expected one is recorded and its entry leaves service, a width that changed goes into the
model and calls for an epoch, a port that is up below the record's minimum is held (R346), a fence's acknowledgement fences
its endpoint, and a RESEND_FAIL is gathered with its heat's. Forms that complete here, each with a next state given under
hypotheses on state and operands alone: drainExpire, runTeardownWaitExpire, routeComputeDone, ctrlReply, endpointReport,
linkEvent, fenceAck, resendFail, resendFailGatherExpire. -/
def Obligations.ManagerWaitsAndReports : Prop :=
  (
    ∀ (j : Job) (rest : List Job) (s : State), s.mgrRuns = true → s.mgr.jobs = j :: rest →
      let without (w : Wait) : State := { s with mgr := { s.mgr with jobs := { j with waits := j.waits.erase w } :: rest } }
      (.drain ∈ j.waits → exec .drainExpire s = .next (without .drain).settle) ∧
      (.teardown ∈ j.waits → exec .runTeardownWaitExpire s = .next (without .teardown).settle) ∧
      (∀ full, j.waits = [.compute full] → exec .routeComputeDone s = .next ((without (.compute full)).computed full).settle) ∧
      (∀ p, s.hub.inbox = [p] → isBillet p = false → p.c.type = tCtrlReply → .reply p.c.src.toNat (field (pktTally p) 0 8) ∈ j.waits →
        field (pktTally p) 0 8 ≠ (0x03#8) → field (pktTally p) 0 8 ≠ (0x04#8) → exec .ctrlReply s =
          .next (({ without (.reply p.c.src.toNat (field (pktTally p) 0 8)) with hub := { s.hub with inbox := [] } } : State).settle)) ∧
      (j.waits = [] → j.steps = [] → rest = [] → s.mgr.troubles = [] → s.mgr.gathers = [] → s.mgr.fencings = [] → s.mgr.probing = [] →
        s.mgr.readmit = none → s.settle = { s with mgr := { s.mgr with jobs := [] } })) ∧ (
    ∀ (p : Pkt) (s : State), s.mgrRuns = true → s.hub.inbox = [p] → isBillet p = false →
      let e := p.c.src.toNat
      let b := pktTally p
      let u : State := { s with hub := { s.hub with inbox := [] } }
      (p.c.type = tEndpointReport → s.fresh e (field b 16 32) (field b 48 16) = false →
        exec .endpointReport s = .next (u.stale e (field b 16 32) (field b 48 16)).settle) ∧
      (p.c.type = tEndpointReport → s.fresh e (field b 16 32) (field b 48 16) = true → (field b 0 6).toNat = 1 → ∀ x,
        s.heatOfEntry e = some x → exec .endpointReport s = .next (u.loseEndpoint e (b.getLsbD 15)).settle) ∧
      (p.c.type = tLinkEvent → s.fresh e (field b 48 32) (field b 80 16) = false →
        exec .linkEvent s = .next (u.stale e (field b 48 32) (field b 80 16)).settle) ∧
      (p.c.type = tLinkEvent → s.fresh e (field b 48 32) (field b 80 16) = true → ∀ r, s.mgr.record = some r →
        field b 7 3 ≠ stateCode .held →
        let port := (field b 0 4).toNat
        let w := eventWidth r s.boot.strap e b
        (w = 0 ∨ r.minOf e port ≤ w →
          (w = (tget s.mgr.widths (16 * e + port)).getD 0 → exec .linkEvent s = .next u.settle) ∧
          (w ≠ (tget s.mgr.widths (16 * e + port)).getD 0 → exec .linkEvent s = .next (({ u with mgr := { s.mgr with
            widths := tset s.mgr.widths (16 * e + port) w } } : State).requestEpoch).settle)) ∧
        (w ≠ 0 → w < r.minOf e port →
          let v : State := (u.holdPorts [(e, port)] true).1
          ((tget v.mgr.widths (16 * e + port)).getD 0 = 0 → exec .linkEvent s = .next v.settle) ∧
          ((tget v.mgr.widths (16 * e + port)).getD 0 ≠ 0 → exec .linkEvent s = .next (({ v with mgr := { v.mgr with
            widths := tset v.mgr.widths (16 * e + port) 0 } } : State).requestEpoch).settle))) ∧
      (p.c.type = tFenceAck → b.getLsbD 32 = true →
        (∀ f, (s.mgr.fencings.find? fun f => f.seq == field b 0 32 && f.entry == e) = some f →
          exec .fenceAck s = .next (u.fenceDone f).settle) ∧
        ((s.mgr.fencings.find? fun f => f.seq == field b 0 32 && f.entry == e) = none → exec .fenceAck s = .next u.settle)) ∧
      (p.c.type = tResendFail → ∀ no h, s.heatOfEntry e = some (no, h) → s.releasing no = false →
        exec .resendFail s = .next (u.gatherFail no { src := BitVec.ofNat 18 e, body := b }).settle) ∧
      (p.c.type = tResendFail → s.heatOfEntry e = none → exec .resendFail s = .next u.settle) ∧
      ∀ no, exec (.resendFailGatherExpire no) s = .next (({ s with mgr := { s.mgr with gathers := s.mgr.gathers.map fun g =>
        if g.heat = no then { g with ended := true } else g } } : State).settle))

/-- Discovery and probing (R136, R137, R141, R142, R225, R249): the forget cells' 20 ms end in fresh hub flows and tables,
and queries; a query without a reply goes again up to three tries; a logged port change leaves the log; PROBE_TIMER probes
what is out of service, once the fabric is in service, and the end of a probe's window ends the probe of an entry that no
port has reached. QUERY_ID counts up by the model's choice (log entry 140). Forms that complete here, each with a next state
given under hypotheses on state and operands alone: discoveryStart, discoverReplyTimeout, discoverReply, linkTilePortChange,
probeTimer, probeWindowClose. -/
def Obligations.DiscoveryAndProbes : Prop :=
  ∀ s : State,
    (∀ r, s.mgr.record = some r → s.link.forgetting = true → s.mgr.fabricState = 1 → s.mgr.disc.active = false →
      ∃ t, exec .discoveryStart s = .next t ∧ t.link.forgetting = false ∧ t.hub.inbox = [] ∧ t.hub.dsts = [] ∧
        t.link.current.epoch = 0 ∧ t.link.bitmaps = []) ∧
    (s.link.forgetting = false → exec .discoveryStart s = .next s) ∧
    (s.mgrRuns = true →
      (∀ q, s.mgr.disc.current = some q → s.mgr.disc.readmit = false → q.tries < 3 →
        exec .discoverReplyTimeout s = .next (s.sendQuery { q with tries := q.tries + 1 }).settle) ∧
      (∀ q, s.mgr.disc.current = some q → s.mgr.disc.readmit = false → 3 ≤ q.tries →
        exec .discoverReplyTimeout s = .next s.goOn.settle) ∧
      (s.mgr.disc.current = none → exec .discoverReplyTimeout s = .next s.settle) ∧
      (∀ x, s.hub.arrived = [x] → isBillet x.pkt = false → x.pkt.c.type = tDiscoverReply → tallyGood x.pkt = true →
        x.pkt.c.laneKey = mgrKey → s.mgr.disc.readmit = false → exec .discoverReply s =
          .next ((({ s with hub := { s.hub with arrived := [] }, link := s.link.release x.origin x.pkt } : State).takeReply
            (pktTally x.pkt)).settle)) ∧
      (∀ p, p ∉ s.link.log → exec (.linkTilePortChange p) s = .next s.settle) ∧
      (∀ p, p ∈ s.link.log → s.ember.takeover = false → ((s.link.port p).isUp && !(s.link.port p).nbrSeen) = true →
        exec (.linkTilePortChange p) s =
          .next (({ s with link := { s.link with log := s.link.log.filter (· != p) } } : State).startTakeover.requestEpoch).settle) ∧
      (∀ r, s.mgr.record = some r → s.mgr.fabricState ≠ 2 → exec .probeTimer s = .next s.settle) ∧
      (∀ r, s.mgr.record = some r → s.mgr.fabricState = 2 → exec .probeTimer s = .next (((List.range r.agents.length).filter fun e =>
        (s.entry e).service == .outOfService).foldl State.startProbe s).settle) ∧
      (∀ e, e ∉ s.mgr.probing → exec (.probeWindowClose e) s = .next s.settle) ∧
      (∀ e, s.net.any (Net.facedUp · e) = true → exec (.probeWindowClose e) s = .next s.settle) ∧
      ∀ e, e ∈ s.mgr.probing → s.net.any (Net.facedUp · e) = false → exec (.probeWindowClose e) s = .next ((({ s with mgr := { s.mgr with
        probing := s.mgr.probing.filter (· != e) } } : State).holdFacing e true).answerReadmit e).settle)

/-- Packets at the hub units (R90, R92, R93, R99, R108, R274, R562): the first of an acknowledged type that has arrived is
judged, and one that waited for a record is judged again once it finds one; an answer acts on the flow that it names; timers
act on theirs; what names no flow changes nothing. While the hub does not serve, what has arrived is turned away, with
MGR_BUSY where it is acknowledged. The pacer (R289): an arrival for the open step, or for the one after it, of a rank of the
heat counts once; one for another step, of a fenced rank, under another tenant's key or that names another rank is
discarded. Forms that complete here, each with a next state given under hypotheses on state and operands alone:
packetArrival, contribHeldAccept, ackTimerExpire, flowWindowSend, mcastChangedSetSend, busyHoldExpire, fenceNotice,
resendTimerExpire, nak, mgrBusy, ackReceive, hubPacketPaused, paceArrive. -/
def Obligations.HubPacketsAndPacer : Prop :=
  (
    ∀ (key : FlowKey) (s : State),
      (s.mgrRuns = true →
        (∀ x lost, s.hub.arrived = [x] → acknowledged x.pkt = true → s.hubTakes x = true → exec (.packetArrival ⟨.chrohar, lost⟩) s =
          .next (({ s with hub := { s.hub with arrived := [] } } : State).hubJudge x true lost).settle) ∧
        (∀ x, s.hub.noRoom = [] → s.hub.heldBack = [x] → s.holdsBack x.pkt = false → exec .contribHeldAccept s =
          .next (({ s with hub := { s.hub with heldBack := [] } } : State).hubJudge x false false).settle) ∧
        (∀ p, s.hub.noRoom = [p] → s.holdsBack p = false → exec .contribHeldAccept s =
          .next ((({ s with hub := { s.hub with noRoom := [] } } : State).hubDeliver p).pumpForge.endReady).settle) ∧
        (∀ d, findDst s.hub.dsts key = some d → exec (.ackTimerExpire .chrohar key) s =
          .next (if d.timer = true then s.hubAck d else s).settle) ∧
        (∀ f, (s.hub.srcs.find? fun f => f.key == key) = some f →
          exec (.flowWindowSend .chrohar key) s = .next ((s.hubLaunch (srcRelease s.hubEpoch false f)).dropAcked.endReady).settle ∧
          exec (.mcastChangedSetSend .chrohar key) s = .next ((s.hubLaunch (srcRelease s.hubEpoch true f)).dropAcked.endReady).settle ∧
          (∀ q, exec (.busyHoldExpire .chrohar key q) s = .next ((s.hubLaunch (srcHoldEnd s.hubEpoch f q)).dropAcked.endReady).settle) ∧
          (∀ i b, exec (.fenceNotice .chrohar key i b) s = .next ((s.hubLaunch (srcFence f i b)).dropAcked.endReady).settle) ∧
          (∀ q, lastTry f q = false → exec (.resendTimerExpire .chrohar key q) s =
            .next (s.hubLaunch (srcExpire s.hubEpoch f q)).settle) ∧
          (∀ q c, lastTry f q = true → copyOf f q = some c → exec (.resendTimerExpire .chrohar key q) s = .next (s.hubFails f c).settle)) ∧
        (∀ x f, s.hub.arrived = [x] → isBillet x.pkt = false → tallyGood x.pkt = true → s.hearsAnswer x = true →
          let u : State := { s with hub := { s.hub with arrived := [] }, link := s.link.release x.origin x.pkt }
          (x.pkt.c.type = tNak → (s.hub.srcs.find? fun f => f.key == nakKey x.pkt) = some f → exec (.nak .chrohar) s =
            .next ((u.hubLaunch (nakAct s.hubEpoch x.pkt f)).dropAcked.endReady).settle) ∧
          (x.pkt.c.type = tMgrBusy → (s.hub.srcs.find? fun f => f.key == busyKey x.pkt) = some f → exec (.mgrBusy .chrohar) s =
            .next ((u.hubLaunch (busyAct x.pkt f)).dropAcked.endReady).settle) ∧
          (x.pkt.c.type = tAck → s.mgr.jobs = [] → (s.hub.srcs.find? fun f => f.key == ackKey x.pkt) = some f →
            exec (.ackReceive .chrohar) s = .next ((u.hubLaunch (ackAct x.pkt f)).dropAcked.endReady).settle))) ∧
      (s.service = true → s.handsOver = false → exec .hubPacketPaused s = .next s) ∧
      (∀ x, s.mgrRuns = false → s.hub.arrived = [x] → s.handsOver = false → s.behindHeld x = false → exec .hubPacketPaused s = .next (
        let u : State := { s with hub := { s.hub with arrived := [] }, link := s.link.release x.origin x.pkt }
        if acknowledged x.pkt && tallyGood x.pkt then u.hubSend (busyPkt x.pkt s.hubEpoch s.holdUs) else u))) ∧ (
    ∀ (p : Pkt) (s : State), s.hub.inbox = [p] → isBillet p = false → p.c.type = tPaceArrive →
      ∀ no h rank x, s.mapEid p.c.src = some (no, h, rank) → (s.hub.barriers.find? fun b => b.is no (field (pktTally p) 0 32)) = some x →
        let step := nearestStep (field (pktTally p) 32 32) x.openStep
        let u : State := { s with hub := { s.hub with inbox := [] } }
        let counts : Prop := p.c.laneKey = tenantKey h.tenant ∧ (field (pktTally p) 64 12).toNat = rank ∧ p.c.src.toNat ∉ h.fenced ∧
          (x.openStep : Int) ≤ step ∧ step ≤ x.openStep + 1 ∧ (step.toNat, rank) ∉ x.arrived
        (counts → exec .paceArrive s = .next ((u.modBarrier no x.barrier fun y =>
          { y with arrived := y.arrived ++ [(step.toNat, rank)] }).checkBarrier no x.barrier)) ∧
        (¬counts → exec .paceArrive s = .next u))

/-- The Hearths (R318 to R321, R325, R327, R332, R333): an offered gradient that fits goes into the input buffer and its
chunk is marked as received, one without room is refused and stays offered; an uncorrectable word ends the step with
S_DATA_ERROR; a record behind a link that retrains waits for it (R433); a record of pass 1 is staged, and with the chunk's
last record the chunk has passed; a pass with every chunk passed ends; NORM_DECISION waits until a staged pass has ended at
every Hearth. The order of chunks over several heats is the model's choice (log entry 147). Forms that complete here, each
with a next state given under hypotheses on state and operands alone: hearthGradientReceive, meshTransferAccept,
hearthRecordUpdate, hearthPassEnd, normDecision. -/
def Obligations.HearthsAtWork : Prop :=
  ∀ (h : Nat) (s : State), s.mgrRuns = true →
    (∀ no f g, (s.offeredAt h fun g => !g.refused) = some (no, f, g) →
      let x := s.hearthAt no h f.sec
      (exec (.hearthGradientReceive h true) s = .next (s.forgeError no f).settle) ∧
      (x.has f.plan.openStep g = false → s.bufferRoom h (gradBytes f.sec g) = true → ∃ t,
        exec (.hearthGradientReceive h false) s = .next (State.settle t) ∧ (t.hearthAt no h f.sec).buffer =
          x.buffer ++ [{ g with seq := s.hub.gradSeq }] ∧
        (g.step.toNat = f.plan.openStep → (t.hearthAt no h f.sec).received = x.received ++ [g.chunk])) ∧
      (x.has f.plan.openStep g = false → s.bufferRoom h (gradBytes f.sec g) = false → ∃ t,
        exec (.hearthGradientReceive h false) s = .next (State.settle t) ∧ (t.hearthAt no h f.sec).buffer = x.buffer ∧
        (t.hearthAt no h f.sec).offered.length = x.offered.length)) ∧
    ((s.offeredAt h fun g => !g.refused) = none → ∀ e, exec (.hearthGradientReceive h e) s = .next s.settle) ∧
    (∀ no f g, (s.offeredAt h fun g => g.refused) = some (no, f, g) →
      exec (.meshTransferAccept h) s = .next (if s.bufferRoom h (gradBytes f.sec g) = true then s.takeGrad no h f g else s).settle) ∧
    (∀ n t, tierOf n = some t → (s.dueIn h t = none → ∀ e, exec (.hearthRecordUpdate h ⟨n, e⟩) s = .next s.settle) ∧
      ∀ no f x, s.dueIn h t = some (no, f, x) →
        (∀ e, s.recordWaits ((s.planOf no).getD f.plan) h x.at' = true → exec (.hearthRecordUpdate h ⟨n, e⟩) s = .next s.settle) ∧
        (∀ e, s.recordWaits ((s.planOf no).getD f.plan) h x.at' = false →
          exec (.hearthRecordUpdate h ⟨n, e⟩) s = .next (s.stepRecord no h f x e).settle) ∧
        (∀ g, x.work = .stage g → s.recordHeld ((s.planOf no).getD f.plan) h x.at' = false →
          recordCount f.desc x.at'.chunk ≤
            ([Tier.p, .b, .c].map fun t => (tget (s.hearthAt no h f.sec).prog (progKey x.at'.chunk t)).getD 0).sum + 1 →
          ((s.stepRecord no h f x false).hearthAt no h f.sec).passed = (s.hearthAt no h f.sec).passed ++ [x.at'.chunk] ∧
          ∀ t, tget ((s.stepRecord no h f x false).hearthAt no h f.sec).prog (progKey x.at'.chunk t) = none)) ∧
    (∀ n e, 3 ≤ n → exec (.hearthRecordUpdate h ⟨n, e⟩) s = .next s) ∧
    (∀ no f, s.heatsAt h = [no] → s.forgeOf no = some f → hearthChunks f.desc f.sec h ≠ [] → s.passDone no h f = true →
      (s.hearthAt no h f.sec).ended = false → exec (.hearthPassEnd h) s = .next (s.endPass no h f).settle ∧
      (f.sec.staged = true → f.plan.decision = none → ((s.endPass no h f).hearthAt no h f.sec).ended = true)) ∧
    (s.stagedReady = none → exec .normDecision s = .next s.settle) ∧
    ∀ no f, s.stagedReady = some (no, f) → f.plan.image.pods = [] → s.chunkRec no f.desc.collId f.plan.openStep normChunk = none →
      ∃ t : State, exec .normDecision s = .next ((t.decideStep no f (sumSquares f.plan)).settle) ∧ t.mgr = s.mgr

/-! ## The ports of the link tiles -/

/-- The same at a Chrohar port: an attempt starts only with the grant (R431, R516), its lanes out of electrical idle and
under the calibration set that is stored now (R409); a window that closes on a port with every lane good trains all its
lanes, with no spare put in, and logs the port (R118, R125); changed lanes and a timeout of identification change the port
and are logged (R119, R131), and one that falls below its minimum trains and spares no lane and goes idle (R122); an idle or
a forget cell tells what the peer freed (R84); three matching cells identify the port (R130), but a peer that is not what
the quad section says has every peer link held (R145); a lap exchange cell leaves the module's own counter as it is, unless
a takeover waits for the first one from the module's own pod (R293, R297). That the counters of credits stay as they are at
changed lanes, and that the halves of R294 are rounded down, is the model's choice (log entries 134 and 135). Forms that
complete here, each with a next state given under hypotheses on state and operands alone: trainingAttemptStart,
trainingWindowClose, laneUpChange, identifyTimeout, idleCell, forgetCell, lapExchangeCell, neighbourDiscoveryCell. -/
def Obligations.PortsOfTheLinkTiles : Prop :=
  ∀ (p : Nat) (s : State), s.hasPort .chrohar p = true →
    let q := s.link.port p
    let mask : BitVec 8 := laneMask (lanesOf s.mgr.record p).1 (lanesOf s.mgr.record p).2
    (s.ember.grant = true → q.mayTrain = true → ∃ t, exec (.trainingAttemptStart .chrohar p) s = .next t ∧
      t.link.port p = { q with state := .training, idle := false } ∧ tget t.cfg.calUsed p = some s.cfg.calSet ∧
      t.out = s.out ++ (if q.idle = true then [.portIdle .chrohar p false] else []) ++ [.portTrain .chrohar p]) ∧
    (s.ember.grant = false → exec (.trainingAttemptStart .chrohar p) s = .next s) ∧
    (q.state = .training → s.boot.windowClosed = false → (∀ k, s.boot.badPairs k = []) →
      (∃ x ∈ s.link.ports, x.1 ≠ p ∧ x.2.state = .training) → q.minW ≤ (q.trained mask 0).width →
      ∃ t, exec (.trainingWindowClose .chrohar [{ port := p, ok := 0xFF, spareOk := 0 }]) s = .next t ∧
        t.link.port p = (q.trained mask 0).forgetOrigin p ∧ t.link.log = s.link.log ++ [p] ∧ t.mgr = s.mgr ∧ t.agents = s.agents ∧
        t.hub = { s.hub with arrived := forgetOwed p s.hub.arrived, heldBack := forgetOwed p s.hub.heldBack }) ∧
    (∀ lanes, q.isUp = true → q.laneOk ≠ lanes &&& mask →
      let k := q.lanesChange (lanes &&& mask)
      (q.minW ≤ k.width → q.idle = k.idle → exec (.laneUpChange .chrohar p lanes) s = .next { s with link := s.link.change p k }) ∧
      (k.width < q.minW → ∃ t, exec (.laneUpChange .chrohar p lanes) s = .next t ∧ t.mgr = s.mgr ∧ t.hub = s.hub ∧
        t.link.log = s.link.log ++ [p] ∧ t.link.port p = { k with laneOk := 0, spareIn := 0 } ∧ (t.link.port p).idle = true)) ∧
    (q.isUp = true → q.nbrSeen = false → exec (.identifyTimeout .chrohar p) s =
      .next { s with link := s.link.change p { q with state := .noLane, width := 0 } }) ∧
    ∀ c, q.isUp = true → cellOk c = true →
      (c.csub = 0 → exec (.idleCell .chrohar p c) s = .next { s with link := s.link.setPort p (q.takeFreed c.freed) }) ∧
      (c.csub = 3 → exec (.forgetCell .chrohar p c) s = .next { s with link := s.link.setPort p (q.takeFreed c.freed) }) ∧
      (c.csub = 1 → s.ember.lapWait = false ∨ s.isPeerPort p = true → exec (.lapExchangeCell .chrohar p c) s =
        .next { s with link := s.link.setPort p { q.takeFreed c.freed with
          meas := BitVec.ofInt 32 (lapDiff (field s.lap 0 40) (field c.data 0 40)), nbrDepth := (field c.data 75 5).toNat } }) ∧
      (c.csub = 1 → s.ember.lapWait = true → s.isPeerPort p = false → field c.data 40 32 ≠ 0x80000000#32 → ∃ t,
        exec (.lapExchangeCell .chrohar p c) s = .next t ∧ t.ember = { s.ember with lapWait := false } ∧
        t.lap = s.lap - BitVec.ofInt 64 (lapOffset (field s.lap 0 40) (field c.data 0 40) (field c.data 40 32))) ∧
      (c.csub = 2 → q.nbrSeen = false → q.cand = nbrOf c → q.candCount = 2 →
        (s.mgr.record = none → ∃ t, exec (.neighbourDiscoveryCell .chrohar p c) s = .next t ∧ t.mgr = s.mgr ∧
          (t.link.port p).nbrSeen = true ∧ (t.link.port p).nbr = nbrOf c ∧ t.link.log = s.link.log ++ [p]) ∧
        (∀ r, s.mgr.record = some r → (∃ x ∈ r.peers, x.1 = p / 4) → (nbrOf c).kind ≠ 2 → ∃ t,
          exec (.neighbourDiscoveryCell .chrohar p c) s = .next t ∧ t.mgr = { s.mgr with peersRefused := true } ∧
          ∀ x ∈ r.peers, s.hasPort .chrohar (4 * x.1) = true →
            (t.link.port (4 * x.1)).state = .held ∧ (t.link.port (4 * x.1)).width = 0))
end

