-- ==== Sys2Proof/Laws/Tables.lean ====
section
/-! SUPPORT. Laws of the sparse tables and of the operations on one agent: what is read after a write, and what a
happening at one agent leaves as it is. -/

namespace Sys2Proof.Machine

open Sys2Proof

@[simp] theorem tget_nil {α : Type} (k : Nat) : tget ([] : Tab α) k = none := (rfl)

/-- A key reads as what was put under it. -/
@[simp] theorem tget_tset_self {α : Type} (t : Tab α) (k : Nat) (y : α) : tget (tset t k y) k = some y := by
  induction t with
  | nil => simp [tset, tget]
  | cons p r ih =>
    obtain ⟨j, x⟩ := p
    unfold tset
    split
    · simp [tget]
    · split <;> simp_all [tget]

/-- Other keys read as before. -/
theorem tget_tset_of_ne {α : Type} (t : Tab α) {k j : Nat} (y : α) (h : j ≠ k) : tget (tset t k y) j = tget t j := by
  induction t with
  | nil => simp [tset, tget, Ne.symm h]
  | cons p r ih =>
    obtain ⟨i, x⟩ := p
    unfold tset
    split
    · simp [tget, Ne.symm h]
    · split
      · subst i; simp [tget, Ne.symm h]
      · simp [tget, ih]

/-- A removed key reads as nothing. -/
@[simp] theorem tget_tdel_self {α : Type} (t : Tab α) (k : Nat) : tget (tdel t k) k = none := by
  induction t with
  | nil => rfl
  | cons p r ih =>
    obtain ⟨j, x⟩ := p
    unfold tdel
    split <;> simp_all [tget]

theorem tget_tdel_of_ne {α : Type} (t : Tab α) {k j : Nat} (h : j ≠ k) : tget (tdel t k) j = tget t j := by
  induction t with
  | nil => rfl
  | cons p r ih =>
    obtain ⟨i, x⟩ := p
    unfold tdel
    split
    · subst i; rw [ih]; simp [tget, Ne.symm h]
    · simp [tget, ih]

/-- A change of one item, seen at its key. -/
theorem tget_tmod_self {α : Type} (t : Tab α) (k : Nat) (f : α → α) : tget (tmod t k f) k = (tget t k).map f := by
  unfold tmod
  cases h : tget t k <;> simp [h]

theorem tget_tmod_of_ne {α : Type} (t : Tab α) {k j : Nat} (f : α → α) (h : j ≠ k) : tget (tmod t k f) j = tget t j := by
  unfold tmod
  split
  · exact tget_tset_of_ne _ _ h
  · rfl

/-- A change of every item, seen at any key. -/
theorem tget_tmap {α β : Type} (f : Nat → α → β) (t : Tab α) (k : Nat) : tget (tmap f t) k = (tget t k).map (f k) := by
  induction t with
  | nil => rfl
  | cons p r ih =>
    obtain ⟨i, x⟩ := p
    unfold tmap tget
    split
    · simp_all
    · exact ih

@[simp] theorem agent_setAgent_self (s : State) (a : Nat) (g : Agent) : (s.setAgent a g).agent a = g := by
  simp [State.agent, State.setAgent]

theorem agent_setAgent_of_ne (s : State) {a b : Nat} (g : Agent) (h : b ≠ a) : (s.setAgent a g).agent b = s.agent b := by
  simp [State.agent, State.setAgent, tget_tset_of_ne _ _ h]

@[simp] theorem agent_emit (s : State) (es : List Emission) (a : Nat) : (s.emit es).agent a = s.agent a := (rfl)

@[simp] theorem agent_onAgent_self (s : State) (a : Nat) (f : Agent → Agent × List Emission) :
    (s.onAgent a f).agent a = (f (s.agent a)).1 := by
  simp [State.onAgent]

theorem agent_onAgent_of_ne (s : State) {a b : Nat} (f : Agent → Agent × List Emission) (h : b ≠ a) :
    (s.onAgent a f).agent b = s.agent b := by
  simp [State.onAgent, agent_setAgent_of_ne _ _ h]

/-- Everything that a happening at one agent can do: that agent, what is put out, and nothing else. -/
theorem onAgent_frame (s : State) (a : Nat) (f : Agent → Agent × List Emission) :
    s.onAgent a f = { s with
      agents := (s.onAgent a f).agents
      out := s.out ++ ((f (s.agent a)).2 ++ irqChange a (s.agent a) (f (s.agent a)).1) } := rfl

end Sys2Proof.Machine
end

