-- ==== Sys2Proof/Laws/Agent.lean ====
section
/-! SUPPORT. What the shared operations of an agent can do, said once: each lemma names the parts of the agent that its operation
may change, and every other part is as it was (09_goson_agent.md). -/

namespace Sys2Proof.Machine

open Sys2Proof

/-! ## Completions, deliveries and notices: the rings and what waits for room -/

theorem complete_frame (g : Agent) (a : Nat) (t : BitVec 16) (c : BitVec 8) (b : BitVec 16) :
    (g.complete a t c b).1 = { g with rings := (g.complete a t c b).1.rings } := by
  unfold Agent.complete; split <;> rfl

theorem finish_frame (a : Nat) (l : List Finished) (g : Agent) :
    (Agent.finish a l g).1 = { g with rings := (Agent.finish a l g).1.rings } := by
  induction l generalizing g with
  | nil => rfl
  | cons d r ih =>
    unfold Agent.finish
    dsimp only
    cases d.tag with
    | none => exact ih g
    | some t =>
      dsimp only
      rw [ih, complete_frame]

/-- From `g` to `h` nothing has changed but the rings, the deliveries that wait for room and the buffers they keep. -/
def Delivered (g h : Agent) : Prop := h = { g with rings := h.rings, room := h.room, buffers := h.buffers }

theorem Delivered.refl (g : Agent) : Delivered g g := rfl

theorem Delivered.trans {g h k : Agent} (a : Delivered g h) (b : Delivered h k) : Delivered g k := by
  unfold Delivered at *; rw [b, a]

theorem Delivered.writeDeliv (g : Agent) (a : Nat) (d : Deliv) : Delivered g (g.writeDeliv a d).1 := by
  unfold Agent.writeDeliv
  cases d with
  | packet p =>
    dsimp only
    split
    · split <;> rfl
    · rfl
  | notice k w => rfl

theorem Delivered.deliver (g : Agent) (a : Nat) (d : Deliv) : Delivered g (g.deliver a d).1 := by
  unfold Agent.deliver
  split
  · exact .writeDeliv _ _ _
  · rfl

theorem Delivered.notice (g : Agent) (a k : Nat) (w : List (BitVec 128)) : Delivered g (g.notice a k w).1 := by
  unfold Agent.notice
  dsimp only
  split
  · rfl
  · split
    · exact Delivered.trans (rfl : Delivered g { g with rings := g.rings.raise 4 }) (.deliver _ _ _)
    · exact .deliver _ _ _

theorem Delivered.drainRoom (a fuel : Nat) (g : Agent) : Delivered g (Agent.drainRoom a fuel g).1 := by
  induction fuel generalizing g with
  | zero => rfl
  | succ n ih =>
    unfold Agent.drainRoom
    split
    · rfl
    · rename_i d rest _
      exact (Delivered.trans (rfl : Delivered g { g with room := rest }) (.writeDeliv _ a d)).trans (ih _)

/-! ## Cells and queues: the ports -/

theorem release_frame (g : Agent) (o : Option (Nat × BitVec 2)) (p : Pkt) :
    g.release o p = { g with ports := (g.release o p).ports } := by
  unfold Agent.release; split <;> rfl

theorem free_frame (g : Agent) (o : Option (Nat × BitVec 2)) (h : Option Nat) (p : Pkt) :
    g.free o h p = { g with ports := (g.free o h p).ports } := by
  unfold Agent.free
  split
  · rfl
  · exact release_frame _ _ _

theorem freeEach_frame (l : List (Option (Nat × BitVec 2) × Option Nat × Pkt)) (g : Agent) :
    g.freeEach l = { g with ports := (g.freeEach l).ports } := by
  induction l generalizing g with
  | nil => rfl
  | cons x r ih =>
    obtain ⟨o, h, p⟩ := x
    unfold Agent.freeEach
    split
    · exact ih g
    · rw [ih, release_frame]

theorem place_frame (g : Agent) (out : Nat) (p : Pkt) (o : Option (Nat × BitVec 2)) (h : Option Nat) :
    g.place out p o h = { g with ports := (g.place out p o h).ports } := by
  unfold Agent.place; split <;> rfl

theorem enqueue_frame (g : Agent) (out : Nat) (p : Pkt) (o : Option (Nat × BitVec 2)) :
    g.enqueue out p o = { g with ports := (g.enqueue out p o).ports } := by
  unfold Agent.enqueue
  split
  · exact release_frame _ _ _
  · exact place_frame _ _ _ _ _

/-! ## Sending: ports, what has arrived, the local port's counter, source records and rings -/

/-- From `g` to `h` nothing has changed but the ports, what has arrived and the local port's lane-key drops. -/
def Moved (g h : Agent) : Prop := h = { g with
  ports := h.ports, arrived := h.arrived, localDrops := h.localDrops, localFirst := h.localFirst }

theorem Moved.refl (g : Agent) : Moved g g := rfl

theorem Moved.trans {g h k : Agent} (a : Moved g h) (b : Moved h k) : Moved g k := by
  unfold Moved at *; rw [b, a]

theorem Moved.foldl {α : Type} (f : Agent → α → Agent) (h : ∀ g x, Moved g (f g x)) (l : List α) (g : Agent) : Moved g (l.foldl f g) := by
  induction l generalizing g with
  | nil => exact .refl g
  | cons x r ih => exact (h g x).trans (ih _)

theorem Moved.enqueue (g : Agent) (out : Nat) (p : Pkt) (o : Option (Nat × BitVec 2)) : Moved g (g.enqueue out p o) := by
  rw [enqueue_frame]; rfl

theorem Moved.freeArrived (g : Agent) (x : Arrived) : Moved g (g.freeArrived x) := by
  unfold Agent.freeArrived; rw [free_frame]; rfl

theorem Moved.arrive (g : Agent) (x : Arrived) : Moved g (g.arrive x) := by
  unfold Agent.arrive
  split
  · exact .freeArrived g x
  · split
    · exact (Moved.freeArrived g x).trans rfl
    · rfl

theorem Moved.sendOwn (g : Agent) (p : Pkt) : Moved g (g.sendOwn p) := by
  unfold Agent.sendOwn
  dsimp only
  split
  · rfl
  · exact .enqueue _ _ _ _
  · exact .arrive _ _
  · rename_i own copies _
    have h := Moved.foldl (fun (g : Agent) (c : Nat × BitVec 16) => g.enqueue c.1 (restrictMask p c.2) none)
      (fun g c => .enqueue _ _ _ _) copies g
    split
    · exact h.trans (.arrive _ _)
    · exact h

theorem Moved.transmit (g : Agent) (p : Pkt) : Moved g (g.transmit p) := by
  unfold Agent.transmit
  split
  · exact .sendOwn _ _
  · split
    · exact .enqueue _ _ _ _
    · rfl

theorem Moved.enter (g : Agent) (p : Pkt) : Moved g (g.enter p) := by
  unfold Agent.enter
  split
  · exact .transmit _ _
  · rfl

/-- What a source does at its agent: its record is put, its packets move, and the rings take completions. -/
theorem launch_frame (g : Agent) (a : Nat) (st : SrcStep) : ∃ h, Moved { g with srcs := putSrc g.srcs st.flow } h ∧
    (g.launch a st).1 = { h with rings := (g.launch a st).1.rings } := by
  unfold Agent.launch
  dsimp only
  exact ⟨_, .foldl _ .enter _ _, finish_frame _ _ _⟩

theorem launch_srcs (g : Agent) (a : Nat) (st : SrcStep) : (g.launch a st).1.srcs = putSrc g.srcs st.flow := by
  obtain ⟨h, m, e⟩ := launch_frame g a st
  rw [e]; unfold Moved at m; rw [m]

/-- From `g` to `h` nothing has changed but the ports, what has arrived, the local port's lane-key drops, the source records and the
rings. -/
def Sent (g h : Agent) : Prop := h = { g with
  ports := h.ports, arrived := h.arrived, localDrops := h.localDrops, localFirst := h.localFirst, srcs := h.srcs, rings := h.rings }

theorem Sent.finish (a : Nat) (l : List Finished) (g : Agent) : Sent g (Agent.finish a l g).1 := by
  rw [finish_frame]; rfl

theorem Sent.launch (g : Agent) (a : Nat) (st : SrcStep) : Sent g (g.launch a st).1 := by
  obtain ⟨h, m, e⟩ := launch_frame g a st
  unfold Sent Moved at *; rw [e, m]

theorem Sent.offer (g : Agent) (a : Nat) (p : Pkt) (b : Nat) (t : Option (BitVec 16)) (d : Option Desc) :
    Sent g (g.offer a p b t d).1 := by
  unfold Agent.offer
  split
  · exact .finish _ _ _
  · exact .launch _ _ _

theorem Sent.tellManager (g : Agent) (a : Nat) (t : BitVec 8) (b : BitVec 128) : Sent g (g.tellManager a t b).1 := by
  unfold Agent.tellManager
  split
  · rfl
  · exact .offer _ _ _ _ _ _

theorem Sent.linkEvent (g : Agent) (a p : Nat) : Sent g (g.linkEvent a p).1 := by
  unfold Agent.linkEvent
  split
  · rfl
  · dsimp only
    split
    · exact .offer _ _ _ _ _ _
    · split
      · rfl
      · split
        · rfl
        · exact .offer _ _ _ _ _ _

/-! ## What sending leaves of each port -/

/-- Of no port has anything changed but what waits there and its credit counters; no port has come or gone. -/
def QueuesOnly (g h : Agent) : Prop := ∀ n, h.port n = { g.port n with queue := (h.port n).queue, vcs := (h.port n).vcs } ∧
  (tget h.ports n).isSome = (tget g.ports n).isSome

theorem QueuesOnly.refl (g : Agent) : QueuesOnly g g := fun _ => ⟨rfl, rfl⟩

theorem QueuesOnly.trans {g h k : Agent} (a : QueuesOnly g h) (b : QueuesOnly h k) : QueuesOnly g k := fun n =>
  ⟨by rw [(b n).1, (a n).1], (b n).2.trans (a n).2⟩

/-- An agent whose ports are as they were. -/
theorem QueuesOnly.of_ports {g h : Agent} (e : h.ports = g.ports) : QueuesOnly g h := fun n => by
  have : h.port n = g.port n := by simp [Agent.port, e]
  rw [this, e]; exact ⟨rfl, rfl⟩

theorem QueuesOnly.setPort {g : Agent} {p : Nat} {q : Port} (e : q = { g.port p with queue := q.queue, vcs := q.vcs })
    (h : (tget g.ports p).isSome = true) : QueuesOnly g (g.setPort p q) := fun n => by
  by_cases hn : n = p
  · subst hn
    simp only [Agent.port, Agent.setPort, tget_tset_self, Option.getD_some, Option.isSome_some, h, and_true]
    exact e
  · have : (g.setPort p q).port n = g.port n := by simp [Agent.port, Agent.setPort, tget_tset_of_ne _ _ hn]
    rw [this]
    exact ⟨rfl, by simp [Agent.setPort, tget_tset_of_ne _ _ hn]⟩

theorem QueuesOnly.place (g : Agent) (out : Nat) (p : Pkt) (o : Option (Nat × BitVec 2)) (h : Option Nat) :
    QueuesOnly g (g.place out p o h) := by
  unfold Agent.place
  split
  · exact .refl g
  · rename_i q hq
    refine .setPort ?_ (by simp [hq])
    simp [Agent.port, hq]

theorem QueuesOnly.release (g : Agent) (o : Option (Nat × BitVec 2)) (p : Pkt) : QueuesOnly g (g.release o p) := by
  unfold Agent.release
  split
  · exact .refl g
  · rename_i port vc
    unfold tmod
    split
    · rename_i q hq
      refine QueuesOnly.setPort (q := q.freeCells vc (pktCells p)) ?_ (by simp [hq])
      simp [Agent.port, hq, Port.freeCells]
    · exact .refl _

theorem QueuesOnly.enqueue (g : Agent) (out : Nat) (p : Pkt) (o : Option (Nat × BitVec 2)) : QueuesOnly g (g.enqueue out p o) := by
  unfold Agent.enqueue
  split
  · exact .release _ _ _
  · exact .place _ _ _ _ _

theorem QueuesOnly.foldl {α : Type} (f : Agent → α → Agent) (h : ∀ g x, QueuesOnly g (f g x)) (l : List α) (g : Agent) :
    QueuesOnly g (l.foldl f g) := by
  induction l generalizing g with
  | nil => exact .refl g
  | cons x r ih => exact (h g x).trans (ih _)

theorem QueuesOnly.freeArrived (g : Agent) (x : Arrived) : QueuesOnly g (g.freeArrived x) := by
  unfold Agent.freeArrived Agent.free
  split
  · exact .refl g
  · exact .release _ _ _

theorem QueuesOnly.arrive (g : Agent) (x : Arrived) : QueuesOnly g (g.arrive x) := by
  unfold Agent.arrive
  split
  · exact .freeArrived g x
  · split
    · exact (QueuesOnly.freeArrived g x).trans (.of_ports rfl)
    · exact .of_ports rfl

theorem QueuesOnly.sendOwn (g : Agent) (p : Pkt) : QueuesOnly g (g.sendOwn p) := by
  unfold Agent.sendOwn
  dsimp only
  split
  · exact .refl g
  · exact .enqueue _ _ _ _
  · exact .arrive _ _
  · rename_i own copies _
    have h := QueuesOnly.foldl (fun (g : Agent) (c : Nat × BitVec 16) => g.enqueue c.1 (restrictMask p c.2) none)
      (fun g c => .enqueue _ _ _ _) copies g
    split
    · exact h.trans (.arrive _ _)
    · exact h

theorem QueuesOnly.transmit (g : Agent) (p : Pkt) : QueuesOnly g (g.transmit p) := by
  unfold Agent.transmit
  split
  · exact .sendOwn _ _
  · split
    · exact .enqueue _ _ _ _
    · exact .refl g

theorem QueuesOnly.enter (g : Agent) (p : Pkt) : QueuesOnly g (g.enter p) := by
  unfold Agent.enter
  split
  · exact .transmit _ _
  · exact .of_ports rfl

theorem QueuesOnly.finish (a : Nat) (l : List Finished) (g : Agent) : QueuesOnly g (Agent.finish a l g).1 :=
  .of_ports (by rw [finish_frame])

theorem QueuesOnly.launch (g : Agent) (a : Nat) (st : SrcStep) : QueuesOnly g (g.launch a st).1 := by
  unfold Agent.launch
  dsimp only
  have h0 : QueuesOnly g { g with srcs := putSrc g.srcs st.flow } := .of_ports rfl
  exact (h0.trans (.foldl _ .enter _ _)).trans (.finish _ _ _)

theorem QueuesOnly.offer (g : Agent) (a : Nat) (p : Pkt) (b : Nat) (t : Option (BitVec 16)) (d : Option Desc) :
    QueuesOnly g (g.offer a p b t d).1 := by
  unfold Agent.offer
  split
  · exact .finish _ _ _
  · exact .launch _ _ _

/-- Another packet in frames that wait. -/
theorem QueuesOnly.amend (g : Agent) (f : SrcFlow) (c : Copy) (p : Pkt) : QueuesOnly g (g.amend f c p) := fun n => by
  unfold Agent.amend
  dsimp only
  simp only [Agent.port, tget_tmap]
  cases tget g.ports n <;> simp [Port.replaceFrames]

theorem QueuesOnly.linkEvent (g : Agent) (a p : Nat) : QueuesOnly g (g.linkEvent a p).1 := by
  unfold Agent.linkEvent
  split
  · exact .refl g
  · dsimp only
    split
    · exact .offer _ _ _ _ _ _
    · split
      · exact .of_ports rfl
      · split
        · exact .amend _ _ _ _
        · exact .offer _ _ _ _ _ _

/-! ## The LAP of a port's last change touches nothing else of the port -/

@[simp] theorem since_instW (q r : Port) (l : BitVec 64) : (q.since r l).instW = r.instW := by unfold Port.since; split <;> rfl
@[simp] theorem since_minW (q r : Port) (l : BitVec 64) : (q.since r l).minW = r.minW := by unfold Port.since; split <;> rfl
@[simp] theorem since_width (q r : Port) (l : BitVec 64) : (q.since r l).width = r.width := by unfold Port.since; split <;> rfl
@[simp] theorem since_state (q r : Port) (l : BitVec 64) : (q.since r l).state = r.state := by unfold Port.since; split <;> rfl
@[simp] theorem since_laneOk (q r : Port) (l : BitVec 64) : (q.since r l).laneOk = r.laneOk := by unfold Port.since; split <;> rfl
@[simp] theorem since_spareIn (q r : Port) (l : BitVec 64) : (q.since r l).spareIn = r.spareIn := by unfold Port.since; split <;> rfl
@[simp] theorem since_held (q r : Port) (l : BitVec 64) : (q.since r l).held = r.held := by unfold Port.since; split <;> rfl
@[simp] theorem since_nbrSeen (q r : Port) (l : BitVec 64) : (q.since r l).nbrSeen = r.nbrSeen := by unfold Port.since; split <;> rfl
@[simp] theorem since_idChanged (q r : Port) (l : BitVec 64) : (q.since r l).idChanged = r.idChanged := by unfold Port.since; split <;> rfl
@[simp] theorem since_nbr (q r : Port) (l : BitVec 64) : (q.since r l).nbr = r.nbr := by unfold Port.since; split <;> rfl
@[simp] theorem since_cand (q r : Port) (l : BitVec 64) : (q.since r l).cand = r.cand := by unfold Port.since; split <;> rfl
@[simp] theorem since_candCount (q r : Port) (l : BitVec 64) : (q.since r l).candCount = r.candCount := by unfold Port.since; split <;> rfl
@[simp] theorem since_diffCount (q r : Port) (l : BitVec 64) : (q.since r l).diffCount = r.diffCount := by unfold Port.since; split <;> rfl
@[simp] theorem since_errCount (q r : Port) (l : BitVec 64) : (q.since r l).errCount = r.errCount := by unfold Port.since; split <;> rfl
@[simp] theorem since_fenceDrops (q r : Port) (l : BitVec 64) : (q.since r l).fenceDrops = r.fenceDrops := by unfold Port.since; split <;> rfl
@[simp] theorem since_fenceFirst (q r : Port) (l : BitVec 64) : (q.since r l).fenceFirst = r.fenceFirst := by unfold Port.since; split <;> rfl
@[simp] theorem since_deadDrops (q r : Port) (l : BitVec 64) : (q.since r l).deadDrops = r.deadDrops := by unfold Port.since; split <;> rfl
@[simp] theorem since_vcs (q r : Port) (l : BitVec 64) : (q.since r l).vcs = r.vcs := by unfold Port.since; split <;> rfl
@[simp] theorem since_resync (q r : Port) (l : BitVec 64) : (q.since r l).resync = r.resync := by unfold Port.since; split <;> rfl
@[simp] theorem since_queue (q r : Port) (l : BitVec 64) : (q.since r l).queue = r.queue := by unfold Port.since; split <;> rfl
@[simp] theorem since_tallyTurn (q r : Port) (l : BitVec 64) : (q.since r l).tallyTurn = r.tallyTurn := by unfold Port.since; split <;> rfl
@[simp] theorem since_deficits (q r : Port) (l : BitVec 64) : (q.since r l).deficits = r.deficits := by unfold Port.since; split <;> rfl
@[simp] theorem since_lastServed (q r : Port) (l : BitVec 64) : (q.since r l).lastServed = r.lastServed := by unfold Port.since; split <;> rfl
@[simp] theorem since_meas (q r : Port) (l : BitVec 64) : (q.since r l).meas = r.meas := by unfold Port.since; split <;> rfl
@[simp] theorem since_nbrDepth (q r : Port) (l : BitVec 64) : (q.since r l).nbrDepth = r.nbrDepth := by unfold Port.since; split <;> rfl
@[simp] theorem since_tx (q r : Port) (l : BitVec 64) : (q.since r l).tx = r.tx := by unfold Port.since; split <;> rfl
@[simp] theorem since_idle (q r : Port) (l : BitVec 64) : (q.since r l).idle = r.idle := by unfold Port.since; split <;> rfl
@[simp] theorem since_shut (q r : Port) (l : BitVec 64) : (q.since r l).shut = r.shut := by unfold Port.since; split <;> rfl

/-- A port that changes is the port that was put, with the LAP of its change, but for what its own report queues there. -/
theorem changePort_port (g : Agent) (a p : Nat) (q : Port) :
    (g.changePort a p q).1.port p =
      { (g.port p).since q g.lapNow with
        queue := ((g.changePort a p q).1.port p).queue, vcs := ((g.changePort a p q).1.port p).vcs } := by
  unfold Agent.changePort
  dsimp only
  generalize (g.port p).since q g.lapNow = r
  generalize hk : (ite ((g.port p).isUp && !r.isUp && (ite ((g.port p).sameStat r = true) _ _ : Agent).lapSync.parent == some p) _ _ : Agent) = k
  have hp : k.port p = r := by
    subst hk
    (repeat' split) <;> simp [Agent.port, Agent.setPort]
  have hq : QueuesOnly k (if k.hasTable && !(g.port p).sameLink r then k.linkEvent a p else (k, [])).1 := by
    split
    · exact .linkEvent _ _ _
    · exact .refl _
  have := (hq p).1
  rw [hp] at this
  exact this

/-! ## Losing everything (R142, R237) -/

theorem discardHeld_frame (g : Agent) : g.discardHeld = { g with
    ports := g.discardHeld.ports, arrived := [], inbox := [], room := g.room.filter fun d => d matches .notice _ _ } := by
  unfold Agent.discardHeld
  exact (freeEach_frame _ _).trans rfl

/-- A descriptor's input is seen, and nothing else happens. -/
theorem seeInput_frame (g : Agent) (d : Desc) (b : List Byte) :
    g.seeInput d b = { g with input := (g.seeInput d b).input } := by
  unfold Agent.seeInput; (repeat' split) <;> rfl

/-- What is left of an agent that loses its tables, flows and held packets. -/
theorem lose_frame (g : Agent) (a : Nat) : (g.lose a).1 = { g with
    ports := (g.lose a).1.ports, rings := (g.lose a).1.rings, room := (g.lose a).1.room, buffers := (g.lose a).1.buffers
    arrived := [], inbox := []
    mgrEid := none, uplink := none, discTab := [], slot0 := Slot.reset, slot1 := Slot.reset, runs := [], attrs := []
    keys := [], fencedKeys := 0, groupFences := [], bridge := [], rejected := 0, srcs := [], dsts := [], chunks := []
    guards := [] } := by
  unfold Agent.lose
  dsimp only
  rw [discardHeld_frame]
  split
  · rw [finish_frame]
  · unfold Agent.assignNotice
    rw [Delivered.notice, finish_frame]

end Sys2Proof.Machine
end

