-- ==== Sys2Proof/Laws/State.lean ====
section
/-! SUPPORT. What each update of the state leaves in each field, and what the updates of an agent, a port and a function leave
there; no later proof unfolds an update of a record. -/

namespace Sys2Proof.Machine

open Sys2Proof

/-! ## emit -/

@[simp] theorem emit_agents (s : State) (es : List Emission) : (s.emit es).agents = s.agents := (rfl)
@[simp] theorem emit_link (s : State) (es : List Emission) : (s.emit es).link = s.link := (rfl)
@[simp] theorem emit_hub (s : State) (es : List Emission) : (s.emit es).hub = s.hub := (rfl)
@[simp] theorem emit_mgr (s : State) (es : List Emission) : (s.emit es).mgr = s.mgr := (rfl)
@[simp] theorem emit_hif (s : State) (es : List Emission) : (s.emit es).hif = s.hif := (rfl)
@[simp] theorem emit_mem (s : State) (es : List Emission) : (s.emit es).mem = s.mem := (rfl)
@[simp] theorem emit_boot (s : State) (es : List Emission) : (s.emit es).boot = s.boot := (rfl)
@[simp] theorem emit_trust (s : State) (es : List Emission) : (s.emit es).trust = s.trust := (rfl)
@[simp] theorem emit_fw (s : State) (es : List Emission) : (s.emit es).fw = s.fw := (rfl)
@[simp] theorem emit_rcd (s : State) (es : List Emission) : (s.emit es).rcd = s.rcd := (rfl)
@[simp] theorem emit_ember (s : State) (es : List Emission) : (s.emit es).ember = s.ember := (rfl)
@[simp] theorem emit_cfg (s : State) (es : List Emission) : (s.emit es).cfg = s.cfg := (rfl)
@[simp] theorem emit_lap (s : State) (es : List Emission) : (s.emit es).lap = s.lap := (rfl)
@[simp] theorem emit_out (s : State) (es : List Emission) : (s.emit es).out = s.out ++ es := (rfl)
@[simp] theorem emit_free (s : State) (es : List Emission) : (s.emit es).free = s.free := (rfl)
@[simp] theorem emit_pending (s : State) (es : List Emission) : (s.emit es).pending = s.pending := (rfl)

/-! ## setAgent -/

@[simp] theorem setAgent_agents (s : State) (a : Nat) (g : Agent) : (s.setAgent a g).agents = tset s.agents a g := (rfl)
@[simp] theorem setAgent_link (s : State) (a : Nat) (g : Agent) : (s.setAgent a g).link = s.link := (rfl)
@[simp] theorem setAgent_hub (s : State) (a : Nat) (g : Agent) : (s.setAgent a g).hub = s.hub := (rfl)
@[simp] theorem setAgent_mgr (s : State) (a : Nat) (g : Agent) : (s.setAgent a g).mgr = s.mgr := (rfl)
@[simp] theorem setAgent_hif (s : State) (a : Nat) (g : Agent) : (s.setAgent a g).hif = s.hif := (rfl)
@[simp] theorem setAgent_mem (s : State) (a : Nat) (g : Agent) : (s.setAgent a g).mem = s.mem := (rfl)
@[simp] theorem setAgent_boot (s : State) (a : Nat) (g : Agent) : (s.setAgent a g).boot = s.boot := (rfl)
@[simp] theorem setAgent_trust (s : State) (a : Nat) (g : Agent) : (s.setAgent a g).trust = s.trust := (rfl)
@[simp] theorem setAgent_fw (s : State) (a : Nat) (g : Agent) : (s.setAgent a g).fw = s.fw := (rfl)
@[simp] theorem setAgent_rcd (s : State) (a : Nat) (g : Agent) : (s.setAgent a g).rcd = s.rcd := (rfl)
@[simp] theorem setAgent_ember (s : State) (a : Nat) (g : Agent) : (s.setAgent a g).ember = s.ember := (rfl)
@[simp] theorem setAgent_cfg (s : State) (a : Nat) (g : Agent) : (s.setAgent a g).cfg = s.cfg := (rfl)
@[simp] theorem setAgent_lap (s : State) (a : Nat) (g : Agent) : (s.setAgent a g).lap = s.lap := (rfl)
@[simp] theorem setAgent_out (s : State) (a : Nat) (g : Agent) : (s.setAgent a g).out = s.out := (rfl)
@[simp] theorem setAgent_free (s : State) (a : Nat) (g : Agent) : (s.setAgent a g).free = s.free := (rfl)
@[simp] theorem setAgent_pending (s : State) (a : Nat) (g : Agent) : (s.setAgent a g).pending = s.pending := (rfl)

/-! ## setMgr -/

@[simp] theorem setMgr_agents (s : State) (m : Mgr) : (s.setMgr m).agents = s.agents := (rfl)
@[simp] theorem setMgr_link (s : State) (m : Mgr) : (s.setMgr m).link = s.link := (rfl)
@[simp] theorem setMgr_hub (s : State) (m : Mgr) : (s.setMgr m).hub = s.hub := (rfl)
@[simp] theorem setMgr_mgr (s : State) (m : Mgr) : (s.setMgr m).mgr = m := (rfl)
@[simp] theorem setMgr_hif (s : State) (m : Mgr) : (s.setMgr m).hif = s.hif := (rfl)
@[simp] theorem setMgr_mem (s : State) (m : Mgr) : (s.setMgr m).mem = s.mem := (rfl)
@[simp] theorem setMgr_boot (s : State) (m : Mgr) : (s.setMgr m).boot = s.boot := (rfl)
@[simp] theorem setMgr_trust (s : State) (m : Mgr) : (s.setMgr m).trust = s.trust := (rfl)
@[simp] theorem setMgr_fw (s : State) (m : Mgr) : (s.setMgr m).fw = s.fw := (rfl)
@[simp] theorem setMgr_rcd (s : State) (m : Mgr) : (s.setMgr m).rcd = s.rcd := (rfl)
@[simp] theorem setMgr_ember (s : State) (m : Mgr) : (s.setMgr m).ember = s.ember := (rfl)
@[simp] theorem setMgr_cfg (s : State) (m : Mgr) : (s.setMgr m).cfg = s.cfg := (rfl)
@[simp] theorem setMgr_lap (s : State) (m : Mgr) : (s.setMgr m).lap = s.lap := (rfl)
@[simp] theorem setMgr_out (s : State) (m : Mgr) : (s.setMgr m).out = s.out := (rfl)
@[simp] theorem setMgr_free (s : State) (m : Mgr) : (s.setMgr m).free = s.free := (rfl)
@[simp] theorem setMgr_pending (s : State) (m : Mgr) : (s.setMgr m).pending = s.pending := (rfl)

/-! ## setHub -/

@[simp] theorem setHub_agents (s : State) (h : Hub) : (s.setHub h).agents = s.agents := (rfl)
@[simp] theorem setHub_link (s : State) (h : Hub) : (s.setHub h).link = s.link := (rfl)
@[simp] theorem setHub_hub (s : State) (h : Hub) : (s.setHub h).hub = h := (rfl)
@[simp] theorem setHub_mgr (s : State) (h : Hub) : (s.setHub h).mgr = s.mgr := (rfl)
@[simp] theorem setHub_hif (s : State) (h : Hub) : (s.setHub h).hif = s.hif := (rfl)
@[simp] theorem setHub_mem (s : State) (h : Hub) : (s.setHub h).mem = s.mem := (rfl)
@[simp] theorem setHub_boot (s : State) (h : Hub) : (s.setHub h).boot = s.boot := (rfl)
@[simp] theorem setHub_trust (s : State) (h : Hub) : (s.setHub h).trust = s.trust := (rfl)
@[simp] theorem setHub_fw (s : State) (h : Hub) : (s.setHub h).fw = s.fw := (rfl)
@[simp] theorem setHub_rcd (s : State) (h : Hub) : (s.setHub h).rcd = s.rcd := (rfl)
@[simp] theorem setHub_ember (s : State) (h : Hub) : (s.setHub h).ember = s.ember := (rfl)
@[simp] theorem setHub_cfg (s : State) (h : Hub) : (s.setHub h).cfg = s.cfg := (rfl)
@[simp] theorem setHub_lap (s : State) (h : Hub) : (s.setHub h).lap = s.lap := (rfl)
@[simp] theorem setHub_out (s : State) (h : Hub) : (s.setHub h).out = s.out := (rfl)
@[simp] theorem setHub_free (s : State) (h : Hub) : (s.setHub h).free = s.free := (rfl)
@[simp] theorem setHub_pending (s : State) (h : Hub) : (s.setHub h).pending = s.pending := (rfl)

/-! ## setBoot -/

@[simp] theorem setBoot_agents (s : State) (b : Boot) : (s.setBoot b).agents = s.agents := (rfl)
@[simp] theorem setBoot_link (s : State) (b : Boot) : (s.setBoot b).link = s.link := (rfl)
@[simp] theorem setBoot_hub (s : State) (b : Boot) : (s.setBoot b).hub = s.hub := (rfl)
@[simp] theorem setBoot_mgr (s : State) (b : Boot) : (s.setBoot b).mgr = s.mgr := (rfl)
@[simp] theorem setBoot_hif (s : State) (b : Boot) : (s.setBoot b).hif = s.hif := (rfl)
@[simp] theorem setBoot_mem (s : State) (b : Boot) : (s.setBoot b).mem = s.mem := (rfl)
@[simp] theorem setBoot_boot (s : State) (b : Boot) : (s.setBoot b).boot = b := (rfl)
@[simp] theorem setBoot_trust (s : State) (b : Boot) : (s.setBoot b).trust = s.trust := (rfl)
@[simp] theorem setBoot_fw (s : State) (b : Boot) : (s.setBoot b).fw = s.fw := (rfl)
@[simp] theorem setBoot_rcd (s : State) (b : Boot) : (s.setBoot b).rcd = s.rcd := (rfl)
@[simp] theorem setBoot_ember (s : State) (b : Boot) : (s.setBoot b).ember = s.ember := (rfl)
@[simp] theorem setBoot_cfg (s : State) (b : Boot) : (s.setBoot b).cfg = s.cfg := (rfl)
@[simp] theorem setBoot_lap (s : State) (b : Boot) : (s.setBoot b).lap = s.lap := (rfl)
@[simp] theorem setBoot_out (s : State) (b : Boot) : (s.setBoot b).out = s.out := (rfl)
@[simp] theorem setBoot_free (s : State) (b : Boot) : (s.setBoot b).free = s.free := (rfl)
@[simp] theorem setBoot_pending (s : State) (b : Boot) : (s.setBoot b).pending = s.pending := (rfl)

/-! ## setMem -/

@[simp] theorem setMem_agents (s : State) (m : Mem) : (s.setMem m).agents = s.agents := (rfl)
@[simp] theorem setMem_link (s : State) (m : Mem) : (s.setMem m).link = s.link := (rfl)
@[simp] theorem setMem_hub (s : State) (m : Mem) : (s.setMem m).hub = s.hub := (rfl)
@[simp] theorem setMem_mgr (s : State) (m : Mem) : (s.setMem m).mgr = s.mgr := (rfl)
@[simp] theorem setMem_hif (s : State) (m : Mem) : (s.setMem m).hif = s.hif := (rfl)
@[simp] theorem setMem_mem (s : State) (m : Mem) : (s.setMem m).mem = m := (rfl)
@[simp] theorem setMem_boot (s : State) (m : Mem) : (s.setMem m).boot = s.boot := (rfl)
@[simp] theorem setMem_trust (s : State) (m : Mem) : (s.setMem m).trust = s.trust := (rfl)
@[simp] theorem setMem_fw (s : State) (m : Mem) : (s.setMem m).fw = s.fw := (rfl)
@[simp] theorem setMem_rcd (s : State) (m : Mem) : (s.setMem m).rcd = s.rcd := (rfl)
@[simp] theorem setMem_ember (s : State) (m : Mem) : (s.setMem m).ember = s.ember := (rfl)
@[simp] theorem setMem_cfg (s : State) (m : Mem) : (s.setMem m).cfg = s.cfg := (rfl)
@[simp] theorem setMem_lap (s : State) (m : Mem) : (s.setMem m).lap = s.lap := (rfl)
@[simp] theorem setMem_out (s : State) (m : Mem) : (s.setMem m).out = s.out := (rfl)
@[simp] theorem setMem_free (s : State) (m : Mem) : (s.setMem m).free = s.free := (rfl)
@[simp] theorem setMem_pending (s : State) (m : Mem) : (s.setMem m).pending = s.pending := (rfl)

/-! ## setEmber -/

@[simp] theorem setEmber_agents (s : State) (e : Ember) : (s.setEmber e).agents = s.agents := (rfl)
@[simp] theorem setEmber_link (s : State) (e : Ember) : (s.setEmber e).link = s.link := (rfl)
@[simp] theorem setEmber_hub (s : State) (e : Ember) : (s.setEmber e).hub = s.hub := (rfl)
@[simp] theorem setEmber_mgr (s : State) (e : Ember) : (s.setEmber e).mgr = s.mgr := (rfl)
@[simp] theorem setEmber_hif (s : State) (e : Ember) : (s.setEmber e).hif = s.hif := (rfl)
@[simp] theorem setEmber_mem (s : State) (e : Ember) : (s.setEmber e).mem = s.mem := (rfl)
@[simp] theorem setEmber_boot (s : State) (e : Ember) : (s.setEmber e).boot = s.boot := (rfl)
@[simp] theorem setEmber_trust (s : State) (e : Ember) : (s.setEmber e).trust = s.trust := (rfl)
@[simp] theorem setEmber_fw (s : State) (e : Ember) : (s.setEmber e).fw = s.fw := (rfl)
@[simp] theorem setEmber_rcd (s : State) (e : Ember) : (s.setEmber e).rcd = s.rcd := (rfl)
@[simp] theorem setEmber_ember (s : State) (e : Ember) : (s.setEmber e).ember = e := (rfl)
@[simp] theorem setEmber_cfg (s : State) (e : Ember) : (s.setEmber e).cfg = s.cfg := (rfl)
@[simp] theorem setEmber_lap (s : State) (e : Ember) : (s.setEmber e).lap = s.lap := (rfl)
@[simp] theorem setEmber_out (s : State) (e : Ember) : (s.setEmber e).out = s.out := (rfl)
@[simp] theorem setEmber_free (s : State) (e : Ember) : (s.setEmber e).free = s.free := (rfl)
@[simp] theorem setEmber_pending (s : State) (e : Ember) : (s.setEmber e).pending = s.pending := (rfl)

/-! ## setDisc -/

@[simp] theorem setDisc_agents (s : State) (d : Disc) : (s.setDisc d).agents = s.agents := (rfl)
@[simp] theorem setDisc_link (s : State) (d : Disc) : (s.setDisc d).link = s.link := (rfl)
@[simp] theorem setDisc_hub (s : State) (d : Disc) : (s.setDisc d).hub = s.hub := (rfl)
@[simp] theorem setDisc_mgr (s : State) (d : Disc) : (s.setDisc d).mgr = { s.mgr with disc := d } := (rfl)
@[simp] theorem setDisc_hif (s : State) (d : Disc) : (s.setDisc d).hif = s.hif := (rfl)
@[simp] theorem setDisc_mem (s : State) (d : Disc) : (s.setDisc d).mem = s.mem := (rfl)
@[simp] theorem setDisc_boot (s : State) (d : Disc) : (s.setDisc d).boot = s.boot := (rfl)
@[simp] theorem setDisc_trust (s : State) (d : Disc) : (s.setDisc d).trust = s.trust := (rfl)
@[simp] theorem setDisc_fw (s : State) (d : Disc) : (s.setDisc d).fw = s.fw := (rfl)
@[simp] theorem setDisc_rcd (s : State) (d : Disc) : (s.setDisc d).rcd = s.rcd := (rfl)
@[simp] theorem setDisc_ember (s : State) (d : Disc) : (s.setDisc d).ember = s.ember := (rfl)
@[simp] theorem setDisc_cfg (s : State) (d : Disc) : (s.setDisc d).cfg = s.cfg := (rfl)
@[simp] theorem setDisc_lap (s : State) (d : Disc) : (s.setDisc d).lap = s.lap := (rfl)
@[simp] theorem setDisc_out (s : State) (d : Disc) : (s.setDisc d).out = s.out := (rfl)
@[simp] theorem setDisc_free (s : State) (d : Disc) : (s.setDisc d).free = s.free := (rfl)
@[simp] theorem setDisc_pending (s : State) (d : Disc) : (s.setDisc d).pending = s.pending := (rfl)

/-! ## setRouting -/

@[simp] theorem setRouting_agents (s : State) (v : Nat) : (s.setRouting v).agents = s.agents := (rfl)
@[simp] theorem setRouting_link (s : State) (v : Nat) : (s.setRouting v).link = s.link := (rfl)
@[simp] theorem setRouting_hub (s : State) (v : Nat) : (s.setRouting v).hub = s.hub := (rfl)
@[simp] theorem setRouting_mgr (s : State) (v : Nat) : (s.setRouting v).mgr = { s.mgr with routing := v } := (rfl)
@[simp] theorem setRouting_hif (s : State) (v : Nat) : (s.setRouting v).hif = s.hif := (rfl)
@[simp] theorem setRouting_mem (s : State) (v : Nat) : (s.setRouting v).mem = s.mem := (rfl)
@[simp] theorem setRouting_boot (s : State) (v : Nat) : (s.setRouting v).boot = s.boot := (rfl)
@[simp] theorem setRouting_trust (s : State) (v : Nat) : (s.setRouting v).trust = s.trust := (rfl)
@[simp] theorem setRouting_fw (s : State) (v : Nat) : (s.setRouting v).fw = s.fw := (rfl)
@[simp] theorem setRouting_rcd (s : State) (v : Nat) : (s.setRouting v).rcd = s.rcd := (rfl)
@[simp] theorem setRouting_ember (s : State) (v : Nat) : (s.setRouting v).ember = s.ember := (rfl)
@[simp] theorem setRouting_cfg (s : State) (v : Nat) : (s.setRouting v).cfg = s.cfg := (rfl)
@[simp] theorem setRouting_lap (s : State) (v : Nat) : (s.setRouting v).lap = s.lap := (rfl)
@[simp] theorem setRouting_out (s : State) (v : Nat) : (s.setRouting v).out = s.out := (rfl)
@[simp] theorem setRouting_free (s : State) (v : Nat) : (s.setRouting v).free = s.free := (rfl)
@[simp] theorem setRouting_pending (s : State) (v : Nat) : (s.setRouting v).pending = s.pending := (rfl)

/-! ## addJob -/

@[simp] theorem addJob_agents (s : State) (x : List MStep) (h : Option Nat) : (s.addJob x h).agents = s.agents := (rfl)
@[simp] theorem addJob_link (s : State) (x : List MStep) (h : Option Nat) : (s.addJob x h).link = s.link := (rfl)
@[simp] theorem addJob_hub (s : State) (x : List MStep) (h : Option Nat) : (s.addJob x h).hub = s.hub := (rfl)
@[simp] theorem addJob_mgr (s : State) (x : List MStep) (h : Option Nat) : (s.addJob x h).mgr = { s.mgr with jobs := s.mgr.jobs ++ [{ steps := x, waits := [], heat := h }] } := (rfl)
@[simp] theorem addJob_hif (s : State) (x : List MStep) (h : Option Nat) : (s.addJob x h).hif = s.hif := (rfl)
@[simp] theorem addJob_mem (s : State) (x : List MStep) (h : Option Nat) : (s.addJob x h).mem = s.mem := (rfl)
@[simp] theorem addJob_boot (s : State) (x : List MStep) (h : Option Nat) : (s.addJob x h).boot = s.boot := (rfl)
@[simp] theorem addJob_trust (s : State) (x : List MStep) (h : Option Nat) : (s.addJob x h).trust = s.trust := (rfl)
@[simp] theorem addJob_fw (s : State) (x : List MStep) (h : Option Nat) : (s.addJob x h).fw = s.fw := (rfl)
@[simp] theorem addJob_rcd (s : State) (x : List MStep) (h : Option Nat) : (s.addJob x h).rcd = s.rcd := (rfl)
@[simp] theorem addJob_ember (s : State) (x : List MStep) (h : Option Nat) : (s.addJob x h).ember = s.ember := (rfl)
@[simp] theorem addJob_cfg (s : State) (x : List MStep) (h : Option Nat) : (s.addJob x h).cfg = s.cfg := (rfl)
@[simp] theorem addJob_lap (s : State) (x : List MStep) (h : Option Nat) : (s.addJob x h).lap = s.lap := (rfl)
@[simp] theorem addJob_out (s : State) (x : List MStep) (h : Option Nat) : (s.addJob x h).out = s.out := (rfl)
@[simp] theorem addJob_free (s : State) (x : List MStep) (h : Option Nat) : (s.addJob x h).free = s.free := (rfl)
@[simp] theorem addJob_pending (s : State) (x : List MStep) (h : Option Nat) : (s.addJob x h).pending = s.pending := (rfl)

/-! ## modEntry -/

@[simp] theorem modEntry_agents (s : State) (e : Nat) (f : Entry → Entry) : (s.modEntry e f).agents = s.agents := (rfl)
@[simp] theorem modEntry_link (s : State) (e : Nat) (f : Entry → Entry) : (s.modEntry e f).link = s.link := (rfl)
@[simp] theorem modEntry_hub (s : State) (e : Nat) (f : Entry → Entry) : (s.modEntry e f).hub = s.hub := (rfl)
@[simp] theorem modEntry_mgr (s : State) (e : Nat) (f : Entry → Entry) : (s.modEntry e f).mgr = { s.mgr with entries := tset s.mgr.entries e (f (s.entry e)) } := (rfl)
@[simp] theorem modEntry_hif (s : State) (e : Nat) (f : Entry → Entry) : (s.modEntry e f).hif = s.hif := (rfl)
@[simp] theorem modEntry_mem (s : State) (e : Nat) (f : Entry → Entry) : (s.modEntry e f).mem = s.mem := (rfl)
@[simp] theorem modEntry_boot (s : State) (e : Nat) (f : Entry → Entry) : (s.modEntry e f).boot = s.boot := (rfl)
@[simp] theorem modEntry_trust (s : State) (e : Nat) (f : Entry → Entry) : (s.modEntry e f).trust = s.trust := (rfl)
@[simp] theorem modEntry_fw (s : State) (e : Nat) (f : Entry → Entry) : (s.modEntry e f).fw = s.fw := (rfl)
@[simp] theorem modEntry_rcd (s : State) (e : Nat) (f : Entry → Entry) : (s.modEntry e f).rcd = s.rcd := (rfl)
@[simp] theorem modEntry_ember (s : State) (e : Nat) (f : Entry → Entry) : (s.modEntry e f).ember = s.ember := (rfl)
@[simp] theorem modEntry_cfg (s : State) (e : Nat) (f : Entry → Entry) : (s.modEntry e f).cfg = s.cfg := (rfl)
@[simp] theorem modEntry_lap (s : State) (e : Nat) (f : Entry → Entry) : (s.modEntry e f).lap = s.lap := (rfl)
@[simp] theorem modEntry_out (s : State) (e : Nat) (f : Entry → Entry) : (s.modEntry e f).out = s.out := (rfl)
@[simp] theorem modEntry_free (s : State) (e : Nat) (f : Entry → Entry) : (s.modEntry e f).free = s.free := (rfl)
@[simp] theorem modEntry_pending (s : State) (e : Nat) (f : Entry → Entry) : (s.modEntry e f).pending = s.pending := (rfl)

/-! ## setFn -/

@[simp] theorem setFn_agents (s : State) (n : Nat) (f : Fn) : (s.setFn n f).agents = s.agents := (rfl)
@[simp] theorem setFn_link (s : State) (n : Nat) (f : Fn) : (s.setFn n f).link = s.link := (rfl)
@[simp] theorem setFn_hub (s : State) (n : Nat) (f : Fn) : (s.setFn n f).hub = s.hub := (rfl)
@[simp] theorem setFn_mgr (s : State) (n : Nat) (f : Fn) : (s.setFn n f).mgr = s.mgr := (rfl)
@[simp] theorem setFn_hif (s : State) (n : Nat) (f : Fn) : (s.setFn n f).hif = { s.hif with fns := tset s.hif.fns n f } := (rfl)
@[simp] theorem setFn_mem (s : State) (n : Nat) (f : Fn) : (s.setFn n f).mem = s.mem := (rfl)
@[simp] theorem setFn_boot (s : State) (n : Nat) (f : Fn) : (s.setFn n f).boot = s.boot := (rfl)
@[simp] theorem setFn_trust (s : State) (n : Nat) (f : Fn) : (s.setFn n f).trust = s.trust := (rfl)
@[simp] theorem setFn_fw (s : State) (n : Nat) (f : Fn) : (s.setFn n f).fw = s.fw := (rfl)
@[simp] theorem setFn_rcd (s : State) (n : Nat) (f : Fn) : (s.setFn n f).rcd = s.rcd := (rfl)
@[simp] theorem setFn_ember (s : State) (n : Nat) (f : Fn) : (s.setFn n f).ember = s.ember := (rfl)
@[simp] theorem setFn_cfg (s : State) (n : Nat) (f : Fn) : (s.setFn n f).cfg = s.cfg := (rfl)
@[simp] theorem setFn_lap (s : State) (n : Nat) (f : Fn) : (s.setFn n f).lap = s.lap := (rfl)
@[simp] theorem setFn_out (s : State) (n : Nat) (f : Fn) : (s.setFn n f).out = s.out := (rfl)
@[simp] theorem setFn_free (s : State) (n : Nat) (f : Fn) : (s.setFn n f).free = s.free := (rfl)
@[simp] theorem setFn_pending (s : State) (n : Nat) (f : Fn) : (s.setFn n f).pending = s.pending := (rfl)

/-! ## modFn -/

@[simp] theorem modFn_agents (s : State) (n : Nat) (g : Fn → Fn) : (s.modFn n g).agents = s.agents := (rfl)
@[simp] theorem modFn_link (s : State) (n : Nat) (g : Fn → Fn) : (s.modFn n g).link = s.link := (rfl)
@[simp] theorem modFn_hub (s : State) (n : Nat) (g : Fn → Fn) : (s.modFn n g).hub = s.hub := (rfl)
@[simp] theorem modFn_mgr (s : State) (n : Nat) (g : Fn → Fn) : (s.modFn n g).mgr = s.mgr := (rfl)
@[simp] theorem modFn_hif (s : State) (n : Nat) (g : Fn → Fn) : (s.modFn n g).hif = { s.hif with fns := tmod s.hif.fns n g } := (rfl)
@[simp] theorem modFn_mem (s : State) (n : Nat) (g : Fn → Fn) : (s.modFn n g).mem = s.mem := (rfl)
@[simp] theorem modFn_boot (s : State) (n : Nat) (g : Fn → Fn) : (s.modFn n g).boot = s.boot := (rfl)
@[simp] theorem modFn_trust (s : State) (n : Nat) (g : Fn → Fn) : (s.modFn n g).trust = s.trust := (rfl)
@[simp] theorem modFn_fw (s : State) (n : Nat) (g : Fn → Fn) : (s.modFn n g).fw = s.fw := (rfl)
@[simp] theorem modFn_rcd (s : State) (n : Nat) (g : Fn → Fn) : (s.modFn n g).rcd = s.rcd := (rfl)
@[simp] theorem modFn_ember (s : State) (n : Nat) (g : Fn → Fn) : (s.modFn n g).ember = s.ember := (rfl)
@[simp] theorem modFn_cfg (s : State) (n : Nat) (g : Fn → Fn) : (s.modFn n g).cfg = s.cfg := (rfl)
@[simp] theorem modFn_lap (s : State) (n : Nat) (g : Fn → Fn) : (s.modFn n g).lap = s.lap := (rfl)
@[simp] theorem modFn_out (s : State) (n : Nat) (g : Fn → Fn) : (s.modFn n g).out = s.out := (rfl)
@[simp] theorem modFn_free (s : State) (n : Nat) (g : Fn → Fn) : (s.modFn n g).free = s.free := (rfl)
@[simp] theorem modFn_pending (s : State) (n : Nat) (g : Fn → Fn) : (s.modFn n g).pending = s.pending := (rfl)

/-! ## accept -/

@[simp] theorem accept_agents (s : State) (c : Cmd) : (s.accept c).agents = s.agents := (rfl)
@[simp] theorem accept_link (s : State) (c : Cmd) : (s.accept c).link = s.link := (rfl)
@[simp] theorem accept_hub (s : State) (c : Cmd) : (s.accept c).hub = s.hub := (rfl)
@[simp] theorem accept_mgr (s : State) (c : Cmd) : (s.accept c).mgr = s.mgr := (rfl)
@[simp] theorem accept_hif (s : State) (c : Cmd) : (s.accept c).hif = { s.hif with cmds := s.hif.cmds ++ [c], nextId := s.hif.nextId + 1 } := (rfl)
@[simp] theorem accept_mem (s : State) (c : Cmd) : (s.accept c).mem = s.mem := (rfl)
@[simp] theorem accept_boot (s : State) (c : Cmd) : (s.accept c).boot = s.boot := (rfl)
@[simp] theorem accept_trust (s : State) (c : Cmd) : (s.accept c).trust = s.trust := (rfl)
@[simp] theorem accept_fw (s : State) (c : Cmd) : (s.accept c).fw = s.fw := (rfl)
@[simp] theorem accept_rcd (s : State) (c : Cmd) : (s.accept c).rcd = s.rcd := (rfl)
@[simp] theorem accept_ember (s : State) (c : Cmd) : (s.accept c).ember = s.ember := (rfl)
@[simp] theorem accept_cfg (s : State) (c : Cmd) : (s.accept c).cfg = s.cfg := (rfl)
@[simp] theorem accept_lap (s : State) (c : Cmd) : (s.accept c).lap = s.lap := (rfl)
@[simp] theorem accept_out (s : State) (c : Cmd) : (s.accept c).out = s.out := (rfl)
@[simp] theorem accept_free (s : State) (c : Cmd) : (s.accept c).free = s.free := (rfl)
@[simp] theorem accept_pending (s : State) (c : Cmd) : (s.accept c).pending = s.pending := (rfl)

/-! ## dropCmd -/

@[simp] theorem dropCmd_agents (s : State) (id : Nat) : (s.dropCmd id).agents = s.agents := (rfl)
@[simp] theorem dropCmd_link (s : State) (id : Nat) : (s.dropCmd id).link = s.link := (rfl)
@[simp] theorem dropCmd_hub (s : State) (id : Nat) : (s.dropCmd id).hub = s.hub := (rfl)
@[simp] theorem dropCmd_mgr (s : State) (id : Nat) : (s.dropCmd id).mgr = s.mgr := (rfl)
@[simp] theorem dropCmd_hif (s : State) (id : Nat) : (s.dropCmd id).hif = { s.hif with cmds := s.hif.cmds.filter fun c => c.id != id } := (rfl)
@[simp] theorem dropCmd_mem (s : State) (id : Nat) : (s.dropCmd id).mem = s.mem := (rfl)
@[simp] theorem dropCmd_boot (s : State) (id : Nat) : (s.dropCmd id).boot = s.boot := (rfl)
@[simp] theorem dropCmd_trust (s : State) (id : Nat) : (s.dropCmd id).trust = s.trust := (rfl)
@[simp] theorem dropCmd_fw (s : State) (id : Nat) : (s.dropCmd id).fw = s.fw := (rfl)
@[simp] theorem dropCmd_rcd (s : State) (id : Nat) : (s.dropCmd id).rcd = s.rcd := (rfl)
@[simp] theorem dropCmd_ember (s : State) (id : Nat) : (s.dropCmd id).ember = s.ember := (rfl)
@[simp] theorem dropCmd_cfg (s : State) (id : Nat) : (s.dropCmd id).cfg = s.cfg := (rfl)
@[simp] theorem dropCmd_lap (s : State) (id : Nat) : (s.dropCmd id).lap = s.lap := (rfl)
@[simp] theorem dropCmd_out (s : State) (id : Nat) : (s.dropCmd id).out = s.out := (rfl)
@[simp] theorem dropCmd_free (s : State) (id : Nat) : (s.dropCmd id).free = s.free := (rfl)
@[simp] theorem dropCmd_pending (s : State) (id : Nat) : (s.dropCmd id).pending = s.pending := (rfl)

/-! ## markStarted -/

@[simp] theorem markStarted_agents (s : State) (id : Nat) : (s.markStarted id).agents = s.agents := (rfl)
@[simp] theorem markStarted_link (s : State) (id : Nat) : (s.markStarted id).link = s.link := (rfl)
@[simp] theorem markStarted_hub (s : State) (id : Nat) : (s.markStarted id).hub = s.hub := (rfl)
@[simp] theorem markStarted_mgr (s : State) (id : Nat) : (s.markStarted id).mgr = s.mgr := (rfl)
@[simp] theorem markStarted_hif (s : State) (id : Nat) : (s.markStarted id).hif = { s.hif with cmds := s.hif.cmds.map fun c => if c.id = id then c.start else c } := (rfl)
@[simp] theorem markStarted_mem (s : State) (id : Nat) : (s.markStarted id).mem = s.mem := (rfl)
@[simp] theorem markStarted_boot (s : State) (id : Nat) : (s.markStarted id).boot = s.boot := (rfl)
@[simp] theorem markStarted_trust (s : State) (id : Nat) : (s.markStarted id).trust = s.trust := (rfl)
@[simp] theorem markStarted_fw (s : State) (id : Nat) : (s.markStarted id).fw = s.fw := (rfl)
@[simp] theorem markStarted_rcd (s : State) (id : Nat) : (s.markStarted id).rcd = s.rcd := (rfl)
@[simp] theorem markStarted_ember (s : State) (id : Nat) : (s.markStarted id).ember = s.ember := (rfl)
@[simp] theorem markStarted_cfg (s : State) (id : Nat) : (s.markStarted id).cfg = s.cfg := (rfl)
@[simp] theorem markStarted_lap (s : State) (id : Nat) : (s.markStarted id).lap = s.lap := (rfl)
@[simp] theorem markStarted_out (s : State) (id : Nat) : (s.markStarted id).out = s.out := (rfl)
@[simp] theorem markStarted_free (s : State) (id : Nat) : (s.markStarted id).free = s.free := (rfl)
@[simp] theorem markStarted_pending (s : State) (id : Nat) : (s.markStarted id).pending = s.pending := (rfl)

/-! ## setChunk -/

@[simp] theorem setChunk_agents (s : State) (c : CruChunk) : (s.setChunk c).agents = s.agents := (rfl)
@[simp] theorem setChunk_link (s : State) (c : CruChunk) : (s.setChunk c).link = s.link := (rfl)
@[simp] theorem setChunk_hub (s : State) (c : CruChunk) : (s.setChunk c).hub = { s.hub with chunks := putCru c s.hub.chunks } := (rfl)
@[simp] theorem setChunk_mgr (s : State) (c : CruChunk) : (s.setChunk c).mgr = s.mgr := (rfl)
@[simp] theorem setChunk_hif (s : State) (c : CruChunk) : (s.setChunk c).hif = s.hif := (rfl)
@[simp] theorem setChunk_mem (s : State) (c : CruChunk) : (s.setChunk c).mem = s.mem := (rfl)
@[simp] theorem setChunk_boot (s : State) (c : CruChunk) : (s.setChunk c).boot = s.boot := (rfl)
@[simp] theorem setChunk_trust (s : State) (c : CruChunk) : (s.setChunk c).trust = s.trust := (rfl)
@[simp] theorem setChunk_fw (s : State) (c : CruChunk) : (s.setChunk c).fw = s.fw := (rfl)
@[simp] theorem setChunk_rcd (s : State) (c : CruChunk) : (s.setChunk c).rcd = s.rcd := (rfl)
@[simp] theorem setChunk_ember (s : State) (c : CruChunk) : (s.setChunk c).ember = s.ember := (rfl)
@[simp] theorem setChunk_cfg (s : State) (c : CruChunk) : (s.setChunk c).cfg = s.cfg := (rfl)
@[simp] theorem setChunk_lap (s : State) (c : CruChunk) : (s.setChunk c).lap = s.lap := (rfl)
@[simp] theorem setChunk_out (s : State) (c : CruChunk) : (s.setChunk c).out = s.out := (rfl)
@[simp] theorem setChunk_free (s : State) (c : CruChunk) : (s.setChunk c).free = s.free := (rfl)
@[simp] theorem setChunk_pending (s : State) (c : CruChunk) : (s.setChunk c).pending = s.pending := (rfl)

/-! ## setHearth -/

@[simp] theorem setHearth_agents (s : State) (no h : Nat) (x : Hearth) : (s.setHearth no h x).agents = s.agents := (rfl)
@[simp] theorem setHearth_link (s : State) (no h : Nat) (x : Hearth) : (s.setHearth no h x).link = s.link := (rfl)
@[simp] theorem setHearth_hub (s : State) (no h : Nat) (x : Hearth) : (s.setHearth no h x).hub = { s.hub with hearths := tset s.hub.hearths (hearthKey no h) x } := (rfl)
@[simp] theorem setHearth_mgr (s : State) (no h : Nat) (x : Hearth) : (s.setHearth no h x).mgr = s.mgr := (rfl)
@[simp] theorem setHearth_hif (s : State) (no h : Nat) (x : Hearth) : (s.setHearth no h x).hif = s.hif := (rfl)
@[simp] theorem setHearth_mem (s : State) (no h : Nat) (x : Hearth) : (s.setHearth no h x).mem = s.mem := (rfl)
@[simp] theorem setHearth_boot (s : State) (no h : Nat) (x : Hearth) : (s.setHearth no h x).boot = s.boot := (rfl)
@[simp] theorem setHearth_trust (s : State) (no h : Nat) (x : Hearth) : (s.setHearth no h x).trust = s.trust := (rfl)
@[simp] theorem setHearth_fw (s : State) (no h : Nat) (x : Hearth) : (s.setHearth no h x).fw = s.fw := (rfl)
@[simp] theorem setHearth_rcd (s : State) (no h : Nat) (x : Hearth) : (s.setHearth no h x).rcd = s.rcd := (rfl)
@[simp] theorem setHearth_ember (s : State) (no h : Nat) (x : Hearth) : (s.setHearth no h x).ember = s.ember := (rfl)
@[simp] theorem setHearth_cfg (s : State) (no h : Nat) (x : Hearth) : (s.setHearth no h x).cfg = s.cfg := (rfl)
@[simp] theorem setHearth_lap (s : State) (no h : Nat) (x : Hearth) : (s.setHearth no h x).lap = s.lap := (rfl)
@[simp] theorem setHearth_out (s : State) (no h : Nat) (x : Hearth) : (s.setHearth no h x).out = s.out := (rfl)
@[simp] theorem setHearth_free (s : State) (no h : Nat) (x : Hearth) : (s.setHearth no h x).free = s.free := (rfl)
@[simp] theorem setHearth_pending (s : State) (no h : Nat) (x : Hearth) : (s.setHearth no h x).pending = s.pending := (rfl)

/-! ## draw -/

@[simp] theorem draw_agents (s : State) : (s.draw.2).agents = s.agents := (rfl)
@[simp] theorem draw_link (s : State) : (s.draw.2).link = s.link := (rfl)
@[simp] theorem draw_hub (s : State) : (s.draw.2).hub = s.hub := (rfl)
@[simp] theorem draw_mgr (s : State) : (s.draw.2).mgr = s.mgr := (rfl)
@[simp] theorem draw_hif (s : State) : (s.draw.2).hif = s.hif := (rfl)
@[simp] theorem draw_mem (s : State) : (s.draw.2).mem = s.mem := (rfl)
@[simp] theorem draw_boot (s : State) : (s.draw.2).boot = s.boot := (rfl)
@[simp] theorem draw_trust (s : State) : (s.draw.2).trust = s.trust := (rfl)
@[simp] theorem draw_fw (s : State) : (s.draw.2).fw = s.fw := (rfl)
@[simp] theorem draw_rcd (s : State) : (s.draw.2).rcd = s.rcd := (rfl)
@[simp] theorem draw_ember (s : State) : (s.draw.2).ember = s.ember := (rfl)
@[simp] theorem draw_cfg (s : State) : (s.draw.2).cfg = s.cfg := (rfl)
@[simp] theorem draw_lap (s : State) : (s.draw.2).lap = s.lap := (rfl)
@[simp] theorem draw_out (s : State) : (s.draw.2).out = s.out := (rfl)
@[simp] theorem draw_free (s : State) : (s.draw.2).free = s.free + 1 := (rfl)
@[simp] theorem draw_pending (s : State) : (s.draw.2).pending = s.pending := (rfl)

/-! ## hostFails -/

@[simp] theorem hostFails_agents (s : State) : (s.hostFails.2).agents = s.agents := (rfl)
@[simp] theorem hostFails_link (s : State) : (s.hostFails.2).link = s.link := (rfl)
@[simp] theorem hostFails_hub (s : State) : (s.hostFails.2).hub = s.hub := (rfl)
@[simp] theorem hostFails_mgr (s : State) : (s.hostFails.2).mgr = s.mgr := (rfl)
@[simp] theorem hostFails_hif (s : State) : (s.hostFails.2).hif = s.hif := (rfl)
@[simp] theorem hostFails_mem (s : State) : (s.hostFails.2).mem = s.mem := (rfl)
@[simp] theorem hostFails_boot (s : State) : (s.hostFails.2).boot = s.boot := (rfl)
@[simp] theorem hostFails_trust (s : State) : (s.hostFails.2).trust = s.trust := (rfl)
@[simp] theorem hostFails_fw (s : State) : (s.hostFails.2).fw = s.fw := (rfl)
@[simp] theorem hostFails_rcd (s : State) : (s.hostFails.2).rcd = s.rcd := (rfl)
@[simp] theorem hostFails_ember (s : State) : (s.hostFails.2).ember = s.ember := (rfl)
@[simp] theorem hostFails_cfg (s : State) : (s.hostFails.2).cfg = s.cfg := (rfl)
@[simp] theorem hostFails_lap (s : State) : (s.hostFails.2).lap = s.lap := (rfl)
@[simp] theorem hostFails_out (s : State) : (s.hostFails.2).out = s.out := (rfl)
@[simp] theorem hostFails_free (s : State) : (s.hostFails.2).free = s.free + 1 := (rfl)
@[simp] theorem hostFails_pending (s : State) : (s.hostFails.2).pending = s.pending := (rfl)

/-! ## The free values -/

@[simp] theorem draw_value (s : State) : s.draw.1 = Config.freeNat s.free := (rfl)
@[simp] theorem hostFails_value (s : State) : s.hostFails.1 = (!s.ember.grant || Config.hostFails s.free) := (rfl)

/-! ## Two updates of one field -/

@[simp] theorem setMgr_setMgr (s : State) (m n : Mgr) : (s.setMgr m).setMgr n = s.setMgr n := rfl
@[simp] theorem setHub_setHub (s : State) (m n : Hub) : (s.setHub m).setHub n = s.setHub n := rfl
@[simp] theorem setBoot_setBoot (s : State) (m n : Boot) : (s.setBoot m).setBoot n = s.setBoot n := rfl
@[simp] theorem setMem_setMem (s : State) (m n : Mem) : (s.setMem m).setMem n = s.setMem n := rfl
@[simp] theorem setEmber_setEmber (s : State) (m n : Ember) : (s.setEmber m).setEmber n = s.setEmber n := rfl
@[simp] theorem emit_nil (s : State) : s.emit [] = s := by simp [State.emit]
@[simp] theorem emit_emit (s : State) (a b : List Emission) : (s.emit a).emit b = s.emit (a ++ b) := by simp [State.emit]

/-! ## Ports of an agent and of the link tiles -/

@[simp] theorem agentSetPort_inReset (g : Agent) (p : Nat) (q : Port) : (g.setPort p q).inReset = g.inReset := (rfl)
@[simp] theorem agentSetPort_isSwitch (g : Agent) (p : Nat) (q : Port) : (g.setPort p q).isSwitch = g.isSwitch := (rfl)
@[simp] theorem agentSetPort_strap (g : Agent) (p : Nat) (q : Port) : (g.setPort p q).strap = g.strap := (rfl)
@[simp] theorem agentSetPort_eid (g : Agent) (p : Nat) (q : Port) : (g.setPort p q).eid = g.eid := (rfl)
@[simp] theorem agentSetPort_mgrEid (g : Agent) (p : Nat) (q : Port) : (g.setPort p q).mgrEid = g.mgrEid := (rfl)
@[simp] theorem agentSetPort_uplink (g : Agent) (p : Nat) (q : Port) : (g.setPort p q).uplink = g.uplink := (rfl)
@[simp] theorem agentSetPort_discTag (g : Agent) (p : Nat) (q : Port) : (g.setPort p q).discTag = g.discTag := (rfl)
@[simp] theorem agentSetPort_forgetting (g : Agent) (p : Nat) (q : Port) : (g.setPort p q).forgetting = g.forgetting := (rfl)
@[simp] theorem agentSetPort_discTab (g : Agent) (p : Nat) (q : Port) : (g.setPort p q).discTab = g.discTab := (rfl)
@[simp] theorem agentSetPort_stamp (g : Agent) (p : Nat) (q : Port) : (g.setPort p q).stamp = g.stamp := (rfl)
@[simp] theorem agentSetPort_slot0 (g : Agent) (p : Nat) (q : Port) : (g.setPort p q).slot0 = g.slot0 := (rfl)
@[simp] theorem agentSetPort_slot1 (g : Agent) (p : Nat) (q : Port) : (g.setPort p q).slot1 = g.slot1 := (rfl)
@[simp] theorem agentSetPort_runs (g : Agent) (p : Nat) (q : Port) : (g.setPort p q).runs = g.runs := (rfl)
@[simp] theorem agentSetPort_buffers (g : Agent) (p : Nat) (q : Port) : (g.setPort p q).buffers = g.buffers := (rfl)
@[simp] theorem agentSetPort_input (g : Agent) (p : Nat) (q : Port) : (g.setPort p q).input = g.input := (rfl)
@[simp] theorem agentSetPort_attrs (g : Agent) (p : Nat) (q : Port) : (g.setPort p q).attrs = g.attrs := (rfl)
@[simp] theorem agentSetPort_keys (g : Agent) (p : Nat) (q : Port) : (g.setPort p q).keys = g.keys := (rfl)
@[simp] theorem agentSetPort_fencedKeys (g : Agent) (p : Nat) (q : Port) : (g.setPort p q).fencedKeys = g.fencedKeys := (rfl)
@[simp] theorem agentSetPort_groupFences (g : Agent) (p : Nat) (q : Port) : (g.setPort p q).groupFences = g.groupFences := (rfl)
@[simp] theorem agentSetPort_bridge (g : Agent) (p : Nat) (q : Port) : (g.setPort p q).bridge = g.bridge := (rfl)
@[simp] theorem agentSetPort_rejected (g : Agent) (p : Nat) (q : Port) : (g.setPort p q).rejected = g.rejected := (rfl)
@[simp] theorem agentSetPort_ports (g : Agent) (p : Nat) (q : Port) : (g.setPort p q).ports = tset g.ports p q := (rfl)
@[simp] theorem agentSetPort_localDrops (g : Agent) (p : Nat) (q : Port) : (g.setPort p q).localDrops = g.localDrops := (rfl)
@[simp] theorem agentSetPort_localFirst (g : Agent) (p : Nat) (q : Port) : (g.setPort p q).localFirst = g.localFirst := (rfl)
@[simp] theorem agentSetPort_srcs (g : Agent) (p : Nat) (q : Port) : (g.setPort p q).srcs = g.srcs := (rfl)
@[simp] theorem agentSetPort_dsts (g : Agent) (p : Nat) (q : Port) : (g.setPort p q).dsts = g.dsts := (rfl)
@[simp] theorem agentSetPort_dstFull (g : Agent) (p : Nat) (q : Port) : (g.setPort p q).dstFull = g.dstFull := (rfl)
@[simp] theorem agentSetPort_arrived (g : Agent) (p : Nat) (q : Port) : (g.setPort p q).arrived = g.arrived := (rfl)
@[simp] theorem agentSetPort_holds (g : Agent) (p : Nat) (q : Port) : (g.setPort p q).holds = g.holds := (rfl)
@[simp] theorem agentSetPort_inbox (g : Agent) (p : Nat) (q : Port) : (g.setPort p q).inbox = g.inbox := (rfl)
@[simp] theorem agentSetPort_rings (g : Agent) (p : Nat) (q : Port) : (g.setPort p q).rings = g.rings := (rfl)
@[simp] theorem agentSetPort_room (g : Agent) (p : Nat) (q : Port) : (g.setPort p q).room = g.room := (rfl)
@[simp] theorem agentSetPort_chunks (g : Agent) (p : Nat) (q : Port) : (g.setPort p q).chunks = g.chunks := (rfl)
@[simp] theorem agentSetPort_lapSync (g : Agent) (p : Nat) (q : Port) : (g.setPort p q).lapSync = g.lapSync := (rfl)
@[simp] theorem agentSetPort_guards (g : Agent) (p : Nat) (q : Port) : (g.setPort p q).guards = g.guards := (rfl)

@[simp] theorem tilesSetPort_ports (l : LinkTiles) (p : Nat) (q : Port) : (l.setPort p q).ports = tset l.ports p q := (rfl)
@[simp] theorem tilesSetPort_pools (l : LinkTiles) (p : Nat) (q : Port) : (l.setPort p q).pools = l.pools := (rfl)
@[simp] theorem tilesSetPort_onSpare (l : LinkTiles) (p : Nat) (q : Port) : (l.setPort p q).onSpare = l.onSpare := (rfl)
@[simp] theorem tilesSetPort_current (l : LinkTiles) (p : Nat) (q : Port) : (l.setPort p q).current = l.current := (rfl)
@[simp] theorem tilesSetPort_other (l : LinkTiles) (p : Nat) (q : Port) : (l.setPort p q).other = l.other := (rfl)
@[simp] theorem tilesSetPort_bitmaps (l : LinkTiles) (p : Nat) (q : Port) : (l.setPort p q).bitmaps = l.bitmaps := (rfl)
@[simp] theorem tilesSetPort_log (l : LinkTiles) (p : Nat) (q : Port) : (l.setPort p q).log = l.log := (rfl)
@[simp] theorem tilesSetPort_forgetting (l : LinkTiles) (p : Nat) (q : Port) : (l.setPort p q).forgetting = l.forgetting := (rfl)
@[simp] theorem tilesSetPort_dieFaults (l : LinkTiles) (p : Nat) (q : Port) : (l.setPort p q).dieFaults = l.dieFaults := (rfl)
@[simp] theorem tilesSetPort_outFaults (l : LinkTiles) (p : Nat) (q : Port) : (l.setPort p q).outFaults = l.outFaults := (rfl)

end Sys2Proof.Machine
end

