-- ==== Sys2Proof/Laws/Host.lean ====
section
/-! SUPPORT. What the operations of the host interface can do, said once: events, replies and the start of a command touch
the host interface, sessions and their counts, the recorder's open window, what has been put out and the count of open values;
everything else stays. A reply that waits for a standby changes the ember links instead. -/

namespace Sys2Proof.Machine

open Sys2Proof

/-- From `s` to `t` nothing has changed but the host interface, the trust die, the recorder, what has been put out and the count
of open values. -/
def Outward (s t : State) : Prop := t = { s with hif := t.hif, trust := t.trust, rcd := t.rcd, out := t.out, free := t.free }

theorem Outward.refl (s : State) : Outward s s := rfl

theorem Outward.trans {s t u : State} (h : Outward s t) (k : Outward t u) : Outward s u := by
  unfold Outward at *; rw [k, h]

/-- What an outward operation leaves. -/
theorem Outward.frame {s t : State} (h : Outward s t) : t.agents = s.agents ∧ t.link = s.link ∧ t.hub = s.hub ∧ t.mgr = s.mgr ∧
    t.mem = s.mem ∧ t.boot = s.boot ∧ t.fw = s.fw ∧ t.ember = s.ember ∧ t.cfg = s.cfg ∧ t.lap = s.lap ∧ t.pending = s.pending := by
  rw [h]; exact ⟨rfl, rfl, rfl, rfl, rfl, rfl, rfl, rfl, rfl, rfl, rfl⟩

variable {s t : State}

theorem Outward.emit (h : Outward s t) (es : List Emission) : Outward s (t.emit es) := h.trans rfl
theorem Outward.modFn (h : Outward s t) (n : Nat) (g : Fn → Fn) : Outward s (t.modFn n g) := h.trans rfl
theorem Outward.hostFails (h : Outward s t) : Outward s t.hostFails.2 := h.trans rfl
theorem Outward.accept (h : Outward s t) (c : Cmd) : Outward s (t.accept c) := h.trans rfl
theorem Outward.dropCmd (h : Outward s t) (id : Nat) : Outward s (t.dropCmd id) := h.trans rfl
theorem Outward.markStarted (h : Outward s t) (id : Nat) : Outward s (t.markStarted id) := h.trans rfl
theorem Outward.host (h : Outward s t) (x : HostIf) : Outward s { t with hif := x } := h.trans rfl

theorem Outward.sendSessions (h : Outward s t) (p : Session → Bool) (type : Nat) (body : List Byte) :
    Outward s (t.sendSessions p type body) := h.trans rfl

theorem Outward.postSessions (h : Outward s t) (n : Nat) (record : List Byte) : Outward s (t.postSessions n record) := by
  unfold State.postSessions; split
  · exact h.sendSessions _ _ _
  · exact h

theorem Outward.tally (h : Outward s t) (series unit : BitVec 16) (k : Nat) : Outward s (t.tally series unit k) := by
  unfold State.tally; split
  · exact h.trans rfl
  · exact h

theorem Outward.note (h : Outward s t) (code unit : BitVec 16) (d : List Byte) : Outward s (t.note code unit d) := by
  unfold State.note; split <;> exact h.trans rfl

theorem Outward.interrupt (h : Outward s t) (n v : Nat) : Outward s (t.interrupt n v) := by
  unfold State.interrupt; dsimp only
  (repeat' split) <;> exact h.trans rfl

theorem Outward.writeEvent (h : Outward s t) (n : Nat) (e : Event) : Outward s (t.writeEvent n e) := by
  unfold State.writeEvent; dsimp only
  split
  · exact ((h.postSessions _ _).hostFails.modFn _ _).interrupt _ _
  · exact (((h.postSessions _ _).hostFails.modFn _ _).emit _).interrupt _ _

theorem Outward.writeLost (h : Outward s t) (n : Nat) : Outward s (t.writeLost n) := by
  unfold State.writeLost; dsimp only
  split
  · exact h
  · exact (h.writeEvent _ _).modFn _ _

/-- Posting an event goes outward. -/
theorem Outward.post (h : Outward s t) (n : Nat) (e : Event) : Outward s (t.post n e) := by
  unfold State.post; dsimp only
  (repeat' split)
  · exact (h.host _).tally _ _ _
  · exact h
  · exact ((h.writeLost _).modFn _ _).tally _ _ _
  · exact (h.writeLost _).writeEvent _ _

theorem Outward.postPf (h : Outward s t) (e : Event) : Outward s (t.postPf e) := h.post _ _

theorem Outward.postHeat (h : Outward s t) (e : Event) : Outward s (t.postHeat e) := (h.post _ _).postPf _

theorem Outward.alarm (h : Outward s t) (k : Nat) (d : List Byte) : Outward s (t.alarm k d) := (h.note _ _ _).postPf _

theorem Outward.writeReply (h : Outward s t) (n : Nat) (c : Cmd) (a : Ans) : Outward s (t.writeReply n c a) := by
  unfold State.writeReply
  have h1 : Outward s (if a.data.isEmpty then (false, t) else t.hostFails).2 := by
    split
    · exact h
    · exact h.hostFails
  generalize (if a.data.isEmpty then (false, t) else t.hostFails) = d at h1 ⊢
  dsimp only
  generalize (if d.1 = true then ({ fail sHostError with result := [] } : Ans) else a) = b
  have h2 : Outward s (if (d.1 || b.data.isEmpty) = true then d.2 else d.2.emit [.dma c.dataAddr b.data]) := by
    split
    · exact h1
    · exact h1.emit _
  generalize (if (d.1 || b.data.isEmpty) = true then d.2 else d.2.emit [.dma c.dataAddr b.data]) = u at h2 ⊢
  (repeat' split)
  · exact h2.hostFails.modFn _ _
  · exact h2.hostFails.emit _
  · exact (h2.hostFails.emit _).interrupt _ _

theorem Outward.sessionReply (h : Outward s t) (i : Nat) (c : Cmd) (a : Ans) : Outward s (t.sessionReply i c a) := by
  unfold State.sessionReply
  exact h.trans rfl

theorem Outward.notice (h : Outward s t) (n k : Nat) : Outward s (t.notice n k) := by
  unfold State.notice; dsimp only
  (repeat' split)
  · exact h
  · exact ((h.modFn _ _).modFn _ _).accept _
  · exact ((h.modFn _ _).host _).writeReply _ _ _

theorem Outward.touch (h : Outward s t) (n k : Nat) : Outward s (t.touch n k) := by
  unfold State.touch; dsimp only
  (repeat' split)
  · exact h
  · exact h.modFn _ _
  · exact h.notice _ _

/-- A reply goes outward. -/
theorem Outward.reply (h : Outward s t) (id : Nat) (a : Ans) : Outward s (t.reply id a) := by
  unfold State.reply
  split
  · exact h
  · dsimp only
    (repeat' split)
    · exact h.dropCmd _
    · exact (h.dropCmd _).sessionReply _ _ _
    · exact ((((h.dropCmd _).writeReply _ _ _).modFn _ _).modFn _ _).notice _ _
    · exact ((h.dropCmd _).writeReply _ _ _).modFn _ _

/-- The journal changes the ember links alone. -/
theorem journal_frame (s : State) : s.journal = { s with ember := s.journal.ember } := rfl

/-- The end of a command: a reply now, one after a journal record, or one that waits in the ember links. -/
theorem finish_cases (s : State) (id : Nat) (a : Ans) : Outward s (s.finish id a) ∨ Outward s.journal (s.finish id a) ∨
    s.finish id a = { s with ember := (s.finish id a).ember } := by
  unfold State.finish
  split
  · exact .inl (.refl _)
  · dsimp only
    split
    · split
      · exact .inr (.inl ((Outward.refl _).reply _ _))
      · exact .inr (.inr rfl)
    · exact .inl ((Outward.refl _).reply _ _)

end Sys2Proof.Machine
end

