-- ==== Sys2Proof/Laws/Index.lean ====
section
/-! SUPPORT. The index areas of the signing keys: the record in force is the valid one with the highest SEQ of both copies, a
reservation puts its own record in force, and to take an index keeps every used index covered (12_security.md R445 to R447). -/

namespace Sys2Proof.Machine

open Sys2Proof

/-! ## Tables -/

theorem mem_tset_self {α : Type} (t : Tab α) (k : Nat) (y : α) : (k, y) ∈ tset t k y := by
  induction t with
  | nil => simp [tset]
  | cons p r ih =>
    obtain ⟨j, x⟩ := p
    unfold tset
    split
    · simp
    · split <;> simp [ih]

theorem mem_of_mem_tset {α : Type} {t : Tab α} {k : Nat} {y : α} {e : Nat × α} (h : e ∈ tset t k y) : e = (k, y) ∨ e ∈ t := by
  induction t with
  | nil => simpa [tset] using h
  | cons p r ih =>
    obtain ⟨j, x⟩ := p
    unfold tset at h
    split at h
    · simpa using h
    · split at h
      · rcases List.mem_cons.mp h with h | h
        · exact .inl h
        · exact .inr (List.mem_cons_of_mem _ h)
      · rcases List.mem_cons.mp h with h | h
        · exact .inr (h ▸ List.mem_cons_self ..)
        · exact (ih h).imp id (List.mem_cons_of_mem _)

/-! ## The record in force -/

/-- A record of SEQ at most that of a copy's best one. -/
def IndexRec.below (n : Nat) (r : Option IndexRec) : Prop := ∀ x, r = some x → x.seq ≤ n

theorem later_none (a : Option IndexRec) : IndexRec.later a none = a := by cases a <;> rfl

/-- The later of two records is not below either. -/
theorem le_later {a b : Option IndexRec} {x : IndexRec} (h : a = some x ∨ b = some x) :
    ∃ y, IndexRec.later a b = some y ∧ x.seq ≤ y.seq := by
  cases a with
  | none =>
    cases b with
    | none => simp at h
    | some z => simp at h; exact ⟨z, rfl, by simp [h]⟩
  | some w =>
    cases b with
    | none => simp at h; exact ⟨w, rfl, by simp [h]⟩
    | some z =>
      simp only [IndexRec.later]
      split
      · exact ⟨z, rfl, by rcases h with h | h <;> simp at h <;> subst h <;> omega⟩
      · exact ⟨w, rfl, by rcases h with h | h <;> simp at h <;> subst h <;> omega⟩

/-- One step of the search for the valid record of an area. -/
def IndexRec.better (key : BitVec 8) (best : Option IndexRec) (e : Nat × IndexRec) : Option IndexRec :=
  if e.2.good key then IndexRec.later best (some e.2) else best

theorem validRec_eq (key : BitVec 8) (area : Tab IndexRec) : validRec key area = area.foldl (IndexRec.better key) none := rfl

theorem foldl_better_ge (key : BitVec 8) (l : Tab IndexRec) (best : Option IndexRec) {x : IndexRec} (h : best = some x) :
    ∃ y, l.foldl (IndexRec.better key) best = some y ∧ x.seq ≤ y.seq := by
  induction l generalizing best x with
  | nil => exact ⟨x, h, Nat.le_refl _⟩
  | cons e l ih =>
    rw [List.foldl_cons]
    obtain ⟨z, hz, hle⟩ : ∃ z, IndexRec.better key best e = some z ∧ x.seq ≤ z.seq := by
      unfold IndexRec.better
      split
      · exact le_later (.inl h)
      · exact ⟨x, h, Nat.le_refl _⟩
    obtain ⟨y, hy, hy'⟩ := ih _ hz
    exact ⟨y, hy, Nat.le_trans hle hy'⟩

/-- Every good record of an area is at or below its valid record. -/
theorem validRec_ge (key : BitVec 8) (l : Tab IndexRec) (best : Option IndexRec) {e : Nat × IndexRec} (he : e ∈ l)
    (hg : e.2.good key = true) : ∃ y, l.foldl (IndexRec.better key) best = some y ∧ e.2.seq ≤ y.seq := by
  induction l generalizing best with
  | nil => simp at he
  | cons d l ih =>
    rw [List.foldl_cons]
    rcases List.mem_cons.mp he with h | h
    · subst h
      obtain ⟨z, hz, hle⟩ : ∃ z, IndexRec.better key best e = some z ∧ e.2.seq ≤ z.seq := by
        unfold IndexRec.better
        rw [if_pos hg]
        exact le_later (.inr rfl)
      obtain ⟨y, hy, hy'⟩ := foldl_better_ge key l _ hz
      exact ⟨y, hy, Nat.le_trans hle hy'⟩
    · exact ih _ h

/-- The valid record of an area is one of its entries, or what the search began with. -/
theorem foldl_better_mem (key : BitVec 8) (l : Tab IndexRec) (best : Option IndexRec) {y : IndexRec}
    (h : l.foldl (IndexRec.better key) best = some y) : best = some y ∨ ∃ e ∈ l, e.2 = y ∧ e.2.good key = true := by
  induction l generalizing best with
  | nil => exact .inl h
  | cons e l ih =>
    rw [List.foldl_cons] at h
    rcases ih _ h with h | ⟨d, hd, hy⟩
    · unfold IndexRec.better at h
      split at h
      · rename_i hg
        cases best with
        | none => exact .inr ⟨e, List.mem_cons_self .., by simpa [IndexRec.later] using h, hg⟩
        | some w =>
          simp only [IndexRec.later] at h
          split at h
          · exact .inr ⟨e, List.mem_cons_self .., by simpa using h, hg⟩
          · exact .inl h
      · exact .inl h
    · exact .inr ⟨d, List.mem_cons_of_mem _ hd, hy⟩

/-- A good record above all the others is the valid one, once it stands in the area. -/
theorem validRec_tset {key : BitVec 8} {area : Tab IndexRec} {pos : Nat} {r : IndexRec} (hg : r.good key = true)
    (hmax : ∀ e ∈ area, e.2.good key = true → e.2.seq < r.seq) : validRec key (tset area pos r) = some r := by
  rw [validRec_eq]
  obtain ⟨y, hy, hle⟩ := validRec_ge key (tset area pos r) none (mem_tset_self area pos r) hg
  rw [hy]
  rcases foldl_better_mem key _ _ hy with h | ⟨e, he, rfl, hge⟩
  · simp at h
  · rcases mem_of_mem_tset he with h | h
    · rw [h]
    · have := hmax e h hge
      simp only at hle
      omega

/-- SEQ of the record in force bounds every good record of both copies. -/
theorem good_le_inForce {k : KeyIndex} {e : Nat × IndexRec} (he : e ∈ k.areaA ∨ e ∈ k.areaB) (hg : e.2.good k.key = true) :
    e.2.seq ≤ (k.inForce.map (·.seq)).getD 0 := by
  obtain ⟨y, hy, hle⟩ : ∃ y, (validRec k.key k.areaA = some y ∨ validRec k.key k.areaB = some y) ∧ e.2.seq ≤ y.seq := by
    rcases he with he | he
    · obtain ⟨y, hy, h⟩ := validRec_ge k.key _ none he hg; exact ⟨y, .inl hy, h⟩
    · obtain ⟨y, hy, h⟩ := validRec_ge k.key _ none he hg; exact ⟨y, .inr hy, h⟩
  obtain ⟨z, hz, hle'⟩ := le_later hy
  unfold KeyIndex.inForce
  rw [hz]
  exact Nat.le_trans hle hle'

/-! ## Reserving and taking -/

theorem indexRec_good (key : BitVec 8) (seq last : Nat) : (indexRec key seq last).good key = true := by
  simp [IndexRec.good, indexRec]

/-- A reservation puts its own record in force: 1,024 indices past the old BLOCK_END, which is the next index. -/
theorem reserve_spec {k k' : KeyIndex} {n : Nat} (h : k.reserve n = some k') :
    k'.next = k.blockEnd ∧ k'.blockEnd = k.blockEnd + 1024 ∧ k'.fresh = false ∧ k'.key = k.key := by
  unfold KeyIndex.reserve at h
  dsimp only at h
  generalize hr : indexRec k.key ((k.inForce.map (·.seq)).getD 0 + 1) (k.blockEnd + 1024) = r at h
  have hg : r.good k.key = true := by rw [← hr]; exact indexRec_good ..
  have hseq : r.seq = (k.inForce.map (·.seq)).getD 0 + 1 := by rw [← hr]; rfl
  have hlast : r.last = k.blockEnd + 1024 := by rw [← hr]; rfl
  have hA : ∀ e ∈ k.areaA, e.2.good k.key = true → e.2.seq < r.seq := fun e he hge => by
    have := good_le_inForce (.inl he) hge; omega
  have hB : ∀ e ∈ k.areaB, e.2.good k.key = true → e.2.seq < r.seq := fun e he hge => by
    have := good_le_inForce (.inr he) hge; omega
  have hold : ∀ x, (validRec k.key k.areaA = some x ∨ validRec k.key k.areaB = some x) → x.seq < r.seq := by
    intro x hx
    rcases hx with hx | hx
    · rcases foldl_better_mem k.key _ _ hx with h | ⟨e, he, rfl, hge⟩
      · simp at h
      · exact hA e he hge
    · rcases foldl_better_mem k.key _ _ hx with h | ⟨e, he, rfl, hge⟩
      · simp at h
      · exact hB e he hge
  split at h
  · cases h
  · split at h
    · cases h
      refine ⟨rfl, ?_, rfl, rfl⟩
      rw [← hlast]
      unfold KeyIndex.blockEnd KeyIndex.inForce
      dsimp only
      rw [validRec_tset hg hA]
      cases hb : validRec k.key k.areaB with
      | none => simp [IndexRec.later]
      | some x =>
        have := hold x (.inr hb)
        simp only [IndexRec.later]
        rw [if_neg (by omega)]
        rfl
    · cases h
      refine ⟨rfl, ?_, rfl, rfl⟩
      rw [← hlast]
      unfold KeyIndex.blockEnd KeyIndex.inForce
      dsimp only
      rw [validRec_tset hg hB]
      cases ha : validRec k.key k.areaA with
      | none => simp [IndexRec.later]
      | some x =>
        have := hold x (.inl ha)
        simp only [IndexRec.later]
        rw [if_pos (by omega)]
        rfl

@[simp] theorem blockEnd_next (k : KeyIndex) (n : Nat) : ({ k with next := n } : KeyIndex).blockEnd = k.blockEnd := rfl

@[simp] theorem blockEnd_powerOn (k : KeyIndex) : k.powerOn.blockEnd = k.blockEnd := rfl

theorem covered_iff (k : KeyIndex) : k.covered = true ↔ k.next ≤ k.blockEnd := by simp [KeyIndex.covered]

/-- To take an index moves the next one past it and past every former one, and keeps the used ones covered (R446). -/
theorem take_spec {k k' : KeyIndex} {n i : Nat} (h : k.take n = some (i, k')) (hc : k.covered = true) :
    k'.covered = true ∧ k.next ≤ i ∧ k'.next = i + 1 ∧ k.next < k'.next := by
  rw [covered_iff] at hc
  unfold KeyIndex.take at h
  split at h
  · cases hr : k.reserve n with
    | none => rw [hr] at h; cases h
    | some r =>
      rw [hr] at h
      obtain ⟨h1, h2, _, _⟩ := reserve_spec hr
      cases h
      refine ⟨?_, ?_, rfl, ?_⟩
      · rw [covered_iff, blockEnd_next]; dsimp only; omega
      · omega
      · dsimp only; omega
  · rename_i hn
    cases h
    refine ⟨?_, Nat.le_refl _, rfl, ?_⟩
    · rw [covered_iff, blockEnd_next]; dsimp only; omega
    · dsimp only; omega

/-- At power-on the next index stands at BLOCK_END (R447). -/
theorem powerOn_covered (k : KeyIndex) : k.powerOn.covered = true := by
  rw [covered_iff, blockEnd_powerOn]; exact Nat.le_refl _

end Sys2Proof.Machine
end

