-- ==== Sys2Proof/Laws/Kept.lean ====
section
/-! SUPPORT. What the operations of the block leave as it is: the agents, the queue, the power-cycle count, the key
indices, the version fuse and its burn. One lemma per operation; an operation that does change one of them says how. -/

set_option maxRecDepth 4000
set_option linter.unusedSimpArgs false

namespace Sys2Proof.Machine

open Sys2Proof

@[simp] theorem kept_mk (a l h m hi me b t f r e c la o fr p) : State.kept ⟨a, l, h, m, hi, me, b, t, f, r, e, c, la, o, fr, p⟩ = ⟨a, p, t.powerCycles, t.identity, t.attest, f.fuse, f.burning⟩ := rfl
@[simp] theorem kept_eta (k : Kept) : Kept.mk k.agents k.pending k.powerCycles k.identity k.attest k.fuse k.burning = k := rfl
theorem kept_read (s : State) : s.agents = s.kept.agents ∧ s.pending = s.kept.pending ∧
    s.trust.powerCycles = s.kept.powerCycles ∧ s.trust.identity = s.kept.identity ∧
    s.trust.attest = s.kept.attest ∧ s.fw.fuse = s.kept.fuse ∧ s.fw.burning = s.kept.burning := ⟨rfl, rfl, rfl, rfl, rfl, rfl, rfl⟩
@[simp] theorem onSessions_powerCycles (t : Trust) (p f) : (t.onSessions p f).powerCycles = t.powerCycles := rfl
@[simp] theorem onSessions_identity (t : Trust) (p f) : (t.onSessions p f).identity = t.identity := rfl
@[simp] theorem onSessions_attest (t : Trust) (p f) : (t.onSessions p f).attest = t.attest := rfl
@[simp] theorem clearStat_powerCycles (t : Trust) (v) : (t.clearStat v).powerCycles = t.powerCycles := rfl
@[simp] theorem clearStat_identity (t : Trust) (v) : (t.clearStat v).identity = t.identity := rfl
@[simp] theorem clearStat_attest (t : Trust) (v) : (t.clearStat v).attest = t.attest := rfl
@[simp] theorem lose_powerCycles (t : Trust) : t.lose.powerCycles = t.powerCycles := rfl
@[simp] theorem lose_identity (t : Trust) : t.lose.identity = t.identity := rfl
@[simp] theorem lose_attest (t : Trust) : t.lose.attest = t.attest := rfl
@[simp] theorem lose_fuse (f : Fw) : f.lose.fuse = f.fuse := rfl
@[simp] theorem write_fuse (f : Fw) (r) : (f.write r).fuse = f.fuse := by unfold Fw.write; dsimp only; split <;> rfl
@[simp] theorem tear_fuse (f : Fw) : f.tear.fuse = f.fuse := by unfold Fw.tear; split <;> rfl
@[simp] theorem write_burning (f : Fw) (r) : (f.write r).burning = f.burning := by unfold Fw.write; dsimp only; split <;> rfl
@[simp] theorem tear_burning (f : Fw) : f.tear.burning = f.burning := by unfold Fw.tear; split <;> rfl
@[simp] theorem lose_burning (f : Fw) : f.lose.burning = f.burning := rfl
@[simp] theorem runs_burning (f : Fw) (b) : (f.runs b).burning = f.burning := rfl
@[simp] theorem burn_fuse (f : Fw) : f.burn.fuse = f.fuse := rfl
@[simp] theorem burnt_fuse (f : Fw) : f.burnt.fuse = f.fuse ||| f.burning.getD 0 := rfl
@[simp] theorem burnt_burning (f : Fw) : f.burnt.burning = none := rfl
@[simp] theorem setIndex_powerCycles (t : Trust) (i n) : (t.setIndex i n).powerCycles = t.powerCycles := by unfold Trust.setIndex; dsimp only; split <;> rfl
@[simp] theorem setIndex_identity (t : Trust) (i n) : (t.setIndex i n).identity = t.identity := by unfold Trust.setIndex; dsimp only; split <;> rfl
@[simp] theorem setIndex_attest (t : Trust) (i n) : (t.setIndex i n).attest = t.attest := by unfold Trust.setIndex; dsimp only; split <;> rfl
@[simp] theorem clearIndices_powerCycles (t : Trust) (g) : (t.clearIndices g).powerCycles = t.powerCycles := rfl
@[simp] theorem clearIndices_identity (t : Trust) (g) : (t.clearIndices g).identity = t.identity := rfl
@[simp] theorem clearIndices_attest (t : Trust) (g) : (t.clearIndices g).attest = t.attest := rfl
@[simp] theorem setIndices_powerCycles (t : Trust) (l) : (t.setIndices l).powerCycles = t.powerCycles := by
  have h : ∀ (l : Tab Nat) (u : Trust), (l.foldl (fun t e => t.setIndex e.1 e.2) u).powerCycles = u.powerCycles := by
    intro l
    induction l with
    | nil => intro u; rfl
    | cons a l ih => intro u; simp [ih]
  simp [Trust.setIndices, h]
@[simp] theorem setIndices_identity (t : Trust) (l) : (t.setIndices l).identity = t.identity := by
  have h : ∀ (l : Tab Nat) (u : Trust), (l.foldl (fun t e => t.setIndex e.1 e.2) u).identity = u.identity := by
    intro l
    induction l with
    | nil => intro u; rfl
    | cons a l ih => intro u; simp [ih]
  simp [Trust.setIndices, h]
@[simp] theorem setIndices_attest (t : Trust) (l) : (t.setIndices l).attest = t.attest := by
  have h : ∀ (l : Tab Nat) (u : Trust), (l.foldl (fun t e => t.setIndex e.1 e.2) u).attest = u.attest := by
    intro l
    induction l with
    | nil => intro u; rfl
    | cons a l ih => intro u; simp [ih]
  simp [Trust.setIndices, h]
@[simp] theorem writeCreds_powerCycles (t : Trust) (g) : (t.writeCreds g).powerCycles = t.powerCycles := rfl
@[simp] theorem writeCreds_identity (t : Trust) (g) : (t.writeCreds g).identity = t.identity := rfl
@[simp] theorem writeCreds_attest (t : Trust) (g) : (t.writeCreds g).attest = t.attest := rfl
@[simp] theorem runs_fuse (f : Fw) (b) : (f.runs b).fuse = f.fuse := rfl
@[simp] theorem freeStaging_fuse (f : Fw) : f.freeStaging.fuse = f.fuse := by
  unfold Fw.freeStaging; split <;> simp
@[simp] theorem freeStaging_burning (f : Fw) : f.freeStaging.burning = f.burning := by
  unfold Fw.freeStaging; split <;> simp
theorem useStaged_fuse {f : Fw} {x} (e : f.useStaged = some x) : x.1.fuse = f.fuse ∧ x.1.burning = f.burning := by
  unfold Fw.useStaged at e; (repeat' split at e) <;> simp at e <;> (try subst e) <;> simp
theorem fallBack_fuse {f : Fw} {x : Fw × List Byte} (e : f.fallBack = some x) : x.1.fuse = f.fuse ∧ x.1.burning = f.burning := by
  unfold Fw.fallBack at e
  split at e
  · simp at e
  · split at e
    · simp at e; subst e; simp
    · simp at e

@[simp] theorem kept_foldl {α : Type} (g : State → α → State) (l : List α) (s : State) (h : ∀ s x, (g s x).kept = s.kept) :
    (l.foldl g s).kept = s.kept := by
  induction l generalizing s with
  | nil => rfl
  | cons a l ih => simp [ih, h]

@[simp] theorem kept_foldl_fst {α β : Type} (g : State × β → α → State × β) (l : List α) (s : State × β)
    (h : ∀ s x, (g s x).1.kept = s.1.kept) : (l.foldl g s).1.kept = s.1.kept := by
  induction l generalizing s with
  | nil => rfl
  | cons a l ih => simp [ih, h]

@[simp] theorem kept_ite (c : Prop) [Decidable c] (a b : State) : (ite c a b).kept = ite c a.kept b.kept := by split <;> rfl

@[simp] theorem kept_ite_fst {β : Type} (c : Prop) [Decidable c] (a b : State × β) :
    (ite c a b).1.kept = ite c a.1.kept b.1.kept := by split <;> rfl

@[simp] theorem kept_ite_snd {β : Type} (c : Prop) [Decidable c] (a b : β × State) :
    (ite c a b).2.kept = ite c a.2.kept b.2.kept := by split <;> rfl

@[simp] theorem emit_kept (x0) (x1) :
    (State.emit x0 x1).kept = x0.kept := by
  simp [State.emit, kept_read]

theorem setAgent_kept (s : State) (a : Nat) (g : Agent) :
    (s.setAgent a g).kept = { s.kept with agents := tset s.agents a g } := rfl

theorem onAgent_kept (s : State) (a : Nat) (f : Agent → Agent × List Emission) :
    (s.onAgent a f).kept = { s.kept with agents := tset s.agents a (f (s.agent a)).1 } := rfl

@[simp] theorem draw_kept (x0) :
    (State.draw x0).2.kept = x0.kept := by
  simp [State.draw, kept_read]

@[simp] theorem note_kept (x0) (x1) (x2) (x3) :
    (State.note x0 x1 x2 x3).kept = x0.kept := by
  unfold State.note; repeat' (first | (simp [kept_read]; done) | split | (refine (kept_foldl _ _ _ ?_).trans ?_; intros) | (refine (kept_foldl_fst _ _ _ ?_).trans ?_; intros) | simp [kept_read])

@[simp] theorem noteSpan_kept (x0) (x1) (x2) (x3) (x4) (x5) :
    (State.noteSpan x0 x1 x2 x3 x4 x5).kept = x0.kept := by
  simp [State.noteSpan, kept_read]

@[simp] theorem tally_kept (x0) (x1) (x2) (x3) :
    (State.tally x0 x1 x2 x3).kept = x0.kept := by
  simp [State.tally, kept_read]

@[simp] theorem sample_kept (x0) (x1) :
    (State.sample x0 x1).kept = x0.kept := by
  simp [State.sample, kept_read]

@[simp] theorem cutRecorder_kept (x0) :
    (State.cutRecorder x0).kept = x0.kept := by
  simp [State.cutRecorder, kept_read]

@[simp] theorem startRecorder_kept (x0) :
    (State.startRecorder x0).kept = x0.kept := by
  simp [State.startRecorder, kept_read]

@[simp] theorem stopRecorder_kept (x0) :
    (State.stopRecorder x0).kept = x0.kept := by
  simp [State.stopRecorder, kept_read]

@[simp] theorem changePortAt_chrohar_kept (s : State) (p : Nat) (q : Port) :
    (s.changePortAt .chrohar p q).kept = s.kept := rfl

@[simp] theorem putPortAt_chrohar_kept (s : State) (p : Nat) (q : Port) :
    (s.putPortAt .chrohar p q).kept = s.kept := rfl

@[simp] theorem useCal_kept (x0) (x1) :
    (State.useCal x0 x1).kept = x0.kept := by
  simp [State.useCal, kept_read]

@[simp] theorem startTraining_chrohar_kept (s : State) (p : Nat) : (s.startTraining .chrohar p).kept = s.kept := by
  unfold State.startTraining State.useCal
  split <;> simp [kept_read]

@[simp] theorem refusePeers_kept (x0) (x1) :
    (State.refusePeers x0 x1).kept = x0.kept := by
  simp [State.refusePeers, kept_read]

@[simp] theorem holdKey_kept (x0) (x1) (x2) :
    (State.holdKey x0 x1 x2).kept = x0.kept := by
  simp [State.holdKey, kept_read]

@[simp] theorem dropKey_kept (x0) (x1) :
    (State.dropKey x0 x1).kept = x0.kept := by
  simp [State.dropKey, kept_read]

@[simp] theorem loadSlots_kept (x0) :
    (State.loadSlots x0).kept = x0.kept := by
  simp [State.loadSlots, kept_read]

@[simp] theorem setFn_kept (x0) (x1) (x2) :
    (State.setFn x0 x1 x2).kept = x0.kept := by
  simp [State.setFn, kept_read]

@[simp] theorem modFn_kept (x0) (x1) (x2) :
    (State.modFn x0 x1 x2).kept = x0.kept := by
  simp [State.modFn, kept_read]

@[simp] theorem hostFails_kept (x0) :
    (State.hostFails x0).2.kept = x0.kept := by
  simp [State.hostFails, kept_read]

@[simp] theorem interrupt_kept (x0) (x1) (x2) :
    (State.interrupt x0 x1 x2).kept = x0.kept := by
  simp [State.interrupt, kept_read]

@[simp] theorem sendSessions_kept (x0) (x1) (x2) (x3) :
    (State.sendSessions x0 x1 x2 x3).kept = x0.kept := by
  simp [State.sendSessions, kept_read]

@[simp] theorem postSessions_kept (x0) (x1) (x2) :
    (State.postSessions x0 x1 x2).kept = x0.kept := by
  simp [State.postSessions, kept_read]

@[simp] theorem writeEvent_kept (x0) (x1) (x2) :
    (State.writeEvent x0 x1 x2).kept = x0.kept := by
  simp [State.writeEvent, kept_read]

@[simp] theorem writeLost_kept (x0) (x1) :
    (State.writeLost x0 x1).kept = x0.kept := by
  simp [State.writeLost, kept_read]

@[simp] theorem post_kept (x0) (x1) (x2) :
    (State.post x0 x1 x2).kept = x0.kept := by
  simp [State.post, kept_read]

@[simp] theorem postPf_kept (x0) (x1) :
    (State.postPf x0 x1).kept = x0.kept := by
  simp [State.postPf, kept_read]

@[simp] theorem postHeat_kept (x0) (x1) :
    (State.postHeat x0 x1).kept = x0.kept := by
  simp [State.postHeat, kept_read]

@[simp] theorem alarm_kept (x0) (x1) (x2) :
    (State.alarm x0 x1 x2).kept = x0.kept := by
  simp [State.alarm, kept_read]

@[simp] theorem setFabric_kept (x0) (x1) :
    (State.setFabric x0 x1).kept = x0.kept := by
  simp [State.setFabric, kept_read]

@[simp] theorem writeReply_kept (x0) (x1) (x2) (x3) :
    (State.writeReply x0 x1 x2 x3).kept = x0.kept := by
  simp [State.writeReply, kept_read]

@[simp] theorem sessionReply_kept (x0) (x1) (x2) (x3) :
    (State.sessionReply x0 x1 x2 x3).kept = x0.kept := by
  simp [State.sessionReply, kept_read]

@[simp] theorem accept_kept (x0) (x1) :
    (State.accept x0 x1).kept = x0.kept := by
  simp [State.accept, kept_read]

@[simp] theorem notice_kept (x0) (x1) (x2) :
    (State.notice x0 x1 x2).kept = x0.kept := by
  simp [State.notice, kept_read]

@[simp] theorem touch_kept (x0) (x1) (x2) :
    (State.touch x0 x1 x2).kept = x0.kept := by
  simp [State.touch, kept_read]

@[simp] theorem noticeLater_kept (x0) :
    (State.noticeLater x0).kept = x0.kept := by
  simp [State.noticeLater, kept_read]

@[simp] theorem dropCmd_kept (x0) (x1) :
    (State.dropCmd x0 x1).kept = x0.kept := by
  simp [State.dropCmd, kept_read]

@[simp] theorem reply_kept (x0) (x1) (x2) :
    (State.reply x0 x1 x2).kept = x0.kept := by
  unfold State.reply; repeat' (first | (simp [kept_read]; done) | split | simp [kept_read])

@[simp] theorem journal_kept (x0) :
    (State.journal x0).kept = x0.kept := by
  simp [State.journal, kept_read]

@[simp] theorem finish_kept (x0) (x1) (x2) :
    (State.finish x0 x1 x2).kept = x0.kept := by
  unfold State.finish; repeat' (first | (simp [kept_read]; done) | split | (refine (kept_foldl _ _ _ ?_).trans ?_; intros) | (refine (kept_foldl_fst _ _ _ ?_).trans ?_; intros) | simp [kept_read])

@[simp] theorem markStarted_kept (x0) (x1) :
    (State.markStarted x0 x1).kept = x0.kept := by
  simp [State.markStarted, kept_read]

@[simp] theorem run_kept (x0) (x1) (x2) (x3) (hx3 : ∀ y0 y1, (x3 y0 y1).1.kept = y1.kept) :
    (State.run x0 x1 x2 x3).kept = x0.kept := by
  unfold State.run; repeat' (first | (simp [kept_read, hx3]; done) | split | (refine (kept_foldl _ _ _ ?_).trans ?_; intros) | (refine (kept_foldl_fst _ _ _ ?_).trans ?_; intros) | simp [kept_read, hx3])

@[simp] theorem ask_kept (x0) (x1) (x2) (x3) :
    (State.ask x0 x1 x2 x3).kept = x0.kept := by
  simp [State.ask, kept_read]

@[simp] theorem writeCmdEn_kept (x0) (x1) (x2) :
    (State.writeCmdEn x0 x1 x2).kept = x0.kept := by
  simp [State.writeCmdEn, kept_read]

@[simp] theorem writeEventHead_kept (x0) (x1) (x2) :
    (State.writeEventHead x0 x1 x2).kept = x0.kept := by
  simp [State.writeEventHead, kept_read]

@[simp] theorem resetFn_kept (x0) (x1) :
    (State.resetFn x0 x1).kept = x0.kept := by
  simp [State.resetFn, kept_read]

@[simp] theorem setVfs_kept (x0) (x1) (x2) :
    (State.setVfs x0 x1 x2).kept = x0.kept := by
  simp [State.setVfs, kept_read]

@[simp] theorem noteFail_kept (x0) (x1) (x2) :
    (State.noteFail x0 x1 x2).kept = x0.kept := by
  simp [State.noteFail, kept_read]

@[simp] theorem failHandshake_kept (x0) (x1) (x2) :
    (State.failHandshake x0 x1 x2).kept = x0.kept := by
  simp [State.failHandshake, kept_read]

@[simp] theorem endSession_kept (x0) (x1) :
    (State.endSession x0 x1).kept = x0.kept := by
  unfold State.endSession; repeat' (first | (simp [kept_read]; done) | split | simp [kept_read])

@[simp] theorem endSessions_kept (x0) (x1) :
    (State.endSessions x0 x1).kept = x0.kept := by
  simp [State.endSessions, kept_read]

theorem beginSession_kept (s : State) (p : SessPath) (a : BitVec 128) (c : BitVec 8) (v : Bool) (n : BitVec 256) :
    (s.beginSession p a c v n).kept =
      { s.kept with identity := match s.trust.identity.take s.skips with
                    | some (_, k) => k
                    | none => s.trust.identity } := by
  unfold State.beginSession
  cases h : s.trust.identity.take s.skips <;> simp [kept_read] at h <;> simp [kept_read, h]

@[simp] theorem streamCreds_kept (x0) :
    (State.streamCreds x0).kept = x0.kept := by
  simp [State.streamCreds, kept_read]

@[simp] theorem openSession_kept (x0) (x1) (x2) (x3) :
    (State.openSession x0 x1 x2 x3).kept = x0.kept := by
  unfold State.openSession; repeat' (first | (simp [kept_read]; done) | split | simp [kept_read])

@[simp] theorem countIn_kept (x0) (x1) :
    (State.countIn x0 x1).kept = x0.kept := by
  simp [State.countIn, kept_read]

@[simp] theorem takeCommand_kept (x0) (x1) (x2) :
    (State.takeCommand x0 x1 x2).kept = x0.kept := by
  simp [State.takeCommand, kept_read]

@[simp] theorem setCreds_kept (x0) (x1) (x2) :
    (State.setCreds x0 x1 x2).kept = x0.kept := by
  unfold State.setCreds; repeat' (first | (simp [kept_read]; done) | split | simp [kept_read])

@[simp] theorem tdGo_kept (x0) (x1) :
    (State.tdGo x0 x1).kept = x0.kept := by
  simp [State.tdGo, kept_read]

@[simp] theorem secQuote_kept (x0) (x1) :
    (secQuote x0 x1).1.kept = x1.kept := by
  simp [secQuote, kept_read]

@[simp] theorem deliverQuote_kept (x0) (x1) (x2) (x3) :
    (State.deliverQuote x0 x1 x2 x3).kept = x0.kept := by
  unfold State.deliverQuote; repeat' (first | (simp [kept_read]; done) | split | simp [kept_read])

@[simp] theorem writeWindow_kept (x0) (x1) (x2) (x3) :
    (State.writeWindow x0 x1 x2 x3).kept = x0.kept := by
  simp [State.writeWindow, kept_read]

@[simp] theorem writeBar0_kept (x0) (x1) (x2) (x3) :
    (State.writeBar0 x0 x1 x2 x3).kept = x0.kept := by
  unfold State.writeBar0; repeat' (first | (simp [kept_read]; done) | split | simp [kept_read])

@[simp] theorem writeMailbox_kept (x0) (x1) (x2) :
    (State.writeMailbox x0 x1 x2).kept = x0.kept := by
  unfold State.writeMailbox; repeat' (first | (simp [kept_read]; done) | split | simp [kept_read])

@[simp] theorem writeBar2_kept (x0) (x1) (x2) :
    (State.writeBar2 x0 x1 x2).kept = x0.kept := by
  simp [State.writeBar2, kept_read]

@[simp] theorem receiveAtTile_kept (x0) (x1) (x2) :
    (State.receiveAtTile x0 x1 x2).kept = x0.kept := by
  unfold State.receiveAtTile; repeat' (first | (simp [kept_read]; done) | split | simp [kept_read])

@[simp] theorem hubSend_kept (x0) (x1) :
    (State.hubSend x0 x1).kept = x0.kept := by
  unfold State.hubSend; repeat' (first | (simp [kept_read]; done) | split | simp [kept_read])

@[simp] theorem hubLaunch_kept (x0) (x1) :
    (State.hubLaunch x0 x1).kept = x0.kept := by
  simp [State.hubLaunch, kept_read]

@[simp] theorem hubOffer_kept (x0) (x1) (x2) :
    (State.hubOffer x0 x1 x2).1.kept = x0.kept := by
  simp [State.hubOffer, kept_read]

@[simp] theorem sendCtrl_kept (x0) (x1) (x2) (x3) :
    (State.sendCtrl x0 x1 x2 x3).kept = x0.kept := by
  simp [State.sendCtrl, kept_read]

@[simp] theorem sendTable_kept (x0) (x1) (x2) (x3) (x4) (x5) :
    (State.sendTable x0 x1 x2 x3 x4 x5).1.kept = x0.kept := by
  simp [State.sendTable, kept_read]

@[simp] theorem sendStretches_kept (x0) (x1) (x2) (x3) (x4) :
    (State.sendStretches x0 x1 x2 x3 x4).1.kept = x0.kept := by
  simp [State.sendStretches, kept_read]

@[simp] theorem loadAgent_kept (x0) (x1) (x2) :
    (State.loadAgent x0 x1 x2).1.kept = x0.kept := by
  simp [State.loadAgent, kept_read]

@[simp] theorem sendRun_kept (x0) (x1) (x2) (x3) :
    (State.sendRun x0 x1 x2 x3).1.kept = x0.kept := by
  simp [State.sendRun, kept_read]

@[simp] theorem sendKey_kept (x0) (x1) (x2) (x3) :
    (State.sendKey x0 x1 x2 x3).1.kept = x0.kept := by
  simp [State.sendKey, kept_read]

@[simp] theorem sendAll_kept {α : Type} (f : State → α → State × List Wait) (s : State) (l : List α)
    (h : ∀ s x, (f s x).1.kept = s.kept) : (State.sendAll f s l).1.kept = s.kept := by
  simp [kept_read, State.sendAll, h]

@[simp] theorem ctrlAll_kept (x0) (x1) (x2) :
    (State.ctrlAll x0 x1 x2).1.kept = x0.kept := by
  simp [State.ctrlAll, kept_read]

@[simp] theorem dropHubFlows_kept (x0) (x1) (x2) :
    (State.dropHubFlows x0 x1 x2).kept = x0.kept := by
  simp [State.dropHubFlows, kept_read]

@[simp] theorem modHeat_kept (x0) (x1) (x2) :
    (State.modHeat x0 x1 x2).kept = x0.kept := by
  simp [State.modHeat, kept_read]

@[simp] theorem recheckCaps_kept (x0) :
    (State.recheckCaps x0).kept = x0.kept := by
  unfold State.recheckCaps; repeat' (first | (simp [kept_read]; done) | split | simp [kept_read])

@[simp] theorem sendKeys_kept (x0) (x1) :
    (State.sendKeys x0 x1).1.kept = x0.kept := by
  unfold State.sendKeys; repeat' (first | (simp [kept_read]; done) | split | simp [kept_read])

@[simp] theorem setMem_kept (x0) (x1) :
    (State.setMem x0 x1).kept = x0.kept := by
  simp [State.setMem, kept_read]

@[simp] theorem createKey_kept (x0) (x1) (x2) :
    (State.createKey x0 x1 x2).kept = x0.kept := by
  simp [State.createKey, kept_read]

@[simp] theorem destroyKey_kept (x0) (x1) (x2) :
    (State.destroyKey x0 x1 x2).kept = x0.kept := by
  simp [State.destroyKey, kept_read]

@[simp] theorem ensureKey_kept (x0) (x1) :
    (State.ensureKey x0 x1).kept = x0.kept := by
  simp [State.ensureKey, kept_read]

@[simp] theorem retireKey_kept (x0) (x1) :
    (State.retireKey x0 x1).kept = x0.kept := by
  unfold State.retireKey; repeat' (first | (simp [kept_read]; done) | split | simp [kept_read])

@[simp] theorem retireKeys_kept (x0) :
    (State.retireKeys x0).kept = x0.kept := by
  simp [State.retireKeys, kept_read]

@[simp] theorem evict_kept (x0) (x1) (x2) (x3) :
    (State.evict x0 x1 x2 x3).kept = x0.kept := by
  fun_induction State.evict x0 x1 x2 x3 <;> simp_all

@[simp] theorem enterCache_kept (x0) (x1) (x2) :
    (State.enterCache x0 x1 x2).kept = x0.kept := by
  unfold State.enterCache; repeat' (first | (simp [kept_read]; done) | split | simp [kept_read])

@[simp] theorem rotateOut_kept (x0) (x1) (x2) :
    (State.rotateOut x0 x1 x2).kept = x0.kept := by
  simp [State.rotateOut, kept_read]

@[simp] theorem reencrypt_kept (x0) :
    (State.reencrypt x0).kept = x0.kept := by
  unfold State.reencrypt; repeat' (first | (simp [kept_read]; done) | split | simp [kept_read])

@[simp] theorem beginRetrain_kept (x0) (x1) (x2) (x3) :
    (State.beginRetrain x0 x1 x2 x3).kept = x0.kept := by
  simp [State.beginRetrain, kept_read]

@[simp] theorem holdLink_kept (x0) (x1) (x2) (x3) :
    (State.holdLink x0 x1 x2 x3).kept = x0.kept := by
  simp [State.holdLink, kept_read]

@[simp] theorem tongs_kept (x0) (x1) (x2) :
    (State.tongs x0 x1 x2).1.kept = x0.kept := by
  unfold State.tongs; repeat' (first | (simp [kept_read]; done) | split | simp [kept_read])

@[simp] theorem takeTongs_kept (x0) (x1) (x2) :
    (State.takeTongs x0 x1 x2).kept = x0.kept := by
  simp [State.takeTongs, kept_read]

@[simp] theorem store_kept (x0) (x1) (x2) (x3) :
    (State.store x0 x1 x2 x3).kept = x0.kept := by
  simp [State.store, kept_read]

@[simp] theorem streamConfig_kept (x0) (x1) :
    (State.streamConfig x0 x1).kept = x0.kept := by
  simp [State.streamConfig, kept_read]

@[simp] theorem configWritten_kept (x0) (x1) :
    (State.configWritten x0 x1).kept = x0.kept := by
  unfold State.configWritten; repeat' (first | (simp [kept_read]; done) | split | simp [kept_read])

@[simp] theorem modPlan_kept (x0) (x1) (x2) :
    (State.modPlan x0 x1 x2).kept = x0.kept := by
  simp [State.modPlan, kept_read]

@[simp] theorem setHub_kept (x0) (x1) :
    (State.setHub x0 x1).kept = x0.kept := by
  simp [State.setHub, kept_read]

@[simp] theorem setChunk_kept (x0) (x1) :
    (State.setChunk x0 x1).kept = x0.kept := by
  simp [State.setChunk, kept_read]

@[simp] theorem freeChunk_kept (x0) (x1) (x2) (x3) (x4) :
    (State.freeChunk x0 x1 x2 x3 x4).kept = x0.kept := by
  simp [State.freeChunk, kept_read]

@[simp] theorem modStep_kept (x0) (x1) (x2) (x3) (x4) :
    (State.modStep x0 x1 x2 x3 x4).kept = x0.kept := by
  simp [State.modStep, kept_read]

@[simp] theorem openHubStep_kept (x0) (x1) (x2) (x3) :
    (State.openHubStep x0 x1 x2 x3).kept = x0.kept := by
  simp [State.openHubStep, kept_read]

@[simp] theorem sendResult_kept (x0) (x1) (x2) :
    (State.sendResult x0 x1 x2).kept = x0.kept := by
  simp [State.sendResult, kept_read]

@[simp] theorem sendToRanks_kept (x0) (x1) (x2) (x3) (x4) (x5) (x6) (x7) (x8) :
    (State.sendToRanks x0 x1 x2 x3 x4 x5 x6 x7 x8).kept = x0.kept := by
  unfold State.sendToRanks; repeat' (first | (simp [kept_read]; done) | split | (refine (kept_foldl _ _ _ ?_).trans ?_; intros) | (refine (kept_foldl_fst _ _ _ ?_).trans ?_; intros) | simp [kept_read])

@[simp] theorem give_kept (x0) (x1) (x2) (x3) (x4) (x5) :
    (State.give x0 x1 x2 x3 x4 x5).kept = x0.kept := by
  simp [State.give, kept_read]

@[simp] theorem sendOutputs_kept (x0) (x1) (x2) (x3) (x4) (x5) (x6) (x7) (x8) :
    (State.sendOutputs x0 x1 x2 x3 x4 x5 x6 x7 x8).kept = x0.kept := by
  simp [State.sendOutputs, kept_read]

@[simp] theorem broadcast_kept (x0) (x1) (x2) (x3) :
    (State.broadcast x0 x1 x2 x3).kept = x0.kept := by
  unfold State.broadcast; repeat' (first | (simp [kept_read]; done) | split | simp [kept_read])

@[simp] theorem startStep_kept (x0) (x1) (x2) (x3) :
    (State.startStep x0 x1 x2 x3).kept = x0.kept := by
  simp [State.startStep, kept_read]

@[simp] theorem sendOrder_kept (x0) (x1) (x2) (x3) (x4) :
    (State.sendOrder x0 x1 x2 x3 x4).kept = x0.kept := by
  simp [State.sendOrder, kept_read]

@[simp] theorem sendPodTotal_kept (x0) (x1) (x2) (x3) (x4) (x5) :
    (State.sendPodTotal x0 x1 x2 x3 x4 x5).kept = x0.kept := by
  simp [State.sendPodTotal, kept_read]

@[simp] theorem formResults_kept (x0) (x1) (x2) :
    (State.formResults x0 x1 x2).kept = x0.kept := by
  simp [State.formResults, kept_read]

@[simp] theorem rebaseHub_kept (x0) (x1) :
    (State.rebaseHub x0 x1).kept = x0.kept := by
  simp [State.rebaseHub, kept_read]

@[simp] theorem sendStepEnd_kept (x0) (x1) (x2) (x3) (x4) (x5) :
    (State.sendStepEnd x0 x1 x2 x3 x4 x5).kept = x0.kept := by
  unfold State.sendStepEnd; repeat' (first | (simp [kept_read]; done) | split | (refine (kept_foldl _ _ _ ?_).trans ?_; intros) | (refine (kept_foldl_fst _ _ _ ?_).trans ?_; intros) | simp [kept_read])

@[simp] theorem sendEnds_kept (x0) :
    (State.sendEnds x0).kept = x0.kept := by
  unfold State.sendEnds; repeat' (first | (simp [kept_read]; done) | split | (refine (kept_foldl _ _ _ ?_).trans ?_; intros) | (refine (kept_foldl_fst _ _ _ ?_).trans ?_; intros) | simp [kept_read])

@[simp] theorem loseFenced_kept (x0) (x1) (x2) :
    (State.loseFenced x0 x1 x2).kept = x0.kept := by
  simp [State.loseFenced, kept_read]

@[simp] theorem checkFenced_kept (x0) (x1) (x2) (x3) :
    (State.checkFenced x0 x1 x2 x3).kept = x0.kept := by
  unfold State.checkFenced; repeat' (first | (simp [kept_read]; done) | split | simp [kept_read])

@[simp] theorem checkSource_kept (x0) (x1) (x2) :
    (State.checkSource x0 x1 x2).kept = x0.kept := by
  unfold State.checkSource; repeat' (first | (simp [kept_read]; done) | split | simp [kept_read])

@[simp] theorem chunkMoves_kept (x0) (x1) (x2) :
    (State.chunkMoves x0 x1 x2).kept = x0.kept := by
  unfold State.chunkMoves; repeat' (first | (simp [kept_read]; done) | split | simp [kept_read])

@[simp] theorem openNext_kept (x0) (x1) (x2) (x3) :
    (State.openNext x0 x1 x2 x3).kept = x0.kept := by
  simp [State.openNext, kept_read]

@[simp] theorem completeStep_kept (x0) (x1) (x2) (x3) (x4) :
    (State.completeStep x0 x1 x2 x3 x4).kept = x0.kept := by
  simp [State.completeStep, kept_read]

@[simp] theorem sweepSteps_kept (x0) (x1) :
    (State.sweepSteps x0 x1).kept = x1.kept := by
  fun_induction State.sweepSteps x0 x1 <;> simp_all

@[simp] theorem endReady_kept (x0) :
    (State.endReady x0).kept = x0.kept := by
  simp [State.endReady, kept_read]

@[simp] theorem dropKept_kept (x0) (x1) :
    (State.dropKept x0 x1).kept = x0.kept := by
  simp [State.dropKept, kept_read]

@[simp] theorem failStep_kept (x0) (x1) (x2) (x3) (x4) :
    (State.failStep x0 x1 x2 x3 x4).kept = x0.kept := by
  unfold State.failStep; repeat' (first | (simp [kept_read]; done) | split | simp [kept_read])

@[simp] theorem failSteps_kept (x0) (x1) (x2) :
    (State.failSteps x0 x1 x2).kept = x0.kept := by
  simp [State.failSteps, kept_read]

@[simp] theorem clearSteps_kept (x0) (x1) :
    (State.clearSteps x0 x1).kept = x0.kept := by
  simp [State.clearSteps, kept_read]

@[simp] theorem checkPlan_kept (x0) (x1) :
    (State.checkPlan x0 x1).kept = x0.kept := by
  unfold State.checkPlan; repeat' (first | (simp [kept_read]; done) | split | simp [kept_read])

@[simp] theorem openSteps_kept (x0) (x1) (x2) (x3) :
    (State.openSteps x0 x1 x2 x3).kept = x0.kept := by
  simp [State.openSteps, kept_read]

@[simp] theorem openPlan_kept (x0) (x1) (x2) (x3) :
    (State.openPlan x0 x1 x2 x3).kept = x0.kept := by
  simp [State.openPlan, kept_read]

@[simp] theorem countStray_kept (x0) (x1) :
    (State.countStray x0 x1).kept = x0.kept := by
  simp [State.countStray, kept_read]

@[simp] theorem contribute_kept (x0) (x1) :
    (State.contribute x0 x1).kept = x0.kept := by
  unfold State.contribute; repeat' (first | (simp [kept_read]; done) | split | simp [kept_read])

@[simp] theorem modBarrier_kept (x0) (x1) (x2) (x3) :
    (State.modBarrier x0 x1 x2 x3).kept = x0.kept := by
  simp [State.modBarrier, kept_read]

@[simp] theorem sendRelease_kept (x0) (x1) (x2) (x3) (x4) (x5) :
    (State.sendRelease x0 x1 x2 x3 x4 x5).kept = x0.kept := by
  unfold State.sendRelease; repeat' (first | (simp [kept_read]; done) | split | simp [kept_read])

@[simp] theorem releaseStep_kept (x0) (x1) (x2) :
    (State.releaseStep x0 x1 x2).kept = x0.kept := by
  simp [State.releaseStep, kept_read]

@[simp] theorem releaseFull_kept (x0) (x1) (x2) (x3) :
    (State.releaseFull x0 x1 x2 x3).kept = x3.kept := by
  fun_induction State.releaseFull x0 x1 x2 x3 <;> simp_all

@[simp] theorem checkBarrier_kept (x0) (x1) (x2) :
    (State.checkBarrier x0 x1 x2).kept = x0.kept := by
  unfold State.checkBarrier; repeat' (first | (simp [kept_read]; done) | split | simp [kept_read])

@[simp] theorem arrive_kept (x0) (x1) :
    (State.arrive x0 x1).kept = x0.kept := by
  unfold State.arrive; repeat' (first | (simp [kept_read]; done) | split | simp [kept_read])

theorem takeInbox_kept {s : State} {ty : BitVec 8} {x : Pkt × State} (e : s.takeInbox ty = some x) :
    x.2.kept = s.kept := by
  simp only [State.takeInbox, Option.map_eq_some_iff] at e
  obtain ⟨y, _, rfl⟩ := e
  simp [kept_read]

@[simp] theorem regrade_kept (x0) :
    (State.regrade x0).kept = x0.kept := by
  unfold State.regrade; repeat' (first | (simp [kept_read]; done) | split | simp [kept_read])

@[simp] theorem regradePort_kept (x0) :
    (State.regradePort x0).kept = x0.kept := by
  simp [State.regradePort, kept_read]

@[simp] theorem testFound_kept (x0) (x1) :
    (State.testFound x0 x1).kept = x0.kept := by
  simp [State.testFound, kept_read]

@[simp] theorem withhold_kept (x0) :
    (State.withhold x0).kept = x0.kept := by
  simp [State.withhold, kept_read]

@[simp] theorem setEmber_kept (x0) (x1) :
    (State.setEmber x0 x1).kept = x0.kept := by
  simp [State.setEmber, kept_read]

@[simp] theorem startStream_kept (x0) (x1) :
    (State.startStream x0 x1).kept = x0.kept := by
  unfold State.startStream; repeat' (first | (simp [kept_read]; done) | split | simp [kept_read])

@[simp] theorem startSync_kept (x0) :
    (State.startSync x0).kept = x0.kept := by
  simp [State.startSync, kept_read]

@[simp] theorem dropStream_kept (x0) (x1) :
    (State.dropStream x0 x1).kept = x0.kept := by
  simp [State.dropStream, kept_read]

@[simp] theorem abandonStream_kept (x0) (x1) :
    (State.abandonStream x0 x1).kept = x0.kept := by
  simp [State.abandonStream, kept_read]

@[simp] theorem setHearth_kept (x0) (x1) (x2) (x3) :
    (State.setHearth x0 x1 x2 x3).kept = x0.kept := by
  simp [State.setHearth, kept_read]

@[simp] theorem formGrad_kept (x0) (x1) (x2) :
    (State.formGrad x0 x1 x2).kept = x0.kept := by
  simp [State.formGrad, kept_read]

@[simp] theorem pumpForge_kept (x0) :
    (State.pumpForge x0).kept = x0.kept := by
  unfold State.pumpForge; repeat' (first | (simp [kept_read]; done) | split | (refine (kept_foldl _ _ _ ?_).trans ?_; intros) | (refine (kept_foldl_fst _ _ _ ?_).trans ?_; intros) | simp [kept_read])

@[simp] theorem takeGrad_kept (x0) (x1) (x2) (x3) (x4) :
    (State.takeGrad x0 x1 x2 x3 x4).kept = x0.kept := by
  simp [State.takeGrad, kept_read]

@[simp] theorem forgeError_kept (x0) (x1) (x2) :
    (State.forgeError x0 x1 x2).kept = x0.kept := by
  simp [State.forgeError, kept_read]

@[simp] theorem receiveGrad_kept (x0) (x1) (x2) :
    (State.receiveGrad x0 x1 x2).kept = x0.kept := by
  unfold State.receiveGrad; repeat' (first | (simp [kept_read]; done) | split | simp [kept_read])

@[simp] theorem acceptRefused_kept (x0) (x1) :
    (State.acceptRefused x0 x1).kept = x0.kept := by
  unfold State.acceptRefused; repeat' (first | (simp [kept_read]; done) | split | simp [kept_read])

@[simp] theorem beginSave_kept (x0) (x1) (x2) :
    (State.beginSave x0 x1 x2).kept = x0.kept := by
  simp [State.beginSave, kept_read]

@[simp] theorem commitSave_kept (x0) (x1) :
    (State.commitSave x0 x1).kept = x0.kept := by
  unfold State.commitSave; repeat' (first | (simp [kept_read]; done) | split | simp [kept_read])

@[simp] theorem sendWeights_kept (x0) (x1) (x2) (x3) (x4) :
    (State.sendWeights x0 x1 x2 x3 x4).kept = x0.kept := by
  unfold State.sendWeights; repeat' (first | (simp [kept_read]; done) | split | simp [kept_read])

@[simp] theorem stageAt_kept (x0) (x1) (x2) (x3) (x4) (x5) :
    (State.stageAt x0 x1 x2 x3 x4 x5).kept = x0.kept := by
  simp [State.stageAt, kept_read]

@[simp] theorem updateAt_kept (x0) (x1) (x2) (x3) (x4) (x5) :
    (State.updateAt x0 x1 x2 x3 x4 x5).kept = x0.kept := by
  simp [State.updateAt, kept_read]

@[simp] theorem stepRecord_kept (x0) (x1) (x2) (x3) (x4) (x5) :
    (State.stepRecord x0 x1 x2 x3 x4 x5).kept = x0.kept := by
  unfold State.stepRecord; repeat' (first | (simp [kept_read]; done) | split | simp [kept_read])

@[simp] theorem recordAt_kept (x0) (x1) (x2) (x3) :
    (State.recordAt x0 x1 x2 x3).kept = x0.kept := by
  unfold State.recordAt; repeat' (first | (simp [kept_read]; done) | split | simp [kept_read])

@[simp] theorem onHearths_kept (x0) (x1) (x2) (x3) :
    (State.onHearths x0 x1 x2 x3).kept = x0.kept := by
  simp [State.onHearths, kept_read]

@[simp] theorem finishForge_kept (x0) (x1) (x2) :
    (State.finishForge x0 x1 x2).kept = x0.kept := by
  simp [State.finishForge, kept_read]

@[simp] theorem endPass_kept (x0) (x1) (x2) (x3) :
    (State.endPass x0 x1 x2 x3).kept = x0.kept := by
  simp [State.endPass, kept_read]

@[simp] theorem passEndAt_kept (x0) (x1) :
    (State.passEndAt x0 x1).kept = x0.kept := by
  unfold State.passEndAt; repeat' (first | (simp [kept_read]; done) | split | simp [kept_read])

@[simp] theorem decideStep_kept (x0) (x1) (x2) (x3) :
    (State.decideStep x0 x1 x2 x3).kept = x0.kept := by
  simp [State.decideStep, kept_read]

@[simp] theorem sendNorm_kept (x0) (x1) (x2) (x3) :
    (State.sendNorm x0 x1 x2 x3).kept = x0.kept := by
  simp [State.sendNorm, kept_read]

@[simp] theorem normDecision_kept (x0) :
    (State.normDecision x0).kept = x0.kept := by
  unfold State.normDecision; repeat' (first | (simp [kept_read]; done) | split | simp [kept_read])

@[simp] theorem takeNorm_kept (x0) (x1) :
    (State.takeNorm x0 x1).kept = x0.kept := by
  unfold State.takeNorm; repeat' (first | (simp [kept_read]; done) | split | simp [kept_read])

@[simp] theorem reserve_kept (x0) (x1) (x2) (x3) (x4) (x5) (x6) (x7) :
    (State.reserve x0 x1 x2 x3 x4 x5 x6 x7).kept = x0.kept := by
  simp [State.reserve, kept_read]

theorem loadPlan_kept {s t : State} {n : Net} {no : Nat} {h : Heat} {q : LoadAsk} (e : s.loadPlan n no h q = .inr t) :
    t.kept = s.kept := by
  unfold State.loadPlan at e
  cases hc : s.loadChecks n no h q with
  | inl a => rw [hc] at e; cases e
  | inr runs =>
    rw [hc] at e
    dsimp only at e
    split at e
    · cases e
    · cases e; simp [kept_read]

@[simp] theorem beginPlan_kept (x0) (x1) :
    (State.beginPlan x0 x1).kept = x0.kept := by
  unfold State.beginPlan; repeat' (first | (simp [kept_read]; done) | split | simp [kept_read])

@[simp] theorem abortSteps_kept (x0) (x1) :
    (State.abortSteps x0 x1).kept = x0.kept := by
  simp [State.abortSteps, kept_read]

@[simp] theorem keepLast_kept (x0) (x1) :
    (State.keepLast x0 x1).1.kept = x0.kept := by
  unfold State.keepLast; repeat' (first | (simp [kept_read]; done) | split | simp [kept_read])

@[simp] theorem freePlan_kept (x0) (x1) :
    (State.freePlan x0 x1).kept = x0.kept := by
  simp [State.freePlan, kept_read]

@[simp] theorem abortLoad_kept (x0) (x1) :
    (State.abortLoad x0 x1).kept = x0.kept := by
  unfold State.abortLoad; repeat' (first | (simp [kept_read]; done) | split | simp [kept_read])

@[simp] theorem setMgr_kept (x0) (x1) :
    (State.setMgr x0 x1).kept = x0.kept := by
  simp [State.setMgr, kept_read]

@[simp] theorem addJob_kept (x0) (x1) (x2) :
    (State.addJob x0 x1 x2).kept = x0.kept := by
  simp [State.addJob, kept_read]

@[simp] theorem requestEpoch_kept (x0) :
    (State.requestEpoch x0).kept = x0.kept := by
  simp [State.requestEpoch, kept_read]

@[simp] theorem act_kept (x0) (x1) :
    (State.act x0 x1).kept = x0.kept := by
  simp [State.act, kept_read]

@[simp] theorem trouble_kept (x0) (x1) :
    (State.trouble x0 x1).kept = x0.kept := by
  simp [State.trouble, kept_read]

@[simp] theorem sendRuns_kept (x0) (x1) (x2) :
    (State.sendRuns x0 x1 x2).1.kept = x0.kept := by
  simp [State.sendRuns, kept_read]

@[simp] theorem eachRun_kept (x0) (x1) (x2) :
    (State.eachRun x0 x1 x2).1.kept = x0.kept := by
  unfold State.eachRun; repeat' (first | (simp [kept_read]; done) | split | (refine (kept_foldl _ _ _ ?_).trans ?_; intros) | (refine (kept_foldl_fst _ _ _ ?_).trans ?_; intros) | simp [kept_read])

@[simp] theorem dropRuns_kept (x0) (x1) :
    (State.dropRuns x0 x1).kept = x0.kept := by
  simp [State.dropRuns, kept_read]

@[simp] theorem modEntry_kept (x0) (x1) (x2) :
    (State.modEntry x0 x1 x2).kept = x0.kept := by
  simp [State.modEntry, kept_read]

@[simp] theorem setService_kept (x0) (x1) (x2) :
    (State.setService x0 x1 x2).kept = x0.kept := by
  simp [State.setService, kept_read]

@[simp] theorem holdCh_kept (x0) (x1) :
    (State.holdCh x0 x1).kept = x0.kept := by
  simp [State.holdCh, kept_read]

@[simp] theorem releaseCh_kept (x0) (x1) :
    (State.releaseCh x0 x1).kept = x0.kept := by
  simp [State.releaseCh, kept_read]

@[simp] theorem holdPorts_kept (x0) (x1) (x2) :
    (State.holdPorts x0 x1 x2).1.kept = x0.kept := by
  simp [State.holdPorts, kept_read]

@[simp] theorem portsDown_kept (x0) (x1) :
    (State.portsDown x0 x1).kept = x0.kept := by
  simp [State.portsDown, kept_read]

@[simp] theorem holdFacing_kept (x0) (x1) (x2) :
    (State.holdFacing x0 x1 x2).kept = x0.kept := by
  unfold State.holdFacing; repeat' (first | (simp [kept_read]; done) | split | simp [kept_read])

@[simp] theorem dropWaits_kept (x0) (x1) :
    (State.dropWaits x0 x1).kept = x0.kept := by
  simp [State.dropWaits, kept_read]

@[simp] theorem takeOut_kept (x0) (x1) (x2) (x3) :
    (State.takeOut x0 x1 x2 x3).kept = x0.kept := by
  unfold State.takeOut; repeat' (first | (simp [kept_read]; done) | split | simp [kept_read])

@[simp] theorem sendBoundary_kept (x0) (x1) :
    (State.sendBoundary x0 x1).1.kept = x0.kept := by
  unfold State.sendBoundary; repeat' (first | (simp [kept_read]; done) | split | simp [kept_read])

@[simp] theorem putFencing_kept (x0) (x1) :
    (State.putFencing x0 x1).kept = x0.kept := by
  simp [State.putFencing, kept_read]

@[simp] theorem dropFencing_kept (x0) (x1) :
    (State.dropFencing x0 x1).kept = x0.kept := by
  simp [State.dropFencing, kept_read]

@[simp] theorem noticeGroup_kept (x0) (x1) (x2) (x3) (x4) (x5) (x6) :
    (State.noticeGroup x0 x1 x2 x3 x4 x5 x6).kept = x0.kept := by
  unfold State.noticeGroup; repeat' (first | (simp [kept_read]; done) | split | simp [kept_read])

@[simp] theorem fenceGroups_kept (x0) (x1) (x2) (x3) :
    (State.fenceGroups x0 x1 x2 x3).kept = x0.kept := by
  unfold State.fenceGroups; repeat' (first | (simp [kept_read]; done) | split | (refine (kept_foldl _ _ _ ?_).trans ?_; intros) | (refine (kept_foldl_fst _ _ _ ?_).trans ?_; intros) | simp [kept_read])

@[simp] theorem dropRank_kept (x0) (x1) (x2) :
    (State.dropRank x0 x1 x2).kept = x0.kept := by
  unfold State.dropRank; repeat' (first | (simp [kept_read]; done) | split | (refine (kept_foldl _ _ _ ?_).trans ?_; intros) | (refine (kept_foldl_fst _ _ _ ?_).trans ?_; intros) | simp [kept_read])

@[simp] theorem fenceDone_kept (x0) (x1) :
    (State.fenceDone x0 x1).kept = x0.kept := by
  unfold State.fenceDone; repeat' (first | (simp [kept_read]; done) | split | simp [kept_read])

@[simp] theorem boundariesDone_kept (x0) :
    (State.boundariesDone x0).kept = x0.kept := by
  unfold State.boundariesDone; repeat' (first | (simp [kept_read]; done) | split | simp [kept_read])

@[simp] theorem toBoundary_kept (x0) (x1) :
    (State.toBoundary x0 x1).kept = x0.kept := by
  simp [State.toBoundary, kept_read]

@[simp] theorem startFence_kept (x0) (x1) (x2) (x3) (x4) :
    (State.startFence x0 x1 x2 x3 x4).kept = x0.kept := by
  simp [State.startFence, kept_read]

@[simp] theorem loseEndpoint_kept (x0) (x1) (x2) :
    (State.loseEndpoint x0 x1 x2).kept = x0.kept := by
  unfold State.loseEndpoint; repeat' (first | (simp [kept_read]; done) | split | simp [kept_read])

@[simp] theorem unreachable_kept (x0) (x1) :
    (State.unreachable x0 x1).kept = x0.kept := by
  unfold State.unreachable; repeat' (first | (simp [kept_read]; done) | split | simp [kept_read])

@[simp] theorem clearPeers_kept (x0) (x1) (x2) (x3) (x4) :
    (State.clearPeers x0 x1 x2 x3 x4).1.kept = x0.kept := by
  simp [State.clearPeers, kept_read]

@[simp] theorem clearHub_kept (x0) (x1) (x2) :
    (State.clearHub x0 x1 x2).kept = x0.kept := by
  unfold State.clearHub; repeat' (first | (simp [kept_read]; done) | split | simp [kept_read])

@[simp] theorem clearGroups_kept (x0) (x1) (x2) (x3) :
    (State.clearGroups x0 x1 x2 x3).1.kept = x0.kept := by
  simp [State.clearGroups, kept_read]

@[simp] theorem clearSide_kept (x0) (x1) (x2) :
    (State.clearSide x0 x1 x2).1.kept = x0.kept := by
  unfold State.clearSide; repeat' (first | (simp [kept_read]; done) | split | simp [kept_read])

@[simp] theorem clearOwnGroups_kept (x0) (x1) (x2) (x3) (x4) :
    (State.clearOwnGroups x0 x1 x2 x3 x4).1.kept = x0.kept := by
  simp [State.clearOwnGroups, kept_read]

@[simp] theorem clearRank_kept (x0) (x1) (x2) :
    (State.clearRank x0 x1 x2).1.kept = x0.kept := by
  unfold State.clearRank; repeat' (first | (simp [kept_read]; done) | split | simp [kept_read])

@[simp] theorem endJoining_kept (x0) (x1) (x2) (x3) :
    (State.endJoining x0 x1 x2 x3).kept = x0.kept := by
  simp [State.endJoining, kept_read]

@[simp] theorem abandon_kept (x0) (x1) :
    (State.abandon x0 x1).kept = x0.kept := by
  unfold State.abandon; repeat' (first | (simp [kept_read]; done) | split | simp [kept_read])

@[simp] theorem stopHeat_kept (x0) (x1) (x2) :
    (State.stopHeat x0 x1 x2).kept = x0.kept := by
  unfold State.stopHeat; repeat' (first | (simp [kept_read]; done) | split | simp [kept_read])

@[simp] theorem enqueueHeat_kept (x0) (x1) (x2) :
    (State.enqueueHeat x0 x1 x2).kept = x0.kept := by
  simp [State.enqueueHeat, kept_read]

@[simp] theorem restart_kept (x0) (x1) :
    (State.restart x0 x1).kept = x0.kept := by
  unfold State.restart; repeat' (first | (simp [kept_read]; done) | split | simp [kept_read])

@[simp] theorem rollBack_kept (x0) (x1) :
    (State.rollBack x0 x1).kept = x0.kept := by
  unfold State.rollBack; repeat' (first | (simp [kept_read]; done) | split | simp [kept_read])

@[simp] theorem resumePlan_kept (x0) (x1) (x2) :
    (State.resumePlan x0 x1 x2).kept = x0.kept := by
  unfold State.resumePlan; repeat' (first | (simp [kept_read]; done) | split | simp [kept_read])

@[simp] theorem splice_kept (x0) (x1) (x2) (x3) (x4) (x5) :
    (State.splice x0 x1 x2 x3 x4 x5).kept = x0.kept := by
  simp [State.splice, kept_read]

@[simp] theorem spliceEvent_kept (x0) (x1) (x2) (x3) (x4) (x5) :
    (State.spliceEvent x0 x1 x2 x3 x4 x5).kept = x0.kept := by
  simp [State.spliceEvent, kept_read]

@[simp] theorem sendState_kept (x0) (x1) (x2) :
    (State.sendState x0 x1 x2).kept = x0.kept := by
  unfold State.sendState; repeat' (first | (simp [kept_read]; done) | split | simp [kept_read])

@[simp] theorem catchUp_kept (x0) (x1) (x2) (x3) (x4) :
    (State.catchUp x0 x1 x2 x3 x4).kept = x0.kept := by
  unfold State.catchUp; repeat' (first | (simp [kept_read]; done) | split | (refine (kept_foldl _ _ _ ?_).trans ?_; intros) | (refine (kept_foldl_fst _ _ _ ?_).trans ?_; intros) | simp [kept_read])

@[simp] theorem spliceEnds_kept (x0) (x1) (x2) (x3) (x4) :
    (State.spliceEnds x0 x1 x2 x3 x4).kept = x0.kept := by
  unfold State.spliceEnds; repeat' (first | (simp [kept_read]; done) | split | simp [kept_read])

@[simp] theorem retrySteps_kept (x0) (x1) (x2) (x3) :
    (State.retrySteps x0 x1 x2 x3).kept = x0.kept := by
  unfold State.retrySteps; repeat' (first | (simp [kept_read]; done) | split | simp [kept_read])

@[simp] theorem clearFailedDst_kept (x0) (x1) (x2) :
    (State.clearFailedDst x0 x1 x2).1.kept = x0.kept := by
  simp [State.clearFailedDst, kept_read]

@[simp] theorem clearFailedSrc_kept (x0) (x1) :
    (State.clearFailedSrc x0 x1).1.kept = x0.kept := by
  simp [State.clearFailedSrc, kept_read]

@[simp] theorem retryFlow_kept (x0) (x1) (x2) :
    (State.retryFlow x0 x1 x2).kept = x0.kept := by
  simp [State.retryFlow, kept_read]

@[simp] theorem decideLosses_kept (x0) (x1) (x2) (x3) :
    (State.decideLosses x0 x1 x2 x3).kept = x0.kept := by
  unfold State.decideLosses; repeat' (first | (simp [kept_read]; done) | split | simp [kept_read])

@[simp] theorem decideHeat_kept (x0) (x1) (x2) :
    (State.decideHeat x0 x1 x2).kept = x0.kept := by
  unfold State.decideHeat; repeat' (first | (simp [kept_read]; done) | split | simp [kept_read])

@[simp] theorem decideLost_kept (x0) (x1) (x2) :
    (State.decideLost x0 x1 x2).kept = x0.kept := by
  unfold State.decideLost; repeat' (first | (simp [kept_read]; done) | split | simp [kept_read])

@[simp] theorem decideStepFailed_kept (x0) (x1) (x2) (x3) (x4) :
    (State.decideStepFailed x0 x1 x2 x3 x4).kept = x0.kept := by
  unfold State.decideStepFailed; repeat' (first | (simp [kept_read]; done) | split | simp [kept_read])

@[simp] theorem decide_kept (x0) (x1) :
    (State.decide x0 x1).kept = x0.kept := by
  unfold State.decide; repeat' (first | (simp [kept_read]; done) | split | simp [kept_read])

@[simp] theorem decideAll_kept (x0) (x1) :
    (State.decideAll x0 x1).kept = x1.kept := by
  fun_induction State.decideAll x0 x1 <;> simp_all

@[simp] theorem askEnd_kept (x0) (x1) (x2) :
    (State.askEnd x0 x1 x2).kept = x0.kept := by
  simp [State.askEnd, kept_read]

@[simp] theorem gatherFail_kept (x0) (x1) (x2) :
    (State.gatherFail x0 x1 x2).kept = x0.kept := by
  simp [State.gatherFail, kept_read]

@[simp] theorem probeEnds_kept (x0) (x1) (x2) :
    (State.probeEnds x0 x1 x2).kept = x0.kept := by
  simp [State.probeEnds, kept_read]

@[simp] theorem gatherEnds_kept (x0) (x1) :
    (State.gatherEnds x0 x1).kept = x0.kept := by
  unfold State.gatherEnds; repeat' (first | (simp [kept_read]; done) | split | simp [kept_read])

@[simp] theorem gathersDone_kept (x0) :
    (State.gathersDone x0).kept = x0.kept := by
  simp [State.gathersDone, kept_read]

@[simp] theorem differ_kept (x0) (x1) (x2) (x3) :
    (State.differ x0 x1 x2 x3).kept = x0.kept := by
  simp [State.differ, kept_read]

@[simp] theorem differStrap_kept (x0) (x1) (x2) (x3) (x4) (x5) :
    (State.differStrap x0 x1 x2 x3 x4 x5).kept = x0.kept := by
  simp [State.differStrap, kept_read]

@[simp] theorem setDisc_kept (x0) (x1) :
    (State.setDisc x0 x1).kept = x0.kept := by
  simp [State.setDisc, kept_read]

@[simp] theorem startForget_kept (x0) :
    (State.startForget x0).kept = x0.kept := by
  simp [State.startForget, kept_read]

@[simp] theorem retrainAll_kept (x0) :
    (State.retrainAll x0).kept = x0.kept := by
  simp [State.retrainAll, kept_read]

@[simp] theorem newDiscovery_kept (x0) (x1) :
    (State.newDiscovery x0 x1).kept = x0.kept := by
  simp [State.newDiscovery, kept_read]

@[simp] theorem sendQuery_kept (x0) (x1) :
    (State.sendQuery x0 x1).kept = x0.kept := by
  simp [State.sendQuery, kept_read]

@[simp] theorem checkPeers_kept (x0) (x1) :
    (State.checkPeers x0 x1).kept = x0.kept := by
  simp [State.checkPeers, kept_read]

@[simp] theorem discoverAnswer_kept (x0) :
    (State.discoverAnswer x0).kept = x0.kept := by
  unfold State.discoverAnswer; repeat' (first | (simp [kept_read]; done) | split | simp [kept_read])

@[simp] theorem discovered_kept (x0) (x1) :
    (State.discovered x0 x1).kept = x0.kept := by
  simp [State.discovered, kept_read]

@[simp] theorem nextQuery_kept (r : InstRecord) (fuel : Nat) (s : State) : (State.nextQuery r fuel s).kept = s.kept := by
  induction fuel generalizing s with
  | zero => simp [kept_read, State.nextQuery]
  | succ k ih =>
    unfold State.nextQuery
    dsimp only
    split
    · rfl
    · split
      · split
        · simp [kept_read]
        · rw [ih]; simp [kept_read]
      · rw [ih]; simp [kept_read]
      · simp [kept_read]

@[simp] theorem goOn_kept (x0) :
    (State.goOn x0).kept = x0.kept := by
  unfold State.goOn; repeat' (first | (simp [kept_read]; done) | split | simp [kept_read])

@[simp] theorem fromRoots_kept (x0) :
    (State.fromRoots x0).kept = x0.kept := by
  simp [State.fromRoots, kept_read]

@[simp] theorem checkWidth_kept (x0) (x1) (x2) (x3) :
    (State.checkWidth x0 x1 x2 x3).kept = x0.kept := by
  unfold State.checkWidth; repeat' (first | (simp [kept_read]; done) | split | simp [kept_read])

@[simp] theorem checkRoots_kept (x0) (x1) :
    (State.checkRoots x0 x1).kept = x0.kept := by
  unfold State.checkRoots; repeat' (first | (simp [kept_read]; done) | split | (refine (kept_foldl _ _ _ ?_).trans ?_; intros) | (refine (kept_foldl_fst _ _ _ ?_).trans ?_; intros) | simp [kept_read])

@[simp] theorem discoveryStart_kept (x0) :
    (State.discoveryStart x0).kept = x0.kept := by
  unfold State.discoveryStart; repeat' (first | (simp [kept_read]; done) | split | simp [kept_read])

@[simp] theorem takeFenceDrops_kept (x0) (x1) (x2) :
    (State.takeFenceDrops x0 x1 x2).kept = x0.kept := by
  simp [State.takeFenceDrops, kept_read]

@[simp] theorem takePage0_kept (x0) (x1) (x2) (x3) :
    (State.takePage0 x0 x1 x2 x3).kept = x0.kept := by
  unfold State.takePage0; repeat' (first | (simp [kept_read]; done) | split | simp [kept_read])

@[simp] theorem takePortPage_kept (x0) (x1) (x2) (x3) :
    (State.takePortPage x0 x1 x2 x3).kept = x0.kept := by
  unfold State.takePortPage; repeat' (first | (simp [kept_read]; done) | split | simp [kept_read])

@[simp] theorem agentWasReset_kept (x0) (x1) :
    (State.agentWasReset x0 x1).kept = x0.kept := by
  simp [State.agentWasReset, kept_read]

@[simp] theorem takeReply_kept (x0) (x1) :
    (State.takeReply x0 x1).kept = x0.kept := by
  unfold State.takeReply; repeat' (first | (simp [kept_read]; done) | split | simp [kept_read])

@[simp] theorem replyLate_kept (x0) :
    (State.replyLate x0).kept = x0.kept := by
  unfold State.replyLate; repeat' (first | (simp [kept_read]; done) | split | simp [kept_read])

@[simp] theorem onHead_kept (x0) (x1) :
    (State.onHead x0 x1).kept = x0.kept := by
  simp [State.onHead, kept_read]

@[simp] theorem pushSteps_kept (x0) (x1) :
    (State.pushSteps x0 x1).kept = x0.kept := by
  simp [State.pushSteps, kept_read]

@[simp] theorem keepSteps_kept (x0) (x1) :
    (State.keepSteps x0 x1).kept = x0.kept := by
  simp [State.keepSteps, kept_read]

@[simp] theorem addWaits_kept (x0) (x1) :
    (State.addWaits x0 x1).kept = x0.kept := by
  simp [State.addWaits, kept_read]

@[simp] theorem trainingEnds_kept (x0) (x1) :
    (State.trainingEnds x0 x1).kept = x0.kept := by
  simp [State.trainingEnds, kept_read]

@[simp] theorem dropHeadWait_kept (x0) (x1) :
    (State.dropHeadWait x0 x1).kept = x0.kept := by
  simp [State.dropHeadWait, kept_read]

@[simp] theorem setRouting_kept (x0) (x1) :
    (State.setRouting x0 x1).kept = x0.kept := by
  simp [State.setRouting, kept_read]

@[simp] theorem undoCarve_kept (x0) (x1) (x2) :
    (State.undoCarve x0 x1 x2).kept = x0.kept := by
  simp [State.undoCarve, kept_read]

@[simp] theorem recheckCarve_kept (x0) :
    (State.recheckCarve x0).kept = x0.kept := by
  unfold State.recheckCarve; repeat' (first | (simp [kept_read]; done) | split | (refine (kept_foldl _ _ _ ?_).trans ?_; intros) | (refine (kept_foldl_fst _ _ _ ?_).trans ?_; intros) | simp [kept_read])

@[simp] theorem openLine_kept (x0) (x1) (x2) (x3) :
    (State.openLine x0 x1 x2 x3).1.kept = x0.kept := by
  unfold State.openLine; repeat' (first | (simp [kept_read]; done) | split | simp [kept_read])

@[simp] theorem restartFails_kept (x0) (x1) (x2) (x3) (x4) :
    (State.restartFails x0 x1 x2 x3 x4).kept = x0.kept := by
  simp [State.restartFails, kept_read]

@[simp] theorem failLoad_kept (x0) (x1) (x2) :
    (State.failLoad x0 x1 x2).1.kept = x0.kept := by
  unfold State.failLoad; repeat' (first | (simp [kept_read]; done) | split | simp [kept_read])

@[simp] theorem moveRun_kept (x0) (x1) (x2) (x3) :
    (State.moveRun x0 x1 x2 x3).1.kept = x0.kept := by
  unfold State.moveRun; repeat' (first | (simp [kept_read]; done) | split | simp [kept_read])

@[simp] theorem failLoads_kept (x0) (x1) :
    (State.failLoads x0 x1).1.kept = x0.kept := by
  simp [State.failLoads, kept_read]

@[simp] theorem moveRuns_kept (x0) (x1) :
    (State.moveRuns x0 x1).kept = x0.kept := by
  unfold State.moveRuns; repeat' (first | (simp [kept_read]; done) | split | simp [kept_read])

@[simp] theorem markHubless_kept (x0) :
    (State.markHubless x0).kept = x0.kept := by
  unfold State.markHubless; repeat' (first | (simp [kept_read]; done) | split | simp [kept_read])

@[simp] theorem reportGaps_kept (x0) (x1) :
    (State.reportGaps x0 x1).kept = x0.kept := by
  simp [State.reportGaps, kept_read]

@[simp] theorem checkHeats_kept (x0) (x1) :
    (State.checkHeats x0 x1).kept = x0.kept := by
  simp [State.checkHeats, kept_read]

@[simp] theorem beginLoading_kept (x0) (x1) :
    (State.beginLoading x0 x1).kept = x0.kept := by
  simp [State.beginLoading, kept_read]

@[simp] theorem noteFaults_kept (x0) (x1) :
    (State.noteFaults x0 x1).kept = x0.kept := by
  simp [State.noteFaults, kept_read]

@[simp] theorem computed_kept (s : State) (full : Bool) : (s.computed full).kept = s.kept := by
  unfold State.computed
  dsimp only
  have h : ((if full then ((s.draw.2).setMgr { s.draw.2.mgr with
    lastFull := if full then s.draw.1 % 2 ^ 64 else s.draw.2.mgr.lastFull, lastIncr := if full then s.draw.2.mgr.lastIncr else s.draw.1 % 2 ^ 64 }).markHubless else ((s.draw.2).setMgr { s.draw.2.mgr with
    lastFull := if full then s.draw.1 % 2 ^ 64 else s.draw.2.mgr.lastFull, lastIncr := if full then s.draw.2.mgr.lastIncr else s.draw.1 % 2 ^ 64 })).recheckCarve).kept = s.kept := by
    split <;> simp [kept_read]
  generalize State.recheckCarve _ = t at h ⊢
  split
  · exact h
  · rw [← h]
    generalize hx : ((t.setMgr _).moveRuns _).reportGaps _ = y
    have hy : y.kept = t.kept := by rw [← hx]; simp [kept_read]
    rw [← hy]
    repeat' split
    all_goals simp [kept_read]

@[simp] theorem computeDone_kept (x0) :
    (State.computeDone x0).kept = x0.kept := by
  unfold State.computeDone; repeat' (first | (simp [kept_read]; done) | split | simp [kept_read])

@[simp] theorem flipAll_kept (x0) :
    (State.flipAll x0).1.kept = x0.kept := by
  simp [State.flipAll, kept_read]

@[simp] theorem retireAll_kept (x0) :
    (State.retireAll x0).1.kept = x0.kept := by
  simp [State.retireAll, kept_read]

@[simp] theorem loadOne_kept (x0) (x1) :
    (State.loadOne x0 x1).1.kept = x0.kept := by
  unfold State.loadOne; repeat' (first | (simp [kept_read]; done) | split | simp [kept_read])

@[simp] theorem assignAll_kept (x0) (x1) :
    (State.assignAll x0 x1).1.kept = x0.kept := by
  unfold State.assignAll; repeat' (first | (simp [kept_read]; done) | split | simp [kept_read])

@[simp] theorem assignSpare_kept (x0) (x1) (x2) :
    (State.assignSpare x0 x1 x2).1.kept = x0.kept := by
  unfold State.assignSpare; repeat' (first | (simp [kept_read]; done) | split | simp [kept_read])

@[simp] theorem unassignAll_kept (x0) (x1) :
    (State.unassignAll x0 x1).1.kept = x0.kept := by
  unfold State.unassignAll; repeat' (first | (simp [kept_read]; done) | split | simp [kept_read])

@[simp] theorem restarted_kept (x0) (x1) (x2) :
    (State.restarted x0 x1 x2).kept = x0.kept := by
  unfold State.restarted; repeat' (first | (simp [kept_read]; done) | split | simp [kept_read])

@[simp] theorem beginLoad_kept (x0) (x1) :
    (State.beginLoad x0 x1).kept = x0.kept := by
  simp [State.beginLoad, kept_read]

@[simp] theorem startLoad_kept (x0) (x1) :
    (State.startLoad x0 x1).kept = x0.kept := by
  simp [State.startLoad, kept_read]

@[simp] theorem reload_kept (s : State) (no : Nat) (r : Restart) : (s.reload no r).kept = s.kept := by
  unfold State.reload
  split
  · dsimp only
    split
    · rename_i h; simp [kept_read, loadPlan_kept h]
    · simp [kept_read]
  · rfl

@[simp] theorem carveEnds_kept (x0) (x1) (x2) :
    (State.carveEnds x0 x1 x2).kept = x0.kept := by
  unfold State.carveEnds; repeat' (first | (simp [kept_read]; done) | split | simp [kept_read])

@[simp] theorem stepAssign_kept (x0) (x1) :
    (State.stepAssign x0 x1).1.kept = x0.kept := by
  unfold State.stepAssign; repeat' (first | (simp [kept_read]; done) | split | simp [kept_read])

@[simp] theorem loadEnds_kept (x0) (x1) :
    (State.loadEnds x0 x1).kept = x0.kept := by
  unfold State.loadEnds; repeat' (first | (simp [kept_read]; done) | split | simp [kept_read])

@[simp] theorem loadChecked_kept (x0) (x1) :
    (State.loadChecked x0 x1).kept = x0.kept := by
  unfold State.loadChecked; repeat' (first | (simp [kept_read]; done) | split | simp [kept_read])

@[simp] theorem releaseEnds_kept (x0) (x1) (x2) (x3) :
    (State.releaseEnds x0 x1 x2 x3).kept = x0.kept := by
  unfold State.releaseEnds; repeat' (first | (simp [kept_read]; done) | split | simp [kept_read])

@[simp] theorem bridgeAll_kept (x0) (x1) (x2) (x3) (x4) :
    (State.bridgeAll x0 x1 x2 x3 x4).1.kept = x0.kept := by
  unfold State.bridgeAll; repeat' (first | (simp [kept_read]; done) | split | (refine (kept_foldl _ _ _ ?_).trans ?_; intros) | (refine (kept_foldl_fst _ _ _ ?_).trans ?_; intros) | simp [kept_read])

@[simp] theorem seedEntry_kept (x0) (x1) :
    (State.seedEntry x0 x1).1.kept = x0.kept := by
  simp [State.seedEntry, kept_read]

@[simp] theorem sendStamp_kept (x0) (x1) :
    (State.sendStamp x0 x1).1.kept = x0.kept := by
  simp [State.sendStamp, kept_read]

@[simp] theorem nextGen_kept (x0) :
    (State.nextGen x0).kept = x0.kept := by
  simp [State.nextGen, kept_read]

@[simp] theorem answerReadmit_kept (x0) (x1) :
    (State.answerReadmit x0 x1).kept = x0.kept := by
  simp [State.answerReadmit, kept_read]

@[simp] theorem entryServes_kept (x0) (x1) :
    (State.entryServes x0 x1).kept = x0.kept := by
  simp [State.entryServes, kept_read]

@[simp] theorem beginReadmit_kept (x0) (x1) (x2) :
    (State.beginReadmit x0 x1 x2).kept = x0.kept := by
  simp [State.beginReadmit, kept_read]

@[simp] theorem nextReadmit_kept (x0) :
    (State.nextReadmit x0).kept = x0.kept := by
  unfold State.nextReadmit; repeat' (first | (simp [kept_read]; done) | split | simp [kept_read])

@[simp] theorem readmitStops_kept (x0) (x1) :
    (State.readmitStops x0 x1).kept = x0.kept := by
  unfold State.readmitStops; repeat' (first | (simp [kept_read]; done) | split | simp [kept_read])

@[simp] theorem portAnswer_kept (x0) (x1) (x2) :
    (State.portAnswer x0 x1 x2).kept = x0.kept := by
  simp [State.portAnswer, kept_read]

@[simp] theorem retrainPort_kept (x0) (x1) :
    (State.retrainPort x0 x1).1.kept = x0.kept := by
  simp [State.retrainPort, kept_read]

@[simp] theorem routeAnswer_kept (x0) (x1) :
    (State.routeAnswer x0 x1).kept = x0.kept := by
  unfold State.routeAnswer; repeat' (first | (simp [kept_read]; done) | split | simp [kept_read])

@[simp] theorem probeFlow_kept (x0) (x1) :
    (State.probeFlow x0 x1).1.kept = x0.kept := by
  simp [State.probeFlow, kept_read]

@[simp] theorem completeSlots_kept (x0) :
    (State.completeSlots x0).1.kept = x0.kept := by
  unfold State.completeSlots; repeat' (first | (simp [kept_read]; done) | split | simp [kept_read])

@[simp] theorem freshFlows_kept (x0) :
    (State.freshFlows x0).kept = x0.kept := by
  simp [State.freshFlows, kept_read]

@[simp] theorem restampEntry_kept (x0) (x1) :
    (State.restampEntry x0 x1).1.kept = x0.kept := by
  simp [State.restampEntry, kept_read]

@[simp] theorem resumeMirrored_kept (x0) (x1) :
    (State.resumeMirrored x0 x1).kept = x0.kept := by
  unfold State.resumeMirrored; repeat' (first | (simp [kept_read]; done) | split | simp [kept_read])

@[simp] theorem takeoverEnds_kept (s : State) : (s.takeoverEnds).kept = s.kept := by
  unfold State.takeoverEnds
  dsimp only
  split <;> simp [kept_read, kept_foldl]

@[simp] theorem unfenceOne_kept (x0) (x1) (x2) :
    (State.unfenceOne x0 x1 x2).1.kept = x0.kept := by
  unfold State.unfenceOne; repeat' (first | (simp [kept_read]; done) | split | simp [kept_read])

@[simp] theorem doStep_kept (x0) (x1) :
    (State.doStep x0 x1).1.kept = x0.kept := by
  unfold State.doStep; repeat' (first | (simp [kept_read]; done) | split | simp [kept_read])

theorem jobStep_kept {s t : State} (e : s.jobStep = some t) : t.kept = s.kept := by
  unfold State.jobStep at e
  repeat' split at e
  all_goals first
    | (cases e; simp [kept_read]; done)
    | simp at e

@[simp] theorem pump_kept (fuel : Nat) (s : State) : (State.pump fuel s).kept = s.kept := by
  induction fuel generalizing s with
  | zero => rfl
  | succ k ih =>
    unfold State.pump
    dsimp only
    split
    · rename_i h
      rw [ih, jobStep_kept h]
      split <;> simp [kept_read]
    · split <;> simp [kept_read]

@[simp] theorem settle_kept (x0) :
    (State.settle x0).kept = x0.kept := by
  simp [State.settle, kept_read]

@[simp] theorem asMgr_kept (x0) (x1) (hx1 : ∀ y0, (x1 y0).kept = y0.kept) :
    (State.asMgr x0 x1).kept = x0.kept := by
  simp [State.asMgr, kept_read, hx1]

theorem takeReport_kept (s : State) (ty : BitVec 8) (f : Nat → BitVec 128 → State → State)
    (hf : ∀ e b s, (f e b s).kept = s.kept) : (s.takeReport ty f).kept = s.kept := by
  unfold State.takeReport
  split
  · rename_i h; rw [hf, takeInbox_kept h]
  · rfl

@[simp] theorem dropReply_kept (x0) (x1) (x2) :
    (State.dropReply x0 x1 x2).kept = x0.kept := by
  simp [State.dropReply, kept_read]

@[simp] theorem takeCtrlReply_kept (x0) (x1) (x2) :
    (State.takeCtrlReply x0 x1 x2).kept = x2.kept := by
  simp [State.takeCtrlReply, kept_read]

@[simp] theorem unfenceDone_kept (x0) (x1) :
    (State.unfenceDone x0 x1).kept = x0.kept := by
  unfold State.unfenceDone; repeat' (first | (simp [kept_read]; done) | split | simp [kept_read])

@[simp] theorem takeFenceAck_kept (x0) (x1) (x2) :
    (State.takeFenceAck x0 x1 x2).kept = x2.kept := by
  unfold State.takeFenceAck; repeat' (first | (simp [kept_read]; done) | split | (refine (kept_foldl _ _ _ ?_).trans ?_; intros) | (refine (kept_foldl_fst _ _ _ ?_).trans ?_; intros) | simp [kept_read])

@[simp] theorem withdraw_kept (x0) (x1) (x2) :
    (State.withdraw x0 x1 x2).kept = x0.kept := by
  simp [State.withdraw, kept_read]

@[simp] theorem stale_kept (x0) (x1) (x2) (x3) :
    (State.stale x0 x1 x2 x3).kept = x0.kept := by
  simp [State.stale, kept_read]

@[simp] theorem takeReportOf_kept (x0) (x1) (x2) :
    (State.takeReportOf x0 x1 x2).kept = x2.kept := by
  unfold State.takeReportOf; repeat' (first | (simp [kept_read]; done) | split | simp [kept_read])

@[simp] theorem noteHeld_kept (x0) (x1) (x2) :
    (State.noteHeld x0 x1 x2).kept = x0.kept := by
  simp [State.noteHeld, kept_read]

@[simp] theorem takeLinkEvent_kept (x0) (x1) (x2) :
    (State.takeLinkEvent x0 x1 x2).kept = x2.kept := by
  unfold State.takeLinkEvent; repeat' (first | (simp [kept_read]; done) | split | simp [kept_read])

@[simp] theorem checkTaken_kept (x0) (x1) :
    (State.checkTaken x0 x1).kept = x0.kept := by
  unfold State.checkTaken; repeat' (first | (simp [kept_read]; done) | split | simp [kept_read])

@[simp] theorem startTakeover_kept (x0) :
    (State.startTakeover x0).kept = x0.kept := by
  unfold State.startTakeover; repeat' (first | (simp [kept_read]; done) | split | simp [kept_read])

@[simp] theorem tileChange_kept (x0) (x1) :
    (State.tileChange x0 x1).kept = x1.kept := by
  unfold State.tileChange; repeat' (first | (simp [kept_read]; done) | split | simp [kept_read])

@[simp] theorem takeResendFail_kept (x0) (x1) (x2) :
    (State.takeResendFail x0 x1 x2).kept = x2.kept := by
  unfold State.takeResendFail; repeat' (first | (simp [kept_read]; done) | split | simp [kept_read])

@[simp] theorem gatherOver_kept (x0) (x1) :
    (State.gatherOver x0 x1).kept = x1.kept := by
  simp [State.gatherOver, kept_read]

@[simp] theorem startProbe_kept (x0) (x1) :
    (State.startProbe x0 x1).kept = x0.kept := by
  unfold State.startProbe; repeat' (first | (simp [kept_read]; done) | split | simp [kept_read])

@[simp] theorem probeAll_kept (x0) :
    (State.probeAll x0).kept = x0.kept := by
  unfold State.probeAll; repeat' (first | (simp [kept_read]; done) | split | simp [kept_read])

@[simp] theorem probeStops_kept (x0) (x1) :
    (State.probeStops x0 x1).kept = x1.kept := by
  unfold State.probeStops; repeat' (first | (simp [kept_read]; done) | split | simp [kept_read])

@[simp] theorem probeOver_kept (x0) (x1) :
    (State.probeOver x0 x1).kept = x1.kept := by
  simp [State.probeOver, kept_read]

@[simp] theorem readmitReply_kept (x0) (x1) :
    (State.readmitReply x0 x1).kept = x0.kept := by
  unfold State.readmitReply; repeat' (first | (simp [kept_read]; done) | split | simp [kept_read])

@[simp] theorem takeDiscover_kept (x0) :
    (State.takeDiscover x0).kept = x0.kept := by
  unfold State.takeDiscover; repeat' (first | (simp [kept_read]; done) | split | simp [kept_read])

@[simp] theorem discoverLate_kept (x0) :
    (State.discoverLate x0).kept = x0.kept := by
  unfold State.discoverLate; repeat' (first | (simp [kept_read]; done) | split | simp [kept_read])

@[simp] theorem holdEntry_kept (x0) (x1) (x2) :
    (State.holdEntry x0 x1 x2).kept = x0.kept := by
  simp [State.holdEntry, kept_read]

@[simp] theorem enterQueue_kept (x0) (x1) (x2) :
    (State.enterQueue x0 x1 x2).1.kept = x0.kept := by
  simp [State.enterQueue, kept_read]

@[simp] theorem endQueued_kept (x0) (x1) (x2) :
    (State.endQueued x0 x1 x2).kept = x0.kept := by
  unfold State.endQueued; repeat' (first | (simp [kept_read]; done) | split | simp [kept_read])

@[simp] theorem setUpHeat_kept (x0) (x1) (x2) (x3) (x4) :
    (State.setUpHeat x0 x1 x2 x3 x4).kept = x0.kept := by
  simp [State.setUpHeat, kept_read]

@[simp] theorem carve_kept (x0) (x1) (x2) :
    (State.carve x0 x1 x2).kept = x0.kept := by
  unfold State.carve; repeat' (first | (simp [kept_read]; done) | split | simp [kept_read])

@[simp] theorem releaseHeat_kept (x0) (x1) (x2) (x3) (x4) :
    (State.releaseHeat x0 x1 x2 x3 x4).kept = x0.kept := by
  simp [State.releaseHeat, kept_read]

@[simp] theorem unfenceHeat_kept (x0) (x1) (x2) (x3) (x4) (x5) :
    (State.unfenceHeat x0 x1 x2 x3 x4 x5).kept = x0.kept := by
  simp [State.unfenceHeat, kept_read]

@[simp] theorem heatCommand_kept (x0) (x1) :
    (State.heatCommand x0 x1).kept = x0.kept := by
  unfold State.heatCommand; repeat' (first | (simp [kept_read]; done) | split | simp [kept_read])

@[simp] theorem queueHead_kept (x0) :
    (State.queueHead x0).kept = x0.kept := by
  unfold State.queueHead; repeat' (first | (simp [kept_read]; done) | split | simp [kept_read])

@[simp] theorem loadBy_kept (s : State) (c : Cmd) (i : PlanImage) (n : Nat) (b : Bool) : (s.loadBy c i n b).1.kept = s.kept := by
  unfold State.loadBy
  dsimp only
  split
  · split
    · rfl
    · split
      · rfl
      · split
        · rfl
        · rename_i h; simp [kept_read, loadPlan_kept h]
  · rfl

@[simp] theorem stopPlan_kept (x0) (x1) (x2) (x3) :
    (State.stopPlan x0 x1 x2 x3).1.kept = x0.kept := by
  simp [State.stopPlan, kept_read]

@[simp] theorem quenchPage_kept (x0) :
    (State.quenchPage x0).kept = x0.kept := by
  unfold State.quenchPage; repeat' (first | (simp [kept_read]; done) | split | simp [kept_read])

@[simp] theorem dropAcked_kept (x0) :
    (State.dropAcked x0).kept = x0.kept := by
  simp [State.dropAcked, kept_read]

@[simp] theorem hubDeliver_kept (x0) (x1) :
    (State.hubDeliver x0 x1).kept = x0.kept := by
  simp [State.hubDeliver, kept_read]

@[simp] theorem hubHand_kept (x0) (x1) :
    (State.hubHand x0 x1).kept = x0.kept := by
  simp [State.hubHand, kept_read]

@[simp] theorem hubAck_kept (x0) (x1) :
    (State.hubAck x0 x1).kept = x0.kept := by
  simp [State.hubAck, kept_read]

@[simp] theorem hubFree_kept (x0) (x1) :
    (State.hubFree x0 x1).kept = x0.kept := by
  simp [State.hubFree, kept_read]

@[simp] theorem readFails_kept (x0) (x1) :
    (State.readFails x0 x1).kept = x0.kept := by
  unfold State.readFails; repeat' (first | (simp [kept_read]; done) | split | simp [kept_read])

@[simp] theorem hubAccept_kept (x0) (x1) (x2) (x3) :
    (State.hubAccept x0 x1 x2 x3).kept = x0.kept := by
  simp [State.hubAccept, kept_read]

@[simp] theorem hubJudge_kept (x0) (x1) (x2) (x3) :
    (State.hubJudge x0 x1 x2 x3).kept = x0.kept := by
  unfold State.hubJudge; repeat' (first | (simp [kept_read]; done) | split | simp [kept_read])

@[simp] theorem hubTake_kept (x0) (x1) :
    (State.hubTake x0 x1).kept = x1.kept := by
  unfold State.hubTake; repeat' (first | (simp [kept_read]; done) | split | simp [kept_read])

@[simp] theorem hubTakeHeld_kept (x0) :
    (State.hubTakeHeld x0).kept = x0.kept := by
  unfold State.hubTakeHeld; repeat' (first | (simp [kept_read]; done) | split | simp [kept_read])

@[simp] theorem hubAckTimer_kept (x0) (x1) :
    (State.hubAckTimer x0 x1).kept = x1.kept := by
  unfold State.hubAckTimer; repeat' (first | (simp [kept_read]; done) | split | simp [kept_read])

@[simp] theorem hubOnFlow_kept (x0) (x1) (x2) :
    (State.hubOnFlow x0 x1 x2).kept = x2.kept := by
  unfold State.hubOnFlow; repeat' (first | (simp [kept_read]; done) | split | simp [kept_read])

@[simp] theorem hubAnswer_kept (x0) (x1) (x2) (x3) :
    (State.hubAnswer x0 x1 x2 x3).kept = x3.kept := by
  unfold State.hubAnswer; repeat' (first | (simp [kept_read]; done) | split | simp [kept_read])

@[simp] theorem handoverAck_kept (x0) :
    (State.handoverAck x0).kept = x0.kept := by
  unfold State.handoverAck; repeat' (first | (simp [kept_read]; done) | split | simp [kept_read])

@[simp] theorem hubFails_kept (x0) (x1) (x2) :
    (State.hubFails x0 x1 x2).kept = x0.kept := by
  unfold State.hubFails; repeat' (first | (simp [kept_read]; done) | split | simp [kept_read])

@[simp] theorem hubResend_kept (x0) (x1) (x2) :
    (State.hubResend x0 x1 x2).kept = x2.kept := by
  unfold State.hubResend; repeat' (first | (simp [kept_read]; done) | split | simp [kept_read])

@[simp] theorem turnAway_kept (x0) :
    (State.turnAway x0).kept = x0.kept := by
  unfold State.turnAway; repeat' (first | (simp [kept_read]; done) | split | simp [kept_read])

theorem cutWrite_kept (s : State) : ∃ k, s.cutWrite.kept =
    { s.kept with fuse := s.kept.fuse ||| (s.kept.burning.getD 0 &&& k), burning := none } := by
  refine ⟨BitVec.ofNat 64 (2 ^ (Config.freeNat s.free % 65) - 1), ?_⟩
  unfold State.cutWrite
  dsimp only
  cases h : s.fw.burning <;> simp only [State.kept, h] <;> split <;> simp

@[simp] theorem fellBack_kept (x0) (x1) (x2) :
    (State.fellBack x0 x1 x2).kept = x0.kept := by
  simp [State.fellBack, kept_read]

@[simp] theorem noImageRuns_kept (x0) :
    (State.noImageRuns x0).kept = x0.kept := by
  simp [State.noImageRuns, kept_read]

@[simp] theorem fallBackFor_kept (x0) (x1) :
    (State.fallBackFor x0 x1).kept = x0.kept := by
  unfold State.fallBackFor; repeat' (first | (simp [kept_read]; done) | split | simp [kept_read])

@[simp] theorem copyImage_kept (s : State) (b : Bool) : (s.copyImage b).kept = s.kept := by
  unfold State.copyImage
  dsimp only
  split
  · simp [kept_read]
  · split
    · rename_i h
      split at h
      · have := useStaged_fuse h; simp_all [kept_read]
      · cases h
    · rename_i h; have := fallBack_fuse h; simp_all [kept_read]
    · simp [kept_read]

theorem writeConfirm_kept (s : State) : s.writeConfirm.kept =
    { s.kept with fuse := s.kept.fuse ||| s.kept.burning.getD 0, burning := none } := by
  unfold State.writeConfirm
  simp [kept_read]

theorem confirmImage_kept (s : State) : s.confirmImage.kept =
    if s.kept.burning.isSome then { s.kept with fuse := s.kept.fuse ||| s.kept.burning.getD 0, burning := none }
    else
      { s.kept with
        burning := some (s.kept.fuse ||| BitVec.ofNat 64 (2 ^ imageSec ((s.fw.imageIn .current).getD []) - 1)) } := by
  have e : s.kept.burning = s.fw.burning := rfl
  unfold State.confirmImage
  rw [e]
  split
  · exact writeConfirm_kept s
  · rfl

theorem powerOnImage_kept (s : State) : s.powerOnImage.kept = s.kept ∨ ∃ b, s.powerOnImage.kept =
    { s.kept with fuse := s.kept.fuse ||| b, burning := none } := by
  unfold State.powerOnImage
  dsimp only
  split
  · exact .inr ⟨_, by simp [kept_read, writeConfirm_kept, Fw.burn]; rfl⟩
  · left; split <;> (try split) <;> simp [kept_read]

@[simp] theorem setBoot_kept (x0) (x1) :
    (State.setBoot x0 x1).kept = x0.kept := by
  simp [State.setBoot, kept_read]

@[simp] theorem ownNote_kept (x0) (x1) (x2) :
    (State.ownNote x0 x1 x2).kept = x0.kept := by
  simp [State.ownNote, kept_read]

@[simp] theorem blank_kept (x0) (x1) :
    (State.blank x0 x1).kept = x0.kept := by
  simp [State.blank, kept_read]

@[simp] theorem clockRestart_kept (x0) :
    (State.clockRestart x0).kept = x0.kept := by
  simp [State.clockRestart, kept_read]

@[simp] theorem cutClear_kept (x0) :
    (State.cutClear x0).kept = x0.kept := by
  unfold State.cutClear; repeat' (first | (simp [kept_read]; done) | split | simp [kept_read])

theorem powerOff_kept (s : State) : ∃ k, s.powerOff.kept =
    { s.kept with fuse := s.kept.fuse ||| (s.kept.burning.getD 0 &&& k), burning := none } := by
  obtain ⟨k, h⟩ := cutWrite_kept s.cutRecorder.cutClear
  refine ⟨k, ?_⟩
  simp only [cutClear_kept, cutRecorder_kept] at h
  rw [← h]
  unfold State.powerOff
  simp [kept_read]

theorem trustStarts_kept (s : State) : ∃ b c, s.trustStarts.kept =
    { s.kept with powerCycles := s.kept.powerCycles + 1, identity := s.kept.identity.powerOn
                  attest := s.kept.attest.powerOn, fuse := s.kept.fuse ||| b, burning := c } := by
  unfold State.trustStarts
  rcases powerOnImage_kept _ with h | ⟨b, h⟩
  · exact ⟨0, s.kept.burning, by rw [h]; simp [kept_read]⟩
  · exact ⟨b, none, by rw [h]; simp [kept_read]⟩

theorem powerOn_kept (s : State) : ∃ b c, s.powerOn.kept =
    { s.kept with powerCycles := s.kept.powerCycles + 1, identity := s.kept.identity.powerOn
                  attest := s.kept.attest.powerOn, fuse := s.kept.fuse ||| b, burning := c } := by
  obtain ⟨b, c, h⟩ := trustStarts_kept s
  refine ⟨b, c, ?_⟩
  rw [← h]
  unfold State.powerOn
  simp [kept_read]

@[simp] theorem lock_kept (x0) :
    (State.lock x0).kept = x0.kept := by
  unfold State.lock; repeat' (first | (simp [kept_read]; done) | split | simp [kept_read])

@[simp] theorem fuseLoaded_kept (x0) (x1) (x2) :
    (State.fuseLoaded x0 x1 x2).kept = x0.kept := by
  simp [State.fuseLoaded, kept_read]

@[simp] theorem readCal_kept (x0) :
    (State.readCal x0).kept = x0.kept := by
  simp [State.readCal, kept_read]

@[simp] theorem firstKeys_kept (x0) :
    (State.firstKeys x0).kept = x0.kept := by
  simp [State.firstKeys, kept_read]

@[simp] theorem readPairing_kept (x0) :
    (State.readPairing x0).kept = x0.kept := by
  simp [State.readPairing, kept_read]

@[simp] theorem configRead_kept (x0) :
    (State.configRead x0).kept = x0.kept := by
  simp [State.configRead, kept_read]

@[simp] theorem copyStat_kept (x0) :
    (State.copyStat x0).kept = x0.kept := by
  simp [State.copyStat, kept_read]

@[simp] theorem waveFails_kept (x0) (x1) :
    (State.waveFails x0 x1).kept = x0.kept := by
  simp [State.waveFails, kept_read]

@[simp] theorem installPorts_kept (x0) :
    (State.installPorts x0).kept = x0.kept := by
  simp [State.installPorts, kept_read]

@[simp] theorem openWindow_kept (x0) :
    (State.openWindow x0).kept = x0.kept := by
  simp [State.openWindow, kept_read]

@[simp] theorem loseGrant_kept (x0) :
    (State.loseGrant x0).kept = x0.kept := by
  simp [State.loseGrant, kept_read]

@[simp] theorem releaseGrant_kept (x0) :
    (State.releaseGrant x0).kept = x0.kept := by
  simp [State.releaseGrant, kept_read]

@[simp] theorem yieldGrant_kept (x0) :
    (State.yieldGrant x0).kept = x0.kept := by
  simp [State.yieldGrant, kept_read]

@[simp] theorem firstDiscovery_kept (x0) :
    (State.firstDiscovery x0).kept = x0.kept := by
  simp [State.firstDiscovery, kept_read]

@[simp] theorem railFails_kept (x0) (x1) (x2) :
    (State.railFails x0 x1 x2).kept = x0.kept := by
  simp [State.railFails, kept_read]

@[simp] theorem saveImage_kept (x0) :
    (State.saveImage x0).kept = x0.kept := by
  simp [State.saveImage, kept_read]

@[simp] theorem unholdBack_kept (x0) :
    (State.unholdBack x0).kept = x0.kept := by
  simp [State.unholdBack, kept_read]

@[simp] theorem beginReset_kept (x0) (x1) (x2) (x3) (x4) :
    (State.beginReset x0 x1 x2 x3 x4).kept = x0.kept := by
  simp [State.beginReset, kept_read]

@[simp] theorem loseSram_kept (x0) :
    (State.loseSram x0).kept = x0.kept := by
  simp [State.loseSram, kept_read]

@[simp] theorem gateCompute_kept (x0) :
    (State.gateCompute x0).kept = x0.kept := by
  simp [State.gateCompute, kept_read]

@[simp] theorem holdCompute_kept (x0) (x1) (x2) :
    (State.holdCompute x0 x1 x2).kept = x0.kept := by
  simp [State.holdCompute, kept_read]

@[simp] theorem tearSweep_kept (x0) :
    (State.tearSweep x0).kept = x0.kept := by
  unfold State.tearSweep; repeat' (first | (simp [kept_read]; done) | split | simp [kept_read])

theorem unplannedReset_kept (s : State) (c : Nat) : (s.unplannedReset c).kept =
    if s.kept.burning.isSome then { s.kept with fuse := s.kept.fuse ||| s.kept.burning.getD 0, burning := none } else s.kept := by
  have e : s.kept.burning = s.fw.burning := rfl
  unfold State.unplannedReset
  dsimp only
  rw [e]
  have hw := writeConfirm_kept s
  cases h : s.fw.burning
  · simp only [Option.isSome_none, Bool.false_eq_true, if_false]
    repeat' split
    all_goals simp [kept_read]
  · simp only [Option.isSome_some, if_true]
    rw [e, h] at hw
    rw [← hw]
    repeat' split
    all_goals simp [kept_read]

@[simp] theorem endCommands_kept (x0) (x1) :
    (State.endCommands x0 x1).kept = x0.kept := by
  unfold State.endCommands; repeat' (first | (simp [kept_read]; done) | split | simp [kept_read])

@[simp] theorem muteAll_kept (x0) :
    (State.muteAll x0).kept = x0.kept := by
  simp [State.muteAll, kept_read]

@[simp] theorem undoLoad_kept (x0) (x1) :
    (State.undoLoad x0 x1).kept = x0.kept := by
  simp [State.undoLoad, kept_read]

@[simp] theorem undoCarving_kept (x0) (x1) :
    (State.undoCarving x0 x1).kept = x0.kept := by
  simp [State.undoCarving, kept_read]

@[simp] theorem regainRuns_kept (x0) (x1) :
    (State.regainRuns x0 x1).kept = x0.kept := by
  unfold State.regainRuns; repeat' (first | (simp [kept_read]; done) | split | simp [kept_read])

@[simp] theorem undoRelease_kept (x0) (x1) :
    (State.undoRelease x0 x1).kept = x0.kept := by
  unfold State.undoRelease; repeat' (first | (simp [kept_read]; done) | split | simp [kept_read])

@[simp] theorem undoHeatCmds_kept (x0) :
    (State.undoHeatCmds x0).1.kept = x0.kept := by
  simp [State.undoHeatCmds, kept_read]

@[simp] theorem retryAll_kept (x0) (x1) (x2) (x3) :
    (State.retryAll x0 x1 x2 x3).kept = x0.kept := by
  unfold State.retryAll; repeat' (first | (simp [kept_read]; done) | split | simp [kept_read])

@[simp] theorem redoSteps_kept (x0) (x1) :
    (State.redoSteps x0 x1).kept = x0.kept := by
  unfold State.redoSteps; repeat' (first | (simp [kept_read]; done) | split | (refine (kept_foldl _ _ _ ?_).trans ?_; intros) | (refine (kept_foldl_fst _ _ _ ?_).trans ?_; intros) | simp [kept_read])

@[simp] theorem decideAfresh_kept (x0) (x1) :
    (State.decideAfresh x0 x1).kept = x0.kept := by
  unfold State.decideAfresh; repeat' (first | (simp [kept_read]; done) | split | simp [kept_read])

@[simp] theorem beginReads_kept (x0) :
    (State.beginReads x0).kept = x0.kept := by
  simp [State.beginReads, kept_read]

@[simp] theorem beginRestore_kept (x0) :
    (State.beginRestore x0).kept = x0.kept := by
  simp [State.beginRestore, kept_read]

@[simp] theorem reconcile_kept (x0) (x1) :
    (State.reconcile x0 x1).kept = x0.kept := by
  simp [State.reconcile, kept_read]

@[simp] theorem noModel_kept (x0) (x1) :
    (State.noModel x0 x1).kept = x0.kept := by
  simp [State.noModel, kept_read]

@[simp] theorem activationEnds_kept (x0) (x1) (x2) :
    (State.activationEnds x0 x1 x2).kept = x0.kept := by
  unfold State.activationEnds; repeat' (first | (simp [kept_read]; done) | split | simp [kept_read])

@[simp] theorem answerReset_kept (x0) (x1) :
    (State.answerReset x0 x1).kept = x0.kept := by
  unfold State.answerReset; repeat' (first | (simp [kept_read]; done) | split | (refine (kept_foldl _ _ _ ?_).trans ?_; intros) | (refine (kept_foldl_fst _ _ _ ?_).trans ?_; intros) | simp [kept_read])

@[simp] theorem endPause_kept (x0) (x1) :
    (State.endPause x0 x1).kept = x0.kept := by
  simp [State.endPause, kept_read]

@[simp] theorem setPhase_kept (x0) (x1) (x2) :
    (State.setPhase x0 x1 x2).kept = x0.kept := by
  simp [State.setPhase, kept_read]

@[simp] theorem sendFinal_kept (x0) :
    (State.sendFinal x0).kept = x0.kept := by
  simp [State.sendFinal, kept_read]

@[simp] theorem endPhase2_kept (x0) (x1) :
    (State.endPhase2 x0 x1).kept = x0.kept := by
  simp [State.endPhase2, kept_read]

@[simp] theorem endPhase3_kept (x0) (x1) (x2) :
    (State.endPhase3 x0 x1 x2).kept = x0.kept := by
  simp [State.endPhase3, kept_read]

@[simp] theorem endCopy_kept (x0) (x1) :
    (State.endCopy x0 x1).kept = x0.kept := by
  simp [State.endCopy, kept_read]

@[simp] theorem endPhase_kept (x0) (x1) (x2) :
    (State.endPhase x0 x1 x2).kept = x0.kept := by
  unfold State.endPhase; repeat' (first | (simp [kept_read]; done) | split | simp [kept_read])

@[simp] theorem emberOn'_kept (x0) (x1) (x2) :
    (State.emberOn' x0 x1 x2).kept = x0.kept := by
  simp [State.emberOn', kept_read]

@[simp] theorem emberOut_kept (x0) (x1) :
    (State.emberOut x0 x1).kept = x0.kept := by
  unfold State.emberOut; repeat' (first | (simp [kept_read]; done) | split | simp [kept_read])

@[simp] theorem sendEmberAck_kept (x0) :
    (State.sendEmberAck x0).kept = x0.kept := by
  unfold State.sendEmberAck; repeat' (first | (simp [kept_read]; done) | split | simp [kept_read])

@[simp] theorem emberNumber_kept (x0) (x1) :
    (State.emberNumber x0 x1).kept = x0.kept := by
  unfold State.emberNumber; repeat' (first | (simp [kept_read]; done) | split | simp [kept_read])

@[simp] theorem emberSend_kept (x0) :
    (State.emberSend x0).kept = x0.kept := by
  unfold State.emberSend; repeat' (first | (simp [kept_read]; done) | split | simp [kept_read])

@[simp] theorem resync_kept (x0) :
    (State.resync x0).kept = x0.kept := by
  simp [State.resync, kept_read]

@[simp] theorem dropEmberWaits_kept (s : State) : s.dropEmberWaits.kept = s.kept := by
  unfold State.dropEmberWaits
  refine (kept_foldl _ _ _ ?_).trans ?_
  · intro s w; dsimp only; split <;> simp
  · simp [kept_read]

@[simp] theorem emberLost_kept (x0) :
    (State.emberLost x0).kept = x0.kept := by
  unfold State.emberLost; repeat' (first | (simp [kept_read]; done) | split | (refine (kept_foldl _ _ _ ?_).trans ?_; intros) | (refine (kept_foldl_fst _ _ _ ?_).trans ?_; intros) | simp [kept_read])

@[simp] theorem storePairing_kept (x0) :
    (State.storePairing x0).kept = x0.kept := by
  simp [State.storePairing, kept_read]

theorem answerPairing_kept (s : State) (i : Nat) (k : KeyIndex) : (s.answerPairing i k).kept = { s.kept with identity := k } := by
  unfold State.answerPairing
  simp [kept_read]

theorem meetPartner_kept (s : State) :
    s.meetPartner.kept = { s.kept with identity :=
      if s.boot.stage = .standby && !s.ember.paired then
        (match s.trust.identity.take s.skips with
         | some (_, k) => k
         | none => s.trust.identity)
      else s.trust.identity } := by
  unfold State.meetPartner
  split
  · split <;> simp_all [kept_read, answerPairing_kept]
  · simp [kept_read]

@[simp] theorem countRx_kept (x0) (x1) :
    (State.countRx x0 x1).kept = x0.kept := by
  simp [State.countRx, kept_read]

theorem emberTake_kept (s : State) (link : Nat) (p : EmberPkt) (type : BitVec 8) (f : State → State)
    (h : ∀ x, (f x).kept = x.kept) :
    (s.emberTake link p type f).kept = if s.hears link p type then s.meetPartner.kept else s.kept := by
  unfold State.emberTake
  dsimp only
  by_cases hc : s.hears link p type
  · rw [if_neg (by simp [hc]), if_pos hc]
    split <;> simp [kept_read, h]
  · rw [if_pos (by simp [hc]), if_neg hc]

theorem standbyTake_kept (s : State) (link : Nat) (p : EmberPkt) (type : BitVec 8) (f : State → State)
    (h : ∀ x, (f x).kept = x.kept) :
    (s.standbyTake link p type f).kept =
      if s.boot.stage = .standby ∧ s.hears link p type = true then s.meetPartner.kept else s.kept := by
  unfold State.standbyTake
  by_cases hs : s.boot.stage = .standby
  · rw [if_pos hs, emberTake_kept _ _ _ _ _ h]; simp [hs]
  · rw [if_neg hs, if_neg (by simp [hs])]

@[simp] theorem streamDone_kept (x0) (x1) :
    (State.streamDone x0 x1).kept = x0.kept := by
  simp [State.streamDone, kept_read]

@[simp] theorem endEmberWait_kept (x0) (x1) :
    (State.endEmberWait x0 x1).kept = x0.kept := by
  unfold State.endEmberWait; repeat' (first | (simp [kept_read]; done) | split | (refine (kept_foldl _ _ _ ?_).trans ?_; intros) | (refine (kept_foldl_fst _ _ _ ?_).trans ?_; intros) | simp [kept_read])

@[simp] theorem endEmberWaits_kept (x0) :
    (State.endEmberWaits x0).kept = x0.kept := by
  simp [State.endEmberWaits, kept_read]

@[simp] theorem takeEmberAck_kept (x0) (x1) :
    (State.takeEmberAck x0 x1).kept = x0.kept := by
  simp [State.takeEmberAck, kept_read]

@[simp] theorem restartOn_kept (x0) (x1) :
    (State.restartOn x0 x1).kept = x0.kept := by
  simp [State.restartOn, kept_read]

@[simp] theorem activate_kept (x0) (x1) :
    (State.activate x0 x1).kept = x0.kept := by
  simp [State.activate, kept_read]

@[simp] theorem deadlineIn_kept (x0) (x1) :
    (State.deadlineIn x0 x1).kept = x0.kept := by
  simp [State.deadlineIn, kept_read]

@[simp] theorem placeTags_kept (x0) (x1) :
    (State.placeTags x0 x1).kept = x0.kept := by
  simp [State.placeTags, kept_read]

@[simp] theorem restoreModel_kept (x0) :
    (State.restoreModel x0).kept = x0.kept := by
  unfold State.restoreModel; repeat' (first | (simp [kept_read]; done) | split | (refine (kept_foldl _ _ _ ?_).trans ?_; intros) | (refine (kept_foldl_fst _ _ _ ?_).trans ?_; intros) | simp [kept_read])

@[simp] theorem readyNow_kept (x0) :
    (State.readyNow x0).kept = x0.kept := by
  unfold State.readyNow; repeat' (first | (simp [kept_read]; done) | split | simp [kept_read])

@[simp] theorem discoveryTrained_kept (x0) :
    (State.discoveryTrained x0).kept = x0.kept := by
  simp [State.discoveryTrained, kept_read]

@[simp] theorem windowsClosed_kept (x0) :
    (State.windowsClosed x0).kept = x0.kept := by
  simp [State.windowsClosed, kept_read]

@[simp] theorem takeConfig_kept (x0) :
    (State.takeConfig x0).kept = x0.kept := by
  unfold State.takeConfig; repeat' (first | (simp [kept_read]; done) | split | simp [kept_read])

@[simp] theorem beginTakeover_kept (x0) :
    (State.beginTakeover x0).kept = x0.kept := by
  simp [State.beginTakeover, kept_read]

@[simp] theorem grantBack_kept (x0) :
    (State.grantBack x0).kept = x0.kept := by
  unfold State.grantBack; repeat' (first | (simp [kept_read]; done) | split | simp [kept_read])

@[simp] theorem enterStandby_kept (x0) :
    (State.enterStandby x0).kept = x0.kept := by
  simp [State.enterStandby, kept_read]

@[simp] theorem takeTaken_kept (x0) (x1) :
    (State.takeTaken x0 x1).kept = x0.kept := by
  unfold State.takeTaken; repeat' (first | (simp [kept_read]; done) | split | (refine (kept_foldl _ _ _ ?_).trans ?_; intros) | (refine (kept_foldl_fst _ _ _ ?_).trans ?_; intros) | simp [kept_read])

theorem askPairing_kept (s : State) (i : Nat) (k : KeyIndex) : (s.askPairing i k).kept = { s.kept with identity := k } := by
  unfold State.askPairing
  simp [kept_read]

theorem pair_kept (s : State) (id i : Nat) (k : KeyIndex) : (s.pair id i k).kept = { s.kept with identity := k } := by
  have h := askPairing_kept s i k
  rw [← h]
  unfold State.pair
  simp [kept_read]

@[simp] theorem unpair_kept (x0) (x1) :
    (State.unpair x0 x1).kept = x0.kept := by
  unfold State.unpair; repeat' (first | (simp [kept_read]; done) | split | (refine (kept_foldl _ _ _ ?_).trans ?_; intros) | (refine (kept_foldl_fst _ _ _ ?_).trans ?_; intros) | simp [kept_read])

@[simp] theorem clearAreas_kept (x0) (x1) (x2) :
    (State.clearAreas x0 x1 x2).kept = x0.kept := by
  simp [State.clearAreas, kept_read]

end Sys2Proof.Machine
end

