-- ==== Sys2Proof/Laws/Stored.lean ====
section
/-! SUPPORT. Laws of the configuration slots: a slot written in full passes every check of R406. -/

namespace Sys2Proof.Laws

open Sys2Proof Sys2Proof.Machine

/-- A part of a byte string, at its place. -/
theorem bytesAt_append (p q r : List Byte) (n : Nat) (h : q.length = n) : bytesAt (p ++ (q ++ r)) p.length n = q := by
  subst h
  apply List.ext_getElem
  · simp [bytesAt]
  · intro i h1 h2
    simp [bytesAt, List.getElem?_append_right, List.getElem?_append_left, h2]

/-- Four bytes of a number below 2^32 spell it. -/
theorem leNat_leBytes4 (v : Nat) (h : v < 2 ^ 32) : leNat (leBytes 4 v) = v := by
  simp [leBytes, bvBytes, leNat, List.range_succ, BitVec.extractLsb', Nat.shiftRight_eq_div_pow]
  omega

/-- Header, CHECK and body of one writing pass the checks of R406. -/
theorem slotValid_of (seq : Nat) (w : List Byte) (h : w.length ≤ 2 ^ 22 - 32) :
    slotValid (bytesAt (slotBytes seq w) 0 32 ++ w) = true := by
  have l4 : ∀ v, (leBytes 4 v).length = 4 := by intro v; simp [leBytes, bvBytes]
  have l8 : (leBytes 8 seq).length = 8 := by simp [leBytes, bvBytes]
  have lh : (slotHead seq w.length).length = 24 := by simp [slotHead, leBytes, bvBytes]
  obtain ⟨c, hc⟩ : ∃ c, c = bvBytes (crc64 (slotHead seq w.length ++ w)) := ⟨_, rfl⟩
  have lc : c.length = 8 := by rw [hc]; simp [bvBytes]
  have hb : bytesAt (slotBytes seq w) 0 32 = slotHead seq w.length ++ c := by
    have := bytesAt_append [] (slotHead seq w.length ++ c) w 32 (by simp [lh, lc])
    rw [slotBytes, ← hc]; simpa [List.append_assoc] using this
  rw [hb]
  have h0 : bytesAt (slotHead seq w.length ++ c ++ w) 0 24 = slotHead seq w.length := by
    have := bytesAt_append [] (slotHead seq w.length) (c ++ w) 24 lh
    simpa using this
  have h24 : bytesAt (slotHead seq w.length ++ c ++ w) 24 8 = c := by
    have := bytesAt_append (slotHead seq w.length) c w 8 lc
    simpa [lh] using this
  have h32 : bytesAt (slotHead seq w.length ++ c ++ w) 32 w.length = w := by
    have := bytesAt_append (slotHead seq w.length ++ c) w [] w.length rfl
    simpa [lh, lc] using this
  have m0 : bytesAt (slotHead seq w.length ++ c ++ w) 0 4 = leBytes 4 0x4C434647 := by
    have := bytesAt_append [] (leBytes 4 0x4C434647) (leBytes 4 1 ++ leBytes 8 seq ++ leBytes 4 w.length ++ leBytes 4 0 ++ c ++ w) 4 (l4 _)
    simpa [slotHead, List.append_assoc] using this
  have m4 : bytesAt (slotHead seq w.length ++ c ++ w) 4 4 = leBytes 4 1 := by
    have := bytesAt_append (leBytes 4 0x4C434647) (leBytes 4 1) (leBytes 8 seq ++ leBytes 4 w.length ++ leBytes 4 0 ++ c ++ w) 4 (l4 _)
    simpa [slotHead, List.append_assoc, l4] using this
  have m16 : bytesAt (slotHead seq w.length ++ c ++ w) 16 4 = leBytes 4 w.length := by
    have := bytesAt_append (leBytes 4 0x4C434647 ++ leBytes 4 1 ++ leBytes 8 seq) (leBytes 4 w.length) (leBytes 4 0 ++ c ++ w) 4 (l4 _)
    simpa [slotHead, List.append_assoc, l4, l8] using this
  have n16 : natAt (slotHead seq w.length ++ c ++ w) 16 4 = w.length := by rw [natAt, m16, leNat_leBytes4 _ (by omega)]
  have n0 : natAt (slotHead seq w.length ++ c ++ w) 0 4 = 0x4C434647 := by rw [natAt, m0, leNat_leBytes4 _ (by omega)]
  have n4 : natAt (slotHead seq w.length ++ c ++ w) 4 4 = 1 := by rw [natAt, m4, leNat_leBytes4 _ (by omega)]
  have e : (slotHead seq w.length ++ c ++ w).length = 32 + w.length := by simp [lh, lc]; omega
  simp only [slotValid, n16, n0, n4, h0, h24, h32, e, ← hc, h, beq_self_eq_true, decide_true, Nat.le_refl, Bool.and_self]

/-- Every configuration slot that the module has written in full is valid (R406). -/
theorem slot_valid (seq : Nat) (x : Stored) : (CfgSlot.of seq x).valid = true :=
  slotValid_of seq _ (List.length_take_le _ _)

end Sys2Proof.Laws
end

