-- ==== Sys2Proof/Laws/Window.lean ====
section
/-! SUPPORT. The command window (R389) as a byte store in one canonical form: keys strictly rising, and no byte listed that
reads as zero. Every write of bytes keeps that form, and equal windows are equal data. -/

namespace Sys2Proof.Machine

open Sys2Proof

/-- Keys strictly rising. -/
def Rising {α : Type} (t : Tab α) : Prop := t.Pairwise fun a b => a.1 < b.1

/-- The canonical form of a window. -/
def WindowWf (t : Tab Byte) : Prop := Rising t ∧ ∀ x ∈ t, x.2 ≠ 0

theorem mem_tset {α : Type} {t : Tab α} {k : Nat} {y : α} {x : Nat × α} (h : x ∈ tset t k y) : x = (k, y) ∨ x ∈ t := by
  induction t with
  | nil => simpa [tset] using h
  | cons p r ih =>
    unfold tset at h
    split at h
    · simpa using h
    · split at h
      · simp only [List.mem_cons] at h ⊢; rcases h with h | h <;> simp [h]
      · simp only [List.mem_cons] at h ⊢
        rcases h with h | h
        · simp [h]
        · rcases ih h with e | e <;> simp [e]

theorem mem_tdel {α : Type} {t : Tab α} {k : Nat} {x : Nat × α} (h : x ∈ tdel t k) : x ∈ t := by
  induction t with
  | nil => exact h
  | cons p r ih =>
    unfold tdel at h
    split at h
    · exact List.mem_cons_of_mem _ (ih h)
    · rcases List.mem_cons.1 h with e | e
      · simp [e]
      · exact List.mem_cons_of_mem _ (ih e)

/-- Putting an item keeps the keys rising. -/
theorem tset_rising {α : Type} {t : Tab α} (k : Nat) (y : α) (h : Rising t) : Rising (tset t k y) := by
  induction t with
  | nil => simp [tset, Rising]
  | cons p r ih =>
    obtain ⟨j, x⟩ := p
    have hp := List.pairwise_cons.1 h
    unfold tset
    split
    · rename_i hk
      refine List.pairwise_cons.2 ⟨fun b hb => ?_, h⟩
      rcases List.mem_cons.1 hb with e | e
      · subst e; exact hk
      · exact Nat.lt_trans hk (hp.1 b e)
    · rename_i hk
      split
      · rename_i e; subst e
        exact List.pairwise_cons.2 ⟨hp.1, hp.2⟩
      · rename_i e
        refine List.pairwise_cons.2 ⟨fun b hb => ?_, ih hp.2⟩
        rcases mem_tset hb with e2 | e2
        · subst e2; dsimp only; omega
        · exact hp.1 b e2

/-- Removing a key keeps the others rising. -/
theorem tdel_rising {α : Type} {t : Tab α} (k : Nat) (h : Rising t) : Rising (tdel t k) := by
  induction t with
  | nil => exact h
  | cons p r ih =>
    have hp := List.pairwise_cons.1 h
    unfold tdel
    split
    · exact ih hp.2
    · exact List.pairwise_cons.2 ⟨fun b hb => hp.1 b (mem_tdel hb), ih hp.2⟩

theorem putByte_wf {t : Tab Byte} (k : Nat) (b : Byte) (h : WindowWf t) : WindowWf (putByte t k b) := by
  unfold putByte
  split
  · exact ⟨tdel_rising k h.1, fun x hx => h.2 x (mem_tdel hx)⟩
  · rename_i hb
    refine ⟨tset_rising k b h.1, fun x hx => ?_⟩
    rcases mem_tset hx with e | e
    · subst e; exact hb
    · exact h.2 x e

/-- Every write of bytes keeps the canonical form. -/
theorem putBytes_wf {t : Tab Byte} (k : Nat) (bs : List Byte) (h : WindowWf t) : WindowWf (putBytes t k bs) := by
  induction bs generalizing t k with
  | nil => exact h
  | cons b r ih => exact ih (k + 1) (putByte_wf k b h)

/-- The window at reset, and after a function-level reset, lists nothing. -/
theorem reset_window_wf (p : Bool) : WindowWf (Fn.reset p).window := ⟨List.Pairwise.nil, by simp [Fn.reset]⟩

/-- A byte written reads back; the others read as before. -/
theorem putByte_read (t : Tab Byte) (k j : Nat) (b : Byte) :
    (tget (putByte t k b) j).getD 0 = if j = k then b else (tget t j).getD 0 := by
  unfold putByte
  split
  · rename_i hb
    split
    · rename_i e; subst e; simp [hb]
    · rename_i e; rw [tget_tdel_of_ne _ e]
  · split
    · rename_i e; subst e; simp
    · rename_i e; rw [tget_tset_of_ne _ _ e]

end Sys2Proof.Machine
end

