-- ==== Sys2Proof/WellFormed.lean ====
section
/-! DEFINITION. Well-formed commands: the ranges and lengths of the operands as the manual gives them. `exec` is total and
does not need them; they say which commands can occur. -/

namespace Sys2Proof

/-- An entry of the agent list: the route table names 8,192 EIDs (Table 4-4). -/
def entryOk (a : Nat) : Bool := a < 8192

/-- A PCIe function: PF0 and 1,024 VFs (R381). -/
def fnOk (n : Nat) : Bool := n ≤ 1024

/-- A place and one of its ports: 16 ports at most at an agent, 256 at the link tiles (Table 9-1, R114). -/
def portOk (site : Site) (p : Nat) : Bool :=
  match site with
  | .agent a => entryOk a && p < 16
  | .chrohar => p < 256

def siteOk (site : Site) : Bool :=
  match site with
  | .agent a => entryOk a
  | .chrohar => true

/-- A billet carries the payload that PLEN gives (Table 2-6). -/
def pktOk (p : Pkt) : Bool :=
  match p.body with
  | .tally _ _ => true
  | .billet h _ payload _ => payload.length == (h.plen.toNat + 1) * 256

/-- A descriptor names as many child ranks as CHILDREN tells (Table 9-8). -/
def descOk (d : Desc) : Bool := d.childRanks.length == d.children.toNat

/-- A 64-bit register lies on an 8-byte boundary of its space (Tables 10-2, 10-4, 9-12). -/
def regWriteOk (w : RegWrite) : Bool :=
  match w with
  | .bar0 n off _ => fnOk n && off < 0x10000 && off % 8 == 0
  | .window n off bytes => fnOk n && off + bytes.length ≤ 0x4000
  | .bar2 off _ => off < 0x1000000 && off % 8 == 0
  | .vfs _ count => count ≤ 1024
  | .agentReg a off _ => entryOk a && off % 8 == 0

/-- An ember packet carries at most 4,096 bytes (R521) on one of two links. -/
def emberOk (link : Nat) (p : EmberPkt) : Bool := link < 2 && p.payload.length ≤ 4096 && p.seq < 2 ^ 64

/-- A memory link: 24 of tier B (1), 16 of tier C (2) (R433, Table 10-8). -/
def memLinkOk (tier link : Nat) : Bool := (tier == 1 && link < 24) || (tier == 2 && link < 16)

/-- A rail code of Table 11-8, 1 to 5. -/
def railOk (rail : Nat) : Bool := 1 ≤ rail && rail ≤ 5

/-- A rail fault (Table 16-6): the rails of the bellows, VDD_TRUST and VDD_IO; low, high or over-current. -/
def railFaultOk (rail kind : Nat) : Bool := 1 ≤ rail && rail ≤ 7 && kind < 3

/-- A session message's body (Table 12-3). -/
def msgOk (m : SessMsg) : Bool := m.body.length ≤ 1048576 + 256

/-- An instance of JUNCTION_TEMP (Table 14-3). -/
def unitOk (unit : Nat) : Bool := unit < 48

/-- The straps of a build's ports (Table 9-1). -/
def strapsOk (switchBuild : Bool) (instW minW : List (BitVec 3)) : Bool :=
  let n := if switchBuild then 16 else 8
  instW.length == n && minW.length == n

/-- A management port is one of the two (Table 1-4). -/
def pathOk (path : SessPath) : Bool :=
  match path with
  | .mgmt port _ => port < 2
  | .tongs => true

/-- The operands lie in the ranges of the manual. -/
def Instr.wf : Instr → Bool
  | .registerWrite w => regWriteOk w
  | .evtLostRead fn => fnOk fn
  | .portErrRead a port => portOk (.agent a) port
  | .dstFullDropsRead a => entryOk a
  | .cfgCommit fn _ => fnOk fn
  | .cmdEnWrite fn _ => fnOk fn
  | .evtEnWrite fn _ => fnOk fn
  | .eventHeadWrite fn _ => fnOk fn
  | .agentCommit a _ => entryOk a
  | .tdGo _ => true
  | .quoteDone _ => true
  | .powerOn => true
  | .grantQueryRetry => true
  | .pllLock => true
  | .fuseMapLoaded recs _ => recs.length ≤ 2048
  | .configReadDone => true
  | .waveSettled => true
  | .bellowsSubstep => true
  | .waveFail rail => railOk rail
  | .bellowsRetryExpire => true
  | .coolantWaitTimeout => true
  | .linkTestDone _ => true
  | .computeTestDone _ => true
  | .managerReady => true
  | .lockLost => true
  | .governorAdmit => true
  | .powerLimit _ _ => true
  | .thermalThrottle unit _ => unitOk unit
  | .thermalTrip unit _ => unitOk unit
  | .thermalTripRestart => true
  | .inputFault cause _ => cause < 3
  | .railFault rail kind => railFaultOk rail kind
  | .inputSwitchClose => true
  | .ejectOpen => true
  | .perstN => true
  | .functionLevelReset fn => fnOk fn
  | .coolantOk _ _ => true
  | .coolantLost => true
  | .claimOpen _ => true
  | .credClear => true
  | .fabricGrant => true
  | .standby => true
  | .confirmReq => true
  | .status => true
  | .agentRstNAssert a => entryOk a
  | .agentRstNDeassert a _ switchBuild instW minW => entryOk a && strapsOk switchBuild instW minW
  | .trainingAttemptStart site port => portOk site port
  | .trainingWindowClose site reports => siteOk site && reports.all fun x => portOk site x.port
  | .laneUpChange site port _ => portOk site port
  | .identifyTimeout site port => portOk site port
  | .controlCellSend site port => portOk site port
  | .idleCell site port _ => portOk site port
  | .lapExchangeCell site port _ => portOk site port
  | .lapSlew a => entryOk a
  | .neighbourDiscoveryCell site port _ => portOk site port
  | .forgetCell site port _ => portOk site port
  | .forgetSendEnd a => entryOk a
  | .frameReceive site port f => portOk site port && pktOk f.pkt
  | .frameSend site port => portOk site port
  | .packetArrival x => siteOk x.site
  | .contribHeldAccept => true
  | .treePartReceive a => entryOk a
  | .treeSumFormed a => entryOk a
  | .ackTimerExpire site _ => siteOk site
  | .ackReceive site => siteOk site
  | .flowWindowSend site _ => siteOk site
  | .mcastChangedSetSend site _ => siteOk site
  | .nak site => siteOk site
  | .mgrBusy site => siteOk site
  | .busyHoldExpire site _ _ => siteOk site
  | .hubPacketPaused => true
  | .resendTimerExpire site _ _ => siteOk site
  | .mgrFlowRestart a _ _ => entryOk a
  | .fenceNotice site _ position _ => siteOk site && position < 16
  | .injectDescriptor a d _ => entryOk a && descOk d
  | .deliveryRoomResume a => entryOk a
  | .dlvStall a => entryOk a
  | .timedRelease a _ => entryOk a
  | .paceArrive => true
  | .paceRelease a => entryOk a
  | .discoverQuery a => entryOk a
  | .discoverReply => true
  | .discoverReplyTimeout => true
  | .discoveryStart => true
  | .linkEvent => true
  | .linkTilePortChange port => portOk .chrohar port
  | .routeComputeDone => true
  | .drainExpire => true
  | .runTeardownWaitExpire => true
  | .tableBillet a => entryOk a
  | .tblFlip a => entryOk a
  | .tblRetire a => entryOk a
  | .tblState a => entryOk a
  | .tblSeed a => entryOk a
  | .fence a => entryOk a
  | .unfence a => entryOk a
  | .collRetry a => entryOk a
  | .portHold a => entryOk a
  | .ctlAdmit a => entryOk a
  | .flowClear a => entryOk a
  | .bridgeSet a => entryOk a
  | .ctrlReply => true
  | .fenceAck => true
  | .endpointReport => true
  | .resendFail => true
  | .resendFailGatherExpire heat => heat < 4096
  | .agentIsolationTimeout a => entryOk a
  | .probeTimer => true
  | .probeWindowClose entry => entryOk entry
  | .heatQueueHead => true
  | .hearthGradientReceive h _ => h < 16
  | .meshTransferAccept h => h < 16
  | .hearthRecordUpdate h x => h < 16 && x.tier < 3
  | .hearthPassEnd h => h < 16
  | .normDecision => true
  | .fabricImageSave => true
  | .watchdogExpire core => core < 136
  | .managerStateUncorrectable => true
  | .prPhaseEnd _ => true
  | .memLinkLoss tier link => memLinkOk tier link
  | .configWriteDone _ => true
  | .irqGapExpire fn vector => fnOk fn && vector < 2
  | .quenchPageDone => true
  | .reencryptPageDone => true
  | .clientHello path _ _ _ _ _ => pathOk path
  | .clientAuth _ _ _ _ _ => true
  | .sessionCommand _ m => msgOk m
  | .sessionClose _ m => msgOk m
  | .sessionIdleTimeout _ => true
  | .sessionBlockExpire _ => true
  | .healthCheck _ _ => true
  | .fwDeadline => true
  | .recorderSample _ => true
  | .recorderWindowClose => true
  | .recorderCheckpoint => true
  | .emberSend => true
  | .emberAckTimer => true
  | .emberResendExpire _ => true
  | .emberHeartbeatSend => true
  | .emberLinkSilent link => link < 2
  | .emberLostTimer => true
  | .fabric link p => emberOk link p
  | .journal link p => emberOk link p
  | .page link p => emberOk link p
  | .stepDone link p => emberOk link p
  | .key link p => emberOk link p
  | .keyDestroy link p => emberOk link p
  | .config link p => emberOk link p
  | .heartbeat link p => emberOk link p
  | .emberAck link p => emberOk link p
  | .handover link p => emberOk link p
  | .taken link p => emberOk link p
  | .takenTimeout => true
  | .devIdentify _ => true
  | .devStatus _ => true
  | .devPartialReset _ => true
  | .devCalRead _ => true
  | .devCalWrite _ _ => true
  | .topoRecWrite _ _ => true
  | .topoRecCommit _ => true
  | .topoRecRead _ => true
  | .topoDiscover _ => true
  | .topoEntryHold _ => true
  | .topoReadmit _ => true
  | .topoProbeSet _ => true
  | .topoEntryQuery _ => true
  | .topoPortRetrain _ => true
  | .routeFull _ => true
  | .routeDrainSet _ => true
  | .routeQuery _ => true
  | .heatCarve _ => true
  | .heatRelease _ => true
  | .heatFence _ => true
  | .heatUnfence _ => true
  | .heatQuery _ => true
  | .heatList _ => true
  | .tenantSet _ => true
  | .tenantGet _ => true
  | .planLoad _ _ => true
  | .planLoadCached _ => true
  | .planGo _ => true
  | .planStop _ => true
  | .cacheList _ => true
  | .cacheDrop _ => true
  | .savedList _ => true
  | .savedDiscard _ => true
  | .stateImport _ _ => true
  | .stateExport _ _ => true
  | .updateQuery _ => true
  | .memQuery _ => true
  | .cacheSet _ => true
  | .memRetrain _ => true
  | .secQuote _ => true
  | .secKeyRotate _ => true
  | .secKeyState _ => true
  | .secIndexState _ => true
  | .secCredSet _ data => data.length ≤ 1048576
  | .fwPiece _ piece => piece.length ≤ 65536
  | .fwStatus _ => true
  | .fwActivate _ => true
  | .fwDiscard _ => true
  | .recQuery _ => true
  | .recRead _ => true
  | .recClear _ => true
  | .redStatus _ => true
  | .redSaveNow _ => true
  | .redTakeover _ => true
  | .redPairSet _ partner => partner < 4
  | .unlistedOpcode _ => true
  | .unlistedCtrlOp a => entryOk a
  | .perstNDeassert => true
  | .memLinkRetrainDone tier link _ => memLinkOk tier link
  | .thermalThrottleEnd unit _ => unitOk unit
  | .setdasa _ => true

end Sys2Proof
end

