-- ==== Sys2Proof/Tests/Slice0.lean ====
section
/-! SUPPORT. Tests: ill-formed commands, check values of the codes, and for every statement with premises states that meet
them, clause by clause, with what the command then does where that is a matter of evaluation. -/

set_option maxRecDepth 100000
set_option Elab.async false

namespace Sys2Proof.Tests

open Sys2Proof Sys2Proof.Machine

/-! ## Small states -/

/-- What a command answers, as a state. -/
def after (c : Instr) (s : State) : State :=
  match exec c s with
  | .next t => t
  | _ => s

/-- An endpoint agent out of reset, with its port 0 up. -/
def upPort : Port := { Port.reset with instW := 8, minW := 2, width := 8, state := .up, laneOk := 0xFF }

def live : Agent := { Agent.reset with inReset := false, strap := 0x040, ports := [(0, upPort), (1, { upPort with state := .noLane, width := 0 })] }

/-- A module whose agent 0 is as given. -/
def at0 (g : Agent) : State := State.reset.setAgent 0 g

/-- A module that runs, with the manager in service and the grant. -/
def running : State :=
  { State.reset with boot := { State.reset.boot with stage := .running, mgrReady := true, switchOn := true, wave := 8, perst := false }
                     ember := { State.reset.ember with grant := true } }

/-- A command with parameters, from PF0. -/
def cmdOf (op : BitVec 16) (param : List Byte) (dataLen : Nat) : Cmd :=
  { id := 3, src := .fn 0, slot := 0, seq := 1, opcode := op, flags := 0, rsv := false, dataAddr := 0x10000, dataLen := dataLen
    param := param, started := false, mute := false }

def give (c : Cmd) (s : State) : State := { s with hif := { s.hif with cmds := [c], nextId := 4 } }

/-- A command waits, may start and passes its checks, as a matter of evaluation. -/
def ready (s : State) (id : Nat) (op : BitVec 16) (c : Cmd) : Bool :=
  decide (s.cmd id = some c) && decide (c.opcode = op) && s.mayStart c && decide (s.precheck c = none)

theorem ready_of {s : State} {id : Nat} {op : BitVec 16} {c : Cmd} (h : ready s id op c = true) : s.Ready id op c := by
  simp only [ready, Bool.and_eq_true, decide_eq_true_eq] at h
  exact ⟨h.1.1.1, h.1.1.2, h.1.2, h.2⟩

/-! ## Ill-formed commands -/

theorem test_wf_entry : (Instr.agentRstNAssert 8192).wf = false ∧ (Instr.agentRstNAssert 8191).wf = true := by decide +kernel

theorem test_wf_function : (Instr.evtLostRead 1025).wf = false ∧ (Instr.evtLostRead 1024).wf = true := by decide +kernel

theorem test_wf_port : (Instr.frameSend (.agent 0) 16).wf = false ∧ (Instr.frameSend .chrohar 256).wf = false ∧
    (Instr.frameSend .chrohar 255).wf = true := by decide +kernel

theorem test_wf_site : (Instr.nak (.agent 8192)).wf = false ∧ (Instr.nak .chrohar).wf = true := by decide +kernel

theorem test_wf_packet : pktOk { c := common 0 0 0 0 0, seq := 0, body := .billet zeroHdr 0 [] 0 } = false ∧
    pktOk (mkTally (common 0 0 0 0 0) 0 0) = true := by decide +kernel

def tagOnly : Desc :=
  { tag := 7, mode := 0, type := 0x40, baton := false, billet := false, convert := false, pfmt := 0, plen := 0, inFmt := 0
    children := 0, dest := 1, mmask := 0, rank := 0, collId := 0, step := 0, chunk := 0, scale := 0, childRanks := [], ovf := 0
    addr := 0, rsv := 0 }

theorem test_wf_descriptor : (Instr.injectDescriptor 0 { tagOnly with childRanks := [1] } []).wf = false ∧
    (Instr.injectDescriptor 0 tagOnly []).wf = true := by decide +kernel

theorem test_wf_register : (Instr.registerWrite (.bar0 0 4 0)).wf = false ∧ (Instr.registerWrite (.bar2 0x1000000 0)).wf = false ∧
    (Instr.registerWrite (.vfs true 1025)).wf = false ∧ (Instr.registerWrite (.agentReg 0 1 0)).wf = false ∧
    (Instr.registerWrite (.window 0 0x4000 [0])).wf = false ∧ (Instr.registerWrite (.window 0 0x3FFF [0])).wf = true := by decide +kernel

theorem test_wf_memLink : (Instr.memLinkLoss 1 24).wf = false ∧ (Instr.memLinkLoss 2 16).wf = false ∧
    (Instr.memLinkLoss 1 23).wf = true := by decide +kernel

theorem test_wf_rail : (Instr.waveFail 0).wf = false ∧ (Instr.waveFail 6).wf = false ∧ (Instr.waveFail 5).wf = true := by decide +kernel

theorem test_wf_faults : (Instr.railFault 8 0).wf = false ∧ (Instr.railFault 1 3).wf = false ∧ (Instr.inputFault 3 0).wf = false ∧
    (Instr.railFault 7 2).wf = true := by decide +kernel

theorem test_wf_lengths : (Instr.fuseMapLoaded (List.replicate 2049 0) 0).wf = false ∧
    (Instr.fwPiece 0 (List.replicate 65537 0)).wf = false ∧ (Instr.secCredSet 0 (List.replicate 1048577 0)).wf = false ∧
    (Instr.sessionClose 0 { counter := 0, rsv := 0, body := List.replicate 1048833 0, tag := 0 }).wf = false := by
  simp only [Instr.wf, msgOk, List.length_replicate]; decide

theorem test_wf_unit : (Instr.thermalTrip 48 0).wf = false ∧ (Instr.thermalTrip 47 0).wf = true := by decide +kernel

theorem test_wf_straps : (Instr.agentRstNDeassert 0 0 true [] []).wf = false ∧
    (Instr.agentRstNDeassert 0 0 false (List.replicate 8 0) (List.replicate 8 0)).wf = true := by decide +kernel

def emptyPkt (type : BitVec 8) (seq : Nat) : EmberPkt :=
  { type := type, last := true, seq := seq, object := 0, offset := 0, srcUnit := 0, payload := [], crc := 0, sent := 0, freed := 0 }

theorem test_wf_ember : (Instr.fabric 2 (emptyPkt 1 0)).wf = false ∧ (Instr.fabric 1 (emptyPkt 1 0)).wf = true := by decide +kernel

theorem test_wf_ranges : (Instr.hearthPassEnd 16).wf = false ∧ (Instr.watchdogExpire 136).wf = false ∧
    (Instr.irqGapExpire 0 2).wf = false ∧ (Instr.emberLinkSilent 2).wf = false ∧ (Instr.redPairSet 0 4).wf = false ∧
    (Instr.clientHello (.mgmt 2 0) 0 0 false 0 0).wf = false ∧ (Instr.hearthRecordUpdate 0 ⟨3, false⟩).wf = false ∧
    (Instr.resendFailGatherExpire 4096).wf = false ∧
    (Instr.fenceNotice .chrohar { src := 0, mcast := true, peer := 0, laneKey := 0 } 16 false).wf = false := by decide +kernel

/-! ## Check values of the codes (the check string 123456789 of each code's catalogue) -/

def digits : List Byte := [0x31, 0x32, 0x33, 0x34, 0x35, 0x36, 0x37, 0x38, 0x39]

theorem test_crc8 : crc8 digits = 0xF4#8 := by decide +kernel

theorem test_crc32 : crc32 digits = 0xCBF43926#32 := by decide +kernel

theorem test_crc32c : crc32c digits = 0xE3069283#32 := by decide +kernel

theorem test_crc64 : crc64 digits = 0x6C40DF5F0B497347#64 := by decide +kernel

/-! ## The block as a whole -/

def queued : State := { State.reset with pending := [.powerOn, .pllLock] }

theorem witness_front : queued.pending = .powerOn :: [.pllLock] := by decide +kernel

theorem witness_emptyQueue : State.reset.pending = [] ∧ State.reset.boot.wave < 2 ∧ running.pending = [] ∧ 2 ≤ running.boot.wave ∧
    (match step running with | .next t => decide (t.lap = 16) | _ => false) = true := by decide +kernel

theorem witness_rows : (Instr.forgetSendEnd 7).agentOf = some 7 ∧ Instr.powerOn.agentOf = none := by decide +kernel

def switchedOn : State := { State.reset with boot := { State.reset.boot with switchOn := true } }

theorem witness_powerOnCounts : (Instr.powerOn = .powerOn ∧ switchedOn.boot.stage = .off ∧ switchedOn.boot.switchOn = true) ∧
    (after .powerOn switchedOn).trust.powerCycles = 1 ∧ (after .powerOn State.reset).trust.powerCycles = 0 := by decide +kernel

theorem witness_covered : State.reset.trust.identity.covered = true ∧ State.reset.trust.attest.covered = true ∧
    ∃ t, step State.reset = .next t := ⟨by decide, by decide, _, rfl⟩

def burned : State := { State.reset with fw := { State.reset.fw with fuse := 1 } }

theorem witness_fuse : burned.fw.fuse.getLsbD 0 = true := by decide +kernel

/-! ## Agents: registers, reset, ports and cells -/

def ringed (on : Bool) : Agent := { live with rings := { live.rings with en := on, shadow := { live.rings.shadow with injBase := 9 } } }

theorem witness_agentCommit : (ringed false).inReset = false ∧ (ringed false).rings.en = false ∧ (ringed true).rings.en = true ∧
    ((after (.agentCommit 0 1) (at0 (ringed false))).agent 0).rings.live.injBase = 9 ∧
    ((after (.agentCommit 0 1) (at0 (ringed true))).agent 0).rings.live.injBase = 0 := by decide +kernel

theorem witness_agentReset : (State.reset.agent 8191).inReset = true ∧
    ((after (.agentRstNDeassert 8191 0x7FF false (List.replicate 8 5) (List.replicate 8 5)) State.reset).agent 8191).strap = 0x7FF :=
  by decide +kernel

def portOf (q : Port) : State := at0 { live with ports := [(0, q)] }

theorem witness_trainingStarts : tget ((portOf { upPort with state := .noLane }).agent 0).ports 0 = some { upPort with state := .noLane } ∧
    upPort.instW ≠ 0 ∧ upPort.held = false ∧ { upPort with held := true }.held = true ∧
    ((after (.trainingAttemptStart (.agent 0) 0) (portOf { upPort with state := .belowMin })).agent 0).port 0 =
      { upPort with state := .training } ∧ upPort.shut = false ∧ { upPort with shut := true }.shut = true ∧
    { upPort with instW := 0 }.instW = 0 := by decide +kernel

theorem witness_trainedWidth : upPort.instW ≤ 8 ∧ (upPort.trained 0x7F 0).width = 6 ∧ (upPort.trained 0x1F 0).width = 4 ∧
    (upPort.trained 0 0).state = .noLane ∧ (upPort.trained 1 0).state = .belowMin := by decide +kernel

theorem witness_portsFollow : (portOf { upPort with state := .training }).hasPort (.agent 0) 0 = true ∧
    ((after (.trainingWindowClose (.agent 0) [{ port := 0, ok := 0x3F, spareOk := 0 }])
      (portOf { upPort with state := .training })).agent 0).port 0 = upPort.trained 0x3F 0 ∧
    upPort.state = .up ∧ upPort.laneOk ≠ (0x0F &&& laneMask 0 upPort.instW) ∧
    (((after (.laneUpChange (.agent 0) 0 0x0F) (portOf upPort)).agent 0).port 0).width = 4 ∧ upPort.nbrSeen = false ∧
    (((after (.identifyTimeout (.agent 0) 0) (portOf upPort)).agent 0).port 0).state = .noLane := by decide +kernel

/-- A control cell with right checks. -/
def cellOf (csub : BitVec 8) (data : BitVec 80) : CtlCell :=
  let c : CtlCell := { word := frameWord 0 1 0 1, csub := csub, rsv := 0, freed := 0x0004000300020001, data := data, hop := 0, fecOk := true }
  { c with hop := cellHop c }

def nbrCell : CtlCell := cellOf 2 0x2010041

/-- A port whose last two control slots of the 16 FEC blocks come next, with both due cells still to go. -/
def lastSlots : Port := { upPort with tx := { upPort.tx with ctl := 62 } }

theorem witness_controlSlot : (portOf upPort).hasPort (.agent 0) 0 = true ∧ ((portOf upPort).portAt (.agent 0) 0).state = .up ∧
    ((portOf lastSlots).dueCells (.agent 0) 0).length = 2 ∧
    (((portOf lastSlots).dueCells (.agent 0) 0).filter fun c => !lastSlots.tx.sent.contains c.1) ≠ [] ∧
    64 - lastSlots.tx.ctl % 64 ≤ 2 ∧ (((after (.controlCellSend (.agent 0) 0) (portOf lastSlots)).agent 0).port 0).tx.sent = [1] := by
  decide +kernel

theorem witness_cells : cellOk (cellOf 0 0) = true ∧ (cellOf 0 0).csub = 0 ∧ cellOk nbrCell = true ∧
    (((after (.neighbourDiscoveryCell (.agent 0) 0 nbrCell)
      (portOf { upPort with cand := nbrOf nbrCell, candCount := 2 })).agent 0).port 0).nbrSeen = true ∧
    cellOk (cellOf 3 5) = true ∧ field (cellOf 3 5).data 0 64 ≠ live.discTag ∧ field (cellOf 3 0).data 0 64 = live.discTag ∧
    ((after (.forgetCell (.agent 0) 0 (cellOf 3 5)) (portOf upPort)).agent 0).forgetting = true ∧
    ((after (.forgetCell (.agent 0) 0 (cellOf 3 0)) (portOf upPort)).agent 0).forgetting = false := by decide +kernel

/-- An agent whose parent is port 0, at a lap. -/
def lapAgent (lap : BitVec 64) (lock : LapLock) (offsets : List Int) : Agent :=
  { live with lapSync := { live.lapSync with lap := lap, lock := lock, parent := some 0, offsets := offsets, sinceSlew := 64 } }

theorem witness_lap : (lapAgent 0 .free []).lapSync.parent = some 0 ∧ cellOk (cellOf 1 0) = true ∧
    field (cellOf 1 0).data 40 32 ≠ 0x80000000#32 ∧
    (lapAgent 0 .free []).lapSync.lock ≠ .holdover ∧ { live.lapSync with sinceSlew := 3 }.sinceSlew < 64 ∧
    25600 < (lapOffset (field (lapAgent 51202 .free []).lapNow 0 40) 0 0).natAbs ∧
    (lapOffset 300 0 100, lapDelay 300 0 100) = (100, 200) ∧
    ((after (.lapExchangeCell (.agent 0) 0 (cellOf 1 0)) (at0 (lapAgent 51202 .free []))).agent 0).lapSync.lock = .stepping ∧
    ((after (.lapSlew 0) (at0 (lapAgent 100 .locked [3]))).agent 0).lapSync.lap = 99 := by decide +kernel

def downAgent : Agent := { live with ports := [(0, { upPort with state := .noLane })], eid := some 5, stamp := 7 }

theorem witness_isolation : (∀ e ∈ downAgent.ports, e.2.state ≠ .up) ∧ (∃ e ∈ live.ports, e.2.state = .up) ∧
    ((after (.agentIsolationTimeout 0) (at0 downAgent)).agent 0).stamp = 7 := by decide +kernel

/-! ## The ports of the link tiles -/

/-- A running module whose Chrohar port 0 is as given, and port 4 trains. -/
def tile (q : Port) : State :=
  { running with link := { running.link with ports := [(0, q), (4, { upPort with state := .training, width := 0 })] } }

def peerRecord : InstRecord :=
  { ex := 2, ey := 1, ez := 1, agents := [], edges := [], links := [], minDefault := 2, minOver := [], spares := .none, quadN := 0
    peers := [(0, 1)] }

def peerTile : State :=
  { tile { upPort with cand := nbrOf (cellOf 2 0x1010041), candCount := 2 } with mgr := { running.mgr with record := some peerRecord } }

theorem witness_tilePorts : (tile upPort).hasPort .chrohar 0 = true ∧ running.ember.grant = true ∧ State.reset.ember.grant = false ∧
    { upPort with state := .noLane }.mayTrain = true ∧
    ((after (.trainingAttemptStart .chrohar 0) (tile { upPort with state := .noLane })).link.port 0).state = .training ∧
    upPort.minW ≤ (upPort.trained (laneMask (lanesOf none 0).1 (lanesOf none 0).2) 0).width ∧
    (upPort.lanesChange 0x01).width < upPort.minW ∧ upPort.minW ≤ (upPort.lanesChange 0x3F).width ∧
    upPort.idle = (upPort.lanesChange 0x3F).idle ∧ ((after (.laneUpChange .chrohar 0 0x01) (tile upPort)).link.port 0).idle = true ∧
    running.boot.windowClosed = false ∧
    (∃ x ∈ (tile { upPort with state := .training }).link.ports, x.1 ≠ 0 ∧ x.2.state = .training) ∧
    ((after (.trainingWindowClose .chrohar [{ port := 0, ok := 0xFF, spareOk := 0 }]) (tile { upPort with state := .training })).link.port 0)
      = upPort.trained (laneMask (lanesOf none 0).1 (lanesOf none 0).2) 0 ∧
    upPort.isUp = true ∧ upPort.laneOk ≠ (0x3F#8 &&& laneMask (lanesOf none 0).1 (lanesOf none 0).2) ∧ upPort.nbrSeen = false := by
  decide +kernel

theorem witness_noBadPairs : ∀ k, running.boot.badPairs k = [] := by
  intro k; simp [running, State.reset, Boot.badPairs, Boot.badUnits, Boot.reset]

theorem witness_tileCells : cellOk (cellOf 0 0) = true ∧ cellOk (cellOf 1 0) = true ∧ cellOk (cellOf 3 0) = true ∧ running.ember.lapWait = false ∧
    (tile upPort).isPeerPort 0 = false ∧ peerTile.isPeerPort 0 = true ∧
    (after (.lapExchangeCell .chrohar 0 (cellOf 1 100)) { tile upPort with ember := { running.ember with lapWait := true } }).lap = 50 ∧
    field (cellOf 1 100).data 40 32 ≠ 0x80000000#32 ∧ running.mgr.record = none ∧
    ((after (.neighbourDiscoveryCell .chrohar 0 nbrCell) (tile { upPort with cand := nbrOf nbrCell, candCount := 2 })).link.port 0).nbrSeen
      = true := by decide +kernel

theorem witness_peerRefused : peerTile.mgr.record = some peerRecord ∧ (∃ x ∈ peerRecord.peers, x.1 = 0 / 4) ∧
    (nbrOf (cellOf 2 0x1010041)).kind ≠ 2 ∧
    ((after (.neighbourDiscoveryCell .chrohar 0 (cellOf 2 0x1010041)) peerTile).link.port 0).state = .held := by decide +kernel

/-! ## Flows at an agent -/

def tally (key : LaneKey) (src dst : Eid) (type : BitVec 8) (seq : Seq) (body : BitVec 128) : Pkt :=
  mkTally (common key 0 src dst type) seq body

/-- A short message that agent 0 (EID 1) sends, in try `n`. -/
def message (seq : Seq) : Pkt := tally 0x008 1 2 tShortMsg seq 0

def msgKey : FlowKey := flowKeyOf (message 0)

def copyWith (seq : Seq) (tries : Nat) (timer : Bool) (busy : Option Nat) : Copy :=
  { pkt := message seq, tries := tries, timer := timer, busy := busy, mask := 0, acked := 0, fenced := 0, tag := none }

def flowWith (copies : List Copy) (waiting : List Waiting) : SrcFlow :=
  { freshSrc msgKey 20 with next := 5, latest := 3, copies := copies, waiting := waiting }

/-- The agent of EID 1 with a flow to EID 2. -/
def sender (f : SrcFlow) : State := at0 { live with eid := some 1, srcs := [f] }

def tried (tries : Nat) (timer : Bool) : SrcFlow := flowWith [copyWith 4 tries timer none] []

def toManager (tries : Nat) (timer : Bool) : State := at0 { live with eid := some 1, mgrEid := some 2, srcs :=
  [{ tried tries timer with key := { msgKey with laneKey := mgrKey } }] }

theorem witness_resend : ((sender (tried 7 true)).agent 0).srcFlow msgKey = some (tried 7 true) ∧
    ((sender (tried 7 true)).agent 0).fresh (tried 7 true) = tried 7 true ∧ copyOf (tried 7 true) 4 = some (copyWith 4 7 true none) ∧ ((sender (tried 8 true)).agent 0).isMgrFlow msgKey = false ∧
    (((after (.resendTimerExpire (.agent 0) msgKey 4) (sender (tried 8 true))).agent 0).srcFlow msgKey) =
      some { tried 8 true with copies := [], failed := true } := by decide +kernel

theorem witness_resendManager : ((toManager 8 true).agent 0).isMgrFlow { msgKey with laneKey := mgrKey } = true ∧
    (((after (.resendTimerExpire (.agent 0) { msgKey with laneKey := mgrKey } 4) (toManager 8 true)).agent 0).srcs.map
      (·.copies)) = [[copyWith 4 8 false none]] ∧
    (((after (.mgrFlowRestart 0 { msgKey with laneKey := mgrKey } 4) (toManager 8 false)).agent 0).srcs.flatMap
      fun f => f.copies.map fun c => (c.tries, c.timer)) = [(1, true)] := by decide +kernel

def heldFlow : SrcFlow := flowWith [copyWith 4 2 false (some 9)] []

theorem witness_hold : copyOf heldFlow 4 = some (copyWith 4 2 false (some 9)) ∧ (copyWith 4 2 false (some 9)).busy.isSome = true ∧
    (((after (.busyHoldExpire (.agent 0) msgKey 4) (sender heldFlow)).agent 0).srcs.flatMap
      fun f => f.copies.map fun c => (c.tries, c.timer, c.busy)) = [(2, true, none)] := by decide +kernel

def answered (p : Pkt) : State := at0 { live with eid := some 1, srcs := [tried 3 true], arrived := [{ port := 0, vc := 0, pkt := p, hold := none, owed := true }] }

def ackOf : Pkt := tally 0x008 2 1 tAck 0 4
def nakOf (tryNo : BitVec 128) : Pkt := tally 0x008 2 1 tNak 0 (4 + tryNo * 2 ^ 32)
def busyOf : Pkt := tally 0x008 2 1 tMgrBusy 0 (4 + 2 * 2 ^ 32 + 50 * 2 ^ 36)

theorem witness_ack : tallyGood ackOf = true ∧ takeTally tAck ((answered ackOf).agent 0).arrived = some ({ port := 0, vc := 0, pkt := ackOf, hold := none, owed := true }, []) ∧
    (pktTally ackOf).getLsbD 112 = false ∧ ((answered ackOf).agent 0).srcFlow (ackKey ackOf) = some (tried 3 true) ∧
    ((after (.ackReceive (.agent 0)) (answered ackOf)).agent 0).srcs = [{ tried 3 true with copies := [], latest := 4 }] := by decide +kernel

theorem witness_nak : tallyGood (nakOf 2) = true ∧ takeTally tNak ((answered (nakOf 2)).agent 0).arrived =
      some ({ port := 0, vc := 0, pkt := nakOf 2, hold := none, owed := true }, []) ∧ ((answered (nakOf 2)).agent 0).srcFlow (nakKey (nakOf 2)) = some (tried 3 true) ∧
    copyOf (tried 3 true) (field (pktTally (nakOf 2)) 0 32) = some (copyWith 4 3 true none) ∧
    (((after (.nak (.agent 0)) (answered (nakOf 2))).agent 0).srcs.flatMap fun f => f.copies.map (·.tries)) = [4] ∧
    ((after (.nak (.agent 0)) (answered (nakOf 1))).agent 0).srcs = [tried 3 true] := by decide +kernel

theorem witness_mgrBusy : tallyGood busyOf = true ∧ takeTally tMgrBusy ((answered busyOf).agent 0).arrived =
      some ({ port := 0, vc := 0, pkt := busyOf, hold := none, owed := true }, []) ∧ ((answered busyOf).agent 0).srcFlow (busyKey busyOf) = some (tried 3 true) ∧
    (copyWith 4 3 true none).tries - 1 = (field (pktTally busyOf) 32 3).toNat ∧
    (((after (.mgrBusy (.agent 0)) (answered busyOf)).agent 0).srcs.flatMap fun f => f.copies.map fun c => (c.timer, c.busy)) =
      [(false, some 50)] := by decide +kernel

def waiting : Waiting := { pkt := message 0, tag := none }

/-- A multicast flow of the group 3 whose packet waits for a changed position set. -/
def mcastMsg (mask : BitVec 16) : Pkt :=
  let p := mkBillet (common 0x008 0 1 2 bMessage) 0 { zeroHdr with mgroup := 3, mmask := mask } []
  { p with c := { p.c with mcast := true } }

def mcastKey : FlowKey := { src := 1, mcast := true, peer := 3, laneKey := 0x008 }

def mcastFlow (copies : List Copy) : SrcFlow :=
  { freshSrc mcastKey 20 with next := 5, latest := 4, copies := copies, waiting := [{ pkt := mcastMsg 6, tag := none }], lastSet := some 2 }

def mcastCopy : Copy := { copyWith 4 1 true none with pkt := mcastMsg 3, mask := 3 }

theorem witness_waiting : ((sender (flowWith [] [waiting])).agent 0).srcFlow msgKey = some (flowWith [] [waiting]) ∧
    windowOpen (flowWith [] [waiting]) = true ∧
    (((after (.flowWindowSend (.agent 0) msgKey) (sender (flowWith [] [waiting]))).agent 0).srcs.map fun f =>
      (f.next, f.waiting.length, f.copies.length)) = [(6, 0, 1)] := by decide +kernel

theorem witness_changedSet : (mcastFlow []).key.mcast = true ∧ positionSet (mcastFlow []) (mcastMsg 6) ≠ 0 ∧
    setChanged (mcastFlow []) (mcastMsg 6) = true ∧ windowOpen (mcastFlow []) = true := by decide +kernel

theorem witness_fenceNotice : ((sender (mcastFlow [mcastCopy])).agent 0).srcFlow mcastKey = some (mcastFlow [mcastCopy]) ∧
    (((after (.fenceNotice (.agent 0) mcastKey 1 false) (sender (mcastFlow [mcastCopy]))).agent 0).srcs.map fun f => f.fenced) = [2] := by
  decide +kernel

def destFlow (arrivals : BitVec 64) (timer : Bool) : DstFlow :=
  { key := flowKeyOf (tally 0x008 2 1 tShortMsg 0 0), ackSeq := 10, arrivals := arrivals, sinceAck := 7, timer := timer, held := [], position := 0
    stamp := none }

def receiver (p : Pkt) (d : DstFlow) : State :=
  at0 { live with
    eid := some 1, dsts := [d]
    rings := { live.rings with en := true, freeTail := 5, live := { live.rings.live with size := 0x44444 } }
    arrived := [{ port := 0, vc := 0, pkt := p, hold := none, owed := true }] }

def heard (seq : Seq) : Pkt := tally 0x008 2 1 tShortMsg seq 0

def billetIn : Pkt := mkBillet (common 0x008 0 2 1 bMessage) 11 zeroHdr []

theorem witness_duplicate : ((receiver (heard 10) (destFlow 0 false)).agent 0).pick []
      ((receiver (heard 10) (destFlow 0 false)).agent 0).arrived = some ({ port := 0, vc := 0, pkt := heard 10, hold := none, owed := true }, []) ∧
    reservedPacket (heard 10) = false ∧ headOk (heard 10) = true ∧ dataOk (heard 10) = true ∧ (heard 10).c.mcast = false ∧
    (heard 10).c.type ≠ tCtrl ∧ ((receiver (heard 10) (destFlow 0 false)).agent 0).dstFlow (flowKeyOf (heard 10)) = some (destFlow 0 false) ∧
    dstJudge (destFlow 0 false) (heard 10) = .duplicate (destFlow 0 false) ∧
    dstJudge (destFlow 0 false) (heard 75) = .beyond ∧ dstJudge (destFlow 0 false) (heard 74) = .accept (destFlow 0 false) := by decide +kernel

theorem witness_newBillet : ((receiver billetIn (destFlow 0 false)).agent 0).pick [] ((receiver billetIn (destFlow 0 false)).agent 0).arrived =
      some ({ port := 0, vc := 0, pkt := billetIn, hold := none, owed := true }, []) ∧ billetIn.c.mcast = false ∧ dataOk billetIn = true ∧
    ((receiver billetIn (destFlow 0 false)).agent 0).dstFlow (flowKeyOf billetIn) = some (destFlow 0 false) ∧ dstJudge (destFlow 0 false) billetIn = .accept (destFlow 0 false) ∧ isBillet billetIn = true ∧
    isTable billetIn = false ∧ headOk billetIn = true ∧ reservedPacket billetIn = false := by decide +kernel

theorem witness_ackTimer : ((receiver (heard 10) (destFlow 5 true)).agent 0).dstFlow (destFlow 5 true).key = some (destFlow 5 true) ∧
    (((after (.ackTimerExpire (.agent 0) (destFlow 5 true).key) (receiver (heard 10) (destFlow 5 true))).agent 0).dsts.map
      (·.timer)) = [false] := by decide +kernel

/-! ## The endpoint interface, tree sums and barriers -/

/-- An endpoint agent with its rings on, one descriptor waiting, a table and an assignment to tenant 2. -/
def endpoint : Agent :=
  { live with
    eid := some 1, mgrEid := some 0x3F000, slot0 := { Slot.reset with state := .current, epoch := 1, routes := [(1, 0x20), (2, 0x20)] }
    keys := [(17, 9)], rings := { live.rings with en := true, injTail := 1, live := { live.rings.live with size := 0x44444 } } }

theorem witness_injectStops : (live.canRead = false ∧ endpoint.canRead = true) ∧
    endpoint.checkDesc { tagOnly with mode := 6 } [] = some 0x06 ∧
    ({ endpoint with keys := [] } : Agent).checkDesc { tagOnly with type := tShortMsg } [] = some 0x02 ∧
    ((after (.injectDescriptor 0 { tagOnly with mode := 6 } []) (at0 endpoint)).out.map fun e => match e with
      | .completion a i tag code _ _ _ => (a, i.toNat, tag.toNat, code.toNat)
      | _ => (9, 0, 0, 0)) = [(0, 0, 7, 6)] := by decide +kernel

theorem witness_injectSends : endpoint.checkDesc { tagOnly with type := tShortMsg, dest := 2 } [] = none ∧
    ((after (.injectDescriptor 0 { tagOnly with type := tShortMsg, dest := 2 } []) (at0 endpoint)).agent 0).rings.injHead = 1 ∧
    ((after (.injectDescriptor 0 { tagOnly with type := tShortMsg, dest := 2 } []) (at0 endpoint)).agent 0).srcs.length = 1 := by
  decide +kernel

/-- The agent's own part of a chunk. -/
def ownPart : Desc :=
  { tagOnly with mode := 4, type := bContrib, billet := true, pfmt := 8, plen := 1, inFmt := 8, dest := 2, rank := 1, collId := 6 }

/-- All 16 slots taken by chunks of another collective. -/
def noSlots : Agent := { endpoint with chunks := (List.range 16).map fun i => { openChunk 7 0 (BitVec.ofNat 32 i) 0 with slot := true } }

theorem witness_injectParts : endpoint.checkDesc ownPart [1] = none ∧ ownPart.mode = 4 ∧
    endpoint.chunkRoom 6 0 0 0 = true ∧ (∀ c ∈ endpoint.chunks, chunkMatches 6 0 0 0 c = true → c.own = none) ∧
    ((after (.injectDescriptor 0 ownPart [1]) (at0 endpoint)).agent 0).chunks.map (fun c => c.own.isSome) = [true] ∧
    noSlots.checkDesc ownPart [1] = none ∧ noSlots.canRead = true ∧ noSlots.chunkRoom 6 0 0 0 = false ∧
    (after (.injectDescriptor 0 ownPart [1]) (at0 noSlots)).agent 0 = noSlots := by decide +kernel

/-- A child's part of chunk 0. -/
def treePart : Pkt := mkBillet (common 0x008 1 2 1 bContrib) 0 { zeroHdr with pfmt := 8, plen := 1, collId := 6, rank := 3 } [1]

def doneChunk : ChunkRec :=
  { openChunk 6 0 0 0 with own := some { rank := 1, elems := List.replicate 64 5, ovf := 0, scale := 0 }, dest := 2, plen := 1 }

/-- A chunk that waits for child 3, with the parts given. -/
def openedChunk (parts : List Nat) : ChunkRec :=
  { doneChunk with children := [3], parts := parts.map fun r => { rank := BitVec.ofNat 12 r, elems := [1], ovf := 0, scale := 0 } }

theorem witness_treePart : takeFirst isTreePart ({ endpoint with inbox := [treePart] } : Agent).inbox = some (treePart, []) ∧
    (pktHdr treePart).map (fun h => (h.collId, h.rank)) = some (6, 3) ∧ [openedChunk []].find? (chunkMatches 6 0 0 0) = some (openedChunk []) ∧
    (openedChunk []).sent = none ∧ (openedChunk []).own.isSome = true ∧ (openedChunk []).children.contains 3 = true ∧
    (∀ x ∈ (openedChunk []).parts, x.rank ≠ 3) ∧ (∃ x ∈ (openedChunk [3]).parts, x.rank = 3) ∧
    ((after (.treePartReceive 0) (at0 { endpoint with inbox := [treePart], chunks := [openedChunk []] })).agent 0).chunks.map
      (fun c => c.parts.map (·.rank)) = [[3]] ∧
    ((after (.treePartReceive 0) (at0 { endpoint with inbox := [treePart], chunks := [openedChunk [3]] })).agent 0).chunks =
      [openedChunk [3]] := by
  decide +kernel

theorem witness_treeSum : ({ endpoint with chunks := [doneChunk] } : Agent).chunks.find? (Agent.sumReady { endpoint with chunks := [doneChunk] })
      = some doneChunk ∧ ({ endpoint with chunks := [doneChunk] } : Agent).chunks.find? ChunkRec.complete = some doneChunk ∧
    (after (.treeSumFormed 0) (at0 { endpoint with chunks := [doneChunk] })).out.length = 1 := by decide +kernel

theorem witness_swageSum : ({ elems := [2 ^ 31 - 1, 3], ovf := 0, scale := 0 } : Swage).elems.length = 2 ∧
    (addSwage { elems := [1, 3], ovf := 0, scale := 0 } { elems := [4, 5], ovf := 0, scale := 0 }).elems = [5, 8] := by decide +kernel

def noticed (tail : BitVec 64) : Agent :=
  { endpoint with room := [.notice 1 [7]], rings := { endpoint.rings with tdlvTail := tail } }

theorem witness_deliveries : (noticed 15).room = [.notice 1 [7]] ∧ (noticed 15).rings.tdlvRoom = true ∧
    ((after (.deliveryRoomResume 0) (at0 (noticed 15))).agent 0).room = [] ∧
    (∀ d ∈ (noticed 16).room, (noticed 16).roomFor d = false) ∧ endpoint.stalled = false ∧
    ({ endpoint with room := [.packet treePart] } : Agent).stalled = true ∧
    ((after (.dlvStall 0) (at0 { endpoint with room := [.packet treePart] })).agent 0).rings.intStat.getLsbD 7 = true := by decide +kernel

def guardWith (arrived : Bool) (passed : List (BitVec 32)) : Guard :=
  { barrier := 4, step := 9, fallback := 10, arrived := arrived, passed := passed, timed := false }

def guarded (x : Guard) (inbox : List Pkt) : Agent :=
  { endpoint with guards := [x], inbox := inbox, lapSync := { endpoint.lapSync with lap := 160 } }

def released (step : BitVec 128) : Pkt := tally 0x008 0x3F000 1 tPaceRelease 0 (4 + step * 2 ^ 32)

theorem witness_timedRelease : (guarded (guardWith true []) []).guardOf 4 = some (guardWith true []) ∧
    (guardWith true []).fallback ≠ 0 ∧ (guardWith true []).fallback.toNat ≤ (guarded (guardWith true []) []).lapNow.toNat / 16 ∧
    (((after (.timedRelease 0 4) (at0 (guarded (guardWith true []) []))).agent 0).guardOf 4).any (fun x => x.timed && x.passed == [9]) ∧
    (guardWith false []).arrived = false := by decide +kernel

theorem witness_paceRelease : takeFirst (fun p => !isBillet p && p.c.type == tPaceRelease) (guarded (guardWith true [9]) [released 9]).inbox
      = some (released 9, []) ∧ field (pktTally (released 9)) 0 32 = (4#32) ∧
    (guardWith true [9]).passed.contains (field (pktTally (released 9)) 32 32) = true ∧ seqLater 9 10 = false ∧
    (guardWith true [9]).passed.contains 10 = false ∧ seqLater 11 10 = true ∧ (guardWith true []).passed.contains 9 = false ∧
    ((after (.paceRelease 0) (at0 (guarded (guardWith true [9]) [released 9]))).agent 0).guards.map (·.step) = [10] ∧
    (after (.paceRelease 0) (at0 (guarded (guardWith true [9]) [released 9]))).out = [] := by decide +kernel

def queryIn : Pkt := tally mgrKey 0x3F000 1 tDiscoverQuery 0 (queryBody 1 0 5 0xFF 0x040).toNat

def asked (g : Agent) : Agent := { g with arrived := [{ port := 0, vc := 0, pkt := queryIn, hold := none, owed := true }] }

theorem witness_query : takeTally tDiscoverQuery (asked live).arrived = some ({ port := 0, vc := 0, pkt := queryIn, hold := none, owed := true }, []) ∧
    tallyGood queryIn = true ∧ queryIn.c.laneKey = mgrKey ∧ (asked live).eid = none ∧ (asked endpoint).eid = some 1 ∧
    ((after (.discoverQuery 0) (at0 (asked live))).agent 0).eid = some 5 ∧
    ((after (.discoverQuery 0) (at0 (asked endpoint))).agent 0).eid = some 1 := by decide +kernel

/-! ## The manager's operations at an agent -/

/-- An order of the manager with an operation and its arguments. -/
def order (op : BitVec 128) (args : BitVec 128) : Pkt := tally mgrKey 0x3F000 1 tCtrl 0 (op + args * 2 ^ 8)

def ordered (g : Agent) (p : Pkt) : Agent := { g with mgrEid := some 0x3F000, inbox := [p] }

def slotOf (st : SlotState) (e : BitVec 2) : Slot := { Slot.reset with state := st, epoch := e }

def slots (x y : Slot) : Agent := { endpoint with slot0 := x, slot1 := y }

theorem witness_flip : (ordered (slots (slotOf .staged 2) (slotOf .current 1)) (order 1 2)).nextOrder = some (order 1 2, []) ∧
    isTable (order 1 2) = false ∧ ctrlUnlisted (pktTally (order 1 2)) = false ∧ field (pktTally (order 1 2)) 0 8 = 0x01#8 ∧
    field (pktTally (order 1 2)) 8 2 = 2#2 ∧
    ((after (.tblFlip 0) (at0 (ordered (slots (slotOf .staged 2) (slotOf .current 1)) (order 1 2)))).agent 0).slot1 = slotOf .draining 1 ∧
    ((after (.tblFlip 0) (at0 (ordered (slots (slotOf .staged 2) (slotOf .current 1)) (order 1 3)))).agent 0).slot0 = slotOf .staged 2 ∧
    ((after (.tblFlip 0) (at0 (ordered (slots (slotOf .current 1) (slotOf .staged 2)) (order 1 2)))).agent 0).slot1 = slotOf .current 2 :=
  by decide +kernel

theorem witness_retire : ctrlUnlisted (pktTally (order 2 1)) = false ∧ field (pktTally (order 2 1)) 0 8 = 0x02#8 ∧
    ((after (.tblRetire 0) (at0 (ordered (slots (slotOf .draining 1) (slotOf .current 2)) (order 2 1)))).agent 0).slot0 = slotOf .staged 3 ∧
    ((after (.tblRetire 0) (at0 (ordered (slots (slotOf .draining 1) (slotOf .current 2)) (order 2 0)))).agent 0).slot0 = slotOf .draining 1 ∧
    ((after (.tblRetire 0) (at0 (ordered (slots (slotOf .current 2) (slotOf .draining 1)) (order 2 1)))).agent 0).slot1 = slotOf .staged 3 :=
  by decide +kernel

theorem witness_stateSeed : ctrlUnlisted (pktTally (order 3 0)) = false ∧ field (pktTally (order 3 0)) 0 8 = 0x03#8 ∧
    ctrlUnlisted (pktTally (order 4 3)) = false ∧ field (pktTally (order 4 3)) 0 8 = 0x04#8 ∧
    ((after (.tblSeed 0) (at0 (ordered live (order 4 3)))).agent 0).slot0 = slotOf .staged 3 ∧
    ((after (.tblSeed 0) (at0 (ordered endpoint (order 4 3)))).agent 0).slot0 = endpoint.slot0 := by decide +kernel

theorem witness_fence : ctrlUnlisted (pktTally (order 5 0xFFFFFFFF)) = false ∧ field (pktTally (order 5 0)) 0 8 = 0x05#8 ∧
    ((after (.fence 0) (at0 (ordered endpoint (order 5 1)))).agent 0).assignment = 11 ∧ endpoint.isSwitch = false ∧
    ({ endpoint with keys := [(16, 8)] } : Agent).keyEntry 16 ≠ 0 ∧
    ((after (.fence 0) (at0 (ordered { endpoint with keys := [(16, 8)] } (order 5 1)))).agent 0).fencedKeys = 8 ∧
    ((after (.fence 0) (at0 (ordered { endpoint with isSwitch := true } (order 5 1)))).agent 0).keys = endpoint.keys ∧ field (pktTally (order 6 0)) 0 8 = 0x06#8 ∧
    ctrlUnlisted (pktTally (order 6 0)) = false ∧
    ((after (.unfence 0) (at0 (ordered { endpoint with keys := [(17, 11)] } (order 6 1)))).agent 0).assignment = 9 := by decide +kernel

theorem witness_otherOps : ctrlUnlisted (pktTally (order 9 0x123456789ABCDEF0)) = false ∧ field (pktTally (order 9 5)) 0 8 = 0x09#8 ∧
    ((after (.ctlAdmit 0) (at0 (ordered endpoint (order 9 5)))).agent 0).stamp = 5 ∧
    field (pktTally (order 0xB 8)) 0 8 = 0x0B#8 ∧ ctrlUnlisted (pktTally (order 0xB 8)) = false ∧ (pktTally (order 0xB 8)).getLsbD 11 = true ∧
    ((after (.bridgeSet 0) (at0 (ordered endpoint (order 0xB 8)))).agent 0).bridge = [(0, 1)] ∧ { live with isSwitch := true }.isSwitch = true ∧
    field (pktTally (order 0xA (2 ^ 32))) 0 8 = 0x0A#8 ∧ (pktTally (order 0xA (2 ^ 32))).getLsbD 40 = true ∧
    ctrlUnlisted (pktTally (order 0xA (2 ^ 32))) = false ∧ (pktTally (order 0xA (2 ^ 31))).getLsbD 39 = true ∧
    (pktTally (order 8 1)).getLsbD 24 = false ∧ (field (pktTally (order 8 1)) 8 16).getLsbD 0 = true ∧ upPort.instW ≠ 0 ∧
    ((after (.portHold 0) (at0 (ordered { endpoint with ports := [(0, upPort.hold)] } (order 8 1)))).agent 0).ports.map
      (fun q => (q.2.held, q.2.state)) = [(false, .training)] ∧
    field (pktTally (order 7 0)) 0 8 = 0x07#8 ∧ ctrlUnlisted (pktTally (order 7 0)) = false ∧
    field (pktTally (order 8 0x10001)) 0 8 = 0x08#8 ∧ (pktTally (order 8 0x10001)).getLsbD 24 = true ∧
    (∀ i, i < 16 → (field (pktTally (order 8 0x10001)) 8 16).getLsbD i = true → i < endpoint.portCount) ∧
    ((after (.portHold 0) (at0 (ordered endpoint (order 8 0x10001)))).agent 0).ports.map (fun q => q.2.held) = [true, false] := by
  decide +kernel

def table (desc : List Byte) : Pkt := mkBillet (common mgrKey 0 0x3F000 1 bTable) 0 zeroHdr desc

/-- A TABLE billet that gives hub route entry 1 of an epoch, and one that gives run entry 2. -/
def routeTable (epoch : Byte) : Pkt := table ([0x01 + 16 * epoch, 0, 1, 0, 1, 0, 0, 0] ++ List.replicate 8 0 ++ [0x13])

def runTable : Pkt := table ([0x04, 0, 1, 0, 2, 0, 0, 0] ++ List.replicate 8 0 ++ [1, 0, 0, 0])

theorem witness_tableKinds : tableBad (tableDesc (pktPayload (routeTable 2))) (pktPayload (routeTable 2)) = false ∧
    (tableDesc (pktPayload (routeTable 2))).kind ≤ 3 ∧ (tableDesc (pktPayload (routeTable 2))).epoch = 2 ∧
    ((after (.tableBillet 0) (at0 (ordered (slots (slotOf .staged 2) (slotOf .current 1)) (routeTable 2)))).agent 0).slot0 ≠ slotOf .staged 2 ∧
    ((after (.tableBillet 0) (at0 (ordered (slots (slotOf .current 1) (slotOf .staged 2)) (routeTable 2)))).agent 0).slot1 ≠ slotOf .staged 2 ∧
    ((after (.tableBillet 0) (at0 (ordered (slots (slotOf .current 1) (slotOf .staged 2)) (routeTable 3)))).agent 0).rejected = 1 ∧
    tableBad (tableDesc (pktPayload runTable)) (pktPayload runTable) = false ∧ (tableDesc (pktPayload runTable)).kind = 4 ∧
    ((after (.tableBillet 0) (at0 (ordered endpoint runTable))).agent 0).runs.length = 1 := by decide +kernel

theorem witness_tables : (ordered endpoint (table [0x05, 0, 1, 0])).nextOrder.isSome = true ∧ isTable (table [0x05, 0, 1, 0]) = true ∧
    tableBad (tableDesc (pktPayload (table [0x05, 0, 1, 0]))) (pktPayload (table [0x05, 0, 1, 0])) = false ∧
    (tableDesc (pktPayload (table [0x05, 0, 1, 0]))).kind = 5 ∧
    tableBad (tableDesc (pktPayload (table [0x05, 0, 17, 0]))) (pktPayload (table [0x05, 0, 17, 0])) = true ∧
    ((after (.tableBillet 0) (at0 (ordered endpoint (table [0x05, 0, 17, 0])))).agent 0).rejected = 1 ∧
    ((after (.tableBillet 0) (at0 (ordered endpoint (table [0x05, 0, 1, 0])))).agent 0).rejected = 0 ∧
    ctrlUnlisted (pktTally (order 0xC 0)) = true ∧ (after (.unlistedCtrlOp 0) (at0 (ordered endpoint (order 0xC 0)))).agents.length = 1 := by
  decide +kernel

/-! ## The host interface -/

/-- PF0 as given, reached by the host. -/
def host (f : Fn) : State := { running with hif := { running.hif with fns := [(0, f)] } }

def shadowed (r e c : BitVec 64) : Fn := { Fn.reset true with shadow := { replyBase := r, eventBase := e, eventCfg := c } }

theorem witness_commit : (host (shadowed 0x4000 0x8000 6)).reaches 0 = true ∧ State.reset.reaches 0 = false ∧ (1#64).getLsbD 0 = true ∧
    ((after (.cfgCommit 0 1) (host (shadowed 0x4000 0x8000 6))).fn 0).committed = true ∧
    ((after (.cfgCommit 0 1) (host (shadowed 0x4000 0x7800 6))).fn 0).commitField = 4 ∧
    ((after (.cfgCommit 0 1) (host (shadowed 0x4000 0x3800 6))).fn 0).committed = true ∧
    ((after (.cfgCommit 0 1) (host (shadowed 0x4000 0x8000 5))).fn 0).commitField = 3 ∧
    ((after (.cfgCommit 0 1) (host (shadowed 0x4001 0x8000 6))).fn 0).commitField = 1 ∧
    ((after (.cfgCommit 0 2) (host (shadowed 0x4000 0x8000 6))).fn 0).committed = false := by decide +kernel

theorem witness_enables : (host (Fn.reset true)).reaches 0 = true ∧ ((host (Fn.reset true)).fn 0).committed = false ∧
    ((after (.cmdEnWrite 0 true) (host (Fn.reset true))).fn 0).enableErr = true ∧
    ((after (.evtEnWrite 0 true) (host { Fn.reset true with committed := true })).fn 0).evtEn = true := by decide +kernel

/-- A full ring of 64 entries with three events lost. -/
def lossy : Fn :=
  { Fn.reset true with evtEn := true, lostSince := 3, evtLost := 3, evTail := 63, live := { (Fn.reset true).live with eventCfg := 6 } }

theorem witness_lost : (host lossy).reaches 0 = true ∧ ((host lossy).fn 0).evtEn = true ∧ ((host lossy).fn 0).lostSince ≠ 0 ∧
    (((host lossy).fn 0).evTail + 1) % ((host lossy).fn 0).ring ≠ (1#64).toNat % ((host lossy).fn 0).ring ∧
    ((host (Fn.reset true)).fn 0).lostSince = 0 ∧ (after (.evtLostRead 0) (host lossy)).out = [.regRead 3] := by decide +kernel

theorem witness_pcieResets : (tget (host lossy).hif.fns 0).isSome = true ∧
    ((after (.functionLevelReset 0) (host lossy)).fn 0) = Fn.reset true := by decide +kernel

def gapped (due : Bool) : Fn := { Fn.reset true with irq1 := { gapOpen := true, due := due } }

theorem witness_irqGap : (host (gapped true)).ember.grant = true ∧ State.reset.ember.grant = false ∧
    tget (host (gapped true)).hif.fns 0 = some (gapped true) ∧ ((gapped true).irq 1).gapOpen = true ∧
    ((gapped true).irq 1).due = true ∧ ((gapped false).irq 1).due = false ∧ ((gapped true).irq 0).gapOpen = false ∧
    (after (.irqGapExpire 0 1) (host (gapped true))).out = [.msix 0 1] := by decide +kernel

theorem witness_registerWrites : ((host (Fn.reset true)).fn 0).cmdEn = false ∧
    ((after (.registerWrite (.bar0 0 0x4028 0xFFFFF)) (host (Fn.reset true))).fn 0).shadow.eventCfg = 0xFFF ∧
    tget ((after (.registerWrite (.window 0 0x3FFF [9])) (host (Fn.reset true))).fn 0).window 0x3FFF = some 9 ∧
    (after (.registerWrite (.bar0 0 0x4040 1)) (host (Fn.reset true))).hif = (host (Fn.reset true)).hif := by decide +kernel

theorem witness_moduleWrites : State.reset.pcieUp = false ∧ running.pcieUp = true ∧
    (tget (tile { upPort with idChanged := true }).link.ports 0).isSome = true ∧
    ((after (.registerWrite (.bar2 0 (2 ^ 25))) (tile { upPort with idChanged := true })).link.port 0).idChanged = false ∧
    (after (.registerWrite (.bar2 0x00F00040 0xFFFF)) running).trust.quoteTenant = 0x3FF ∧
    (after (.registerWrite (.vfs true 2)) (host lossy)).hif.fns.map (·.1) = [0, 1, 2] := by decide +kernel

def fromVf (c : Cmd) : Cmd := { c with src := .fn 1 }

theorem witness_commandChecks : (Instr.topoDiscover 3).hostOp = some (3, 0x0204#16) ∧
    (give (fromVf (cmdOf 0x0204 [] 0)) running).cmd 3 = some (fromVf (cmdOf 0x0204 [] 0)) ∧
    (give (fromVf (cmdOf 0x0204 [] 0)) running).mayStart (fromVf (cmdOf 0x0204 [] 0)) = true ∧
    (running.precheck (fromVf (cmdOf 0x0204 [] 0))).map (·.status) = some sDenied ∧ running.cmd 3 = none := by decide +kernel

theorem witness_unlisted : sourcesOf (cmdOf 0x0FFF [] 0).opcode = none ∧
    (give (cmdOf 0x0FFF [] 0) running).mayStart (cmdOf 0x0FFF [] 0) = true := by decide +kernel

/-- Session 1 is open. -/
def openSession : Session :=
  { id := 1, port := 0, source := 7, cred := some 0, events := false, opened := true, tongs := false, hello := [], draw := 0, inKey := 0, outKey := 0, ident := 0
    inCount := 0, outCount := 0, openAt := 0, pages := 0 }

def inSession (s : State) : State := { s with trust := { s.trust with sessions := [openSession] } }

/-- A command from session 1. -/
def sessionCmd (op : BitVec 16) (param : List Byte) (dataLen : Nat) : Cmd := { cmdOf op param dataLen with src := .session 1 }

theorem witness_replies : (give (sessionCmd 0x0101 [] 0) (inSession running)).cmd 3 = some (sessionCmd 0x0101 [] 0) ∧
    (inSession running).trust.sessions.filter (fun y => y.id == 1 && y.opened) = [openSession] ∧
    (inSession running).carries openSession = true ∧ running.ember.grant = true ∧ { cmdOf 1 [] 0 with mute := true }.mute = true ∧
    ((give (sessionCmd 0x0101 [] 0) (inSession running)).reply 3 (ok [])).out.length = 1 ∧
    (give (cmdOf 0x0101 [] 0) (host (Fn.reset true))).cmd 3 = some (cmdOf 0x0101 [] 0) ∧ (Fn.reset true).later = [] := by decide +kernel

/-! ## Power-on, the bellows and the restarts -/

/-- The module at a stage of power-on. -/
def staged (st : Stage) : State := { State.reset with boot := { State.reset.boot with stage := st, switchOn := true } }

theorem witness_powerOn : (staged .off).boot.stage = .off ∧ (staged .off).boot.switchOn = true ∧ (staged .grantWait).boot.stage = .grantWait ∧
    (staged .grantWait).ember.grant = false ∧ (after .powerOn (staged .off)).boot.stage = .grantWait ∧
    (after .powerOn (staged .off)).out = [.i3c 7 []] ∧ (after .grantQueryRetry (staged .grantWait)).out = [.i3c 7 []] ∧
    (after .fabricGrant (staged .grantWait)).boot.stage = .pllWait ∧ (after .standby (staged .grantWait)).boot.stage = .standby := by
  decide +kernel

theorem witness_grantTaken : (tile upPort).ember.grant = true ∧ ((after .standby (tile upPort)).link.port 0).width = 0 ∧
    (after .standby (tile upPort)).out.length = 2 := by decide +kernel

theorem witness_pllLock : (after .pllLock (staged .pllWait)).boot.stage = .fuseWait ∧
    (after .pllLock (staged .pllWait)).boot.strapsLatched = true ∧ (staged .fuseWait).boot.stage = .fuseWait := by
  decide +kernel

theorem witness_fuseMapGood : (after (.fuseMapLoaded [] (crc32c [])) (staged .fuseWait)).boot.stage = .bellows ∧
    (after (.fuseMapLoaded [0] (crc32c ((([0] : List (BitVec 32))).flatMap bvBytes))) (staged .fuseWait)).boot.stage = .fuseStop ∧
    (after (.fuseMapLoaded [] 1) (staged .fuseWait)).boot.stage = .fuseStop := by decide +kernel

def fused (a b : Option CfgSlot) : State :=
  { State.reset with boot := { State.reset.boot with fuseOk := true }, cfg := { State.reset.cfg with flashA := a, flashB := b } }

def slotWith (seq probe : Nat) : CfgSlot := CfgSlot.of seq { Stored.reset with probeS := probe }

theorem witness_validSlots (seq probe : Nat) : (slotWith seq probe).valid = true := Sys2Proof.Laws.slot_valid seq _

theorem witness_configRead : (fused none none).boot.configRead = false ∧ (fused none none).boot.fuseOk = true ∧
    (fused none none).cfg.flashA = none ∧ (fused none (some (slotWith 5 22))).cfg.flashB.map (·.seq) = some 5 ∧
    (slotWith 4 11).seq < (slotWith 5 22).seq ∧ ¬(slotWith 5 11).seq < (slotWith 5 22).seq := by decide +kernel

/-- The bellows at a wave, with sub-steps released. -/
def bellows (wave sub : Nat) (failed : Bool) : State :=
  { staged .bellows with boot := { (staged .bellows).boot with wave := wave, substep := sub, failedOnce := failed, fuseOk := true } }

/-- A standby whose one wave is at work. -/
def standingBy (sub : Nat) : State :=
  { staged .standby with boot := { (staged .standby).boot with fuseOk := true, substep := sub } }

theorem witness_standbyWave : (standingBy 1).bellowing = true ∧ (standingBy 1).boot.standbyWave = true ∧
    (after .bellowsSubstep (standingBy 1)).boot.substep = 2 ∧ (after .waveSettled (standingBy 2)).boot.standbyUp = true ∧
    (bellows 3 1 false).boot.standbyWave = false := by decide +kernel

theorem witness_bellows : (bellows 3 1 false).bellowing = true ∧ (bellows 3 1 false).boot.substep < subSteps 4 ∧
    (after .bellowsSubstep (bellows 3 1 false)).boot.substep = 2 ∧ (bellows 0 (subSteps 1) false).boot.substep = subSteps (0 + 1) ∧
    (after .waveSettled (bellows 0 (subSteps 1) false)).boot.wave = 1 ∧ (after .waveSettled (bellows 0 (subSteps 1) false)).boot.substep = 0 ∧
    (after .waveSettled (bellows 7 (subSteps 8) false)).boot.wave = 8 ∧
    (after (.waveFail 1) (bellows 3 1 false)).boot.retryWait = true ∧ (bellows 3 1 true).bellowing = true ∧
    (after (.waveFail 5) (bellows 3 1 true)).boot.haltRail = 5 := by decide +kernel

def retrying : State := { bellows 3 0 true with boot := { (bellows 3 0 true).boot with retryWait := true } }

theorem witness_bellowsWaits : retrying.boot.retryWait = true ∧ (bellows 1 0 false).waitsCoolant = true ∧
    (after .coolantWaitTimeout (bellows 1 0 false)).boot.haltRail = 6 ∧ (after (.coolantOk 100 30) (bellows 1 0 false)).boot.substep = 1 ∧
    (bellows 1 0 false).boot.stage ≠ .off := by decide +kernel

def tested (wave : Nat) (link compute : Bool) : State :=
  { bellows wave 0 false with boot := { (bellows wave 0 false).boot with configRead := true, linkTest := link, computeTest := compute } }

theorem witness_startUp : (tested 3 false false).boot.stage = .bellows ∧ (tested 3 false false).link.ports = [] ∧ running.boot.stage = .running ∧ 3 ≤ (tested 3 false false).boot.wave ∧
    (tested 3 false false).boot.linkTest = false ∧ (after (.linkTestDone [0x57]) (tested 3 false false)).boot.linkTest = true ∧
    (tested 8 true false).boot.wave = 8 ∧ (tested 8 true false).boot.computeTest = false ∧
    unitClass 0x21 ≠ 7 ∧ unitClass 0x57 = 7 := by decide +kernel

theorem witness_managerBegins : (tested 8 true true).boot.stage = .bellows ∧ (tested 8 true true).boot.computeHeld = false ∧
    (tested 8 true true).boot.partialReset = none ∧ (tested 8 true true).ember.takeover = false ∧
    (tested 8 true true).ember.streams = false ∧ (tested 8 true true).fw.activating = none ∧ (after .managerReady (tested 8 true true)).boot.stage = .running := by decide +kernel

def locked : State := { running with boot := { running.boot with pllLock := true, railFaults := [0] } }

theorem witness_diesStop : locked.boot.pllLock = true ∧ (after .lockLost locked).boot.stage = .pllWait ∧ running.boot.switchOn = true ∧
    (after (.inputFault 0 0) running).boot.stage = .off ∧ running.rcd.writing = none ∧ running.hif.cmds = [] ∧ running.boot.stage ≠ .off ∧ (after (.railFault 6 0) running).boot.stage = .off ∧
    (after (.railFault 5 0) locked).boot.stage = .railHeld ∧ (after (.railFault 1 0) running).boot.stage = .pllWait ∧
    (after (.thermalTrip 31 115) running).boot.stage = .tripped ∧ (after (.thermalTrip 31 114) running).boot.stage = .running ∧
    (after (.thermalTrip 32 100) running).boot.stage = .tripped := by decide +kernel

def cooled : State := { staged .tripped with boot := { (staged .tripped).boot with coolant := true } }

theorem witness_restart : cooled.boot.stage = .tripped ∧ cooled.boot.coolant = true ∧ (after .thermalTripRestart cooled).boot.restarts = 1 := by
  decide +kernel

def shedding : State := { running with boot := { running.boot with inputHigh := true, inputShed := true, activity := [(1, 50)] } }

theorem witness_governor : running.boot.wave = 8 ∧ shedding.boot.noRise = true ∧ shedding.boot.sheds = true ∧
    (tget shedding.boot.activity 1).getD 0 ≤ railRoom 1 := by decide +kernel

theorem witness_powerOrders : (after (.powerLimit false 4501) running).boot.inputHigh = true ∧
    (after (.powerLimit false 4500) running).boot.inputHigh = false ∧ (after (.powerLimit true 3801) running).boot.packShed = true ∧
    (after (.thermalThrottle 31 100) running).boot.throttled = [31] ∧ (after (.thermalThrottle 32 89) running).boot.throttled = [] ∧
    (after .coolantLost running).boot.idleOrder = true ∧ (staged .bellows).boot.wave < 2 ∧
    (after .coolantLost (staged .bellows)).boot.idleOrder = false := by decide +kernel

theorem witness_sideband : running.boot.stage ≠ .off ∧ running.ember.grant = true ∧ (staged .standby).ember.grant = false ∧
    (after .confirmReq { running with fw := { running.fw with noImage := false } }).out = [.i3c 0x0B [1]] ∧
    (after .confirmReq (staged .standby)).out = [] ∧ (after (.setdasa 9) running).boot.dynAddr = some 9 := by decide +kernel

/-! ## Partial resets -/

def cored (unplanned : List Nat) : State := { running with boot := { running.boot with computeTest := true, unplanned := unplanned } }

theorem witness_unplanned : (cored []).coresRun = true ∧ (cored []).boot.mgrReady = true ∧ State.reset.coresRun = false ∧
    roleUnit 1 (cored []).boot.badUnits 0 127 = some 127 ∧ (∀ role, role < 128 → roleUnit 1 (cored []).boot.badUnits 0 role ≠ some 135) ∧
    (after (.watchdogExpire 127) (cored [0])).boot.prPhase = 2 ∧ (after (.watchdogExpire 127) (cored [0, 0])).boot.computeHeld = true ∧
    (after (.watchdogExpire 135) (cored [0])).boot.prPhase = 0 ∧
    (after .managerStateUncorrectable (cored [])).boot.prCause = 3 ∧ (cored []).sweepSet = none := by decide +kernel

theorem witness_orderlyReset : ready (give (cmdOf 0x0103 [1] 0) running) 3 0x0103 (cmdOf 0x0103 [1] 0) = true ∧
    (cmdOf 0x0103 [1] 0).bit 32 0 = true ∧ ready (give (cmdOf 0x0103 [] 0) running) 3 0x0103 (cmdOf 0x0103 [] 0) = true ∧
    (cmdOf 0x0103 [] 0).bit 32 0 = false ∧ (after (.devPartialReset 3) (give (cmdOf 0x0103 [1] 0) running)).boot.prPhase = 1 ∧
    running.service = true ∧ (after .fabricImageSave running).ember.imageNo = 1 := by decide +kernel

/-- A partial reset in a phase. -/
def inPhase (p : Partial) (wave : Nat) (halted : Bool) : State :=
  { running with boot := { running.boot with paused := true, partialReset := some p, prPhase := p.phase, wave := wave, halted := halted } }

def phaseOf (n : Nat) (copy : Bool) : Partial := { phase := n, cause := 0, cmd := none, copy := copy, since := 0 }

theorem witness_phases : (inPhase (phaseOf 1 false) 8 false).boot.partialReset = some (phaseOf 1 false) ∧
    (inPhase (phaseOf 1 false) 8 false).ember.handover = false ∧ (inPhase (phaseOf 1 false) 8 false).ember.taking = none ∧
    (inPhase (phaseOf 1 false) 8 false).boot.paused = true ∧
    (after (.prPhaseEnd []) (inPhase (phaseOf 1 false) 8 false)).boot.prPhase = 2 ∧
    (after (.prPhaseEnd []) (inPhase (phaseOf 2 false) 8 false)).boot.prPhase = 3 ∧
    (after (.prPhaseEnd []) (inPhase (phaseOf 3 true) 8 false)).boot.partialReset = some (phaseOf 6 true) ∧
    (after (.prPhaseEnd []) (inPhase (phaseOf 4 false) 8 true)).boot.partialReset = some (phaseOf 5 false) ∧
    (inPhase (phaseOf 5 false) 8 false).mgr.jobs = [] := by decide +kernel

def reading : State := { inPhase (phaseOf 5 false) 8 false with mgr := { running.mgr with jobs := [{ steps := [.prEnd], waits := [], heat := none }] } }

theorem witness_readsDone : reading.boot.partialReset = some (phaseOf 5 false) ∧ reading.boot.halted = false ∧
    reading.mgr.jobs = [{ steps := .prEnd :: [], waits := [], heat := none }] := by decide +kernel

/-! ## Firmware -/

/-- The parameters of FW_PIECE: image, piece, count, bytes. -/
def pieceParam (image no count bytes : Nat) : List Byte := leBytes 4 image ++ leBytes 4 no ++ leBytes 4 count ++ leBytes 4 bytes

def pieceCmd (no count bytes : Nat) : Cmd := sessionCmd 0x0901 (pieceParam 7 no count bytes) 65536

def receiving (g : Option Staging) : State :=
  { running with fw := { running.fw with staging := g, record := { running.fw.record with roles := [.current, .fallback, .free] } } }

def half : Staging := { imageId := 7, count := 2, held := [(0, (0, []))], state := 1 }

theorem witness_pieces : ready (give (pieceCmd 0 2 65536) (inSession (receiving none))) 3 0x0901 (pieceCmd 0 2 65536) = true ∧
    (pieceFault (pieceCmd 2 2 5)).isSome = true ∧ ready (give (pieceCmd 2 2 5) (inSession running)) 3 0x0901 (pieceCmd 2 2 5) = true ∧
    pieceFault (pieceCmd 0 2 65536) = none ∧ pieceFault (pieceCmd 1 2 1) = none ∧
    (receiving none).fw.pieceBusy (pieceCmd 0 2 65536) = false ∧ (receiving (some half)).fw.pieceBusy (pieceCmd 0 3 65536) = true ∧
    (receiving (some half)).fw.pieceBusy (pieceCmd 0 2 65536) = false ∧ tget half.held ((pieceCmd 0 2 65536).num 36 4) = some (0, []) ∧
    2 ≤ (pieceCmd 0 2 65536).num 40 4 := by decide +kernel

theorem witness_fwQueries : ready (give (cmdOf 0x0902 [] 0) running) 3 0x0902 (cmdOf 0x0902 [] 0) = true ∧
    ready (give (sessionCmd 0x0904 [7] 0) (inSession (receiving (some half)))) 3 0x0904 (sessionCmd 0x0904 [7] 0) = true ∧
    half.imageId = BitVec.ofNat 32 ((sessionCmd 0x0904 [7] 0).num 32 4) ∧
    (receiving none).fw.staging.any (fun g => g.imageId == BitVec.ofNat 32 ((sessionCmd 0x0904 [7] 0).num 32 4)) = false := by decide +kernel

def verified : State := { running with fw := { running.fw with
  staging := some { half with state := 3 }, areas := [(2, List.replicate 8 0)]
  record := { running.fw.record with roles := [.current, .fallback, .staging], confirm := 0 } } }

theorem witness_activate : ready (give (sessionCmd 0x0903 [7] 0) (inSession verified)) 3 0x0903 (sessionCmd 0x0903 [7] 0) = true ∧
    (give (sessionCmd 0x0903 [7] 0) verified).activateFault (sessionCmd 0x0903 [7] 0) = none ∧
    ready (give (sessionCmd 0x0903 [8] 0) (inSession verified)) 3 0x0903 (sessionCmd 0x0903 [8] 0) = true ∧
    ((give (sessionCmd 0x0903 [8] 0) verified).activateFault (sessionCmd 0x0903 [8] 0)).isSome = true ∧
    verified.fw.record.areaOf .staging = some 2 := by decide +kernel

def confirming (health : Nat) : State :=
  { running with
    fw := { running.fw with record := { running.fw.record with roles := [.current, .fallback, .free], confirm := 1, deadline := 0 }, health := health
                            imageSaved := true, areas := [(1, [1])] }
    rcd := { running.rcd with running := true } }

theorem witness_health : (confirming 118).fw.record.confirm = 1 ∧ (confirming 118).fw.activating = none ∧
    (confirming 118).healthy true true = true ∧ (confirming 118).healthy false true = false ∧ (confirming 118).fw.health < 119 ∧
    119 ≤ (confirming 119).fw.health ∧ (after (.healthCheck true true) (confirming 118)).fw.health = 119 ∧
    (after (.healthCheck true false) (confirming 118)).fw.health = 0 := by decide +kernel

/-- The bits of the running image are burned, and the record is still to be written. -/
def burning : State := { confirming 0 with fw := { (confirming 0).fw with burning := some 3 } }

theorem witness_burning : burning.fw.burning = some 3 ∧ burning.fw.record.confirm = 1 ∧ burning.fw.activating = none ∧
    burning.fw.record.deadline ≤ burning.opS ∧ (confirming 0).fw.burning = none ∧
    (after (.healthCheck false false) burning).fw.record.confirm = 0 ∧ (after .fwDeadline burning).fw.record.confirm = 0 := by decide +kernel

theorem witness_deadline : (confirming 0).fw.record.deadline ≤ (confirming 0).opS ∧ (confirming 0).boot.partialReset = none ∧
    (confirming 0).boot.mgrReady = true ∧ (confirming 0).fw.imageIn .fallback = some [1] ∧ running.fw.record.confirm ≠ 1 := by
  decide +kernel

/-! ## Sessions, credentials and quotes -/

def anyCred : Cred := { valid := true, oid := 0, root := 1, seed := 2 }

/-- An index key with one record in area A that ends its block at `last`, and the next index `next`. -/
def keyAt (key : BitVec 8) (last next : Nat) : KeyIndex :=
  { KeyIndex.reset key with areaA := [(0, indexRec key 1 last)], posA := 1, next := next, fresh := false }

/-- A management port answers, credential entry 0 is set, and both keys hold a block of indices. -/
def enrolled : State :=
  { running with boot := { running.boot with pllLock := true }
                 trust := { running.trust with creds := [anyCred], identity := keyAt 1 1024 5, attest := keyAt 2 1024 5 } }

theorem witness_hello : enrolled.p0Up = true ∧ enrolled.ember.grant = true ∧ enrolled.reached .tongs = true ∧ (7 : BitVec 128) ∉ enrolled.trust.blocked ∧
    enrolled.trust.sessions.length < 16 ∧ enrolled.helloAllowed true 0 = true ∧ enrolled.helloAllowed false 1 = false ∧
    enrolled.trust.identity.take enrolled.skips = some (5, { keyAt 1 1024 5 with next := 6 }) ∧
    (keyAt 1 (2 ^ 60) (2 ^ 60 - 64)).take enrolled.skips = none ∧ (KeyIndex.reset 1).powerOn.take 0 =
      some (0, { KeyIndex.reset 1 with areaB := [(0, indexRec 1 1 1024)], posB := 1, next := 1, fresh := false }) ∧
    (7 : BitVec 128) ∈ ({ enrolled.trust with blocked := [7] } : Trust).blocked := by decide +kernel

theorem witness_managementPorts : enrolled.reached (.mgmt 0 (linkLocal 0)) = true ∧ enrolled.reached (.mgmt 2 0) = false ∧
    { enrolled with cfg := { enrolled.cfg with live := { enrolled.cfg.live with addrs := [(1, [9])] } } }.reached (.mgmt 1 9) = true := by
  have hp : enrolled.p0Up = true := by decide +kernel
  have hg : enrolled.ember.grant = true := by decide +kernel
  refine ⟨?_, by decide +kernel, ?_⟩
  · simp [State.reached, hp, hg]
  · have hq : ∀ c : Cfg, ({ enrolled with cfg := c } : State).p0Up = true := fun _ => hp
    simp [State.reached, tget, hg, hq]

def halfOpen : State := { enrolled with trust := { enrolled.trust with sessions := [{ openSession with opened := false }] } }

theorem witness_auth : halfOpen.session 1 false = some { openSession with opened := false } := by decide +kernel

theorem witness_blockedSource : (7 : BitVec 128) ∈ ({ (inSession enrolled).trust with blocked := [7] } : Trust).blocked ∧ openSession.source = 7 ∧
    (7 : BitVec 128) ∉ (inSession enrolled).trust.blocked := by decide +kernel

theorem witness_messages : (inSession enrolled).session 1 true = some openSession ∧
    (openSession.msgFault 4 { counter := 1, body := [], tag := 0, rsv := 0 }) = some 4 := by decide +kernel

theorem witness_credClear : enrolled.mgr.heats = [] ∧ (after .credClear (inSession enrolled)).trust.sessions = [] := by decide +kernel

theorem witness_tdGo : enrolled.pcieUp = true ∧ (1#64).getLsbD 0 = true ∧ enrolled.trust.quotes.length < 64 ∧
    enrolled.trust.mailPending = false ∧ 11628 ≤ ({ enrolled.trust with quoteLen := 11628 } : Trust).quoteLen.toNat ∧
    enrolled.trust.quoteLen.toNat < 11628 ∧ (after (.tdGo 1) enrolled).trust.lenErr = true ∧
    (after (.tdGo 1) { enrolled with trust := { enrolled.trust with quoteLen := 11628 } }).trust.quotes.length = 1 := by decide +kernel

def quoteCmd (len : Nat) : Cmd := cmdOf 0x0801 [] len

theorem witness_secQuote : ready (give (quoteCmd 11628) enrolled) 3 0x0801 (quoteCmd 11628) = true ∧
    ready (give (quoteCmd 11627) enrolled) 3 0x0801 (quoteCmd 11627) = true ∧
    ready (give (fromVf (quoteCmd 11628)) enrolled) 3 0x0801 (fromVf (quoteCmd 11628)) = true ∧
    ((after (.secQuote 3) (give (fromVf (quoteCmd 11628)) enrolled)).trust.quotes.map fun q => (q.fnNo, q.tenant)) = [(1, 0)] := by
  decide +kernel

def quoted (k : KeyIndex) : State :=
  { enrolled with trust := { enrolled.trust with quotes := [{ asker := .mailbox, nonce := 0, fnNo := 0xFFFF, tenant := 0 }], attest := k } }

theorem witness_quoteDone : (quoted enrolled.trust.attest).trust.quotes.length = 1 ∧ (enrolled.trust.attest.take enrolled.skips).isSome = true ∧
    (keyAt 2 (2 ^ 60) (2 ^ 60)).take enrolled.skips = none ∧
    (after (.quoteDone false) (quoted enrolled.trust.attest)).trust.dmaErr = true := by decide +kernel

/-- A quote that a command waits for. -/
def quoteFor (c : Cmd) : State :=
  give c { inSession enrolled with
    trust := { (inSession enrolled).trust with quotes := [{ asker := .cmd 3, nonce := 0, fnNo := 0, tenant := 0 }] } }

theorem witness_quoteOfCommand : (quoteFor (quoteCmd 11628)).cmd 3 = some (quoteCmd 11628) ∧ (quoteCmd 11628).mute = false ∧
    (quoteCmd 11628).src = .fn 0 ∧ (sessionCmd 0x0801 [] 11628).src = .session 1 ∧
    (quoteFor (sessionCmd 0x0801 [] 11628)).cmd 3 = some (sessionCmd 0x0801 [] 11628) ∧
    ((quoteFor (quoteCmd 11628)).trust.attest.take (quoteFor (quoteCmd 11628)).skips).isSome = true := by decide +kernel

def keyed (gens : List Nat) : State := { running with trust := { running.trust with gens := [(2, gens)] } }

def keyCmd (op : BitVec 16) : Cmd := cmdOf op [2] 0

theorem witness_rotation : ready (give (keyCmd 0x0802) (keyed [3])) 3 0x0802 (keyCmd 0x0802) = true ∧
    (keyCmd 0x0802).src.mayNameTenant ((keyCmd 0x0802).num 32 2) = true ∧ (keyed [3]).trust.live 2 = [3] ∧ (keyed [1, 0]).trust.live 2 = [1, 0] ∧
    ready (give (keyCmd 0x0802) (keyed [1, 0])) 3 0x0802 (keyCmd 0x0802) = true ∧ running.trust.live 2 = [] ∧
    ready (give (keyCmd 0x0802) running) 3 0x0802 (keyCmd 0x0802) = true ∧
    ready (give (keyCmd 0x0803) (keyed [3])) 3 0x0803 (keyCmd 0x0803) = true ∧
    ready (give (cmdOf 0x0804 [] 0) running) 3 0x0804 (cmdOf 0x0804 [] 0) = true := by decide +kernel

theorem witness_credSet : ready (give (sessionCmd 0x0805 [] 1152) (inSession running)) 3 0x0805 (sessionCmd 0x0805 [] 1152) = true ∧
    (credForm (List.replicate 1152 0) && credsOk (credsOf (List.replicate 1152 0))) = false ∧
    (credForm [] && credsOk (credsOf [])) = false := by decide +kernel

/-- The bytes of a credential set with one valid entry, an XMSS key. -/
def oneCred : List Byte := [1, 0, 0, 0] ++ bvBytes Config.oidXmss ++ List.replicate 1144 0

theorem oid_of_bytes (v : BitVec 32) : BitVec.ofNat 32 (natAt ([1, 0, 0, 0] ++ bvBytes v ++ List.replicate 1144 0) 4 4) = v := by
  have h : natAt ([1, 0, 0, 0] ++ bvBytes v ++ List.replicate 1144 0) 4 4 = v.toNat := by
    simp [natAt, leNat, bytesAt, bvBytes, List.range, List.range.loop, BitVec.extractLsb'_toNat, Nat.shiftRight_eq_div_pow]
    omega
  rw [h]; simp

theorem witness_goodCreds : credForm oneCred = true ∧ (credsOf oneCred).any (·.valid) = true ∧
    ((credsOf oneCred).tail.all fun c => !c.valid) = true := by decide +kernel

theorem witness_credsAccepted : credsOk (credsOf oneCred) = true := by
  have h0 : ((credsOf oneCred)[0]?.map (·.oid)) = some Config.oidXmss := by
    simp [credsOf, oneCred, List.range, List.range.loop]
    exact oid_of_bytes _
  cases hc : credsOf oneCred with
  | nil => simp [hc] at h0
  | cons c r =>
    have h1 := witness_goodCreds
    rw [hc] at h1 h0
    have hl : (c :: r).length = 16 := by rw [← hc]; simp [credsOf]
    simp only [List.getElem?_cons_zero, Option.map_some, Option.some.injEq] at h0
    simp only [List.tail_cons] at h1
    simp only [credsOk, hl, h1.2.1, List.all_cons, h0, Bool.and_eq_true]
    refine ⟨⟨by decide, trivial⟩, by simp, ?_⟩
    refine List.all_eq_true.mpr fun x hx => ?_
    have := List.all_eq_true.mp h1.2.2 x hx
    simp at this; simp [this]

/-! ## The event recorder -/

def recording (opS : BitVec 32) (start : Nat) : State :=
  { running with trust := { running.trust with operatingS := opS }
                 rcd := { running.rcd with running := true, win := { running.rcd.win with start := start } } }

theorem witness_window : (recording 3600 0).rcd.running = true ∧ (recording 3600 0).opS % 3600 = 0 ∧
    (recording 3600 0).opS ≠ (recording 3600 0).rcd.win.start ∧ (recording 0 0).boot.stage ≠ .off ∧
    (recording 0 0).rcd.win.hists = [] ∧ (after .recorderWindowClose (recording 3600 0)).rcd.win.start = 3600 := by decide +kernel

theorem witness_sample : (recording 0 0).takesSample { series := 1, unit := 0, value := 1 } = true := by decide +kernel

def readCmd (len : Nat) : Cmd := cmdOf 0x0A02 (List.replicate 16 0 ++ leBytes 4 2) len

theorem witness_recorderReads : ready (give (cmdOf 0x0A01 [] 0) running) 3 0x0A01 (cmdOf 0x0A01 [] 0) = true ∧
    ready (give (readCmd 128) running) 3 0x0A02 (readCmd 128) = true ∧ (readCmd 128).num 32 1 ≤ 1 ∧ (readCmd 128).num 48 4 = 2 ∧
    64 * (readCmd 128).num 48 4 ≤ (readCmd 128).dataLen := by decide +kernel

theorem witness_recClear : ready (give (sessionCmd 0x0A03 [3] 0) (inSession running)) 3 0x0A03 (sessionCmd 0x0A03 [3] 0) = true ∧
    ((inSession running).trust.sessions.find? fun x => x.id == 1) = some openSession ∧ openSession.cred = some 0 ∧
    (sessionCmd 0x0A03 [3] 0).num 32 1 = 3 := by decide +kernel

/-! ## The ember links -/

/-- A module whose ember links run, as the active. -/
def linked (e : Ember) : State :=
  { running with boot := { running.boot with pllLock := true }, ember := { e with up0 := true, paired := true } }

def active : Ember := { running.ember with active := true, state := .syncing, txNext := 5 }

def pkt (type : BitVec 8) (seq : Nat) : EmberPkt := { (emberPkt type 0 0 []) with seq := seq }

/-- A packet as it comes, with its CRC-64 and the hop check of its frame. -/
def sealed (p : EmberPkt) : EmberPkt :=
  let q := { p with crc := emberCrc p }
  { q with hop := emberHop q }

/-- A link whose credits are spent. -/
def dry : Ember := { active with credit0 := { active.credit0 with sent := 0xFFFF }, up1 := false }

theorem witness_emberSend : (linked active).emberOn = true ∧ (linked active).ember.link (pkt 2 0) = some 0 ∧ (linked dry).ember.link (pkt 2 0) = none ∧
    (after .emberSend (linked { dry with urgent := [pkt 2 0] })).ember.unacked = [] ∧
    (after .emberSend (linked { active with urgent := [pkt 2 0] })).ember.unacked = [pkt 2 5] ∧
    (after .emberSend (linked { active with image := [pkt 1 0] })).ember.txNext = 6 ∧
    (after .emberSend (linked { active with urgent := [pkt 0x0A 0] })).ember.grant = false ∧
    (after .emberSend (linked { active with pages := [pkt 3 0] })).ember.pages = [] ∧
    ((linked active).ember.credit 0).sent = 0 ∧
    ((after .emberSend (linked { active with urgent := [pkt 2 0] })).ember.credit 0).sent = 3 ∧ (linked active).ember.pages = [] := by decide +kernel

theorem witness_emberTimers : ({ active with ackTimer := true, rxNext := 1 } : Ember).rxNext ≠ 0 ∧
    (after .emberAckTimer (linked { active with ackTimer := true, rxNext := 1 })).out.length = 1 ∧
    (([pkt 2 4].find? fun p => p.seq == 4) = some (pkt 2 4)) ∧ (([pkt 2 4].find? fun p => p.seq == 3) = none) ∧
    (after (.emberResendExpire 4) (linked { active with unacked := [pkt 2 4] })).out.length = 1 ∧
    (after (.emberResendExpire 4) (linked { dry with unacked := [pkt 2 4] })).out = [] ∧
    (linked dry).ember.holds 0 ((linked dry).ember.answer 8 0) = false ∧ (linked active).ember.holds 0 ((linked active).ember.answer 8 0) = true ∧
    (after .emberHeartbeatSend (linked active)).out.length = 1 := by decide +kernel

def dark (st : Stage) : State :=
  { linked active with boot := { (linked active).boot with stage := st }, ember := { active with paired := true, up0 := false, up1 := false } }

theorem witness_emberLost : (linked active).ember.up0 = true ∧ (dark .standby).emberOn = true ∧ (dark .standby).ember.state ≠ .none ∧
    (dark .standby).ember.state ≠ .lost ∧ (dark .standby).ember.up0 = false ∧ (dark .standby).ember.up1 = false ∧
    (after .emberLostTimer (dark .standby)).out = [.i3c 9 []] ∧ (after .emberLostTimer (dark .running)).ember.state = .lost ∧
    ({ active with handover := true, grant := false, taking := some 3 } : Ember).taking.isSome = true ∧
    (after .takenTimeout (linked { active with handover := true, grant := false, taking := some 3 })).ember.takeBack = true := by decide +kernel

/-- A standby with ember state of its own. -/
def waitingBy (e : Ember) : State := { linked e with boot := { (linked e).boot with stage := .standby } }

def passive : Ember := { running.ember with grant := false, state := .ready }

theorem witness_standby : (waitingBy passive).boot.stage = .standby ∧ (sealed (pkt 1 0)).crc = emberCrc (sealed (pkt 1 0)) ∧
    (sealed (pkt 1 0)).hop = emberHop (sealed (pkt 1 0)) ∧ (pkt 1 0).crc ≠ emberCrc (pkt 1 0) ∧ (after (.fabric 0 (pkt 1 0)) (waitingBy passive)).ember.slotA.pieces = [] ∧ (waitingBy passive).emberOn = true ∧ (waitingBy passive).ember.paired = true ∧
    (waitingBy passive).ember.state ≠ .lost ∧ (waitingBy passive).ember.rxNext ≤ (pkt 1 0).seq ∧ (pkt 1 0).seq ∉ passive.rxAhead ∧
    passive.newest = none ∧ passive.slotA.number = (pkt 1 0).object ∧ (∀ y ∈ passive.slotA.pieces, y.1 ≠ (pkt 1 0).offset) ∧
    (after (.fabric 0 (sealed (pkt 1 0))) (waitingBy passive)).ember.slotA.pieces = [(0, [])] ∧
    (after (.journal 1 (sealed (pkt 2 0))) (waitingBy passive)).ember.journalRx = [sealed (pkt 2 0)] ∧
    (after (.journal 1 (sealed (pkt 2 0))) (waitingBy passive)).ember.rxNext = 1 ∧
    (tget (after (.page 0 (sealed (pkt 3 0))) (waitingBy passive)).ember.mirrorA 0).any (fun m => m.pages.length == 1) = true ∧
    (after (.config 0 (sealed (pkt 7 0))) (waitingBy passive)).ember.configRx = [sealed (pkt 7 0)] ∧
    (after (.handover 0 (sealed (pkt 0x0A 0))) (waitingBy passive)).ember.handover = true := by decide +kernel

def mirrored : Mirror := { step := 0, pages := [(0, [], 0)], count := 0, complete := false }

def oneStep : EmberPkt := sealed { (pkt 4 0) with offset := 1 }

theorem witness_standbySteps : tget ({ passive with mirrorA := [(0, mirrored)] } : Ember).mirrorA (objectHeat oneStep.object) = some mirrored ∧
    tget passive.mirrorB (objectHeat oneStep.object) = none ∧ mirrored.step = objectStep oneStep.object ∧ mirrored.complete = false ∧
    (tget (after (.stepDone 0 oneStep) (waitingBy { passive with mirrorA := [(0, mirrored)] })).ember.mirrorA 0).any (·.complete) = true ∧
    (pkt 5 0).type = 0x05 ∧ (pkt 6 0).type = 0x06 ∧
    tget (after (.keyDestroy 0 (sealed (pkt 6 0))) (waitingBy { passive with keys := [(0, 1), (4, 2)] })).ember.keys 4 = some 2 := by decide +kernel

def giving : Ember := { active with grant := false, handover := true, taking := some 3 }

theorem witness_activeHears : (linked active).boot.stage ≠ .standby ∧ (linked active).ember.state ≠ .lost ∧ (linked active).ember.waits = [] ∧
    (after (.heartbeat 1 (sealed (pkt 8 0))) (linked active)).ember.up1 = true ∧
    (∃ q ∈ [{ pkt 1 0 with last := true }], q.seq ≤ (pkt 9 0).object.toNat ∧ q.type = 0x01 ∧ q.last = true) ∧
    (after (.emberAck 0 (sealed (pkt 9 0))) (linked { active with unacked := [pkt 1 0, pkt 2 1] })).ember.unacked = [pkt 2 1] ∧
    (after (.emberAck 0 (sealed (pkt 9 0))) (linked { active with unacked := [pkt 1 0, pkt 2 1] })).ember.state = .ready ∧
    (linked giving).ember.rxNext ≤ (pkt 0x0B 0).seq ∧ (pkt 0x0B 0).seq ∉ (linked giving).ember.rxAhead ∧
    (after (.taken 0 (sealed (pkt 0x0B 0))) (linked giving)).boot.stage = .standby ∧
    (pkt 0x0B 0).seq < ({ giving with rxNext := 1 } : Ember).rxNext := by decide +kernel

theorem witness_redundancy : ready (give (cmdOf 0x0B01 [] 0) (linked active)) 3 0x0B01 (cmdOf 0x0B01 [] 0) = true ∧
    ready (give (cmdOf 0x0B02 [] 0) (linked active)) 3 0x0B02 (cmdOf 0x0B02 [] 0) = true ∧
    ready (give (sessionCmd 0x0B03 [1] 0) (inSession (linked { active with state := .ready }))) 3 0x0B03 (sessionCmd 0x0B03 [1] 0) = true ∧
    (sessionCmd 0x0B03 [1] 0).bit 32 0 = true ∧ active.taking = none ∧ active.state ≠ .ready ∧ active.state ≠ .behind ∧
    ready (give (sessionCmd 0x0B03 [1] 0) (inSession (linked active))) 3 0x0B03 (sessionCmd 0x0B03 [1] 0) = true ∧
    (after (.redTakeover 3) (give (sessionCmd 0x0B03 [1] 0) (inSession (linked { active with state := .behind })))).ember.taking = some 3 ∧
    ready (give (sessionCmd 0x0B04 [1] 0) (inSession running)) 3 0x0B04 (sessionCmd 0x0B04 [1] 0) = true ∧
    ready (give (sessionCmd 0x0B04 [0] 0) (inSession running)) 3 0x0B04 (sessionCmd 0x0B04 [0] 0) = true ∧ (sessionCmd 0x0B04 [0] 0).bit 32 0 = false ∧
    (give (sessionCmd 0x0B04 [1] 0) (inSession running)).trust.identity.next = 0 ∧
    (keyAt 1 (2 ^ 60) (2 ^ 60)).take 0 = none ∧
    ({ active with taking := some 4, state := .ready } : Ember).taking.isSome = true ∧
    (after (.redPairSet 3 0) (give (sessionCmd 0x0B04 [1] 0) (inSession running))).ember.paired = true := by decide +kernel

theorem witness_grantTakes : running.ember.grant = true ∧ (waitingBy passive).ember.grant = false ∧
    (after .fabricGrant (waitingBy passive)).ember.grant = true ∧ (after .fabricGrant (waitingBy passive)).boot.stage = .fuseWait ∧
    (linked { active with grant := false }).boot.stage = .running ∧
    (after .fabricGrant (linked { active with grant := false, takeBack := true })).ember.takeBack = false := by decide +kernel

/-! ## Host commands -/

/-- A pod of one endpoint and one switch. -/
def pod : InstRecord :=
  { ex := 1, ey := 1, ez := 1
    agents := [{ strap := 0x040, isSwitch := false, x := 0, y := 0, z := 0 }, { strap := 0x041, isSwitch := true, x := 0, y := 0, z := 0 }]
    edges := [{ sw := 1, port := 0, width := 8, far := .entry 0 6 }, { sw := 1, port := 1, width := 8, far := .chrohar 0 }]
    links := [{ link := 0, split := 0, ports := [(.entry 1 1, 2)] }], minDefault := 2, minOver := [], spares := .none, quadN := 0, peers := [] }

def serving : Entry := { Entry.fresh with service := .inService, reached := true, stamp := some 7 }

/-- The pod in service. -/
def fabric : State :=
  { tile { upPort with nbrSeen := true, nbr := { strap := 0x041, port := 1, kind := 1 } } with
    mgr := { running.mgr with fabricState := 2, record := some pod, entries := [(0, serving), (1, serving)], widths := [(6, 8), (16, 8), (17, 8)] } }

theorem witness_podKeepsTheLimits : pod.good 0 = true ∧ { pod with ex := 2 }.good 0 = false := by decide +kernel

/-- A command of PF0 that waits, may start and passes its checks. -/
def okAsk (op : BitVec 16) (param : List Byte) (s : State) : Bool := ready (give (cmdOf op param 0) s) 3 op (cmdOf op param 0)

/-- The same with a data buffer. -/
def okSend (op : BitVec 16) (param : List Byte) (len : Nat) (s : State) : Bool := ready (give (cmdOf op param len) s) 3 op (cmdOf op param len)

theorem witness_queries : okAsk 0x0101 [] running ∧ okAsk 0x0102 [] running ∧ okAsk 0x0104 [] running ∧ okAsk 0x0203 [1] running ∧
    okAsk 0x0208 [1] fabric ∧ fabric.hasEntry 1 = true ∧ fabric.hasEntry 2 = false ∧ okAsk 0x0303 [] running ∧ okAsk 0x0405 [0, 0] fabric ∧
    okAsk 0x0406 [5] running ∧ okAsk 0x0408 [5] running ∧ okAsk 0x0505 [5] running ∧ okAsk 0x0601 [5] running ∧
    okAsk 0x0605 [0, 0] running ∧ okAsk 0x0701 [] running ∧ (Source.fn 0).mayNameTenant 5 = true ∧ (Source.fn 1).mayNameTenant 5 = false ∧
    ready (give { cmdOf 0x0408 [5] 0 with src := .fn 1 } running) 3 0x0408 { cmdOf 0x0408 [5] 0 with src := .fn 1 } ∧
    ready (give { cmdOf 0x0505 [5] 0 with src := .fn 1 } running) 3 0x0505 { cmdOf 0x0505 [5] 0 with src := .fn 1 } ∧
    ready (give { cmdOf 0x0601 [5] 0 with src := .fn 1 } running) 3 0x0601 { cmdOf 0x0601 [5] 0 with src := .fn 1 } := by decide +kernel

/-- The result bytes of a query from a session. -/
def answer (i : Instr) (op : BitVec 16) (param : List Byte) (s : State) : List Byte :=
  (after i (give (sessionCmd op param 0) (inSession s))).out.flatMap fun e => match e with
    | .sessionMsg _ _ b _ => b.drop 32
    | _ => []

theorem witness_queryBytes : natAt (answer (.topoEntryQuery 3) 0x0208 [1] fabric) 8 8 = 7 ∧
    natAt (answer (.routeQuery 3) 0x0303 [] { running with cfg := { running.cfg with live := { running.cfg.live with drainUs := 77 } } }) 4 4 = 77 ∧
    natAt (answer (.tenantGet 3) 0x0408 [5] { running with cfg := { running.cfg with live := { running.cfg.live with tenants := [(5, 7)] } } }) 8 8 = 7 := by
  decide +kernel

/-- A write of the configuration is under way. -/
def writing (s : State) : State :=
  { s with cfg := { s.cfg with writing := some { seq := 4, body := s.cfg.live }, writeCmds := [{ cmd := 1, result := [] }] } }

theorem witness_settings : okAsk 0x0207 [30] running ∧ okAsk 0x0302 [100] running ∧
    okAsk 0x0407 [5, 0, 0, 0, 0, 0, 0, 0, 7] running ∧ okAsk 0x0702 [1] running ∧ okAsk 0x0702 [0, 2] running ∧ okAsk 0x0207 [30, 0, 0, 0, 1] running = false ∧
    (cmdOf 0x0207 [30] 0).num 32 4 = 30 ∧ (cmdOf 0x0302 [100] 0).num 32 4 = 100 ∧ (cmdOf 0x0702 [0, 2] 0).num 32 4 = 512 ∧
    recGood 7 = true ∧ recGood 8 = false ∧ recEnabled 7 = true ∧
    cacheUse (running.mem.cache.filter running.pinned) ≤ 1 * gibPages ∧
    1 * gibPages ≤ ((List.range 16).map (running.mem.placeable .c)).sum := by decide +kernel

theorem witness_configWrite : (writing running).cfg.writing.isSome = true ∧ running.cfg.writing = none ∧
    (after (.configWriteDone true) (writing running)).cfg.seq = 4 ∧ (writing running).cfg.nextCmds = [] ∧
    (after (.routeDrainSet 3) (give (sessionCmd 0x0302 [100] 0) (inSession running))).cfg.live.drainUs = 100 ∧
    (after (.topoProbeSet 3) (give (sessionCmd 0x0207 [30] 0) (inSession running))).cfg.live.probeS = 30 := by decide +kernel

theorem witness_records : okSend 0x0201 [4] 8 running ∧ okAsk 0x0202 [] running ∧ okSend 0x0105 [1] 8 running ∧ running.mgr.heats = [] ∧
    (cmdOf 0x0201 [4] 8).dataLen ≤ 1048576 ∧ (cmdOf 0x0105 [1] 8).bit 32 0 = true ∧ (cmdOf 0x0105 [1] 8).dataLen + 32 ≤ 1048576 ∧
    tget (after (.topoRecWrite 3 []) (give { sessionCmd 0x0201 [4] 2 with data := [5, 6] } (inSession running))).cfg.shadow 5 = some 6 ∧
    running.bufferFails (sessionCmd 0x0201 [4] 2) = false ∧
    (after (.devCalWrite 3 [5, 6]) (give (sessionCmd 0x0105 [1] 2) (inSession running))).cfg.calFactory = false := by decide +kernel

/-- A heat of the pod's endpoint. -/
def heat0 : Heat := { carveHeat 0x0000_0000_0010_8402 1 (0, 0, 0) [0, 0, 0] with assigned := true }

/-- The fabric with a heat. -/
def heated (h : Heat) : State := { fabric with mgr := { fabric.mgr with heats := [(0, h)] } }

/-- The fabric with an entry 0 of that service. -/
def entered (v : Service) : State := { fabric with mgr := { fabric.mgr with entries := [(0, { serving with service := v }), (1, serving)] } }

def stored : State := { running with cfg := { running.cfg with live := { running.cfg.live with record := some pod } } }

theorem witness_topology : okAsk 0x0204 [] running ∧ okAsk 0x0301 [] fabric ∧ okAsk 0x0209 [0] fabric ∧ okAsk 0x0209 [4] fabric ∧
    okAsk 0x0209 [9] fabric ∧ okAsk 0x0205 [0, 0, 1] fabric ∧ okAsk 0x0206 [0] fabric ∧ okAsk 0x0204 [] (heated heat0) ∧
    okAsk 0x0204 [] stored ∧ okAsk 0x0206 [0] (entered .outOfService) ∧
    (heated heat0).mgr.heats ≠ [] ∧ running.cfg.live.record = none ∧ stored.cfg.live.record.isSome = true ∧ stored.mgr.fabricState ≠ 1 ∧
    (after (.topoDiscover 3) (give (cmdOf 0x0204 [] 0) stored)).mgr.fabricState = 1 ∧
    running.outOfFabric = some sTopology ∧ fabric.outOfFabric = none ∧ tget fabric.link.ports 9 = none ∧
    (fabric.link.port 4).isUp = false ∧ (tget fabric.link.ports 4).isSome = true ∧ (fabric.link.port 0).isUp = true ∧
    fabric.retraining 0 = false ∧ fabric.hasEntry 0 = true ∧ fabric.hasEntry 5 = false ∧ (cmdOf 0x0205 [0, 0, 1] 0).bit 34 0 = true ∧
    (fabric.entry 0).service = .inService ∧ ((entered .failedForwarding).entry 0).service = .failedForwarding ∧
    ((entered .repairHeld).entry 0).service = .repairHeld ∧ ((entered .outOfService).entry 0).service = .outOfService ∧
    ((after (.topoReadmit 3) (give (cmdOf 0x0206 [0] 0) (entered .repairHeld))).entry 0).service = .outOfService := by decide +kernel

theorem witness_heatCommands : okAsk 0x0401 [2, 0x84, 0x10] fabric ∧ okAsk 0x0402 [0] fabric ∧ okAsk 0x0403 [0] fabric ∧
    okAsk 0x0404 [0] fabric ∧
    (after (.heatCarve 3) (give (cmdOf 0x0401 [2, 0x84, 0x10] 0) fabric)).mgr.queue.map (·.op) = [.carve 0x108402 none] := by
  decide +kernel

def withQueue (op : HeatOp) (records : Tab (BitVec 64)) (s : State) : State :=
  { s with mgr := { s.mgr with queue := [{ op := op, seq := 4, cmd := some 3, records := records }] } }

/-- Tenant 2 enabled, one heat and 16 endpoints. -/
def enabledTwo : Tab (BitVec 64) := [(2, 0x0000001000010007)]

theorem witness_heatQueue : fabric.mgrRuns = true ∧ fabric.mgr.queue = [] ∧ fabric.mgr.jobs = [] ∧
    carveWordBad 0x108402 = false ∧ carveWordBad (1#64 <<< 60) = true ∧ carveBad pod 0x108402 = false ∧ fabric.mgr.fabricState = 2 ∧
    running.mgr.fabricState ≠ 2 ∧ running.mgr.fabricState ≠ 3 ∧ fabric.mgr.record = some pod ∧
    { running.mgr with record := some pod }.record = some pod ∧
    recEnabled (tenantRec ([] : Tab (BitVec 64)) (carveTenant 0x108402)) = false ∧ fabric.carveChecks (some (.fn 0)) enabledTwo 0x108402 = none ∧
    (fabric.net.bind fun n => (fabric.placing n enabledTwo).search 0x108402 4).isSome = true ∧
    ((fabric.cmd 3).map (·.src)) = none ∧ tget fabric.mgr.heats 0 = none ∧
    ((after .heatQueueHead (withQueue (.carve 0x108402 none) enabledTwo fabric)).mgr.heats.map (·.1)) = [0] ∧
    (after .heatQueueHead (withQueue (.release 0 false) enabledTwo fabric)).mgr.queue = [] ∧
    (after .heatQueueHead (withQueue (.fence 0 0) enabledTwo fabric)).mgr.queue = [] ∧
    ({ fabric.mgr with jobs := [{ steps := [], waits := [.drain], heat := none }] }).jobs ≠ [] := by decide +kernel

/-- A job in hand, with what it waits for. -/
def busyWith (w : List Wait) (s : State) : State := { s with mgr := { s.mgr with jobs := [{ steps := [], waits := w, heat := none }] } }

theorem witness_sharedEpoch : (busyWith [.drain] fabric).joins (.carve 0x108402 none) = false ∧
    (busyWith [.compute false] fabric).joins (.carve 0x108402 none) = true ∧ (busyWith [.drain] fabric).computing = false ∧
    (busyWith [.compute false] fabric).joins (.release 0 false) = true ∧ (busyWith [.drain] fabric).mgr.jobs ≠ [] ∧
    (after .heatQueueHead (busyWith [.drain] (withQueue (.carve 0x108402 none) enabledTwo fabric))).mgr.heats = [] ∧
    ((after .heatQueueHead (busyWith [.compute false] (withQueue (.carve 0x108402 none) enabledTwo fabric))).mgr.heats.map (·.1)) = [0] ∧
    (after .heatQueueHead (busyWith [.compute false] (withQueue (.release 0 false) enabledTwo fabric))).mgr.queue = [] ∧
    (after .heatQueueHead (busyWith [.compute false] (withQueue (.unfence 0 0) enabledTwo fabric))).mgr.queue.length = 1 := by
  decide +kernel

/-- One collective of 64 elements in chunks of 64, with an update section. -/
def coll9 : CollDesc :=
  { collId := 9, kind := 0, op := 0, inFmt := 0, outFmt := 0, path := 0, scale0 := 0, scaleStep := 0, outScale := 0, chunkPlen := 8
    cruBase := 0, elements := 64, tree := [], groups := [], owners := [0], rsv := 0 }

def upd : UpdateSec :=
  { forgeColl := 9, hearthBase := 0, gradFmt := 0, woutFmt := 0, clip := true, lsDynamic := false, skipNonfinite := false, lsExp := 0
    lsInterval := 0, clipMax := 0x3F800000, saveEvery := 0, sched := [], progs := [], rsv := 0
    segs := [{ first := 0, count := 64, program := 0, momFmt := 0, userProg := 0, rows := 0, cols := 0, consts := [], rsv := 0 }] }

def image9 : PlanImage :=
  { magic := 0, format := 1, compilerVer := 0, spliceOk := false, stateless := false, tierCOk := false, timed := false, imageBytes := 4096
    kx := 1, ky := 1, kz := 1, ringNeed := 0, resendUs := 100, stepPeriod := 0, colls := [coll9], groupCount := 0, pods := [], runs := []
    update := some upd, hash := 5, rsv := 0 }

def plan9 (held : Bool) : Plan :=
  { image := image9, opens := [], stochastic := false, seed := 0, resume := 3, held := held
    place := { p := [], b := [], c := [], save := [] }, lsExp := 0, applied := 0, streak := 0, lastNorm := 0, flags := 0, decision := none
    openStep := 4, elems := [], rowStat := [], colStat := [], lastSaved := none, saving := none, before := none, slot := false }

/-- The fabric with a heat whose plan is held, or runs. -/
def planned (held : Bool) : State := heated { heat0 with plan := some (plan9 held), state := 1 }

/-- An image in tenant 2's cache. -/
def cached (s : State) : State := { s with mem := { s.mem with cache := [{ tenant := 2, image := image9, order := 0, gen := 0 }] } }

/-- PLAN_LOAD_CACHED of heat 0 and hash 5. -/
def loadParam : List Byte := List.replicate 32 0 ++ [5]

theorem witness_planLoads : okAsk 0x0502 loadParam fabric ∧ okSend 0x0501 [0, 0] 4096 fabric ∧ (cmdOf 0x0502 loadParam 0).hash 64 = 5 ∧
    okAsk 0x0502 loadParam (planned true) ∧ okSend 0x0501 [0, 0] 4096 (planned true) ∧ okAsk 0x0502 loadParam (cached (heated heat0)) ∧
    okAsk 0x0502 loadParam (cached (planned true)) ∧ okSend 0x0501 [0, 0] 4096 (heated heat0) ∧
    fabric.heatFor (.fn 0) 0 = none ∧ (heated heat0).heatFor (.fn 0) 0 = some heat0 ∧ heat0.plan = none ∧
    (heated heat0).loading 0 = false ∧ (heated heat0).net.isSome = true ∧
    (((cached (heated heat0)).mem.cache.find? fun e => e.tenant == heat0.tenant && e.image.hash == 5).isSome = true) ∧
    (fabric.mem.cache.find? fun e => e.tenant == heat0.tenant && e.image.hash == 5) = none ∧
    ((planned true).heatFor (.fn 0) 0).any (·.plan.isSome) = true ∧ (cmdOf 0x0502 loadParam 0).num 35 1 ≤ 1 := by decide +kernel

theorem witness_planControls : okAsk 0x0503 [] (planned true) ∧ okAsk 0x0503 [] (planned false) ∧ okAsk 0x0504 [] (planned false) ∧
    okAsk 0x0504 [] (heated heat0) ∧ ((planned true).heatFor (.fn 0) 0).any (·.heldPlan) = true ∧
    ((planned false).heatFor (.fn 0) 0).any (·.heldPlan) = false ∧ (planned true).loading 0 = false := by decide +kernel

/-- Element 1 alone. -/
def oneElem : List Byte := [0, 0, 0, 0, 0, 0, 0, 0, 1, 0, 0, 0, 0, 0, 0, 0, 1]

/-- A load for heat 0 is under way. -/
def beingLoaded (s : State) : State :=
  { s with mem := { s.mem with loads := [{ heat := 0, cmd := none, result := [], enter := false, resume := none, hold := true, waiting := true, restart := none }] } }

theorem witness_busyLoads : (beingLoaded (planned true)).loading 0 = true ∧ okAsk 0x0504 [] (beingLoaded (planned true)) ∧
    okAsk 0x0502 loadParam (beingLoaded (heated heat0)) ∧ okSend 0x0501 [0, 0] 4096 (beingLoaded (heated heat0)) ∧
    okSend 0x0603 oneElem 4 (beingLoaded (planned true)) ∧ okAsk 0x0504 [] (heated { heat0 with state := 3 }) ∧ heat0.state ≠ 3 ∧
    ((heated { heat0 with state := 3 }).heatFor (.fn 0) 0).map (·.state) = some 3 ∧ (plan9 true).lastSaved = none := by decide +kernel

theorem witness_stateMoves : okSend 0x0603 oneElem 4 (planned true) ∧ okSend 0x0604 oneElem 4 (planned true) ∧
    (planned true).heatFor (.fn 0) 0 = some { heat0 with plan := some (plan9 true), state := 1 } ∧
    ((planned true).forgeOf 0).isSome = true ∧
    ((planned true).forgeOf 0).all (fun f => f.rangeFault (cmdOf 0x0603 oneElem 4) = none && f.rangeBytes (cmdOf 0x0603 oneElem 4) == 4) = true ∧
    ((planned true).forgeOf 0).all (fun f => f.rangeFault (cmdOf 0x0603 [] 4) != none) = true ∧
    (cmdOf 0x0603 oneElem 4).num 34 1 = 0 ∧ (cmdOf 0x0603 oneElem 4).num 48 8 = 1 ∧ (cmdOf 0x0603 oneElem 4).num 40 8 = 1 ∧
    (cmdOf 0x0604 oneElem 4).num 56 8 = 0 ∧ okSend 0x0603 [] 4 (planned true) ∧ okSend 0x0604 [] 4 (planned true) ∧
    ((planned true).forgeOf 0).all (fun f => f.plan.lastSaved.isNone) = true ∧
    (heated heat0).exportFrom heat0 0 = none ∧ (heated heat0).exportFrom heat0 3 = none ∧
    (heated heat0).exportFrom { heat0 with plan := some (plan9 true) } 0 = some (none, image9) ∧
    imageForge image9 = some (coll9, upd) ∧ imageForge { image9 with update := none } = none ∧
    rangeFault coll9 upd (cmdOf 0x0604 oneElem 4) = none ∧ (rangeFault coll9 upd (cmdOf 0x0604 [] 4)).isSome = true ∧
    rangeBytes upd (cmdOf 0x0604 oneElem 4) = 4 ∧
    (({ plan9 true with lastSaved := some ((plan9 true).snapshot 2 3) } : Plan).lastSaved).isSome = true := by decide +kernel

/-! ## Frames -/

def frameIn (p : Pkt) (fecOk atFsp : Bool) : Frame :=
  { word := (frameOf p 0 0).1, pkt := p, hop := (frameOf p 0 0).2, fecOk := fecOk, atFsp := atFsp }

/-- The frame passes every check of R61. -/
def goodFrame (f : Frame) : Bool :=
  f.fecOk && fwOk f.word && fwKind f.word == 0 && f.hop == hopCheck f.word f.pkt && fwLen f.word == pktCells f.pkt &&
    (fwVc f.word).getLsbD 1 == isBillet f.pkt

def resyncing : Port := { upPort with resync := true }

def agentWith (q : Port) : State := at0 { live with eid := some 1, mgrEid := some 0x3F000, ports := [(0, q)] }

def toHub : Pkt := tally mgrKey 1 0x3F000 tLinkEvent 4 0

theorem witness_frameIn : goodFrame (frameIn (message 4) true false) = true ∧ goodFrame (frameIn (message 4) false false) = false ∧
    goodFrame { frameIn (message 4) true false with hop := 0 } = false ∧ ((agentWith upPort).agent 0).inReset = false ∧
    (((agentWith upPort).agent 0).port 0).isUp = true ∧ (((agentWith { upPort with state := .noLane }).agent 0).port 0).isUp = false ∧
    (((agentWith resyncing).agent 0).port 0).resync = true ∧ (frameIn (message 4) true false).atFsp = false ∧
    keyAllowed (((agentWith upPort).agent 0).keyEntry 0) (message 4).c.laneKey = false ∧
    (((after (.frameReceive (.agent 0) 0 (frameIn (message 4) false false)) (agentWith upPort)).agent 0).port 0).errCount = 1 ∧
    (((after (.frameReceive (.agent 0) 0 (frameIn (message 4) true false)) (agentWith upPort)).agent 0).port 0).fenceFirst = 0x008 ∧
    (((after (.frameReceive (.agent 0) 0 (frameIn (message 4) true false)) (agentWith resyncing)).agent 0).port 0).fenceDrops = 0 := by
  decide +kernel

theorem witness_frameInTiles : (tile upPort).hasPort .chrohar 0 = true ∧ ((tile upPort).link.port 0).isUp = true ∧
    goodFrame (frameIn toHub true false) = true ∧ (tile upPort).link.allows 0 toHub.c.laneKey = true ∧
    (tile upPort).isOwnHub toHub.c.dst = true ∧ toHub.c.mcast = false ∧
    ((after (.frameReceive .chrohar 0 (frameIn toHub true false)) (tile upPort)).hub.arrived.map (·.pkt)) = [toHub] := by decide +kernel

/-- The same with five cells lost before it. -/
def afterLoss (p : Pkt) : Frame := { frameIn p true false with word := (frameOf p 0 5).1, hop := (frameOf p 0 5).2 }

theorem witness_lostCells : goodFrame (afterLoss (message 4)) = true ∧ goodFrame (afterLoss toHub) = true ∧
    fwSent (afterLoss toHub).word = upPort.vcs.t0.received + BitVec.ofNat 16 5 ∧ fwSent (afterLoss (message 4)).word = 5 ∧
    (((after (.frameReceive (.agent 0) 0 (afterLoss (message 4))) (agentWith upPort)).agent 0).port 0).vcs.t0.freed = 7 ∧
    ((after (.frameReceive .chrohar 0 (afterLoss toHub)) (tile upPort)).link.port 0).vcs.t0.freed = 5 ∧
    ((after (.frameReceive .chrohar 0 (afterLoss toHub)) (tile upPort)).link.port 0).vcs.t0.received = 7 := by decide +kernel

def frameOut (p : Pkt) : QFrame := { pkt := p, vc := 0, void := false, origin := none, hold := none }

/-- A port with frames that wait. -/
def lined (q : List QFrame) : Port := { upPort with queue := q }

/-- The same with every credit of T0 spent. -/
def spent (q : List QFrame) : Port := { lined q with vcs := { upPort.vcs with t0 := { upPort.vcs.t0 with sent := 60000 } } }

theorem witness_frameOut : (lined [frameOut (message 4)]).isUp = true ∧ (lined [frameOut (message 4)]).ready (frameOut (message 4)) = true ∧
    (spent [frameOut (message 4)]).ready (frameOut (message 4)) = false ∧ lineOf (frameOut (message 4)) = 0 ∧
    (lined []).queue = [] ∧ ({ lined [frameOut (message 4)] with state := .noLane } : Port).isUp = false ∧
    (((after (.frameSend (.agent 0) 0) (agentWith { lined [frameOut (message 4)] with state := .noLane })).agent 0).port 0).queue = [] ∧
    (lined []).tallyTurn = false ∧ (frameOut (message 4)).void = false ∧ (frameOut (message 4)).origin = none ∧
    slotNo (lined []).tx.next = 0 ∧ slotNo 18 = 18 ∧ slotNo 19 = 20 ∧
    (after (.frameSend (.agent 0) 0) (agentWith (lined [frameOut (message 4), frameOut (message 5)]))).out =
      [.frame (.agent 0) 0 0 (frameOf (message 4) 0 0).1 (message 4) (frameOf (message 4) 0 0).2] ∧
    (after (.frameSend (.agent 0) 0) (agentWith (spent [frameOut (message 4)]))).out = [] ∧
    (after (.frameSend .chrohar 0) (tile (lined [frameOut (message 4)]))).out.length = 1 ∧
    ((after (.frameSend .chrohar 0) (tile (spent [frameOut (message 4)]))).link.port 0).queue = [frameOut (message 4)] := by decide +kernel

/-! ## Memory -/

def withSets (x : List PageSet) : State := { running with mem := { running.mem with sets := x } }

def pagesOf (use : PageUse) (gen : Nat) : PageSet := { tier := .b, pile := 3, count := 2, tenant := 5, gen := gen, use := use }

/-- Tenant 5 has a key of generation 1 in use. -/
def rekeyed (x : List PageSet) : State := { withSets x with trust := { running.trust with gens := [(5, [1, 0])] } }

theorem witness_pages : (withSets [pagesOf .quench 0]).mem.loads = [] ∧ running.mem.sets = [] ∧
    (after .quenchPageDone (withSets [pagesOf .quench 0])).mem.sets = [{ pagesOf .quench 0 with count := 1 }] ∧
    (rekeyed [pagesOf (.live 0) 0]).trust.live 5 = [1, 0] ∧
    (after .reencryptPageDone (rekeyed [pagesOf (.live 0) 0])).mem.sets =
      [{ pagesOf (.live 0) 0 with count := 1 }, { pagesOf (.live 0) 1 with count := 1 }] := by decide +kernel

/-- CACHE_DROP of tenant 2 and hash 5; SAVED_DISCARD of saved state 6 of tenant 2. -/
def dropParam : List Byte := [2] ++ List.replicate 31 0 ++ [5]

def discardParam : List Byte := [2] ++ List.replicate 23 0 ++ [6]

def saved6 : Saved :=
  { savedId := 6, tenant := 2, hash := 5, image := none, step := 1, elems := [], lsExp := 0, applied := 0, streak := 0, rowStat := [], colStat := [] }

def keeping : State := { running with mem := { running.mem with saved := [saved6], sets := [pagesOf (.kept 6) 0] } }

theorem witness_drops : okAsk 0x0506 dropParam running ∧ okAsk 0x0506 dropParam (cached running) ∧ okAsk 0x0506 dropParam (cached (planned false)) ∧
    (running.mem.cache.find? fun e => e.tenant == 2 && e.image.hash == 5) = none ∧
    ((cached running).mem.cache.all fun e => !((cached running).pinned e)) = true ∧
    ((cached (planned false)).mem.cache.all (cached (planned false)).pinned) = true ∧
    (cmdOf 0x0506 dropParam 0).hash 64 = 5 ∧ okAsk 0x0602 discardParam running ∧ okAsk 0x0602 discardParam keeping ∧
    (cmdOf 0x0602 discardParam 0).num 56 8 = 6 ∧ (keeping.mem.saved.any fun x => x.savedId == 6 && x.tenant == 2) = true ∧
    (running.mem.saved.any fun x => x.savedId == 6 && x.tenant == 2) = false := by decide +kernel

def linkOf (l : MemLink) : State := { running with lap := 160, mem := running.mem.setLink .b 3 l }

theorem witness_memLinks : memLink 1 3 = some (.b, 3) ∧ memLink 2 15 = some (.c, 15) ∧ memLink 1 24 = none ∧
    (running.mem.link .b 3).state = 0 ∧ (running.mem.link .b 3).lastLoss = none ∧
    ((after (.memLinkLoss 1 3) running).mem.link .b 3).state = 1 ∧
    ((linkOf { state := 0, lastLoss := some 1, cmd := none }).mem.link .b 3).lastLoss = some 1 ∧
    (linkOf { state := 0, lastLoss := some 1, cmd := none }).ticks < 1 + tickPerS ∧
    ((after (.memLinkLoss 1 3) (linkOf { state := 0, lastLoss := some 1, cmd := none })).mem.link .b 3).state = 2 ∧
    ((linkOf { state := 1, lastLoss := none, cmd := some 3 }).mem.link .b 3).cmd = some 3 ∧
    ((after (.memLinkRetrainDone 1 3 true) (linkOf { state := 1, lastLoss := none, cmd := none })).mem.link .b 3).state = 0 ∧
    ((linkOf { state := 3, lastLoss := none, cmd := none }).mem.link .b 3).state = 3 ∧
    (linkOf { state := 2, lastLoss := none, cmd := none }).mem.withheldOf .b 3 = tierPages .b ∧
    ((after (.memRetrain 3) (give (cmdOf 0x0703 [1, 3] 0) (linkOf { state := 2, lastLoss := none, cmd := none }))).mem.link .b 3).state = 3 ∧
    ((after (.memLinkRetrainDone 1 3 false) (linkOf { state := 3, lastLoss := none, cmd := none })).mem.link .b 3).state = 2 ∧
    okAsk 0x0703 [1, 3] running ∧ okAsk 0x0703 [1, 3] (linkOf { state := 2, lastLoss := none, cmd := none }) ∧ okAsk 0x0703 [1, 3] (linkOf { state := 1, lastLoss := none, cmd := none }) ∧
    (cmdOf 0x0703 [1, 3] 0).num 32 1 = 1 ∧ (cmdOf 0x0703 [1, 3] 0).num 33 1 = 3 ∧
    ((after (.memRetrain 3) (give (cmdOf 0x0703 [1, 3] 0) running)).mem.link .b 3).cmd = some 3 := by decide +kernel

/-! ## The manager -/

theorem witness_noManager : Instr.discoveryStart.managed = false ∧ (Instr.drainExpire).managed = true ∧ State.reset.mgrRuns = false ∧
    fabric.mgrRuns = true := by decide +kernel

def working (waits : List Wait) (s : State) : State := { s with mgr := { s.mgr with jobs := [{ steps := [.wait], waits := waits, heat := none }] } }

def inbox (p : Pkt) (s : State) : State := { s with hub := { s.hub with inbox := [p] } }

def ctrlAnswer : Pkt := tally mgrKey 1 0x3F000 tCtrlReply 4 0x12

theorem witness_waits : (working [.drain] fabric).mgrRuns = true ∧ (after .drainExpire (working [.drain] fabric)).mgr.jobs = [] ∧
    (after .runTeardownWaitExpire (working [.teardown] fabric)).mgr.jobs = [] ∧
    (after .drainExpire (working [.teardown] fabric)).mgr.jobs.length = 1 ∧
    ctrlAnswer.c.type = tCtrlReply ∧ field (pktTally ctrlAnswer) 0 8 = (0x12#8) ∧ isBillet ctrlAnswer = false ∧
    (after .ctrlReply (inbox ctrlAnswer (working [.reply 1 0x12] fabric))).mgr.jobs = [] ∧ fabric.mgr.gathers = [] ∧
    fabric.mgr.fencings = [] ∧ fabric.mgr.probing = [] ∧ fabric.mgr.readmit = none ∧ fabric.mgr.troubles = [] := by decide +kernel

/-- A report of entry 0 with the expected stamp 7, and one with another. -/
def report (type : BitVec 8) (body : BitVec 128) : Pkt := tally mgrKey 0 0x3F000 type 4 body

theorem witness_reports : isBillet (report tEndpointReport 1) = false ∧ fabric.fresh 0 (field (1#128 + (7#128 <<< 16)) 16 32) 0 = true ∧
    fabric.fresh 0 8 0 = false ∧ (field (1#128 + (7#128 <<< 16)) 0 6).toNat = 1 ∧ ((heated heat0).heatOfEntry 0).isSome = true ∧
    fabric.heatOfEntry 0 = none ∧ (heated heat0).releasing 0 = false ∧
    fabric.fresh 0 (field (6#128 + (7#128 <<< 48)) 48 32) (field (6#128 + (7#128 <<< 48)) 80 16) = true ∧
    eventWidth pod fabric.boot.strap 0 (6#128 + (7#128 <<< 48)) ≠ (tget fabric.mgr.widths (16 * 0 + 6)).getD 0 ∧
    (1#128 <<< 32).getLsbD 32 = true ∧
    (after .fenceAck (inbox (report tFenceAck (1#128 <<< 32)) fabric)).hub.inbox = [] ∧
    (after .resendFail (inbox (report tResendFail 0) fabric)).hub.inbox = [] ∧
    (after .resendFail (inbox (report tResendFail 0) (heated heat0))).mgr.gathers.length = 1 := by decide +kernel

/-- A LINK_EVENT of port 6 of entry 0, up at a width code and facing port 0 of the switch. -/
def upEvent (code : BitVec 128) : BitVec 128 := 6 + (code <<< 4) + (2 <<< 7) + (0x041 <<< 12) + (1 <<< 36) + (7 <<< 48)

theorem witness_belowMinimum : fabric.fresh 0 (field (upEvent 1) 48 32) (field (upEvent 1) 80 16) = true ∧
    field (upEvent 1) 7 3 ≠ stateCode .held ∧ eventWidth pod fabric.boot.strap 0 (upEvent 1) = 1 ∧ pod.minOf 0 6 = 2 ∧
    eventWidth pod fabric.boot.strap 0 (upEvent 5) = 8 ∧ eventWidth pod fabric.boot.strap 0 (upEvent 3) = 4 ∧
    (after .linkEvent (inbox (report tLinkEvent (upEvent 3)) fabric)).mgr.widths.head? = some (6, 4) ∧
    (after .linkEvent (inbox (report tLinkEvent (upEvent 1)) fabric)).mgr.widths.head? = some (6, 0) ∧
    0 < (after .linkEvent (inbox (report tLinkEvent (upEvent 1)) fabric)).hub.srcs.length := by decide +kernel

def fenceOf : Fencing := { seq := 0, entry := 0, heat := 0, carve := 0, cmd := none, lost := none, boundary := false, waits := [] }

theorem witness_fencing : ([fenceOf].find? fun f => f.seq == field (1#128 <<< 32) 0 32 && f.entry == 0) = some fenceOf ∧
    (fabric.mgr.fencings.find? fun f => f.seq == field (1#128 <<< 32) 0 32 && f.entry == 0) = none := by decide +kernel

/-! ## Discovery -/

def discovering (forgetting active : Bool) (q : Option Query) : State :=
  { fabric with link := { fabric.link with forgetting := forgetting },
                mgr := { fabric.mgr with fabricState := 1, disc := { Disc.reset with active := active, current := q } } }

def query (tries : Nat) : Query := { entry := 1, via := none, port := 0, page := 0, tries := tries }

def discoverAnswer : Pkt := tally mgrKey 0x3FFFF 0x3F000 tDiscoverReply 0 0

def logged (l : List Nat) (q : Port) : State :=
  { fabric with link := { fabric.link with log := l, ports := [(0, q)] } }

theorem witness_discovery : (discovering true false none).link.forgetting = true ∧ (discovering true false none).mgr.fabricState = 1 ∧
    (discovering true false none).mgr.disc.active = false ∧ fabric.link.forgetting = false ∧
    (discovering false true (some (query 1))).mgr.disc.current = some (query 1) ∧ (query 1).tries < 3 ∧ 3 ≤ (query 3).tries ∧
    (discovering false true none).mgr.disc.readmit = false ∧ (discovering false true none).mgr.disc.current = none ∧
    (after .discoveryStart (discovering true false none)).link.forgetting = false ∧
    ((after .discoverReplyTimeout (discovering false true (some (query 1)))).mgr.disc.current.map (·.tries)) = some 2 ∧
    isBillet discoverAnswer = false ∧ discoverAnswer.c.type = tDiscoverReply ∧ tallyGood discoverAnswer = true ∧
    discoverAnswer.c.laneKey = mgrKey := by decide +kernel

theorem witness_changes : (0 ∉ (logged [] upPort).link.log) ∧ (0 ∈ (logged [0] upPort).link.log) ∧ (logged [0] upPort).ember.takeover = false ∧
    (((logged [0] upPort).link.port 0).isUp && !((logged [0] upPort).link.port 0).nbrSeen) = true ∧
    (after (.linkTilePortChange 0) (logged [0] upPort)).link.log = [] ∧ (entered .outOfService).mgr.fabricState = 2 ∧
    (after .probeTimer (entered .outOfService)).mgr.probing = [0] ∧ 0 ∉ fabric.mgr.probing ∧
    (after (.probeWindowClose 0) { fabric with mgr := { fabric.mgr with probing := [0] } }).mgr.probing = [] ∧
    running.mgr.fabricState ≠ 2 ∧ fabric.net.any (Net.facedUp · 0) = true ∧ running.net.any (Net.facedUp · 0) = false ∧
    { fabric with mgr := { fabric.mgr with widths := [] } }.net.any (Net.facedUp · 0) = false := by decide +kernel

/-! ## Packets at the hub -/

def atHub (p : Pkt) (s : State) : State := { s with hub := { s.hub with arrived := [{ port := 0, vc := 0, pkt := p, hold := none, owed := true }] } }

/-- A flow of the hub to entry 0, with a copy of sequence number 4. -/
def hubCopy : Pkt := tally mgrKey 0x3F000 0 tCtrl 4 0

def hubKey : FlowKey := flowKeyOf hubCopy

def hubFlow (tries : Nat) : SrcFlow :=
  { freshSrc hubKey 20 with next := 5, latest := 3, copies := [{ copyWith 4 tries true none with pkt := hubCopy }] }

def sending (tries : Nat) (s : State) : State := { s with hub := { s.hub with srcs := [hubFlow tries] } }

def hubAck : Pkt := tally mgrKey 0 0x3F000 tAck 0 4
def hubNak : Pkt := tally mgrKey 0 0x3F000 tNak 0 (4 + 2 * 2 ^ 32)
def hubBusy : Pkt := tally mgrKey 0 0x3F000 tMgrBusy 0 (4 + 2 * 2 ^ 32 + 50 * 2 ^ 36)

def hubDst : DstFlow := { destFlow 5 true with key := flowKeyOf toHub }

theorem witness_hubFlows : ((sending 3 fabric).hub.srcs.find? fun f => f.key == hubKey) = some (hubFlow 3) ∧ lastTry (hubFlow 3) 4 = false ∧
    lastTry (hubFlow 8) 4 = true ∧ (copyOf (hubFlow 8) 4).isSome = true ∧
    (after (.resendTimerExpire .chrohar hubKey 4) (sending 3 fabric)).hub.srcs.flatMap (fun f => f.copies.map (·.tries)) = [4] ∧
    findDst [hubDst] hubDst.key = some hubDst ∧
    (after (.ackTimerExpire .chrohar hubDst.key) { fabric with hub := { fabric.hub with dsts := [hubDst] } }).hub.dsts.map (·.timer) = [false] := by
  decide +kernel

theorem witness_hubAnswers : isBillet hubAck = false ∧ tallyGood hubAck = true ∧ tallyGood hubNak = true ∧ tallyGood hubBusy = true ∧
    hubAck.c.type = tAck ∧ hubNak.c.type = tNak ∧ hubBusy.c.type = tMgrBusy ∧ fabric.mgr.jobs = [] ∧
    ackKey hubAck = hubKey ∧ nakKey hubNak = hubKey ∧ busyKey hubBusy = hubKey ∧
    (after (.ackReceive .chrohar) (atHub hubAck (sending 3 fabric))).hub.srcs.flatMap (·.copies) = [] ∧
    (after (.nak .chrohar) (atHub hubNak (sending 3 fabric))).hub.srcs.flatMap (fun f => f.copies.map (·.tries)) = [4] ∧
    (after (.mgrBusy .chrohar) (atHub hubBusy (sending 3 fabric))).hub.srcs.flatMap (fun f => f.copies.map (·.busy)) = [some 50] := by
  decide +kernel

theorem witness_hubArrivals : acknowledged toHub = true ∧ fabric.hubTakes { port := 0, vc := 0, pkt := toHub, hold := none, owed := true } = true ∧
    (after (.packetArrival ⟨.chrohar, false⟩) (atHub toHub fabric)).hub.arrived = [] ∧ (atHub treePart fabric).holdsBack treePart = false ∧
    { fabric with hub := { fabric.hub with noRoom := [treePart] } }.hub.noRoom = [treePart] ∧
    fabric.hearsAnswer { port := 0, vc := 0, pkt := hubAck, hold := none, owed := true } = true ∧ fabric.hub.heldBack = [] ∧
    State.reset.behindHeld { port := 0, vc := 0, pkt := toHub, hold := none, owed := true } = false ∧
    fabric.service = true ∧ fabric.handsOver = false ∧ State.reset.mgrRuns = false ∧ State.reset.handsOver = false ∧
    (after .hubPacketPaused (atHub toHub State.reset)).hub.arrived = [] := by decide +kernel

/-! ## The pacer and the Hearths -/

def arrival (key : LaneKey) (body : BitVec 128) : Pkt := tally key 0 0x3F020 tPaceArrive 4 body

def paced : State :=
  { heated heat0 with hub := { fabric.hub with barriers := [{ heat := 0, barrier := 6, openStep := 2, arrived := [], out := [] }] } }

theorem witness_pacer : (inbox (arrival 0x008 (6 + 3 * 2 ^ 32)) paced).mapEid (arrival 0x008 0).c.src = some (0, heat0, 0) ∧
    (paced.hub.barriers.find? fun b => b.is 0 (field (6#128 + (3#128 <<< 32)) 0 32)).isSome = true ∧
    (arrival 0x008 0).c.type = tPaceArrive ∧ (arrival 0x008 0).c.laneKey = tenantKey heat0.tenant ∧
    (after .paceArrive (inbox (arrival 0x008 (6 + 3 * 2 ^ 32)) paced)).hub.barriers.map (·.arrived) = [[(3, 0)]] ∧
    (after .paceArrive (inbox (arrival 0x008 (6 + 4 * 2 ^ 32)) paced)).hub.barriers.map (·.arrived) = [[]] ∧
    (after .paceArrive (inbox (arrival 0x00C (6 + 3 * 2 ^ 32)) paced)).hub.barriers.map (·.arrived) = [[]] := by decide +kernel

def grad (refused : Bool) : Grad := { heat := 0, step := 4, chunk := 0, values := List.replicate 64 1, refused := refused, seq := 0 }

/-- Hearth 0 at work for heat 0. -/
def hearth0 (x : Hearth) : State := { planned false with hub := { fabric.hub with hearths := [(hearthKey 0 0, x)] } }

def offering (refused : Bool) : Hearth := { Hearth.fresh upd with offered := [grad refused] }

def staging : Hearth := { Hearth.fresh upd with buffer := [grad false], received := [0] }

def passed : Hearth := { Hearth.fresh upd with received := [0], passed := [0] }

theorem witness_hearthGrads : (hearth0 (offering false)).mgrRuns = true ∧ ((hearth0 (offering false)).offeredAt 0 fun g => !g.refused).isSome = true ∧
    ((hearth0 (offering true)).offeredAt 0 fun g => !g.refused) = none ∧ ((hearth0 (offering true)).offeredAt 0 fun g => g.refused).isSome = true ∧
    (offering false).has 4 (grad false) = false ∧ (hearth0 (offering false)).bufferRoom 0 (gradBytes upd (grad false)) = true ∧
    (hearth0 (offering false)).bufferRoom 0 67108865 = false ∧
    (after (.hearthGradientReceive 0 false) (hearth0 (offering false))).hub.hearths.map (fun x => x.2.received) = [[0]] := by decide +kernel

theorem witness_hearthRecords : (hearth0 staging).heatsAt 0 = [0] ∧ ((hearth0 staging).forgeOf 0).isSome = true ∧
    ((hearth0 staging).dueIn 0 .c).any (fun x => x.2.2.work == .stage (grad false) && x.2.2.at'.chunk == 0 &&
      !(hearth0 staging).recordHeld (plan9 false) 0 x.2.2.at') = true ∧ (hearth0 staging).dueIn 0 .p = none ∧ recordCount coll9 0 = 1 ∧
    (after (.hearthRecordUpdate 0 ⟨2, false⟩) (hearth0 staging)).hub.hearths.map (fun x => x.2.passed) = [[0]] ∧
    hearthChunks coll9 upd 0 ≠ [] ∧ ((hearth0 passed).forgeOf 0).all (fun f => (hearth0 passed).passDone 0 0 f) = true ∧
    passed.ended = false ∧ upd.staged = true ∧ (plan9 false).decision = none ∧ (hearth0 passed).stagedReady = none ∧
    (hearth0 { passed with ended := true }).stagedReady.isSome = true ∧ image9.pods = [] ∧
    (hearth0 { passed with ended := true }).chunkRec 0 9 4 normChunk = none := by decide +kernel

/-- Hearth 0's tier C link is being retrained. -/
def retraining (s : State) : State := { s with mem := s.mem.setLink .c 0 { state := 1, lastLoss := none, cmd := none } }

theorem witness_recordWaits : ((hearth0 staging).dueIn 0 .c).any (fun x => !(hearth0 staging).recordWaits (plan9 false) 0 x.2.2.at') = true ∧
    ((retraining (hearth0 staging)).dueIn 0 .c).any (fun x => (retraining (hearth0 staging)).recordWaits (plan9 false) 0 x.2.2.at') = true ∧
    (after (.hearthRecordUpdate 0 ⟨2, false⟩) (retraining (hearth0 staging))).hub.hearths.map (fun x => x.2.passed) = [[]] := by decide +kernel

end Sys2Proof.Tests
end

/-! # What a command may move of what is kept

`State.kept` collects what hardly any command touches. The theorem `exec_mayMove` says for every command which of its parts
the command may move; the power-cycle count stands in the arm of POWER_ON alone (R19). -/

namespace Sys2Proof.Machine

open Sys2Proof

/-- Bits of the version fuse may be burned (R480), and what a burn adds to it may change; nothing else differs. -/
def Kept.MayBurn (k k' : Kept) : Prop := ∃ b c, k' = { k with fuse := k.fuse ||| b, burning := c }

/-- At most one index of a key is taken (R445). -/
def KeyIndex.MayTake (k k' : KeyIndex) : Prop := k' = k ∨ ∃ n i, k.take n = some (i, k')

/-- At most one index of the identity key is taken, and nothing else differs. -/
def Kept.MayIdentify (k k' : Kept) : Prop := ∃ x, k.identity.MayTake x ∧ k' = { k with identity := x }

/-- At most one index of the attestation key is taken, and nothing else differs. -/
def Kept.MayAttest (k k' : Kept) : Prop := ∃ x, k.attest.MayTake x ∧ k' = { k with attest := x }

/-- What POWER_ON does if the trust die starts: the count advances by one (R19), both signing keys begin a new block (R447), and
a burn that was cut is done again (R492). -/
def Kept.Starts (k k' : Kept) : Prop := ∃ b c, k' = { k with
  powerCycles := k.powerCycles + 1, identity := k.identity.powerOn, attest := k.attest.powerOn
  fuse := k.fuse ||| b, burning := c }

/-- Which parts of what is kept a command may move: a row of an agent moves the agents, any other row nothing, but for the rows
named here. -/
def Kept.MayMove (k : Kept) (c : Instr) (k' : Kept) : Prop :=
  match c with
  | .powerOn => k' = k ∨ k.Starts k'
  | .inputFault .. | .railFault .. | .healthCheck .. | .fwDeadline | .watchdogExpire _
  | .managerStateUncorrectable => k.MayBurn k'
  | .quoteDone _ => k.MayAttest k'
  | .clientHello .. | .redPairSet .. | .heartbeat .. | .fabric .. | .journal .. | .page .. | .stepDone .. | .key ..
  | .keyDestroy .. | .config .. | .handover .. | .taken .. => k.MayIdentify k'
  | c =>
    match c.agentOf with
    | some _ => k' = { k with agents := k'.agents }
    | none => k' = k

theorem Kept.MayBurn.powerCycles {k k' : Kept} (h : k.MayBurn k') : k'.powerCycles = k.powerCycles := by
  obtain ⟨_, _, rfl⟩ := h
  rfl

theorem Kept.MayIdentify.powerCycles {k k' : Kept} (h : k.MayIdentify k') : k'.powerCycles = k.powerCycles := by
  obtain ⟨_, _, rfl⟩ := h
  rfl

theorem Kept.MayAttest.powerCycles {k k' : Kept} (h : k.MayAttest k') : k'.powerCycles = k.powerCycles := by
  obtain ⟨_, _, rfl⟩ := h
  rfl

theorem Kept.Starts.powerCycles {k k' : Kept} (h : k.Starts k') : k'.powerCycles = k.powerCycles + 1 := by
  obtain ⟨_, _, rfl⟩ := h
  rfl

theorem Kept.Starts.agents {k k' : Kept} (h : k.Starts k') : k'.agents = k.agents := by
  obtain ⟨_, _, rfl⟩ := h
  rfl

/-- Only POWER_ON may move the power-cycle count. -/
theorem Kept.MayMove.powerCycles {k k' : Kept} {c : Instr} (h : k.MayMove c k') (hc : c ≠ .powerOn) :
    k'.powerCycles = k.powerCycles := by
  unfold Kept.MayMove at h
  split at h
  case h_1 => exact absurd rfl hc
  case h_21 => split at h <;> rw [h]
  all_goals exact h.powerCycles

theorem Kept.MayBurn.refl (k : Kept) : k.MayBurn k := ⟨0, k.burning, by simp⟩

theorem Kept.MayIdentify.refl (k : Kept) : k.MayIdentify k := ⟨_, .inl rfl, rfl⟩

theorem Kept.MayAttest.refl (k : Kept) : k.MayAttest k := ⟨_, .inl rfl, rfl⟩

/-! ## Burns of the version fuse -/

theorem writeConfirm_mayBurn (s : State) : s.kept.MayBurn s.writeConfirm.kept := ⟨_, _, writeConfirm_kept s⟩

theorem confirmImage_mayBurn (s : State) : s.kept.MayBurn s.confirmImage.kept := by
  rw [confirmImage_kept]
  split
  · exact ⟨_, _, rfl⟩
  · exact ⟨0, _, by simp; rfl⟩

theorem unplannedReset_mayBurn (s : State) (cause : Nat) : s.kept.MayBurn (s.unplannedReset cause).kept := by
  rw [unplannedReset_kept]
  split
  · exact ⟨_, _, rfl⟩
  · exact .refl _

/-- A loss of power that the trust die notes first burns at most what a burn had begun. -/
theorem ownNote_powerOff_mayBurn (s : State) (code : Nat) (d : List Byte) :
    s.kept.MayBurn (s.ownNote code d).powerOff.kept := by
  obtain ⟨n, h⟩ := powerOff_kept (s.ownNote code d)
  rw [h, ownNote_kept]
  exact ⟨_, _, rfl⟩

theorem exec_inputFault_mayBurn (cause mv : Nat) {s t : State} (h : exec (.inputFault cause mv) s = .next t) :
    s.kept.MayBurn t.kept := by
  obtain rfl := Host.Outcome.next.inj h
  split
  · exact ownNote_powerOff_mayBurn _ _ _
  · exact .refl _

theorem exec_railFault_mayBurn (rail kind : Nat) {s t : State} (h : exec (.railFault rail kind) s = .next t) :
    s.kept.MayBurn t.kept := by
  obtain rfl := Host.Outcome.next.inj h
  split
  · exact .refl _
  split
  · exact ownNote_powerOff_mayBurn _ _ _
  · repeat' split
    all_goals simp [Kept.MayBurn.refl]

theorem exec_healthCheck_mayBurn (cores recorder : Bool) {s t : State}
    (h : exec (.healthCheck cores recorder) s = .next t) :
    s.kept.MayBurn t.kept := by
  obtain rfl := Host.Outcome.next.inj h
  split
  · exact .refl _
  dsimp only
  generalize (if s.healthy cores recorder = true then s.fw.health + 1 else 0) = n
  split
  · exact confirmImage_mayBurn { s with fw := { s.fw with health := n } }
  · exact .refl _

theorem exec_fwDeadline_mayBurn {s t : State} (h : exec .fwDeadline s = .next t) : s.kept.MayBurn t.kept := by
  obtain rfl := Host.Outcome.next.inj h
  split
  · exact .refl _
  split
  · exact writeConfirm_mayBurn s
  split
  · simp [Kept.MayBurn.refl]
  · simp [Kept.MayBurn.refl]

/-! ## Indices of the signing keys -/

/-- The index areas after an index has been asked for, whether or not one was left. -/
theorem takenIndex_mayTake (k : KeyIndex) (n : Nat) :
    k.MayTake (match k.take n with | some (_, x) => x | none => k) := by
  split
  · rename_i i x h
    exact .inr ⟨n, i, h⟩
  · exact .inl rfl

theorem exec_quoteDone_mayAttest (ok : Bool) {s t : State} (h : exec (.quoteDone ok) s = .next t) :
    s.kept.MayAttest t.kept := by
  obtain rfl := Host.Outcome.next.inj h
  split
  · exact .refl _
  split
  · dsimp only
    split
    · simp [kept_read, Kept.MayAttest.refl]
    · exact .refl _
  · rename_i i k hk
    exact ⟨k, .inr ⟨_, i, hk⟩, by simp [kept_read]⟩

theorem exec_clientHello_mayIdentify (path : SessPath) (source : BitVec 128) (credIndex : BitVec 8) (events : Bool)
    (nonce : BitVec 256) (rsv : Nat) {s t : State}
    (h : exec (.clientHello path source credIndex events nonce rsv) s = .next t) : s.kept.MayIdentify t.kept := by
  obtain rfl := Host.Outcome.next.inj h
  repeat' split
  · exact .refl _
  · simp [Kept.MayIdentify.refl]
  · simp [Kept.MayIdentify.refl]
  · rw [beginSession_kept]
    exact ⟨_, takenIndex_mayTake _ _, rfl⟩

/-- A command of the host moves what its own part moves, if it gets as far as that, and nothing otherwise. -/
theorem run_kept_cases (s : State) (op : BitVec 16) (id : Nat) (f : Cmd → State → State × Option Ans) :
    (s.run op id f).kept = s.kept ∨ ∃ c u, u.kept = s.kept ∧ (s.run op id f).kept = (f c u).1.kept := by
  unfold State.run
  split
  · exact .inl rfl
  rename_i c _
  split
  · exact .inl rfl
  lift_lets
  extract_lets u r b
  split
  · exact .inl (by simp [u])
  have hr : r.2.kept = s.kept := by simp [r, u]
  split
  · exact .inl (by simp [hr])
  refine .inr ⟨c, r.2, hr, ?_⟩
  split
  · exact finish_kept _ _ _
  · rfl

theorem run_mayIdentify (s : State) (op : BitVec 16) (id : Nat) (f : Cmd → State → State × Option Ans)
    (hf : ∀ c (u : State), u.kept.MayIdentify (f c u).1.kept) : s.kept.MayIdentify (s.run op id f).kept := by
  rcases run_kept_cases s op id f with h | ⟨c, u, hu, h⟩
  · rw [h]
    exact .refl _
  · rw [h, ← hu]
    exact hf c u

theorem exec_redPairSet_mayIdentify (id partner : Nat) {s t : State} (h : exec (.redPairSet id partner) s = .next t) :
    s.kept.MayIdentify t.kept := by
  obtain rfl := Host.Outcome.next.inj h
  refine run_mayIdentify _ _ _ _ fun c s => ?_
  split
  · simp [Kept.MayIdentify.refl]
  repeat' split
  · exact .refl _
  · exact .refl _
  · exact .refl _
  · exact .refl _
  · rename_i i x h
    exact ⟨x, .inr ⟨_, i, h⟩, pair_kept _ _ _ _⟩

/-- The first packet that a standby hears of its partner may take one index for pairing. -/
theorem meetPartner_mayIdentify (s : State) : s.kept.MayIdentify s.meetPartner.kept := by
  rw [meetPartner_kept]
  refine ⟨_, ?_, rfl⟩
  split
  · exact takenIndex_mayTake _ _
  · exact .inl rfl

theorem emberTake_mayIdentify (s : State) (link : Nat) (p : EmberPkt) (type : BitVec 8) (f : State → State)
    (hf : ∀ x, (f x).kept = x.kept) : s.kept.MayIdentify (s.emberTake link p type f).kept := by
  rw [emberTake_kept _ _ _ _ _ hf]
  split
  · exact meetPartner_mayIdentify s
  · exact .refl _

theorem standbyTake_mayIdentify (s : State) (link : Nat) (p : EmberPkt) (type : BitVec 8) (f : State → State)
    (hf : ∀ x, (f x).kept = x.kept) : s.kept.MayIdentify (s.standbyTake link p type f).kept := by
  rw [standbyTake_kept _ _ _ _ _ hf]
  split
  · exact meetPartner_mayIdentify s
  · exact .refl _

theorem exec_heartbeat_mayIdentify (link : Nat) (p : EmberPkt) {s t : State} (h : exec (.heartbeat link p) s = .next t) :
    s.kept.MayIdentify t.kept := by
  obtain rfl := Host.Outcome.next.inj h
  split
  · simpa using meetPartner_mayIdentify s
  · exact .refl _

theorem powerOn_starts (s : State) : s.kept.Starts s.powerOn.kept := by
  obtain ⟨_, _, h⟩ := powerOn_kept s
  exact ⟨_, _, h⟩

theorem delivery_fuse (f : Fw) (c : Cmd) : (f.delivery c).1.fuse = f.fuse ∧ (f.delivery c).1.burning = f.burning := by
  unfold Fw.delivery
  repeat' split
  all_goals simp

theorem record1_fuse (f : Fw) (c : Cmd) (data : List Byte) :
    (f.record1 c data).1.fuse = f.fuse ∧ (f.record1 c data).1.burning = f.burning := by
  obtain ⟨hf, hb⟩ := delivery_fuse f c
  unfold Fw.record1
  dsimp only
  repeat' split
  all_goals simp [hf, hb]

theorem startTraining_agent_kept (s : State) (a p : Nat) :
    (s.startTraining (.agent a) p).kept = { s.kept with agents := (s.startTraining (.agent a) p).agents } := by
  unfold State.startTraining
  split <;> rfl

/-- For every command: which parts of what is kept it may move. -/
theorem exec_mayMove (c : Instr) {s t : State} (h : exec c s = .next t) : s.kept.MayMove c t.kept := by
  cases c
  all_goals obtain rfl := Host.Outcome.next.inj h
  -- the rows named in `Kept.MayMove`
  case powerOn =>
    split
    · exact .inr (powerOn_starts s)
    · exact .inl rfl
  case inputFault => exact exec_inputFault_mayBurn _ _ rfl
  case railFault => exact exec_railFault_mayBurn _ _ rfl
  case healthCheck => exact exec_healthCheck_mayBurn _ _ rfl
  case fwDeadline => exact exec_fwDeadline_mayBurn rfl
  case watchdogExpire | managerStateUncorrectable =>
    split
    · exact unplannedReset_mayBurn _ _
    · exact .refl _
  case quoteDone => exact exec_quoteDone_mayAttest _ rfl
  case clientHello => exact exec_clientHello_mayIdentify _ _ _ _ _ _ rfl
  case redPairSet => exact exec_redPairSet_mayIdentify _ _ rfl
  case heartbeat => exact exec_heartbeat_mayIdentify _ _ rfl
  case fabric | journal | page | stepDone | key | keyDestroy | config | handover =>
    exact standbyTake_mayIdentify _ _ _ _ _ fun x => by simp
  case taken => exact emberTake_mayIdentify _ _ _ _ _ fun x => by simp
  -- rows of an agent alone
  case portErrRead | dstFullDropsRead | agentCommit | agentRstNAssert | agentRstNDeassert | lapSlew | forgetSendEnd
    | treePartReceive | treeSumFormed | mgrFlowRestart | injectDescriptor | deliveryRoomResume | dlvStall
    | timedRelease | paceRelease | discoverQuery | tableBillet | tblFlip | tblRetire | tblState | tblSeed | fence
    | unfence | collRetry | portHold | ctlAdmit | flowClear | bridgeSet | agentIsolationTimeout | unlistedCtrlOp =>
    rfl
  -- queries of the host
  case devIdentify | devStatus | devCalRead | topoRecRead | topoEntryQuery | routeQuery | heatQuery | heatList
    | tenantGet | cacheList | savedList | updateQuery | memQuery | secKeyState | secIndexState | fwStatus | recQuery
    | recRead | redStatus =>
    exact ask_kept _ _ _ _
  -- commands of the host
  case devPartialReset | topoRecCommit | topoDiscover | heatCarve | heatRelease | heatFence | heatUnfence | planLoad
    | planLoadCached | stateExport | secQuote | routeFull | fwActivate | fwDiscard | recClear | redSaveNow =>
    refine run_kept _ _ _ _ fun c u => ?_
    repeat' split
    all_goals simp [kept_read]
  case devCalWrite | topoRecWrite | topoEntryHold | topoReadmit | topoProbeSet | topoPortRetrain | routeDrainSet
    | tenantSet | planGo | planStop | cacheDrop | savedDiscard | stateImport | cacheSet | memRetrain | secKeyRotate
    | secCredSet | redTakeover =>
    refine run_kept _ _ _ _ fun c u => ?_
    dsimp only
    repeat' split
    all_goals simp [kept_read]
  case fwPiece =>
    refine run_kept _ _ _ _ fun c u => ?_
    dsimp only
    repeat' split
    all_goals simp [kept_read, record1_fuse]
  case unlistedOpcode =>
    split
    · split
      · exact (reply_kept _ _ _).trans (markStarted_kept _ _)
      · rfl
    · rfl
  -- reports and timers of the manager
  case discoverReply | discoverReplyTimeout | linkTilePortChange | routeComputeDone | drainExpire
    | runTeardownWaitExpire | resendFailGatherExpire | probeTimer | probeWindowClose | heatQueueHead | normDecision
    | contribHeldAccept | hearthGradientReceive | meshTransferAccept | hearthPassEnd =>
    exact asMgr_kept _ _ fun u => by simp
  case ctrlReply | fenceAck | endpointReport | linkEvent | resendFail =>
    exact asMgr_kept _ _ fun u => takeReport_kept u _ _ fun e b v => by simp
  case hearthRecordUpdate =>
    split
    · exact asMgr_kept _ _ fun u => by simp
    · rfl
  case paceArrive =>
    split
    · rename_i hx
      exact (arrive_kept _ _).trans (takeInbox_kept hx)
    · rfl
  -- rows of an agent, or of the module at its own site
  case packetArrival x =>
    obtain ⟨site, _⟩ := x
    cases site with
    | agent a => rfl
    | chrohar => exact asMgr_kept _ _ fun u => by simp
  case ackReceive site | nak site | mgrBusy site | ackTimerExpire site _ | flowWindowSend site _
    | mcastChangedSetSend site _ | busyHoldExpire site _ _ | resendTimerExpire site _ _ | fenceNotice site _ _ _ =>
    cases site with
    | agent a => rfl
    | chrohar => exact asMgr_kept _ _ fun u => by simp
  case trainingAttemptStart site _ =>
    cases site with
    | agent a => exact startTraining_agent_kept _ _ _
    | chrohar => exact startTraining_chrohar_kept _ _
  case trainingWindowClose site _ | frameReceive site _ _ =>
    cases site with
    | agent a => rfl
    | chrohar =>
      change State.kept _ = State.kept _
      simp [kept_read]
  case idleCell site _ _ | identifyTimeout site _ =>
    cases site with
    | agent a => split <;> rfl
    | chrohar =>
      change State.kept _ = State.kept _
      simp
  case frameSend site _ | controlCellSend site _ | forgetCell site _ _ | lapExchangeCell site _ _
    | neighbourDiscoveryCell site _ _ | laneUpChange site _ _ =>
    cases site with
    | agent a =>
      dsimp only
      repeat' split
      all_goals rfl
    | chrohar =>
      change State.kept _ = State.kept _
      dsimp only
      repeat' split
      all_goals simp [kept_read]
  -- rows of the module
  case evtLostRead | cfgCommit | cmdEnWrite | evtEnWrite | eventHeadWrite | tdGo | grantQueryRetry | pllLock
    | fuseMapLoaded | configReadDone | waveSettled | waveFail | managerReady | lockLost | thermalTripRestart
    | ejectOpen | functionLevelReset | confirmReq | status | discoveryStart | bellowsSubstep | bellowsRetryExpire
    | coolantWaitTimeout | linkTestDone | computeTestDone | powerLimit | thermalThrottle | thermalTrip
    | inputSwitchClose | coolantOk | coolantLost | standby | emberAck | takenTimeout | governorAdmit | perstN
    | claimOpen | credClear | hubPacketPaused | fabricImageSave | configWriteDone | quenchPageDone | irqGapExpire
    | reencryptPageDone | sessionIdleTimeout | recorderSample | emberSend | emberAckTimer | sessionBlockExpire
    | recorderWindowClose | recorderCheckpoint | emberHeartbeatSend | emberLostTimer | perstNDeassert
    | thermalThrottleEnd | setdasa =>
    change State.kept _ = State.kept _
    simp [kept_read]
  case fabricGrant | prPhaseEnd | memLinkLoss | clientAuth | sessionClose | emberResendExpire | sessionCommand
    | emberLinkSilent =>
    change State.kept _ = State.kept _
    repeat' split
    all_goals simp [kept_read]
  case memLinkRetrainDone =>
    change State.kept _ = State.kept _
    dsimp only
    repeat' split
    all_goals simp
  case registerWrite w =>
    cases w with
    | agentReg a off v => rfl
    | bar0 | window | bar2 | vfs =>
      change State.kept _ = State.kept _
      simp [State.writeReg]

/-! # What a power-on does beside the trust die -/

@[simp] theorem alarm_boot (s : State) (code : Nat) (d : List Byte) : (s.alarm code d).boot = s.boot := by
  obtain ⟨_, _, _, _, _, hboot, _⟩ := ((Outward.refl s).alarm code d).frame
  exact hboot

@[simp] theorem writeConfirm_boot (s : State) : s.writeConfirm.boot = s.boot := by
  unfold State.writeConfirm
  exact alarm_boot _ _ _

@[simp] theorem fallBackFor_boot (s : State) (cause : Nat) : (s.fallBackFor cause).boot = s.boot := by
  unfold State.fallBackFor
  split
  · exact alarm_boot _ _ _
  · rfl

@[simp] theorem powerOnImage_boot (s : State) : s.powerOnImage.boot = s.boot := by
  unfold State.powerOnImage
  dsimp only
  repeat' split
  all_goals simp

/-- Of bring-up, a power-on moves the stage alone. -/
theorem powerOn_boot (s : State) :
    s.powerOn.boot = { s.boot with stage := s.powerOn.boot.stage } ∧
      (s.powerOn.boot.stage = .grantWait ∨ s.powerOn.boot.stage = .pllWait) := by
  unfold State.powerOn State.trustStarts
  refine ⟨by simp, ?_⟩
  dsimp only [setBoot_boot]
  split
  · exact .inr rfl
  · exact .inl rfl

/-- POWER_ON with the module off and the input switch closed powers the module on. -/
theorem exec_powerOn_of_switchOn {s : State} (h : s.boot.stage = .off ∧ s.boot.switchOn = true) :
    exec .powerOn s = .next s.powerOn := by
  obtain ⟨hoff, hon⟩ := h
  change Host.Outcome.next _ = _
  simp [hoff, hon]

/-- POWER_ON otherwise changes nothing. -/
theorem exec_powerOn_of_not {s : State} (h : ¬(s.boot.stage = .off ∧ s.boot.switchOn = true)) :
    exec .powerOn s = .next s := by
  change Host.Outcome.next _ = _
  rw [if_neg (by simpa using h)]

/-- Settles O5: `exec_mayMove` for every other command, and `powerOn_kept` with `powerOn_boot` for POWER_ON itself. -/
theorem powerCycleCountAdvancesAtPowerOnAlone : Obligations.PowerCycleCountAdvancesAtPowerOnAlone := by
  unfold Obligations.PowerCycleCountAdvancesAtPowerOnAlone
  intro c s t h
  by_cases hc : c = .powerOn
  · subst hc
    by_cases hs : s.boot.stage = .off ∧ s.boot.switchOn = true
    · rw [exec_powerOn_of_switchOn hs] at h
      obtain rfl := Host.Outcome.next.inj h
      have hk := powerOn_starts s
      obtain ⟨hb, hstage⟩ := powerOn_boot s
      rw [if_pos ⟨rfl, hs⟩]
      exact ⟨hk.powerCycles, fun _ _ => ⟨hk.agents, by rw [hb], by rw [hb], .inr hstage⟩⟩
    · rw [exec_powerOn_of_not hs] at h
      obtain rfl := Host.Outcome.next.inj h
      rw [if_neg fun ⟨_, e⟩ => hs e]
      exact ⟨rfl, fun _ hoff => ⟨rfl, rfl, rfl, .inl hoff⟩⟩
  · rw [if_neg fun ⟨e, _⟩ => hc e]
    exact ⟨(exec_mayMove c h).powerCycles hc, fun e => absurd e hc⟩

end Sys2Proof.Machine

/-! # Cells that SENT_CUM shows lost

An accepted frame makes up for the cells of dropped ones (R85). `port_receive_credit` says it of the channel at the port; what
follows the port, at an agent, may return cells but receives none (`KeepsReceived`). -/

namespace Sys2Proof.Machine

open Sys2Proof

/-! ## The credit counters of a channel -/

/-- A channel reads as what was put for it. -/
@[simp] theorem vcs_get_set_self (v : Vcs) (vc : BitVec 2) (c : Credit) : (v.set vc c).get vc = c := by
  unfold Vcs.set Vcs.get
  repeat' split
  all_goals simp_all

/-- Other channels read as before. -/
theorem vcs_get_set_of_ne (v : Vcs) {vc x : BitVec 2} (c : Credit) (h : x ≠ vc) : (v.set vc c).get x = v.get x := by
  unfold Vcs.set Vcs.get
  repeat' split
  any_goals rfl
  all_goals bv_omega

/-- A change of one channel that leaves its count of received cells leaves that of every channel. -/
theorem vcs_set_received (v : Vcs) {vc : BitVec 2} {c : Credit} (h : c.received = (v.get vc).received) (x : BitVec 2) :
    ((v.set vc c).get x).received = (v.get x).received := by
  by_cases hx : x = vc
  · subst hx
    rw [vcs_get_set_self, h]
  · rw [vcs_get_set_of_ne _ _ hx]

/-- Returned cells are not received again. -/
@[simp] theorem freeCells_received (q : Port) (vc : BitVec 2) (n : Nat) (x : BitVec 2) :
    ((q.freeCells vc n).vcs.get x).received = (q.vcs.get x).received := by
  refine vcs_set_received q.vcs ?_ x
  rfl

/-- Cells that return count as freed on their channel. -/
@[simp] theorem freeCells_freed (q : Port) (vc : BitVec 2) (n : Nat) :
    ((q.freeCells vc n).vcs.get vc).freed = (q.vcs.get vc).freed + BitVec.ofNat 16 n := by
  simp [Port.freeCells]

@[simp] theorem fenceDrop_vcs (q : Port) (k : LaneKey) : (q.fenceDrop k).vcs = q.vcs := rfl

/-! ## The port that takes the frame -/

/-- A SENT_CUM that is ahead of the count, by less than half its range, shows the difference lost. -/
theorem lostCells_of_ahead (c : Credit) {d : Nat} (hd : d < 2 ^ 15) :
    lostCells c (c.received + BitVec.ofNat 16 d) = BitVec.ofNat 16 d := by
  have hdiff : c.received + BitVec.ofNat 16 d - c.received = BitVec.ofNat 16 d := by
    rw [BitVec.add_comm, BitVec.add_sub_cancel]
  have hd' : d % 2 ^ 16 < 2 ^ 15 := by omega
  rw [lostCells, hdiff, BitVec.toNat_ofNat, if_pos hd']

/-- A frame that passes every check of R61 is taken, unless the port still looks for a frame start (R62). -/
theorem judgeFrame_eq_taken {q : Port} {f : Frame} (hstart : q.resync = false ∨ f.atFsp = true)
    (hgood : (f.fecOk && fwOk f.word && fwKind f.word == 0 && f.hop == hopCheck f.word f.pkt &&
      fwLen f.word == pktCells f.pkt && (fwVc f.word).getLsbD 1 == isBillet f.pkt) = true) :
    judgeFrame q f = .taken := by
  have hskip : (q.resync && !f.atFsp) = false := by
    rcases hstart with h | h <;> simp [h]
  simp only [Bool.and_eq_true, beq_iff_eq] at hgood
  obtain ⟨⟨⟨⟨⟨hfec, hword⟩, hkind⟩, hhop⟩, hlen⟩, hvc⟩ := hgood
  simp only [judgeFrame, hskip, hfec, hword, hkind, ← hhop, hlen, hvc, bne_self_eq_false, Bool.not_true, Bool.or_self,
    Bool.false_eq_true, if_false]

/-- The channel after a port has taken a frame whose SENT_CUM is ahead by `d` cells (R85): they count as received and freed, the
frame's own cells as received. -/
theorem port_receive_credit {q : Port} {f : Frame} {d : Nat} (htaken : judgeFrame q f = .taken) (hd : d < 2 ^ 15)
    (hsent : fwSent f.word = (q.vcs.get (fwVc f.word)).received + BitVec.ofNat 16 d) :
    (q.receive f).vcs.get (fwVc f.word) = { q.vcs.get (fwVc f.word) with
      received := (q.vcs.get (fwVc f.word)).received + BitVec.ofNat 16 d + BitVec.ofNat 16 (pktCells f.pkt)
      freed := (q.vcs.get (fwVc f.word)).freed + BitVec.ofNat 16 d } := by
  unfold Port.receive
  rw [htaken]
  simp [Credit.take, hsent, lostCells_of_ahead _ hd]

/-! ## What becomes of a packet receives no cells -/

/-- From `g` to `h` no port has received a cell on any channel. -/
def KeepsReceived (g h : Agent) : Prop :=
  ∀ n x, ((h.port n).vcs.get x).received = ((g.port n).vcs.get x).received

theorem KeepsReceived.refl (g : Agent) : KeepsReceived g g := fun _ _ => rfl

theorem KeepsReceived.trans {g h k : Agent} (a : KeepsReceived g h) (b : KeepsReceived h k) : KeepsReceived g k :=
  fun n x => (b n x).trans (a n x)

/-- An agent whose ports are as they were. -/
theorem KeepsReceived.of_ports {g h : Agent} (e : h.ports = g.ports) : KeepsReceived g h := fun n x => by
  simp [Agent.port, e]

@[simp] theorem port_setPort_self (g : Agent) (p : Nat) (q : Port) : (g.setPort p q).port p = q := by
  simp [Agent.port]

theorem port_setPort_of_ne (g : Agent) {p n : Nat} (q : Port) (h : n ≠ p) : (g.setPort p q).port n = g.port n := by
  simp [Agent.port, tget_tset_of_ne _ _ h]

theorem port_of_tget {g : Agent} {p : Nat} {q : Port} (h : tget g.ports p = some q) : g.port p = q := by
  simp [Agent.port, h]

theorem KeepsReceived.setPort {g : Agent} {p : Nat} {q : Port}
    (h : ∀ x, (q.vcs.get x).received = ((g.port p).vcs.get x).received) : KeepsReceived g (g.setPort p q) := fun n x => by
  by_cases hn : n = p
  · subst hn
    rw [port_setPort_self, h]
  · rw [port_setPort_of_ne _ _ hn]

theorem KeepsReceived.release (g : Agent) (o : Option (Nat × BitVec 2)) (p : Pkt) : KeepsReceived g (g.release o p) := by
  unfold Agent.release tmod
  split
  · exact .refl g
  · split
    · rename_i q hq
      refine KeepsReceived.setPort fun x => ?_
      rw [freeCells_received, port_of_tget hq]
    · exact .refl g

theorem KeepsReceived.free (g : Agent) (o : Option (Nat × BitVec 2)) (h : Option Nat) (p : Pkt) :
    KeepsReceived g (g.free o h p) := by
  unfold Agent.free
  split
  · exact .refl g
  · exact .release _ _ _

theorem KeepsReceived.place (g : Agent) (out : Nat) (p : Pkt) (o : Option (Nat × BitVec 2)) (h : Option Nat) :
    KeepsReceived g (g.place out p o h) := by
  unfold Agent.place
  split
  · exact .refl g
  · rename_i q hq
    refine .setPort fun x => ?_
    rw [port_of_tget hq]

theorem KeepsReceived.enqueue (g : Agent) (out : Nat) (p : Pkt) (o : Option (Nat × BitVec 2)) :
    KeepsReceived g (g.enqueue out p o) := by
  unfold Agent.enqueue
  split
  · exact .release _ _ _
  · exact .place _ _ _ _ _

theorem KeepsReceived.arrive (g : Agent) (x : Arrived) : KeepsReceived g (g.arrive x) := by
  unfold Agent.arrive
  split
  · exact .free _ _ _ _
  · split
    · exact (KeepsReceived.free _ _ _ _).trans (.of_ports rfl)
    · exact .of_ports rfl

theorem KeepsReceived.placeCopies (g : Agent) (p : Pkt) (o : Option (Nat × BitVec 2)) (l : List (Nat × BitVec 16)) :
    KeepsReceived g (g.placeCopies p o l) := by
  unfold Agent.placeCopies
  induction l generalizing g with
  | nil => exact .refl g
  | cons c r ih => exact (KeepsReceived.place _ _ _ _ _).trans (ih _)

theorem KeepsReceived.replyUp (g : Agent) (p : Pkt) (port : Nat) (vc : BitVec 2) :
    KeepsReceived g (g.replyUp p port vc) := by
  unfold Agent.replyUp
  have hlearn : KeepsReceived g { g with discTab := tset g.discTab p.c.src.toNat port } := .of_ports rfl
  dsimp only
  split
  · exact hlearn.trans (.enqueue _ _ _ _)
  · exact hlearn.trans (.release _ _ _)

theorem KeepsReceived.routeCopies (g : Agent) (p : Pkt) (port : Nat) (vc : BitVec 2) (own : Bool)
    (copies : List (Nat × BitVec 16)) : KeepsReceived g (g.routeCopies p port vc own copies) := by
  unfold Agent.routeCopies
  have hcopies : KeepsReceived g { g.placeCopies p (some (port, vc)) copies with holds := g.holds + 1 } :=
    (KeepsReceived.placeCopies _ _ _ _).trans (.of_ports rfl)
  dsimp only
  split
  · exact hcopies.trans (.arrive _ _)
  · exact hcopies.trans (.free _ _ _ _)

/-- A packet that goes on or arrives gives cells back at most. -/
theorem KeepsReceived.route (g : Agent) (p : Pkt) (port : Nat) (vc : BitVec 2) : KeepsReceived g (g.route p port vc) := by
  unfold Agent.route
  split
  · exact .replyUp _ _ _ _
  · split
    · exact .arrive _ _
    · exact .routeCopies _ _ _ _ _ _
    · exact .enqueue _ _ _ _
    · exact .release _ _ _

/-! ## A taken frame at an agent -/

/-- A frame taken at an agent: its packet goes on, or ends at the port where its lane key is not allowed (R76). -/
theorem agent_receive_of_taken {g : Agent} {p : Nat} {f : Frame} (hup : (g.port p).isUp = true)
    (htaken : judgeFrame (g.port p) f = .taken) :
    (g.receive p f).1 =
      if keyAllowed (g.keyEntry p) f.pkt.c.laneKey then (g.setPort p ((g.port p).receive f)).route f.pkt p (fwVc f.word)
      else g.setPort p ((((g.port p).receive f).fenceDrop f.pkt.c.laneKey).freeCells (fwVc f.word) (pktCells f.pkt)) := by
  unfold Agent.receive
  simp only [hup, htaken, Bool.not_true, Bool.false_eq_true, if_false]
  split <;> rfl

/-- Whatever becomes of the packet, the port's counts of received cells are those of the taken frame. -/
theorem agent_receive_received {g : Agent} {p : Nat} {f : Frame} (hup : (g.port p).isUp = true)
    (htaken : judgeFrame (g.port p) f = .taken) (x : BitVec 2) :
    ((((g.receive p f).1).port p).vcs.get x).received = (((g.port p).receive f).vcs.get x).received := by
  rw [agent_receive_of_taken hup htaken]
  split
  · rw [KeepsReceived.route _ _ _ _ p x, port_setPort_self]
  · simp

/-- Where the lane key is not allowed, the packet ends at the port and its cells return at once. -/
theorem agent_receive_freed_of_refused {g : Agent} {p : Nat} {f : Frame} (hup : (g.port p).isUp = true)
    (htaken : judgeFrame (g.port p) f = .taken) (hkey : keyAllowed (g.keyEntry p) f.pkt.c.laneKey = false) :
    ((((g.receive p f).1).port p).vcs.get (fwVc f.word)).freed =
      (((g.port p).receive f).vcs.get (fwVc f.word)).freed + BitVec.ofNat 16 (pktCells f.pkt) := by
  simp [agent_receive_of_taken hup htaken, hkey]

/-- FRAME_RECEIVE at an agent that is not held in reset is `Agent.receive` there. -/
theorem exec_frameReceive_agent {s : State} {a : Nat} (hlive : (s.agent a).inReset = false) (p : Nat) (f : Frame) :
    ∃ t, exec (.frameReceive (.agent a) p f) s = .next t ∧ t.agent a = ((s.agent a).receive p f).1 :=
  ⟨_, rfl, by simp [whileLive, hlive]⟩

/-! ## A taken frame at the link tiles -/

@[simp] theorem tally_link (s : State) (series unit : BitVec 16) (k : Nat) : (s.tally series unit k).link = s.link := by
  obtain ⟨-, hlink, -⟩ := ((Outward.refl s).tally series unit k).frame
  exact hlink

@[simp] theorem tilesPort_setPort_self (l : LinkTiles) (p : Nat) (q : Port) : (l.setPort p q).port p = q := by
  simp [LinkTiles.port]

/-- A packet for a hub EID of this module waits at its unit, and its port is the port that has taken the frame. -/
theorem receiveAtTile_port_of_ownHub {s : State} {p : Nat} {f : Frame} (hport : s.hasPort .chrohar p = true)
    (hup : (s.link.port p).isUp = true) (htaken : judgeFrame (s.link.port p) f = .taken)
    (hkey : s.link.allows p f.pkt.c.laneKey = true) (hhub : s.isOwnHub f.pkt.c.dst = true) (hone : f.pkt.c.mcast = false) :
    (s.receiveAtTile p f).link.port p = (s.link.port p).receive f := by
  simp [State.receiveAtTile, hport, hup, htaken, hkey, hhub, hone]

/-- FRAME_RECEIVE at a Chrohar port is `State.receiveAtTile`, as far as the link tiles go. -/
theorem exec_frameReceive_chrohar (s : State) (p : Nat) (f : Frame) :
    ∃ t, exec (.frameReceive .chrohar p f) s = .next t ∧ t.link = (s.receiveAtTile p f).link :=
  ⟨_, rfl, by simp⟩

/-- Settles O53: the port's channel after the frame (`port_receive_credit`), which what follows at the agent or at the tile
leaves as it is but for returned cells. -/
theorem lostCellsAreReconciled : Obligations.LostCellsAreReconciled := by
  unfold Obligations.LostCellsAreReconciled
  intro p d f s hd hgood
  refine ⟨fun a hlive hup hstart hsent => ?_, fun hport hup hstart hsent hkey hhub hone => ?_⟩
  · have htaken := judgeFrame_eq_taken hstart hgood
    have hcredit := port_receive_credit htaken hd hsent
    obtain ⟨t, hexec, hagent⟩ := exec_frameReceive_agent hlive p f
    refine ⟨t, hexec, ?_, fun hkey => ?_⟩
    · rw [hagent, agent_receive_received hup htaken, hcredit]
    · rw [hagent, agent_receive_freed_of_refused hup htaken hkey, hcredit]
  · have htaken := judgeFrame_eq_taken hstart hgood
    have hcredit := port_receive_credit htaken hd hsent
    obtain ⟨t, hexec, hlink⟩ := exec_frameReceive_chrohar s p f
    refine ⟨t, hexec, ?_⟩
    rw [hlink, receiveAtTile_port_of_ownHub hport hup htaken hkey hhub hone, hcredit]
    exact ⟨rfl, rfl⟩

end Sys2Proof.Machine

/-! # The enable registers of a function

R387 of CMD_EN and EVT_EN. A write that enables commands also notices the slots whose SEQ has changed (R392): what that
touches, down to a reply and its interrupt, leaves the enable bits as they are (`touch_enables`). -/

namespace Sys2Proof.Machine

open Sys2Proof

/-! ## A function after a change of one function -/

/-- A function that the host reaches is there to be changed. -/
theorem fn_modFn_self {s : State} {n : Nat} (h : s.reaches n = true) (g : Fn → Fn) : (s.modFn n g).fn n = g (s.fn n) := by
  have hsome : (tget s.hif.fns n).isSome = true := (Bool.and_eq_true_iff.1 h).2
  obtain ⟨f, hf⟩ := Option.isSome_iff_exists.1 hsome
  simp [State.fn, tget_tmod_self, hf]

/-- A change of one function is seen at every function as that change or not at all. -/
theorem fn_modFn_cases (s : State) (k n : Nat) (g : Fn → Fn) :
    (s.modFn k g).fn n = g (s.fn n) ∨ (s.modFn k g).fn n = s.fn n := by
  by_cases hn : n = k
  · subst hn
    cases hf : tget s.hif.fns n with
    | none => exact .inr (by simp [State.fn, tget_tmod_self, hf])
    | some f => exact .inl (by simp [State.fn, tget_tmod_self, hf])
  · exact .inr (by simp [State.fn, tget_tmod_of_ne _ _ hn])

@[simp] theorem fn_emit (s : State) (es : List Emission) (n : Nat) : (s.emit es).fn n = s.fn n := rfl

@[simp] theorem fn_hostFails (s : State) (n : Nat) : s.hostFails.2.fn n = s.fn n := rfl

@[simp] theorem fn_accept (s : State) (c : Cmd) (n : Nat) : (s.accept c).fn n = s.fn n := rfl

/-! ## What leaves the enable bits as they are -/

/-- The register bits that R387 speaks of. -/
def Fn.enables (f : Fn) : Bool × Bool × Bool := (f.cmdEn, f.evtEn, f.enableErr)

theorem modFn_enables (s : State) (k : Nat) {g : Fn → Fn} (hg : ∀ f, (g f).enables = f.enables) (n : Nat) :
    ((s.modFn k g).fn n).enables = (s.fn n).enables := by
  rcases fn_modFn_cases s k n g with h | h
  · rw [h, hg]
  · rw [h]

@[simp] theorem setIrq_enables (f : Fn) (vector : Nat) (q : Irq) : (f.setIrq vector q).enables = f.enables := by
  unfold Fn.setIrq
  split <;> rfl

@[simp] theorem interrupt_enables (s : State) (k vector n : Nat) :
    ((s.interrupt k vector).fn n).enables = (s.fn n).enables := by
  have hmod (q : Irq) := modFn_enables s k (fun f => setIrq_enables f vector q) n
  unfold State.interrupt
  dsimp only
  repeat' split
  · rfl
  · rfl
  · exact hmod _
  · exact hmod _

/-- A reply may set HOST_DMA_ERR and run an interval of its vector, and writes no enable bit. -/
@[simp] theorem writeReply_enables (s : State) (k : Nat) (c : Cmd) (a : Ans) (n : Nat) :
    ((s.writeReply k c a).fn n).enables = (s.fn n).enables := by
  have hdma (t : State) := modFn_enables t k (g := fun f => { f with dmaErr := true }) (fun _ => rfl) n
  unfold State.writeReply
  dsimp only
  repeat' split
  all_goals simp [hdma]

/-- Noticing a slot records its SEQ, and then accepts the command or answers that its SEQ is out of order. -/
@[simp] theorem notice_enables (s : State) (k slot n : Nat) : ((s.notice k slot).fn n).enables = (s.fn n).enables := by
  have hseq (q : Seq) := modFn_enables s k (g := fun f => { f with lastSeq := tset f.lastSeq slot q }) (fun _ => rfl) n
  unfold State.notice
  dsimp only
  split
  · rfl
  · split
    · rw [fn_accept]
      refine (modFn_enables _ k (fun f => ?_) n).trans (hseq _)
      rfl
    · rw [writeReply_enables]
      exact hseq _

@[simp] theorem touch_enables (s : State) (k slot n : Nat) : ((s.touch k slot).fn n).enables = (s.fn n).enables := by
  unfold State.touch
  dsimp only
  split
  · rfl
  · split
    · refine modFn_enables s k (fun f => ?_) n
      split <;> rfl
    · exact notice_enables s k slot n

theorem foldl_enables {α : Type} (g : State → α → State) (n : Nat)
    (hg : ∀ t x, ((g t x).fn n).enables = (t.fn n).enables) (l : List α) (s : State) :
    ((l.foldl g s).fn n).enables = (s.fn n).enables := by
  induction l generalizing s with
  | nil => rfl
  | cons x xs ih => rw [List.foldl_cons, ih, hg]

/-! ## The two writes -/

theorem exec_cmdEnWrite {s : State} {n : Nat} (h : s.reaches n = true) (v : Bool) :
    exec (.cmdEnWrite n v) s = .next (s.writeCmdEn n v) := by
  change Host.Outcome.next _ = _
  rw [if_pos h]

theorem exec_evtEnWrite {s : State} {n : Nat} (h : s.reaches n = true) (v : Bool) :
    exec (.evtEnWrite n v) s = .next (s.modFn n fun f => f.writeEvtEn v) := by
  change Host.Outcome.next _ = _
  rw [if_pos h]

theorem writeCmdEn_false (s : State) (n : Nat) : s.writeCmdEn n false = s.modFn n fun f => { f with cmdEn := false } := rfl

theorem writeCmdEn_of_not_committed {s : State} {n : Nat} (h : (s.fn n).committed = false) :
    s.writeCmdEn n true = s.modFn n fun f => { f with enableErr := true } := by
  simp [State.writeCmdEn, h]

/-- With committed registers CMD_EN is set, and the slots noticed at once change neither it nor the other enable bits. -/
theorem writeCmdEn_enables_of_committed {s : State} {n : Nat} (hreach : s.reaches n = true)
    (h : (s.fn n).committed = true) :
    ((s.writeCmdEn n true).fn n).enables = (true, (s.fn n).evtEn, (s.fn n).enableErr) := by
  by_cases hen : (s.fn n).cmdEn = true
  · simp [State.writeCmdEn, h, hen, Fn.enables]
  · have hset : ((s.modFn n fun f => { f with cmdEn := true }).fn n).enables =
        (true, (s.fn n).evtEn, (s.fn n).enableErr) := by
      rw [fn_modFn_self hreach]
      rfl
    simp only [State.writeCmdEn, h, hen, Bool.not_true, Bool.false_eq_true, if_false]
    rw [foldl_enables _ n fun t slot => ?_, hset]
    split
    · rfl
    · exact touch_enables t n slot n

/-- Settles O26: each write is its function's own change of the register, and what CMD_EN then notices keeps the enable bits
(`writeCmdEn_enables_of_committed`). -/
theorem enableWrites : Obligations.EnableWrites := by
  unfold Obligations.EnableWrites
  intro n s hreach
  refine ⟨?_, fun hc => ?_, fun hc => ?_, ?_, ?_⟩
  · rw [exec_cmdEnWrite hreach, writeCmdEn_false]
  · rw [exec_cmdEnWrite hreach, writeCmdEn_of_not_committed hc]
  · have henables := writeCmdEn_enables_of_committed hreach hc
    simp only [Fn.enables, Prod.mk.injEq] at henables
    obtain ⟨hcmd, -, herr⟩ := henables
    exact ⟨_, exec_cmdEnWrite hreach true, hcmd, herr⟩
  · exact ⟨_, exec_evtEnWrite hreach false, fn_modFn_self hreach _⟩
  · exact ⟨_, exec_evtEnWrite hreach true, fn_modFn_self hreach _⟩

end Sys2Proof.Machine

/-! # Function-level reset and PERST_N

R384 and R551. `FnsReset p s t` says all that a reset of the functions in `p` does and leaves as it is. One function-level
reset is of this shape (`resetFn_fnsReset`), and resets one after another add up (`FnsReset.trans`), so PERST_N resets exactly
the functions that are present. -/

namespace Sys2Proof.Machine

open Sys2Proof

/-! ## What a reset of functions does -/

/-- A command of one of the functions in `p` loses its reply (R384). -/
def Cmd.muteFor (p : Nat → Bool) (c : Cmd) : Cmd :=
  match c.src with
  | .fn n => if p n = true then { c with mute := true } else c
  | .session _ => c

/-- From `s` to `t` the functions in `p` return to reset and their commands lose their replies; nothing else changes. -/
structure FnsReset (p : Nat → Bool) (s t : State) : Prop where
  frame : t = { s with hif := t.hif }
  hif_eq : t.hif = { s.hif with fns := t.hif.fns, cmds := s.hif.cmds.map (Cmd.muteFor p) }
  tget_fns : ∀ n, tget t.hif.fns n = if p n = true then some (Fn.reset true) else tget s.hif.fns n

theorem muteFor_none (c : Cmd) : c.muteFor (fun _ => false) = c := by
  unfold Cmd.muteFor
  split <;> rfl

/-- The source of a command stays, so that two mutings are one. -/
theorem muteFor_muteFor (p q : Nat → Bool) (c : Cmd) : (c.muteFor p).muteFor q = c.muteFor fun n => p n || q n := by
  obtain ⟨id, src, slot, seq, opcode, flags, rsv, dataAddr, dataLen, param, data, started, mute⟩ := c
  cases src with
  | fn n => cases hp : p n <;> simp [Cmd.muteFor, hp]
  | session id => rfl

theorem muteFor_beq (n : Nat) (c : Cmd) :
    c.muteFor (· == n) = if c.src = .fn n then { c with mute := true } else c := by
  unfold Cmd.muteFor
  split
  next m h => simp [h]
  next id h => simp [h]

namespace FnsReset

theorem refl (s : State) : FnsReset (fun _ => false) s s where
  frame := rfl
  hif_eq := by simp [funext muteFor_none]
  tget_fns _ := by simp

variable {p q : Nat → Bool} {s t u : State}

theorem trans (h : FnsReset p s t) (k : FnsReset q t u) : FnsReset (fun n => p n || q n) s u where
  frame := by rw [k.frame, h.frame]
  hif_eq := by
    rw [k.hif_eq, h.hif_eq]
    simp [Function.comp_def, muteFor_muteFor]
  tget_fns n := by
    rw [k.tget_fns, h.tget_fns]
    cases p n <;> cases q n <;> rfl

theorem boot_eq (h : FnsReset p s t) : t.boot = s.boot := by rw [h.frame]

theorem fn_eq (h : FnsReset p s t) (n : Nat) : t.fn n = if p n = true then Fn.reset true else s.fn n := by
  unfold State.fn
  rw [h.tget_fns]
  split <;> rfl

/-- A reset takes no function away. -/
theorem isSome_fns (h : FnsReset p s t) {n : Nat} (hn : (tget s.hif.fns n).isSome = true) :
    (tget t.hif.fns n).isSome = true := by
  rw [h.tget_fns]
  split
  · rfl
  · exact hn

end FnsReset

/-! ## Resets of present functions -/

theorem resetFn_fnsReset {s : State} {n : Nat} (h : (tget s.hif.fns n).isSome = true) :
    FnsReset (· == n) s (s.resetFn n) := by
  have hreset : s.resetFn n = { s with hif := { s.hif with
      fns := tset s.hif.fns n (Fn.reset true), cmds := s.hif.cmds.map (Cmd.muteFor (· == n)) } } := by
    simp [State.resetFn, State.setFn, Option.isNone_eq_false_iff.2 h, funext (muteFor_beq n)]
  rw [hreset]
  refine ⟨rfl, rfl, fun m => ?_⟩
  by_cases hm : m = n
  · simp [hm]
  · simp [hm, tget_tset_of_ne]

theorem foldl_resetFn_fnsReset (l : List Nat) {s : State} (h : ∀ n ∈ l, (tget s.hif.fns n).isSome = true) :
    FnsReset l.contains s (l.foldl State.resetFn s) := by
  induction l generalizing s with
  | nil => exact FnsReset.refl s
  | cons n l ih =>
    have hfirst : FnsReset (· == n) s (s.resetFn n) := resetFn_fnsReset (h n List.mem_cons_self)
    have hrest := ih fun m hm => hfirst.isSome_fns (h m (List.mem_cons_of_mem n hm))
    have hcontains : (n :: l).contains = fun m => m == n || l.contains m := funext fun _ => List.contains_cons
    rw [hcontains]
    exact hfirst.trans hrest

theorem contains_tkeys {α : Type} (t : Tab α) (n : Nat) : (tkeys t).contains n = (tget t n).isSome := by
  induction t with
  | nil => rfl
  | cons e t ih =>
    obtain ⟨k, x⟩ := e
    change (k :: tkeys t).contains n = _
    rw [List.contains_cons, ih, tget]
    by_cases hk : k = n
    · simp [hk]
    · simp [hk, Ne.symm hk]

/-- The keys of the function table are the functions that are present, and all of them are reset. -/
theorem foldl_resetFn_tkeys (s : State) :
    FnsReset (fun n => (tget s.hif.fns n).isSome) s ((tkeys s.hif.fns).foldl State.resetFn s) := by
  rw [← funext (contains_tkeys s.hif.fns)]
  exact foldl_resetFn_fnsReset _ fun n hn => by rwa [← contains_tkeys, List.contains_iff_mem]

/-! ## The three commands -/

theorem exec_functionLevelReset (n : Nat) (s : State) : exec (.functionLevelReset n) s = .next (s.resetFn n) := rfl

/-- The resets leave the bring-up state, where PERST_N is kept, as it is. -/
theorem exec_perstN (s : State) :
    exec .perstN s = .next (((tkeys s.hif.fns).foldl State.resetFn s).setBoot { s.boot with perst := true }) := by
  rw [← (foldl_resetFn_tkeys s).boot_eq]
  rfl

theorem exec_perstNDeassert (s : State) : exec .perstNDeassert s = .next { s with boot := { s.boot with perst := false } } :=
  rfl

/-- Settles O28: a function-level reset is the reset of one function, and PERST_N that of every present one
(`foldl_resetFn_tkeys`) with the PCIe port. -/
theorem pcieResets : Obligations.PcieResets := by
  unfold Obligations.PcieResets
  intro s
  refine ⟨fun n hn => ?_, ?_, exec_perstNDeassert s⟩
  · have h := resetFn_fnsReset hn
    refine ⟨_, exec_functionLevelReset n s, ?_, fun m hm => ?_, ?_⟩
    · simp [h.fn_eq]
    · simp [h.fn_eq, hm]
    · rw [← funext (muteFor_beq n)]
      exact h.frame.trans (congrArg (fun x => { s with hif := x }) h.hif_eq)
  · have h := foldl_resetFn_tkeys s
    refine ⟨_, exec_perstN s, rfl, ?_, rfl, fun n hn => ?_, ?_⟩
    · exact congrArg (State.setBoot · { s.boot with perst := true }) h.frame
    · exact (h.fn_eq n).trans (if_pos hn)
    · exact h.hif_eq

end Sys2Proof.Machine

/-! # The block as a whole: answers, frames, key indices and the fuse

What `exec_mayMove` says of what is kept gives the queue, the key indices and the fuse of every command; `StaysAt` says what a
row of one agent leaves as it is. -/

namespace Sys2Proof.Machine

open Sys2Proof

/-! ## The queue -/

theorem Kept.MayBurn.pending {k k' : Kept} (h : k.MayBurn k') : k'.pending = k.pending := by
  obtain ⟨_, _, rfl⟩ := h
  rfl

theorem Kept.MayIdentify.pending {k k' : Kept} (h : k.MayIdentify k') : k'.pending = k.pending := by
  obtain ⟨_, _, rfl⟩ := h
  rfl

theorem Kept.MayAttest.pending {k k' : Kept} (h : k.MayAttest k') : k'.pending = k.pending := by
  obtain ⟨_, _, rfl⟩ := h
  rfl

theorem Kept.Starts.pending {k k' : Kept} (h : k.Starts k') : k'.pending = k.pending := by
  obtain ⟨_, _, rfl⟩ := h
  rfl

/-- No command may move the queue. -/
theorem Kept.MayMove.pending {k k' : Kept} {c : Instr} (h : k.MayMove c k') : k'.pending = k.pending := by
  unfold Kept.MayMove at h
  split at h
  case h_1 =>
    rcases h with rfl | h
    · rfl
    · exact h.pending
  case h_21 => split at h <;> rw [h]
  all_goals exact h.pending

/-- The manual lets no happening stop the block (log entry 15). -/
theorem exec_answers (c : Instr) (s : State) : ∃ t, exec c s = .next t := by
  cases c <;> exact ⟨_, rfl⟩

/-- Settles O3: every arm of `exec` answers, and `exec_mayMove` leaves the queue out. -/
theorem commandsAnswerAndLeaveTheQueue : Obligations.CommandsAnswerAndLeaveTheQueue := by
  unfold Obligations.CommandsAnswerAndLeaveTheQueue
  exact ⟨exec_answers, fun _ _ _ h => (exec_mayMove _ h).pending⟩

/-! ## The indices of the signing keys -/

/-- From covered indices on, `k'` is covered too and does not go back (R446, R447). -/
def KeyIndex.Advances (k k' : KeyIndex) : Prop := k.covered = true → k'.covered = true ∧ k.next ≤ k'.next

theorem KeyIndex.Advances.refl (k : KeyIndex) : k.Advances k := fun h => ⟨h, Nat.le_refl _⟩

/-- A new block begins at BLOCK_END, which no used index has reached. -/
theorem KeyIndex.Advances.powerOn (k : KeyIndex) : k.Advances k.powerOn := fun h =>
  ⟨powerOn_covered k, (covered_iff k).1 h⟩

theorem KeyIndex.MayTake.advances {k k' : KeyIndex} (h : k.MayTake k') : k.Advances k' := by
  rcases h with rfl | ⟨n, i, h⟩
  · exact .refl _
  · intro hc
    obtain ⟨hcov, -, -, hlt⟩ := take_spec h hc
    exact ⟨hcov, Nat.le_of_lt hlt⟩

/-- Both keys advance. -/
def Kept.Advances (k k' : Kept) : Prop := k.identity.Advances k'.identity ∧ k.attest.Advances k'.attest

theorem Kept.Advances.refl (k : Kept) : k.Advances k := ⟨.refl _, .refl _⟩

theorem Kept.MayBurn.advances {k k' : Kept} (h : k.MayBurn k') : k.Advances k' := by
  obtain ⟨_, _, rfl⟩ := h
  exact .refl k

theorem Kept.MayIdentify.advances {k k' : Kept} (h : k.MayIdentify k') : k.Advances k' := by
  obtain ⟨_, hx, rfl⟩ := h
  exact ⟨hx.advances, .refl _⟩

theorem Kept.MayAttest.advances {k k' : Kept} (h : k.MayAttest k') : k.Advances k' := by
  obtain ⟨_, hx, rfl⟩ := h
  exact ⟨.refl _, hx.advances⟩

theorem Kept.Starts.advances {k k' : Kept} (h : k.Starts k') : k.Advances k' := by
  obtain ⟨_, _, rfl⟩ := h
  exact ⟨.powerOn _, .powerOn _⟩

/-- Whatever a command may move, both keys advance. -/
theorem Kept.MayMove.advances {k k' : Kept} {c : Instr} (h : k.MayMove c k') : k.Advances k' := by
  unfold Kept.MayMove at h
  split at h
  case h_1 =>
    rcases h with rfl | h
    · exact .refl _
    · exact h.advances
  case h_21 =>
    split at h
    · rw [h]
      exact .refl k
    · rw [h]
      exact .refl k
  all_goals exact h.advances

/-- A step on an empty queue moves laps alone; any other is its front command. -/
theorem step_advances {s t : State} (h : step s = .next t) : s.kept.Advances t.kept := by
  unfold step at h
  split at h
  · obtain rfl := Host.Outcome.next.inj h
    exact .refl s.kept
  next c rest hq =>
    have := (exec_mayMove c h).advances
    exact this

/-- Settles O6: both keys advance at every step (`step_advances`), so that what was covered stays covered. -/
theorem indexRecordsCoverUsedIndices : Obligations.IndexRecordsCoverUsedIndices := by
  unfold Obligations.IndexRecordsCoverUsedIndices
  intro s t hi ha h
  obtain ⟨hid, hat⟩ := step_advances h
  exact ⟨(hid hi).1, (hat ha).1⟩

/-! ## The version fuse -/

/-- Every burned bit stays burned. -/
def Kept.FuseStays (k k' : Kept) : Prop := ∃ b, k'.fuse = k.fuse ||| b

theorem Kept.FuseStays.of_eq {k k' : Kept} (h : k'.fuse = k.fuse) : k.FuseStays k' := ⟨0, by simp [h]⟩

theorem Kept.MayBurn.fuseStays {k k' : Kept} (h : k.MayBurn k') : k.FuseStays k' := by
  obtain ⟨b, _, rfl⟩ := h
  exact ⟨b, rfl⟩

theorem Kept.MayIdentify.fuseStays {k k' : Kept} (h : k.MayIdentify k') : k.FuseStays k' := by
  obtain ⟨_, _, rfl⟩ := h
  exact .of_eq rfl

theorem Kept.MayAttest.fuseStays {k k' : Kept} (h : k.MayAttest k') : k.FuseStays k' := by
  obtain ⟨_, _, rfl⟩ := h
  exact .of_eq rfl

theorem Kept.Starts.fuseStays {k k' : Kept} (h : k.Starts k') : k.FuseStays k' := by
  obtain ⟨b, _, rfl⟩ := h
  exact ⟨b, rfl⟩

theorem Kept.MayMove.fuseStays {k k' : Kept} {c : Instr} (h : k.MayMove c k') : k.FuseStays k' := by
  unfold Kept.MayMove at h
  split at h
  case h_1 =>
    rcases h with rfl | h
    · exact .of_eq rfl
    · exact h.fuseStays
  case h_21 => split at h <;> exact .of_eq (by rw [h])
  all_goals exact h.fuseStays

/-- Settles O7: of every command, both keys advance and the fuse only gains bits. -/
theorem whatIsBurnedOrUsedStays : Obligations.WhatIsBurnedOrUsedStays := by
  unfold Obligations.WhatIsBurnedOrUsedStays
  refine ⟨fun c s t hi ha h => ?_, fun c s t i h hi => ?_⟩
  · obtain ⟨hid, hat⟩ := (exec_mayMove c h).advances
    exact ⟨(hid hi).2, (hat ha).2⟩
  · obtain ⟨b, hb⟩ := (exec_mayMove c h).fuseStays
    change t.kept.fuse.getLsbD i = true
    rw [hb, BitVec.getLsbD_or]
    simp [State.kept, hi]

/-! ## Rows of one agent -/

/-- From `s` to `t` nothing has changed but agent `a`, what is put out and the count of open values. -/
def StaysAt (a : Nat) (s t : State) : Prop :=
  t = { s with agents := t.agents, out := t.out, free := t.free } ∧ ∀ b, b ≠ a → t.agent b = s.agent b

namespace StaysAt

variable {a : Nat} {s t u : State}

theorem refl (a : Nat) (s : State) : StaysAt a s s := ⟨rfl, fun _ _ => rfl⟩

theorem trans (h : StaysAt a s t) (k : StaysAt a t u) : StaysAt a s u :=
  ⟨by rw [k.1, h.1], fun b hb => (k.2 b hb).trans (h.2 b hb)⟩

theorem onAgent (a : Nat) (s : State) (f : Agent → Agent × List Emission) : StaysAt a s (s.onAgent a f) :=
  ⟨onAgent_frame s a f, fun _ hb => agent_onAgent_of_ne s f hb⟩

theorem emit (a : Nat) (s : State) (es : List Emission) : StaysAt a s (s.emit es) := ⟨rfl, fun _ _ => rfl⟩

theorem draw (a : Nat) (s : State) : StaysAt a s s.draw.2 := ⟨rfl, fun _ _ => rfl⟩

theorem putPortAt (a p : Nat) (s : State) (q : Port) : StaysAt a s (s.putPortAt (.agent a) p q) := onAgent _ _ _

theorem changePortAt (a p : Nat) (s : State) (q : Port) : StaysAt a s (s.changePortAt (.agent a) p q) := onAgent _ _ _

theorem startTraining (a p : Nat) (s : State) : StaysAt a s (s.startTraining (.agent a) p) := by
  unfold State.startTraining
  split
  · exact (changePortAt _ _ _ _).trans (emit _ _ _)
  · exact refl _ _

theorem ite {c : Prop} [Decidable c] (h : StaysAt a s t) (k : StaysAt a s u) : StaysAt a s (if c then t else u) := by
  split
  · exact h
  · exact k

end StaysAt

theorem Site.eq_agent_of_agentOf {site : Site} {a : Nat} (h : site.agentOf = some a) : site = .agent a := by
  cases site with
  | agent b => rw [Option.some.inj h]
  | chrohar => cases h

/-- Whatever the command, if it concerns one agent it stays there. -/
theorem exec_staysAt {c : Instr} {a : Nat} {s t : State} (ha : c.agentOf = some a) (h : exec c s = .next t) :
    StaysAt a s t := by
  cases c
  all_goals obtain rfl := Host.Outcome.next.inj h
  -- rows at a place: what happens there is one happening at the agent
  case trainingWindowClose | frameReceive | frameSend | ackTimerExpire | ackReceive | flowWindowSend
    | mcastChangedSetSend | nak | mgrBusy | busyHoldExpire | resendTimerExpire | fenceNotice =>
    obtain rfl := Site.eq_agent_of_agentOf ha
    exact .onAgent _ _ _
  case packetArrival x =>
    obtain ⟨site, lost⟩ := x
    obtain rfl := Site.eq_agent_of_agentOf ha
    exact .onAgent _ _ _
  -- rows at a place: what happens there is under a condition
  case lapExchangeCell | forgetCell =>
    obtain rfl := Site.eq_agent_of_agentOf ha
    exact .ite (.onAgent _ _ _) (.refl _ _)
  case laneUpChange | identifyTimeout =>
    obtain rfl := Site.eq_agent_of_agentOf ha
    exact .ite (.changePortAt _ _ _ _) (.refl _ _)
  case idleCell =>
    obtain rfl := Site.eq_agent_of_agentOf ha
    exact .ite (.putPortAt _ _ _ _) (.refl _ _)
  case neighbourDiscoveryCell =>
    obtain rfl := Site.eq_agent_of_agentOf ha
    exact .ite (.ite (.changePortAt _ _ _ _) (.putPortAt _ _ _ _)) (.refl _ _)
  case controlCellSend =>
    obtain rfl := Site.eq_agent_of_agentOf ha
    exact .ite (((StaysAt.draw _ _).trans (.putPortAt _ _ _ _)).trans (.emit _ _ _)) (.refl _ _)
  case trainingAttemptStart =>
    obtain rfl := Site.eq_agent_of_agentOf ha
    exact .startTraining _ _ _
  -- rows of an agent alone
  case registerWrite w =>
    cases w
    case agentReg =>
      obtain rfl := Option.some.inj ha
      exact .onAgent _ _ _
    all_goals cases ha
  case portErrRead | dstFullDropsRead | agentCommit | agentRstNAssert | agentRstNDeassert | agentIsolationTimeout
    | lapSlew | forgetSendEnd | treePartReceive | treeSumFormed | mgrFlowRestart | injectDescriptor
    | deliveryRoomResume | dlvStall | timedRelease | paceRelease | discoverQuery | tableBillet | tblFlip | tblRetire
    | tblState | tblSeed | fence | unfence | collRetry | portHold | ctlAdmit | flowClear | bridgeSet
    | unlistedCtrlOp =>
    obtain rfl := Option.some.inj ha
    exact .onAgent _ _ _
  -- rows of no agent
  all_goals cases ha

theorem Kept.MayBurn.agents {k k' : Kept} (h : k.MayBurn k') : k'.agents = k.agents := by
  obtain ⟨_, _, rfl⟩ := h
  rfl

theorem Kept.MayIdentify.agents {k k' : Kept} (h : k.MayIdentify k') : k'.agents = k.agents := by
  obtain ⟨_, _, rfl⟩ := h
  rfl

theorem Kept.MayAttest.agents {k k' : Kept} (h : k.MayAttest k') : k'.agents = k.agents := by
  obtain ⟨_, _, rfl⟩ := h
  rfl

/-- A command that concerns no agent may move none. -/
theorem Kept.MayMove.agents {k k' : Kept} {c : Instr} (h : k.MayMove c k') (hc : c.agentOf = none) : k'.agents = k.agents := by
  unfold Kept.MayMove at h
  split at h
  case h_1 =>
    rcases h with rfl | h
    · rfl
    · exact h.agents
  case h_21 =>
    rw [hc] at h
    rw [h]
  all_goals exact h.agents

/-- Settles O4: `exec_staysAt` for the rows of one agent, `exec_mayMove` for all others. -/
theorem rowsStayAtTheirAgent : Obligations.RowsStayAtTheirAgent := by
  unfold Obligations.RowsStayAtTheirAgent
  exact ⟨fun _ _ _ _ ha h => exec_staysAt ha h, fun _ _ _ hc h => (exec_mayMove _ h).agents hc⟩

end Sys2Proof.Machine

/-! # The front of the queue, the tick, reset, and what waits for the manager -/

namespace Sys2Proof.Machine

open Sys2Proof

/-! ## One step -/

/-- Settles O1. -/
theorem stepTakesTheFrontCommand : Obligations.StepTakesTheFrontCommand := by
  unfold Obligations.StepTakesTheFrontCommand
  intro c rest s h
  rw [step, h]

theorem step_of_empty {s : State} (h : s.pending = []) : step s = .next s.idle := by
  rw [step, h]

/-- A tick moves an agent's lap counter alone. -/
theorem agent_tick_frame (g : Agent) : g.tick = { g with lapSync := g.tick.lapSync } := by
  unfold Agent.tick
  split <;> rfl

theorem agent_tick_lap (g : Agent) : g.tick.lapSync.lap = if g.inReset then g.lapSync.lap else g.lapSync.lap + 16 := by
  unfold Agent.tick
  split <;> rfl

/-- An agent that has never been released from reset does not tick. -/
theorem agent_idle (s : State) (a : Nat) : s.idle.agent a = (s.agent a).tick := by
  have h : s.idle.agent a = (tget (tmap (fun _ g => g.tick) s.agents) a).getD Agent.reset := rfl
  rw [h, tget_tmap, State.agent]
  cases tget s.agents a <;> rfl

theorem idle_lap (s : State) : s.idle.lap = if 2 ≤ s.boot.wave then s.lap + 16 else s.lap := by
  simp [State.idle, State.lapRuns]

/-- Settles O2: the tick of the module is `idle_lap`, that of each agent `agent_idle`. -/
theorem stepOnEmptyQueueIsOneTick : Obligations.StepOnEmptyQueueIsOneTick := by
  unfold Obligations.StepOnEmptyQueueIsOneTick
  intro s h
  refine ⟨_, step_of_empty h, rfl, fun hw => ?_, fun hw => ?_, fun a => ?_⟩
  · rw [idle_lap, if_pos hw]
  · rw [idle_lap, if_neg (by omega)]
  · rw [agent_idle]
    exact ⟨agent_tick_frame _, agent_tick_lap _⟩

/-! ## The state after reset -/

/-- PF0, the one function present at reset, is at reset like the absent ones. -/
theorem reset_fn_disabled (n : Nat) : (State.reset.fn n).cmdEn = false ∧ (State.reset.fn n).evtEn = false := by
  have h : State.reset.fn n = Fn.reset true ∨ State.reset.fn n = Fn.reset false := by
    change (tget [(0, Fn.reset true)] n).getD (Fn.reset false) = _ ∨ (tget [(0, Fn.reset true)] n).getD (Fn.reset false) = _
    unfold tget
    split
    · exact .inl rfl
    · exact .inr rfl
  rcases h with h | h <;> rw [h] <;> exact ⟨rfl, rfl⟩

/-- Settles O8: each register is read off `State.reset`. -/
theorem theStateAfterReset : Obligations.TheStateAfterReset := by
  unfold Obligations.TheStateAfterReset
  refine ⟨⟨rfl, rfl, rfl, rfl, ?_, fun _ => rfl, reset_fn_disabled, rfl, rfl, rfl⟩, ?_⟩
  · decide
  · decide

/-! ## Without the manager -/

theorem asMgr_of_not_mgrRuns {s : State} (h : s.mgrRuns = false) (f : State → State) : s.asMgr f = s := by
  rw [State.asMgr, h]
  rfl

/-- Settles O55: each of these rows is taken by `State.asMgr`. -/
theorem nothingHappensWithoutTheManager : Obligations.NothingHappensWithoutTheManager := by
  unfold Obligations.NothingHappensWithoutTheManager
  intro c s hc h
  have idle (f : State → State) : Host.Outcome.next (s.asMgr f) = (.next s : Host.Outcome State Fault Refusal) := by
    rw [asMgr_of_not_mgrRuns h]
  cases c
  case heatQueueHead | hearthGradientReceive | meshTransferAccept | hearthPassEnd | normDecision | contribHeldAccept
    | routeComputeDone | drainExpire | runTeardownWaitExpire | ctrlReply | fenceAck | endpointReport | linkEvent
    | linkTilePortChange | resendFail | resendFailGatherExpire | probeTimer | probeWindowClose | discoverReply
    | discoverReplyTimeout =>
    exact idle _
  case hearthRecordUpdate h x =>
    change Host.Outcome.next _ = _
    split
    · exact idle _
    · rfl
  case ackTimerExpire site _ | ackReceive site | nak site | mgrBusy site | flowWindowSend site _
    | mcastChangedSetSend site _ | busyHoldExpire site _ _ | fenceNotice site _ _ _ | resendTimerExpire site _ _ =>
    cases site with
    | agent a => cases hc
    | chrohar => exact idle _
  case packetArrival x =>
    obtain ⟨site, lost⟩ := x
    cases site with
    | agent a => cases hc
    | chrohar => exact idle _
  all_goals cases hc

end Sys2Proof.Machine

/-! # An agent: registers, reset and training

Every row of an agent is `State.onAgent`. Out of reset `whileLive` is nothing (`onAgent_whileLive`), and where AGENT_IRQ does
not move, only the agent and what it puts out itself are left (`onAgent_of_irq_eq`). -/

namespace Sys2Proof.Machine

open Sys2Proof

/-! ## What happens at one agent -/

theorem onAgent_whileLive {s : State} {a : Nat} (h : (s.agent a).inReset = false) (f : Agent → AgentStep) :
    s.onAgent a (whileLive f) = s.onAgent a f := by
  simp [State.onAgent, whileLive, h]

theorem onAgent_of_eq {s : State} {a : Nat} {f : Agent → AgentStep} {r : AgentStep} (h : f (s.agent a) = r) :
    s.onAgent a f = s.onAgent a fun _ => r := by
  simp [State.onAgent, h]

theorem irqChange_of_irq_eq (a : Nat) {g h : Agent} (e : h.irq = g.irq) : irqChange a g h = [] := by
  simp [irqChange, e]

/-- AGENT_IRQ depends on INT_STAT and INT_EN alone. -/
theorem irq_congr {g h : Agent} (hs : h.rings.intStat = g.rings.intStat) (he : h.rings.intEn = g.rings.intEn) :
    h.irq = g.irq := by
  simp [Agent.irq, hs, he]

theorem onAgent_of_irq_eq {s : State} {a : Nat} {f : Agent → AgentStep} (h : (f (s.agent a)).1.irq = (s.agent a).irq) :
    s.onAgent a f = (s.setAgent a (f (s.agent a)).1).emit (f (s.agent a)).2 := by
  rw [State.onAgent, irqChange_of_irq_eq a h, List.append_nil]

theorem onAgent_out (s : State) (a : Nat) (f : Agent → AgentStep) :
    (s.onAgent a f).out = s.out ++ ((f (s.agent a)).2 ++ irqChange a (s.agent a) (f (s.agent a)).1) := rfl

/-! ## Registers of an agent -/

theorem exec_portErrRead {s : State} {a : Nat} (h : (s.agent a).inReset = false) (port : Nat) :
    exec (.portErrRead a port) s = .next
      ((s.setAgent a { s.agent a with ports := tmod (s.agent a).ports port fun q => { q with errCount := 0 } }).emit
        [.regRead ((s.agent a).port port).errCount]) := by
  change Host.Outcome.next _ = _
  rw [onAgent_whileLive h, onAgent_of_irq_eq (irq_congr rfl rfl)]

theorem exec_dstFullDropsRead {s : State} {a : Nat} (h : (s.agent a).inReset = false) :
    exec (.dstFullDropsRead a) s = .next ((s.setAgent a { s.agent a with dstFull := 0 }).emit [.regRead (s.agent a).dstFull]) := by
  change Host.Outcome.next _ = _
  rw [onAgent_whileLive h, onAgent_of_irq_eq (irq_congr rfl rfl)]

theorem exec_agentCommit {s : State} {a : Nat} (h : (s.agent a).inReset = false) (v : BitVec 64) :
    exec (.agentCommit a v) s =
      .next (s.onAgent a fun g => ({ g with rings := g.rings.commit v }, [])) := by
  change Host.Outcome.next _ = _
  rw [onAgent_whileLive h]

theorem commit_of_disabled {r : Rings} (h : r.en = false) : r.commit 1 = { r with live := r.shadow } := by
  simp [Rings.commit, h]

theorem commit_of_enabled {r : Rings} (h : r.en = true) : r.commit 1 = r.raise 6 := by
  simp [Rings.commit, h]

theorem exec_registerWrite_agentReg {s : State} {a : Nat} (h : (s.agent a).inReset = false) (off : Nat) (v : BitVec 64) :
    exec (.registerWrite (.agentReg a off v)) s = .next (s.onAgent a fun g => (Agent.writeReg off v g, [])) := by
  change Host.Outcome.next (s.onAgent a (whileLive _)) = _
  rw [onAgent_whileLive h]

/-- INT_STAT loses the bits written as 1. -/
theorem clearInts_getLsbD (r : Rings) (v : BitVec 64) {i : Nat} (h : i < 64) :
    (r.clearInts v).intStat.getLsbD i = (r.intStat.getLsbD i && !v.getLsbD i) := by
  simp [Rings.clearInts, h]

/-- Settles O9: each row at its agent; AGENT_IRQ moves only where INT_STAT does. -/
theorem agentRegisters : Obligations.AgentRegisters := by
  unfold Obligations.AgentRegisters
  refine ⟨fun a port s h => ⟨exec_portErrRead h port, exec_dstFullDropsRead h, fun hen => ?_, fun hen => ?_⟩,
    fun a v s h => ⟨?_, ?_, ?_⟩⟩
  · rw [exec_agentCommit h, onAgent_of_eq (by rw [commit_of_disabled hen]), onAgent_of_irq_eq (irq_congr rfl rfl)]
    exact congrArg _ (emit_nil _)
  · rw [exec_agentCommit h, onAgent_of_eq (by rw [commit_of_enabled hen])]
    rfl
  · rw [exec_registerWrite_agentReg h, onAgent_of_irq_eq (irq_congr rfl rfl)]
    exact congrArg _ (emit_nil _)
  · rw [exec_registerWrite_agentReg h, onAgent_of_irq_eq (irq_congr rfl rfl)]
    exact congrArg _ (emit_nil _)
  · refine ⟨_, exec_registerWrite_agentReg h 0x0030 v, rfl, ?_, ?_, fun i hi => ?_⟩
    · rw [agent_onAgent_self]
      rfl
    · rw [agent_onAgent_self]
      rfl
    · rw [agent_onAgent_self]
      exact clearInts_getLsbD _ _ (by omega)

/-! ## Ports after a change -/

section
variable (g : Agent) (a p : Nat) (q : Port)

@[simp] theorem changePort_width : ((g.changePort a p q).1.port p).width = q.width := by rw [changePort_port]; simp
@[simp] theorem changePort_state : ((g.changePort a p q).1.port p).state = q.state := by rw [changePort_port]; simp
@[simp] theorem changePort_laneOk : ((g.changePort a p q).1.port p).laneOk = q.laneOk := by rw [changePort_port]; simp
@[simp] theorem changePort_idle : ((g.changePort a p q).1.port p).idle = q.idle := by rw [changePort_port]; simp
@[simp] theorem changePort_instW : ((g.changePort a p q).1.port p).instW = q.instW := by rw [changePort_port]; simp
@[simp] theorem changePort_held : ((g.changePort a p q).1.port p).held = q.held := by rw [changePort_port]; simp
@[simp] theorem changePort_shut : ((g.changePort a p q).1.port p).shut = q.shut := by rw [changePort_port]; simp
@[simp] theorem changePort_nbrSeen : ((g.changePort a p q).1.port p).nbrSeen = q.nbrSeen := by rw [changePort_port]; simp
@[simp] theorem changePort_nbr : ((g.changePort a p q).1.port p).nbr = q.nbr := by rw [changePort_port]; simp

end

theorem changePortAt_agent {s : State} {a : Nat} (h : (s.agent a).inReset = false) (p : Nat) (q : Port) :
    s.changePortAt (.agent a) p q = s.onAgent a fun g => g.changePort a p q := onAgent_whileLive h _

theorem hasPort_agent {s : State} {a p : Nat} (h : (s.agent a).inReset = false)
    (hp : (tget (s.agent a).ports p).isSome = true) : s.hasPort (.agent a) p = true := by
  simp [State.hasPort, h, hp]

@[simp] theorem portAt_agent (s : State) (a p : Nat) : s.portAt (.agent a) p = (s.agent a).port p := rfl

@[simp] theorem portAt_chrohar (s : State) (p : Nat) : s.portAt .chrohar p = s.link.port p := rfl

theorem isUp_iff (q : Port) : q.isUp = true ↔ q.state = .up := by simp [Port.isUp]

/-! ## Reset and release -/

/-- A table of one item for each key of a list. -/
theorem tget_map_mk {α : Type} (f : Nat → α) {l : List Nat} {k : Nat} (h : k ∈ l) :
    tget (l.map fun n => (n, f n)) k = some (f k) := by
  induction l with
  | nil => simp at h
  | cons n l ih =>
    rw [List.map_cons, tget]
    by_cases hn : n = k
    · simp [hn]
    · rw [if_neg hn]
      exact ih ((List.mem_cons.1 h).resolve_left (Ne.symm hn))

/-- The codes 2 to 5 give lanes (Table 3-3). -/
theorem widthOfCode_ne_zero : ∀ c : BitVec 3, 2 ≤ c.toNat ∧ c.toNat ≤ 5 → widthOfCode c ≠ 0 := by decide

theorem startPort_state (inst minw : BitVec 3) :
    (startPort inst minw).state = if 2 ≤ inst.toNat ∧ inst.toNat ≤ 5 then .training else .untrained := by
  unfold startPort
  by_cases h : 2 ≤ inst.toNat ∧ inst.toNat ≤ 5
  · simp [h, widthOfCode_ne_zero inst h]
  · simp [h]

theorem releaseAgent_port (strap : BitVec 16) (sw : Bool) (iw mw : List (BitVec 3)) {p : Nat}
    (h : p < if sw then 16 else 8) :
    (releaseAgent strap sw iw mw).port p = startPort ((iw[p]?).getD 0) ((mw[p]?).getD 0) := by
  simp only [Agent.port, releaseAgent]
  rw [tget_map_mk (fun n => startPort ((iw[n]?).getD 0) ((mw[n]?).getD 0)) (List.mem_range.2 h)]
  rfl

theorem exec_agentRstNDeassert {s : State} {a : Nat} (h : (s.agent a).inReset = true) (strap : BitVec 16) (sw : Bool)
    (iw mw : List (BitVec 3)) :
    exec (.agentRstNDeassert a strap sw iw mw) s = .next (s.onAgent a fun _ =>
      (releaseAgent strap sw iw mw, (presentPorts (releaseAgent strap sw iw mw)).map fun p => .portTrain (.agent a) p)) := by
  change Host.Outcome.next _ = _
  rw [onAgent_of_eq]
  simp [h]

/-! ## Attempts -/

theorem startTraining_agent_of_mayTrain {s : State} {a p : Nat} {q : Port} (h : (s.agent a).inReset = false)
    (hq : tget (s.agent a).ports p = some q) (hm : q.mayTrain = true) :
    s.startTraining (.agent a) p =
      (s.onAgent a fun g => g.changePort a p q.training).emit [.portTrain (.agent a) p] := by
  have hport : (s.agent a).port p = q := port_of_tget hq
  have hhas := hasPort_agent h (p := p) (by rw [hq]; rfl)
  rw [← changePortAt_agent h]
  simp [State.startTraining, State.drives, hhas, hport, hm]

theorem startTraining_agent_of_not_mayTrain {s : State} {a p : Nat} {q : Port}
    (hq : tget (s.agent a).ports p = some q) (hm : q.mayTrain = false) : s.startTraining (.agent a) p = s := by
  simp [State.startTraining, port_of_tget hq, hm]

/-- Settles O10: reset and release put a whole agent; an attempt is a change of one port (`changePort_port`). -/
theorem agentResetAndTraining : Obligations.AgentResetAndTraining := by
  unfold Obligations.AgentResetAndTraining
  refine ⟨fun a strap sw iw mw s => ⟨rfl, fun h => ?_⟩, fun a p q s h hq => ⟨fun hi hh hs hst => ?_, fun hno => ?_⟩⟩
  · refine ⟨_, exec_agentRstNDeassert h strap sw iw mw, ?_, fun p hp => ?_, _, ?_, rfl⟩
    · rw [agent_onAgent_self]
      rfl
    · rw [agent_onAgent_self]
      dsimp only
      rw [releaseAgent_port _ _ _ _ hp, startPort_state]
    · rw [agent_onAgent_self, onAgent_out, List.append_assoc]
  · have hm : q.mayTrain = true := by
      rcases hst with h | h | h <;> simp [Port.mayTrain, hi, hh, hs, h]
    refine ⟨_, _, congrArg Host.Outcome.next (startTraining_agent_of_mayTrain h hq hm), ?_, ?_, ?_, rfl⟩
    · simp [Port.training]
    · simp [Port.training]
    · simp [Port.training]
  · have hm : q.mayTrain = false := by
      rcases hno with h | h | h | h | h | h | h <;> simp [Port.mayTrain, h]
    exact congrArg Host.Outcome.next (startTraining_agent_of_not_mayTrain hq hm)

/-! ## Widths -/

/-- The trained width is an allowed one that is covered, or none. -/
theorem trainedWidth_le (inst lanes : Nat) : trainedWidth inst lanes ≤ inst ∧ trainedWidth inst lanes ≤ lanes := by
  unfold trainedWidth
  cases h : (allowedWidths inst).find? (· ≤ lanes) with
  | none => simp
  | some w =>
    have hmem : w ∈ allowedWidths inst := List.mem_of_find?_eq_some h
    have hle := List.find?_some h
    simp only [allowedWidths, List.mem_filter, decide_eq_true_eq] at hmem hle
    exact ⟨hmem.2, hle⟩

/-- The allowed widths fall, so that the first one covered is the largest. -/
theorem le_trainedWidth {inst lanes w : Nat} (hw : w ∈ allowedWidths inst) (hl : w ≤ lanes) : w ≤ trainedWidth inst lanes := by
  have hsorted : (allowedWidths inst).Pairwise (· ≥ ·) := List.Pairwise.filter _ (by decide)
  unfold trainedWidth
  generalize allowedWidths inst = l at hw hsorted
  induction l with
  | nil => cases hw
  | cons x l ih =>
    rw [List.pairwise_cons] at hsorted
    obtain ⟨hx, hrest⟩ := hsorted
    rw [List.find?_cons]
    split
    · rcases List.mem_cons.1 hw with rfl | hw
      · exact Nat.le_refl _
      · exact hx w hw
    next hno =>
      rcases List.mem_cons.1 hw with rfl | hw
      · simp [hl] at hno
      · exact ih hw hrest

theorem mem_allowedWidths {inst w : Nat} (hw : w = 1 ∨ w = 2 ∨ w = 4 ∨ w = 6 ∨ w = 8) (h : w ≤ inst) :
    w ∈ allowedWidths inst := by
  simp only [allowedWidths, List.mem_filter, decide_eq_true_eq]
  exact ⟨by rcases hw with rfl | rfl | rfl | rfl | rfl <;> decide, h⟩

@[simp] theorem trained_width (q : Port) (lanes : BitVec 8) (n : Nat) :
    (q.trained lanes n).width = trainedWidth q.instW (countLanes lanes) := rfl

theorem trained_state_up_iff (q : Port) (lanes : BitVec 8) (n : Nat) :
    (q.trained lanes n).state = .up ↔ (q.trained lanes n).width ≠ 0 ∧ q.minW ≤ (q.trained lanes n).width := by
  rw [trained_width]
  change (if _ then _ else if _ then _ else _) = _ ↔ _
  split
  next h => simp [h]
  next h =>
    split
    next hlt => simp [h, hlt]
    next hle => simp [h, Nat.not_lt.1 hle]

/-- Settles O11: `trainedWidth_le` and `le_trainedWidth`. -/
theorem trainedWidthIsTheLargestCovered : Obligations.TrainedWidthIsTheLargestCovered := by
  unfold Obligations.TrainedWidthIsTheLargestCovered
  intro q lanes n _
  obtain ⟨hinst, hlanes⟩ := trainedWidth_le q.instW (countLanes lanes)
  exact ⟨rfl, hinst, hlanes, fun w hw hi hl => le_trainedWidth (mem_allowedWidths hw hi) hl, trained_state_up_iff q lanes n⟩

/-! ## The end of a window, changed lanes, and identification -/

/-- A window with one report, of a port in training. -/
theorem closeWindow_single {g : Agent} {a : Nat} {x : LaneReport} (h : (g.port x.port).state = .training) :
    (Agent.closeWindow a [x] g).1 = ((g.forgetOrigins x.port).changePort a x.port
      ((g.port x.port).trained (x.ok &&& laneMask 0 (g.port x.port).instW) 0)).1 := by
  simp [Agent.closeWindow, h]

theorem exec_trainingWindowClose_agent {s : State} {a : Nat} (h : (s.agent a).inReset = false) (reports : List LaneReport) :
    exec (.trainingWindowClose (.agent a) reports) s = .next (s.onAgent a (Agent.closeWindow a reports)) := by
  change Host.Outcome.next (s.onAgent a (whileLive _)) = _
  rw [onAgent_whileLive h]

theorem exec_laneUpChange_agent {s : State} {a p : Nat} {lanes : BitVec 8} (h : (s.agent a).inReset = false)
    (hp : (tget (s.agent a).ports p).isSome = true) (hup : ((s.agent a).port p).state = .up)
    (hne : ((s.agent a).port p).laneOk ≠ lanes &&& laneMask 0 ((s.agent a).port p).instW) :
    exec (.laneUpChange (.agent a) p lanes) s = .next (s.onAgent a fun g => g.changePort a p
      (((s.agent a).port p).lanesChange (lanes &&& laneMask 0 ((s.agent a).port p).instW))) := by
  rw [← changePortAt_agent h]
  change Host.Outcome.next _ = _
  rw [if_pos]
  · rfl
  · have hlanes : s.portLanes (.agent a) p = laneMask 0 ((s.agent a).port p).instW := rfl
    simp [hasPort_agent h hp, (isUp_iff _).2 hup, hlanes, hne]

theorem exec_identifyTimeout_agent {s : State} {a p : Nat} (h : (s.agent a).inReset = false)
    (hp : (tget (s.agent a).ports p).isSome = true) (hup : ((s.agent a).port p).state = .up)
    (hno : ((s.agent a).port p).nbrSeen = false) :
    exec (.identifyTimeout (.agent a) p) s = .next (s.onAgent a fun g => g.changePort a p
      { (s.agent a).port p with state := .noLane, width := 0 }) := by
  rw [← changePortAt_agent h]
  change Host.Outcome.next _ = _
  rw [if_pos]
  · rfl
  · simp [hasPort_agent h hp, (isUp_iff _).2 hup, hno]

/-- Settles O12: each row is a change of one port, and `changePort_port` says what the port then is. -/
theorem portsFollowTheirLanes : Obligations.PortsFollowTheirLanes := by
  unfold Obligations.PortsFollowTheirLanes
  intro a p lanes s h hp
  refine ⟨fun ht => ⟨_, exec_trainingWindowClose_agent h _, ?_⟩, fun hup hne => ⟨_, exec_laneUpChange_agent h hp hup hne, ?_⟩,
    fun hup hno => ⟨_, exec_identifyTimeout_agent h hp hup hno, ?_⟩⟩
  · rw [agent_onAgent_self, closeWindow_single ht]
    simp
  · simp
  · simp

end Sys2Proof.Machine

/-! # An agent: control cells, the lap counter, forgetting and isolation -/

namespace Sys2Proof.Machine

open Sys2Proof

/-! ## Cells that are due -/

theorem getD_getElem?_mem {α : Type} {l : List α} {n : Nat} (d : α) (h : n < l.length) : (l[n]?).getD d ∈ l := by
  rw [List.getElem?_eq_getElem h]
  exact List.getElem_mem h

/-- The cells that are due and have not gone in these 16 FEC blocks. -/
def State.stillDue (s : State) (site : Site) (p : Nat) : List (BitVec 8 × BitVec 80) :=
  (s.dueCells site p).filter fun c => !(s.portAt site p).tx.sent.contains c.1

theorem cellFor_eq (s : State) (site : Site) (p pick : Nat) : s.cellFor site p pick =
    if 64 - (s.portAt site p).tx.ctl % 64 ≤ (s.stillDue site p).length then ((s.stillDue site p)[0]?).getD (0, 0)
    else ((s.dueCells site p ++ [(0, 0)])[pick % ((s.dueCells site p).length + 1)]?).getD (0, 0) := rfl

theorem cellFor_of_last {s : State} {site : Site} {p : Nat} (pick : Nat)
    (h : 64 - (s.portAt site p).tx.ctl % 64 ≤ (s.stillDue site p).length) : s.cellFor site p pick ∈ s.stillDue site p := by
  rw [cellFor_eq, if_pos h]
  refine getD_getElem?_mem (l := s.stillDue site p) _ ?_
  omega

theorem cellFor_mem (s : State) (site : Site) (p pick : Nat) :
    s.cellFor site p pick ∈ s.dueCells site p ∨ s.cellFor site p pick = (0, 0) := by
  by_cases h : 64 - (s.portAt site p).tx.ctl % 64 ≤ (s.stillDue site p).length
  · exact .inl (List.mem_filter.mp (cellFor_of_last pick h)).1
  · have hmem : s.cellFor site p pick ∈ s.dueCells site p ++ [(0, 0)] := by
      rw [cellFor_eq, if_neg h]
      refine getD_getElem?_mem _ ?_
      rw [List.length_append]
      exact Nat.mod_lt _ (Nat.succ_pos _)
    simpa using hmem

/-! ## A port that is put back -/

theorem putPortAt_agent {s : State} {a : Nat} (h : (s.agent a).inReset = false) (p : Nat) (q : Port) :
    s.putPortAt (.agent a) p q = s.setAgent a ((s.agent a).setPort p q) := by
  have hf : s.putPortAt (.agent a) p q = s.onAgent a fun g => (g.setPort p q, []) := onAgent_whileLive h _
  rw [hf, onAgent_of_irq_eq (irq_congr rfl rfl)]
  exact emit_nil _

/-- Putting a port back puts nothing out and draws no open value. -/
theorem putPortAt_reads {s : State} {site : Site} {p : Nat} (h : s.hasPort site p = true) (q : Port) :
    (s.putPortAt site p q).out = s.out ∧ (s.putPortAt site p q).free = s.free ∧ (s.putPortAt site p q).portAt site p = q := by
  cases site with
  | agent a =>
    have hlive : (s.agent a).inReset = false := by
      simp only [State.hasPort, Bool.and_eq_true, Bool.not_eq_true'] at h
      exact h.1
    rw [putPortAt_agent hlive]
    exact ⟨rfl, rfl, by simp⟩
  | chrohar => exact ⟨rfl, rfl, by simp [State.putPortAt]⟩

@[simp] theorem portAt_emit (s : State) (es : List Emission) (site : Site) (p : Nat) :
    (s.emit es).portAt site p = s.portAt site p := by
  cases site <;> rfl

theorem takesCell_agent {s : State} {a p : Nat} {c : CtlCell} (h : (s.agent a).inReset = false)
    (hp : (tget (s.agent a).ports p).isSome = true) (hup : ((s.agent a).port p).state = .up) (hok : cellOk c = true) :
    s.takesCell (.agent a) p c c.csub = true := by
  simp [State.takesCell, hasPort_agent h hp, (isUp_iff _).2 hup, hok]

/-! ## Idle and neighbour cells -/

theorem exec_idleCell_of_takes {s : State} {site : Site} {p : Nat} {c : CtlCell} (h : s.takesCell site p c c.csub = true)
    (h0 : c.csub = 0) :
    exec (.idleCell site p c) s = .next (s.putPortAt site p ((s.portAt site p).takeFreed c.freed)) := by
  change Host.Outcome.next _ = _
  rw [if_pos (by rw [h, h0]; rfl)]

/-- The third matching cell in a row identifies the port (R130). -/
theorem takeNbr_third {q : Port} {n : Nbr} (hno : q.nbrSeen = false) (hc : q.cand = n) (hk : q.candCount = 2) :
    q.takeNbr n = { q with cand := n, candCount := 0, diffCount := 0, nbr := n, nbrSeen := true } := by
  simp [Port.takeNbr, hno, hc, hk]

theorem exec_neighbourDiscoveryCell_agent {s : State} {a p : Nat} {c : CtlCell} (h : (s.agent a).inReset = false)
    (ht : s.takesCell (.agent a) p c 2 = true)
    (hnew : ((((s.agent a).port p).takeFreed c.freed).takeNbr (nbrOf c)).nbrSeen ≠ ((s.agent a).port p).nbrSeen) :
    exec (.neighbourDiscoveryCell (.agent a) p c) s = .next (s.onAgent a fun g => g.changePort a p
      ((((s.agent a).port p).takeFreed c.freed).takeNbr (nbrOf c))) := by
  rw [← changePortAt_agent h]
  change Host.Outcome.next _ = _
  rw [if_pos ht]
  have hne : ∀ b, (((((s.agent a).port p).takeFreed c.freed).takeNbr (nbrOf c)).nbrSeen !=
      (((s.agent a).port p).takeFreed c.freed).nbrSeen || b) = true := fun b =>
    Bool.or_eq_true_iff.2 (.inl (bne_iff_ne.2 hnew))
  dsimp only [portAt_agent]
  rw [if_pos (hne _)]

/-! ## Forgetting and isolation -/

/-- What is left of an agent that forgets (R142). -/
theorem forget_frame (g : Agent) (a : Nat) : (g.forget a).1 = { g with
    ports := (g.forget a).1.ports, rings := (g.forget a).1.rings, room := (g.forget a).1.room, buffers := (g.forget a).1.buffers
    arrived := [], inbox := []
    mgrEid := none, uplink := none, discTab := [], slot0 := Slot.reset, slot1 := Slot.reset, runs := [], attrs := []
    keys := [], fencedKeys := 0, groupFences := [], bridge := [], rejected := 0, srcs := [], dsts := [], chunks := []
    guards := [], eid := none, stamp := 0, lapSync := g.lapSync.alone } := by
  unfold Agent.forget
  dsimp only
  rw [lose_frame]

/-- What is left of an isolated agent (R237). -/
theorem isolate_frame (g : Agent) (a : Nat) : (g.isolate a).1 = { g with
    ports := (g.isolate a).1.ports, rings := (g.isolate a).1.rings, room := (g.isolate a).1.room, buffers := (g.isolate a).1.buffers
    arrived := [], inbox := []
    mgrEid := none, uplink := none, discTab := [], slot0 := Slot.reset, slot1 := Slot.reset, runs := [], attrs := []
    keys := [], fencedKeys := 0, groupFences := [], bridge := [], rejected := 0, srcs := [], dsts := [], chunks := []
    guards := [], lapSync := g.lapSync.alone } := by
  unfold Agent.isolate
  dsimp only
  rw [lose_frame]

/-- A cell with the kept tag tells what the peer has freed, and no more. -/
theorem exec_forgetCell_of_kept {s : State} {a p : Nat} {c : CtlCell} (h : (s.agent a).inReset = false)
    (ht : s.takesCell (.agent a) p c 3 = true) (htag : field c.data 0 64 = (s.agent a).discTag) :
    exec (.forgetCell (.agent a) p c) s = .next
      (s.setAgent a ((s.agent a).setPort p (((s.agent a).port p).takeFreed c.freed))) := by
  rw [← putPortAt_agent h]
  change Host.Outcome.next _ = _
  rw [if_pos ht]
  dsimp only
  rw [onAgent_of_eq (r := ((s.agent a).setPort p (((s.agent a).port p).takeFreed c.freed), []))
    (by rw [if_neg]; simp [htag]), ← onAgent_whileLive h]
  simp [State.putPortAt, State.onAgent, whileLive, h]

/-- A new tag makes the agent forget and pass it on. -/
theorem exec_forgetCell_of_new {s : State} {a p : Nat} {c : CtlCell}
    (ht : s.takesCell (.agent a) p c 3 = true) (htag : field c.data 0 64 ≠ (s.agent a).discTag) :
    ∃ t, exec (.forgetCell (.agent a) p c) s = .next t ∧ t.agent a =
      { (((s.agent a).setPort p (((s.agent a).port p).takeFreed c.freed)).forget a).1 with
        discTag := field c.data 0 64, forgetting := true } := by
  refine ⟨_, rfl, ?_⟩
  rw [if_pos ht]
  dsimp only
  rw [agent_onAgent_self, agentSetPort_discTag, if_pos (bne_iff_ne.2 htag)]

theorem exec_forgetSendEnd (a : Nat) (s : State) :
    exec (.forgetSendEnd a) s = .next (s.setAgent a { s.agent a with forgetting := false }) := by
  change Host.Outcome.next _ = _
  rw [onAgent_of_irq_eq (irq_congr rfl rfl)]
  exact congrArg _ (emit_nil _)

theorem exec_agentIsolationTimeout {s : State} {a : Nat} (h : (s.agent a).inReset = false) :
    ∃ t, exec (.agentIsolationTimeout a) s = .next t ∧ t.agent a =
      if ∀ e ∈ (s.agent a).ports, e.2.state ≠ .up then ((s.agent a).isolate a).1 else s.agent a := by
  refine ⟨_, rfl, ?_⟩
  have hall : ((s.agent a).ports.all fun e => !e.2.isUp) = decide (∀ e ∈ (s.agent a).ports, e.2.state ≠ .up) := by
    rw [Bool.eq_iff_iff]
    simp [Port.isUp]
  rw [onAgent_whileLive h, agent_onAgent_self, hall]
  simp only [decide_eq_true_eq]
  split <;> rfl

/-- Settles O14: `isolate_frame`. -/
theorem isolationKeepsTheEid : Obligations.IsolationKeepsTheEid := by
  unfold Obligations.IsolationKeepsTheEid
  intro a s h
  obtain ⟨t, hexec, ht⟩ := exec_agentIsolationTimeout h
  refine ⟨fun hdown => ⟨t, hexec, ?_⟩, fun e he hup => ⟨t, hexec, ?_⟩⟩
  · rw [ht, if_pos hdown, isolate_frame]
    exact ⟨rfl, rfl, rfl, rfl, rfl, rfl, rfl, rfl, rfl, rfl, rfl, rfl, rfl⟩
  · rw [ht, if_neg fun hdown => hdown e he hup]

/-! ## The lap counter -/

/-- An offset beyond 1 µs sets the counter and makes it STEPPING, but in HOLDOVER. -/
theorem takeOffset_of_far {l : LapSync} {off : Int} (hl : l.lock ≠ .holdover) (hfar : 25600 < off.natAbs) :
    l.takeOffset off = { l with lap := l.lap - BitVec.ofInt 64 off, lock := .stepping, offsets := [] } := by
  have hfar' : lapUs < off.natAbs := hfar
  simp [LapSync.takeOffset, hl, hfar']

theorem exec_lapExchangeCell_agent {s : State} {a p : Nat} {c : CtlCell} (ht : s.takesCell (.agent a) p c 1 = true)
    (hparent : (s.agent a).lapSync.parent = some p) (hmeas : field c.data 40 32 ≠ 0x80000000#32) :
    ∃ t l, exec (.lapExchangeCell (.agent a) p c) s = .next t ∧ l.lock = (s.agent a).lapSync.lock ∧
      l.lap = (s.agent a).lapSync.lap ∧ (t.agent a).lapSync = LapSync.takeOffset l
        (lapOffset (field (s.agent a).lapNow 0 40) (field c.data 0 40) (field c.data 40 32)) := by
  refine ⟨_, { (s.agent a).lapSync with
    depth := min 31 ((field c.data 75 5).toNat + 1)
    delay := lapDelay (field (s.agent a).lapNow 0 40) (field c.data 0 40) (field c.data 40 32) }, rfl, rfl, rfl, ?_⟩
  rw [if_pos ht]
  dsimp only
  rw [agent_onAgent_self, agentSetPort_lapSync, if_pos (by simp [hparent]), if_neg (by simpa using hmeas)]

theorem exec_lapSlew {s : State} {a : Nat} (h : (s.agent a).inReset = false) :
    ∃ t, exec (.lapSlew a) s = .next t ∧ (t.agent a).lapSync = (s.agent a).lapSync.slew := by
  refine ⟨_, rfl, ?_⟩
  rw [onAgent_whileLive h, agent_onAgent_self]

theorem slew_of_recent {l : LapSync} (h : l.sinceSlew < 64) : l.slew = l := by
  simp [LapSync.slew, h]

/-- A locked counter whose offsets are late moves down by one sixteenth of a tick. -/
theorem slew_of_late {l : LapSync} (hlock : l.lock = .locked) (hs : 64 ≤ l.sinceSlew) (hlate : 0 < l.total) :
    l.slew.lap = l.lap - 1 ∧ l.slew.sinceSlew = 0 := by
  have hone : (BitVec.ofInt 64 1) = 1#64 := by decide
  simp [LapSync.slew, hlock, Nat.not_lt.2 hs, hlate, Int.ne_of_gt hlate, hone]

/-- Settles O13: the slot carries `cellFor`; each received cell changes its port, and a forget cell with a new tag the agent as
`forget_frame` says. -/
theorem controlCells : Obligations.ControlCells := by
  unfold Obligations.ControlCells
  refine ⟨fun site p s hp hup => ?_, fun a p c s h hp hup hok => ?_, fun a p c s h hp hup hok hsub hparent hmeas => ?_⟩
  · have hexec : exec (.controlCellSend site p) s = .next
        ((s.draw.2.putPortAt site p { s.portAt site p with
            tx := (s.portAt site p).tx.takeCtl (s.cellFor site p s.draw.1).1 }).emit
          ([.cell site p (ctlSlot (s.portAt site p).tx.ctl)
            (mkCell (s.cellFor site p s.draw.1).1 (s.portAt site p).freedWord (s.cellFor site p s.draw.1).2)] ++
            (s.portAt site p).tx.ended site p)) := by
      change Host.Outcome.next _ = _
      rw [if_pos (by rw [hp, (isUp_iff _).2 hup]; rfl)]
    obtain ⟨hout, hfree, hport⟩ := putPortAt_reads (s := s.draw.2) (site := site) (p := p) (by cases site <;> exact hp)
      { s.portAt site p with tx := (s.portAt site p).tx.takeCtl (s.cellFor site p s.draw.1).1 }
    refine ⟨_, s.cellFor site p s.draw.1, hexec, cellFor_mem _ _ _ _, fun _ hlast => cellFor_of_last _ hlast, ?_, ?_, ?_⟩
    · rw [emit_free, hfree, draw_free]
    · rw [emit_out, hout, draw_out]
      rfl
    · rw [portAt_emit, hport]
  · have htakes := takesCell_agent h hp hup hok
    refine ⟨fun h0 => ?_, fun h2 hno hcand hcount => ?_, fun h3 htag => ?_, fun h3 htag => ?_, exec_forgetSendEnd a s⟩
    · rw [exec_idleCell_of_takes htakes h0, putPortAt_agent h]
      rfl
    · rw [h2] at htakes
      have hthird := takeNbr_third (q := ((s.agent a).port p).takeFreed c.freed) hno hcand hcount
      refine ⟨_, exec_neighbourDiscoveryCell_agent h htakes ?_, ?_, ?_⟩
      · simp [hthird, hno]
      · simp [hthird]
      · simp [hthird]
    · rw [h3] at htakes
      obtain ⟨t, hexec, ht⟩ := exec_forgetCell_of_new htakes htag
      refine ⟨t, hexec, ?_⟩
      rw [ht, forget_frame]
      exact ⟨rfl, rfl, rfl, rfl, rfl, rfl, rfl, rfl, rfl, rfl, rfl, rfl, rfl, rfl, rfl, rfl⟩
    · rw [h3] at htakes
      exact exec_forgetCell_of_kept h htakes htag
  · have htakes := takesCell_agent h hp hup hok
    rw [hsub] at htakes
    refine ⟨fun hlock hfar => ?_, fun hlock hs hlate => ?_, fun hs => ?_⟩
    · obtain ⟨t, l, hexec, hllock, hlap, ht⟩ := exec_lapExchangeCell_agent htakes hparent hmeas
      rw [takeOffset_of_far (by rw [hllock]; exact hlock) hfar] at ht
      refine ⟨t, hexec, ?_, ?_⟩
      · rw [ht]
      · rw [ht, hlap]
    · obtain ⟨t, hexec, ht⟩ := exec_lapSlew h
      obtain ⟨hlap, hsince⟩ := slew_of_late hlock hs hlate
      exact ⟨t, hexec, by rw [ht, hlap], by rw [ht, hsince]⟩
    · obtain ⟨t, hexec, ht⟩ := exec_lapSlew h
      exact ⟨t, hexec, by rw [ht, slew_of_recent hs]⟩

end Sys2Proof.Machine

/-! # Flows at an agent

An act of a source record puts that record (`launch_srcFlow`), so that every row of a source is said by what the act makes of
the record. `Agent.fresh` changes payloads alone, and no sequence number (`copyOf_fresh`). -/

namespace Sys2Proof.Machine

open Sys2Proof

/-- A row of an agent out of reset, seen at that agent: use with `rfl` for the arm of `exec`. -/
theorem exec_live {s : State} {a : Nat} {c : Instr} {f : Agent → AgentStep} (h : (s.agent a).inReset = false)
    (hc : exec c s = .next (s.onAgent a (whileLive f))) : exec c s = .next (s.onAgent a f) := by
  rw [hc, onAgent_whileLive h]

/-! ## Source records -/

theorem find_putSrc_self (l : List SrcFlow) {f : SrcFlow} {key : FlowKey} (h : f.key = key) :
    (putSrc l f).find? (fun g => g.key == key) = some f := by
  induction l with
  | nil => simp [putSrc, h]
  | cons g r ih =>
    unfold putSrc
    split
    next => simp [h]
    next hg =>
      rw [List.find?_cons_of_neg (by simpa [h] using hg)]
      exact ih

theorem find_putSrc_of_ne (l : List SrcFlow) {f : SrcFlow} {key : FlowKey} (h : f.key ≠ key) :
    (putSrc l f).find? (fun g => g.key == key) = l.find? (fun g => g.key == key) := by
  induction l with
  | nil => simp [putSrc, h]
  | cons g r ih =>
    unfold putSrc
    split
    next hg => simp [h, hg]
    next hg => rw [List.find?_cons, List.find?_cons, ih]

theorem srcFlow_def (g : Agent) (key : FlowKey) : g.srcFlow key = g.srcs.find? fun f => f.key == key := rfl

theorem srcFlow_key {g : Agent} {key : FlowKey} {f : SrcFlow} (h : g.srcFlow key = some f) : f.key = key := by
  simpa using List.find?_some h

theorem launch_srcFlow (g : Agent) (a : Nat) {st : SrcStep} {key : FlowKey} (h : st.flow.key = key) :
    (g.launch a st).1.srcFlow key = some st.flow := by
  rw [srcFlow_def, launch_srcs, find_putSrc_self _ h]

theorem launch_srcFlow_of_ne (g : Agent) (a : Nat) {st : SrcStep} {key : FlowKey} (h : st.flow.key ≠ key) :
    (g.launch a st).1.srcFlow key = g.srcFlow key := by
  rw [srcFlow_def, launch_srcs, find_putSrc_of_ne _ h, srcFlow_def]

theorem settle_srcFlow (g : Agent) (a : Nat) {st : SrcStep} {key : FlowKey} (h : st.flow.key = key) :
    (g.settle a st).1.srcFlow key = some st.flow :=
  launch_srcFlow _ a h

/-! ## Payloads read anew -/

/-- A copy with what stands at its descriptor's ADDR now (R366). -/
def Agent.freshCopy (g : Agent) (c : Copy) : Copy :=
  match c.desc with
  | some d => { c with pkt := reread c.pkt d (g.inputOf d) }
  | none => c

theorem fresh_eq (g : Agent) (f : SrcFlow) : g.fresh f = { f with copies := f.copies.map g.freshCopy } := rfl

@[simp] theorem fresh_key (g : Agent) (f : SrcFlow) : (g.fresh f).key = f.key := rfl

@[simp] theorem reread_seq (p : Pkt) (d : Desc) (b : List Byte) : (reread p d b).seq = p.seq := by
  unfold reread
  split <;> rfl

@[simp] theorem freshCopy_seq (g : Agent) (c : Copy) : (g.freshCopy c).pkt.seq = c.pkt.seq := by
  unfold Agent.freshCopy
  split <;> simp

@[simp] theorem freshCopy_tries (g : Agent) (c : Copy) : (g.freshCopy c).tries = c.tries := by
  unfold Agent.freshCopy
  split <;> rfl

@[simp] theorem freshCopy_timer (g : Agent) (c : Copy) : (g.freshCopy c).timer = c.timer := by
  unfold Agent.freshCopy
  split <;> rfl

theorem copyOf_fresh (g : Agent) (f : SrcFlow) (s : Seq) : copyOf (g.fresh f) s = (copyOf f s).map g.freshCopy := by
  rw [copyOf, fresh_eq, List.find?_map]
  simp [Function.comp_def, copyOf]

/-- Payloads are read where inputs have been seen, and nowhere else of the agent. -/
theorem fresh_congr {g h : Agent} (e : h.input = g.input) : h.fresh = g.fresh := by
  funext f
  simp [Agent.fresh, Agent.inputOf, e]

/-- The last try of the record is that of its fresh copies. -/
theorem lastTry_of_fresh {g : Agent} {f : SrcFlow} {seq : Seq} {c : Copy} (h : copyOf (g.fresh f) seq = some c) :
    lastTry f seq = (c.timer && decide (8 ≤ c.tries)) := by
  rw [copyOf_fresh] at h
  obtain ⟨d, hd, rfl⟩ := Option.map_eq_some_iff.1 h
  simp [lastTry, hd]

theorem freeArrived_frame (g : Agent) (x : Arrived) : g.freeArrived x = { g with ports := (g.freeArrived x).ports } :=
  free_frame g _ _ _

/-- The epoch that an agent stamps depends on its slots alone. -/
theorem epochNow_congr {g h : Agent} (h0 : h.slot0 = g.slot0) (h1 : h.slot1 = g.slot1) : h.epochNow = g.epochNow := by
  simp [Agent.epochNow, Agent.current, h0, h1]

/-! ## Timers and resends -/

theorem modCopy_key (f : SrcFlow) (s : Seq) (g : Copy → Copy) : (modCopy f s g).key = f.key := rfl

theorem srcExpire_of_timer {epoch : BitVec 2} {f : SrcFlow} {s : Seq} {c : Copy} (h : copyOf f s = some c)
    (ht : c.timer = true) (hn : c.tries < 8) : (srcExpire epoch f s).flow = modCopy f s (nextTry epoch f) := by
  simp [srcExpire, h, ht, hn]

theorem srcOffer_key (epoch : BitVec 2) (f : SrcFlow) (p : Pkt) (tag : Option (BitVec 16)) (d : Option Desc) :
    (srcOffer epoch f p tag d).flow.key = f.key := by
  unfold srcOffer
  repeat' split
  all_goals rfl

theorem srcFrom_key (fs : List SrcFlow) (key : FlowKey) (base : Nat) (fenced : BitVec 16) :
    (srcFrom fs key base fenced).key = key := by
  unfold srcFrom
  cases h : fs.find? fun f => f.key == key with
  | none => rfl
  | some f => simpa using List.find?_some h

/-- A packet offered to one flow leaves the record of every other. -/
theorem offer_srcFlow_of_ne (g : Agent) (a : Nat) {p : Pkt} (base : Nat) (tag : Option (BitVec 16)) (d : Option Desc)
    {key : FlowKey} (h : flowKeyOf p ≠ key) : (g.offer a p base tag d).1.srcFlow key = g.srcFlow key := by
  unfold Agent.offer
  split
  · rw [finish_frame]
    rfl
  · exact launch_srcFlow_of_ne _ _ (by rwa [srcOffer_key, srcFrom_key])

theorem flowKeyOf_mkTally (k : LaneKey) (e : BitVec 2) (src dst : Eid) (type : BitVec 8) (seq : Seq) (b : BitVec 128) :
    flowKeyOf (mkTally (common k e src dst type) seq b) = { src := src, mcast := false, peer := dst, laneKey := k } := rfl

/-- A tally to the manager leaves the record of every flow that is not to the manager. -/
theorem tellManager_srcFlow {g : Agent} (a : Nat) (type : BitVec 8) (body : BitVec 128) {key : FlowKey}
    (h : g.isMgrFlow key = false) : (g.tellManager a type body).1.srcFlow key = g.srcFlow key := by
  unfold Agent.tellManager
  split
  · rfl
  next m hm =>
    refine offer_srcFlow_of_ne _ _ _ _ _ fun e => ?_
    rw [flowKeyOf_mkTally] at e
    subst e
    simp [Agent.isMgrFlow, hm] at h

theorem launch_isMgrFlow (g : Agent) (a : Nat) (st : SrcStep) (key : FlowKey) :
    (g.launch a st).1.isMgrFlow key = g.isMgrFlow key := by
  have h : (g.launch a st).1.mgrEid = g.mgrEid := by rw [Sent.launch g a st]
  simp [Agent.isMgrFlow, h]

section
variable {a : Nat} {key : FlowKey} {seq : Seq} {f : SrcFlow} {c : Copy} {g : Agent}

theorem resendTimer_of_next (hf : g.srcFlow key = some f) (hc : copyOf (g.fresh f) seq = some c) (ht : c.timer = true)
    (hn : c.tries < 8) : (Agent.resendTimer a key seq g).1.srcFlow key =
      some (modCopy (g.fresh f) seq (nextTry g.epochNow (g.fresh f))) := by
  have hlast : lastTry f seq = false := by simp [lastTry_of_fresh hc, ht, hn]
  have hflow := srcExpire_of_timer (epoch := g.epochNow) hc ht hn
  unfold Agent.resendTimer
  rw [← srcFlow_def, hf]
  simp only [hlast, Bool.not_false, if_true]
  have hkey : f.key = key := srcFlow_key hf
  rw [launch_srcFlow _ _ (by rw [hflow]; exact hkey), hflow]

theorem resendTimer_of_failed (hf : g.srcFlow key = some f) (hc : copyOf (g.fresh f) seq = some c) (ht : c.timer = true)
    (hn : 8 ≤ c.tries) (hm : g.isMgrFlow key = false) : (Agent.resendTimer a key seq g).1.srcFlow key =
      some { f with copies := [], waiting := [], failed := true } := by
  have hlast : lastTry f seq = true := by simp [lastTry_of_fresh hc, ht, hn]
  obtain ⟨d, hd⟩ : ∃ d, copyOf f seq = some d := by
    rw [copyOf_fresh] at hc
    obtain ⟨d, hd, -⟩ := Option.map_eq_some_iff.1 hc
    exact ⟨d, hd⟩
  unfold Agent.resendTimer
  rw [← srcFlow_def, hf]
  simp only [hlast, hm, hd, Bool.not_true, Bool.false_eq_true, if_false]
  rw [tellManager_srcFlow _ _ _ (by rw [launch_isMgrFlow, hm])]
  have hkey : f.key = key := srcFlow_key hf
  exact launch_srcFlow _ _ hkey

theorem resendTimer_of_mgrFlow (hf : g.srcFlow key = some f) (hc : copyOf (g.fresh f) seq = some c) (ht : c.timer = true)
    (hn : 8 ≤ c.tries) (hm : g.isMgrFlow key = true) : (Agent.resendTimer a key seq g).1.srcFlow key =
      some (modCopy f seq fun d => { d with timer := false }) := by
  have hlast : lastTry f seq = true := by simp [lastTry_of_fresh hc, ht, hn]
  unfold Agent.resendTimer
  rw [← srcFlow_def, hf]
  simp only [hlast, hm, Bool.not_true, Bool.false_eq_true, if_false, if_true]
  have hkey : f.key = key := srcFlow_key hf
  exact find_putSrc_self _ hkey

/-- A flow act puts the record that the act makes of the fresh one. -/
theorem onFlow_srcFlow {act : SrcFlow → SrcStep} (hf : g.srcFlow key = some f) (hkey : (act (g.fresh f)).flow.key = f.key) :
    (g.onFlow a key act).1.srcFlow key = some (act (g.fresh f)).flow := by
  unfold Agent.onFlow
  rw [← srcFlow_def, hf]
  exact settle_srcFlow _ _ (hkey.trans (srcFlow_key hf))

theorem mgrRestart_srcFlow (hf : g.srcFlow key = some f) (hc : copyOf (g.fresh f) seq = some c) (ht : c.timer = false)
    (hn : c.tries = 8) (hm : g.isMgrFlow key = true) : (Agent.mgrRestart a key seq g).1.srcFlow key =
      some (modCopy (g.fresh f) seq fun d =>
        { d with pkt := resendPkt g.epochNow (g.fresh f) c 0, tries := 1, timer := true }) := by
  unfold Agent.mgrRestart
  rw [if_pos hm, onFlow_srcFlow hf]
  · simp [hc, ht, hn]
  · simp [hc, ht, hn, modCopy_key]

theorem srcHoldEnd_of_busy {epoch : BitVec 2} (hc : copyOf f seq = some c) (hb : c.busy.isSome = true) :
    (srcHoldEnd epoch f seq).flow =
      modCopy f seq fun d => { d with pkt := resendPkt epoch f c (c.tries - 1), timer := true, busy := none } := by
  obtain ⟨n, hn⟩ := Option.isSome_iff_exists.1 hb
  simp [srcHoldEnd, hc, hn]

end

/-- Settles O15: what the timer does to the record, by the tries of the copy. -/
theorem resendScheduleAtAnAgent : Obligations.ResendScheduleAtAnAgent := by
  unfold Obligations.ResendScheduleAtAnAgent
  intro a key seq f c s h hf hc
  refine ⟨fun ht hn => ⟨_, exec_live h rfl, ?_⟩, fun ht hn hm => ⟨_, exec_live h rfl, ?_⟩,
    fun ht hn hm => ⟨_, exec_live h rfl, ?_⟩, fun ht hn hm => ⟨_, exec_live h rfl, ?_⟩,
    fun hb => ⟨_, exec_live h rfl, ?_⟩⟩
  · rw [agent_onAgent_self]
    exact resendTimer_of_next hf hc ht hn
  · rw [agent_onAgent_self]
    exact resendTimer_of_failed hf hc ht hn hm
  · rw [agent_onAgent_self]
    exact resendTimer_of_mgrFlow hf hc ht hn hm
  · rw [agent_onAgent_self]
    exact mgrRestart_srcFlow hf hc ht hn hm
  · have hflow := srcHoldEnd_of_busy (epoch := (s.agent a).epochNow) hc hb
    rw [agent_onAgent_self, onFlow_srcFlow hf]
    · rw [hflow]
    · rw [hflow, modCopy_key, fresh_key]

/-! ## Answers -/

/-- An answer puts the record that its act makes of the fresh one. -/
theorem answer_srcFlow {g : Agent} (a : Nat) {type : BitVec 8} {act : Pkt → SrcFlow → SrcStep} {key : Pkt → FlowKey}
    {x : Arrived} {rest : List Arrived} {f : SrcFlow} (ht : takeTally type g.arrived = some (x, rest))
    (hgood : tallyGood x.pkt = true) (hf : g.srcFlow (key x.pkt) = some f)
    (hkey : (act x.pkt (g.fresh f)).flow.key = f.key) :
    (g.answer a type act key).1.srcFlow (key x.pkt) = some (act x.pkt (g.fresh f)).flow := by
  have hframe := freeArrived_frame { g with arrived := rest } x
  have hsrcs : (({ g with arrived := rest } : Agent).freeArrived x).srcs = g.srcs := by rw [hframe]
  have hfresh : (({ g with arrived := rest } : Agent).freeArrived x).fresh = g.fresh := fresh_congr (by rw [hframe])
  unfold Agent.answer
  rw [ht]
  dsimp only
  rw [hgood, hsrcs, ← srcFlow_def, hf]
  simp only [Bool.not_true, Bool.false_eq_true, if_false]
  rw [hfresh]
  exact settle_srcFlow _ _ (hkey.trans (srcFlow_key hf))

theorem ackAct_of_single {p : Pkt} (h : (pktTally p).getLsbD 112 = false) (f : SrcFlow) :
    ackAct p f = srcAck f (field (pktTally p) 0 32) (field (pktTally p) 32 64) := by
  simp only [ackAct, h, Bool.false_eq_true, if_false]

theorem srcNak_flow {epoch : BitVec 2} {f : SrcFlow} {s : Seq} {c : Copy} {n : Nat} (hc : copyOf f s = some c)
    (hn : c.tries < 8) :
    (srcNak epoch f s n).flow = if c.tries - 1 = n then modCopy f s (nextTry epoch f) else f := by
  simp only [srcNak, hc, hn, and_true]
  split <;> rfl

theorem srcBusy_of_latest {f : SrcFlow} {s : Seq} {c : Copy} {n hold : Nat} (hc : copyOf f s = some c)
    (hn : c.tries - 1 = n) :
    srcBusy f s n hold = modCopy f s fun d => { d with timer := false, busy := some hold } := by
  simp [srcBusy, hc, hn]

/-! ## What waits at a source -/

@[simp] theorem withChecks_seq (p : Pkt) : (withChecks p).seq = p.seq := by
  unfold withChecks
  split <;> rfl

@[simp] theorem stampTry_seq (epoch : BitVec 2) (n : Nat) (p : Pkt) : (stampTry epoch n p).seq = p.seq := by
  simp [stampTry]

/-- A first try takes the next number, and its copy is on try 1 with its timer running (R88, R95). -/
theorem sendFirst_flow (epoch : BitVec 2) (f : SrcFlow) (p : Pkt) (tag : Option (BitVec 16)) (d : Option Desc) :
    ∃ c : Copy, c.pkt.seq = f.next ∧ c.tries = 1 ∧ c.timer = true ∧ (sendFirst epoch f p tag d).flow =
      { f with next := f.next + 1, lastSet := if f.key.mcast then some (positionSet f p) else none
               copies := f.copies ++ [c] } := by
  refine ⟨_, ?_, ?_, ?_, rfl⟩
  · rw [stampTry_seq]
  · rfl
  · rfl

theorem windowOpen_fresh (g : Agent) (f : SrcFlow) : windowOpen (g.fresh f) = windowOpen f := by
  have hlen : (g.fresh f).copies.length = f.copies.length := List.length_map _
  unfold windowOpen
  rw [hlen]
  rfl

/-- The first waiting packet of a flow with one destination goes once the window is open. -/
theorem srcRelease_of_single {epoch : BitVec 2} {f : SrcFlow} {w : Waiting} {r : List Waiting} (hw : f.waiting = w :: r)
    (hm : f.key.mcast = false) (hopen : windowOpen f = true) :
    srcRelease epoch false f = sendFirst epoch { f with waiting := r } w.pkt w.tag w.desc := by
  have hset : setChanged f w.pkt = false := by simp [setChanged, hm]
  simp [srcRelease, hw, hm, hset, mayGo, hopen]

/-- One of a multicast flow with another position set goes once no packet is outstanding (R562). -/
theorem srcRelease_of_changed {epoch : BitVec 2} {f : SrcFlow} {w : Waiting} {r : List Waiting} (hw : f.waiting = w :: r)
    (hpos : positionSet f w.pkt ≠ 0) (hset : setChanged f w.pkt = true) (hnone : f.copies = [])
    (hopen : windowOpen f = true) :
    srcRelease epoch true f = sendFirst epoch { f with waiting := r } w.pkt w.tag w.desc := by
  unfold srcRelease
  rw [hw]
  dsimp only
  rw [if_neg, if_pos]
  · simp [hset, mayGo, hopen, hnone]
  · simp only [Bool.and_eq_true, beq_iff_eq]
    exact fun e => hpos e.2

/-! ## Fence notices -/

theorem getLsbD_or_bit (x : BitVec 16) {pos : Nat} (h : pos < 16) : (x ||| (1#16 <<< pos)).getLsbD pos = true := by
  simp [h]

/-- A fenced position is not outstanding. -/
theorem outstanding_of_fenced {c : Copy} {pos : Nat} (h : c.fenced.getLsbD pos = true) :
    (outstanding c).getLsbD pos = false := by
  simp [outstanding, h]

theorem fenceCopy_outstanding (c : Copy) {pos : Nat} (h : pos < 16) :
    (outstanding (if (outstanding c).getLsbD pos then { c with fenced := c.fenced ||| (1#16 <<< pos) } else c)).getLsbD pos =
      false := by
  split
  · exact outstanding_of_fenced (getLsbD_or_bit c.fenced h)
  next hno => simpa using hno

theorem srcFence_flow (f : SrcFlow) {pos : Nat} (h : pos < 16) :
    (srcFence f pos false).flow.key = f.key ∧ (srcFence f pos false).flow.fenced.getLsbD pos = true ∧
      ∀ c ∈ (srcFence f pos false).flow.copies, (outstanding c).getLsbD pos = false := by
  refine ⟨rfl, getLsbD_or_bit f.fenced h, fun c hc => ?_⟩
  obtain ⟨d, -, rfl⟩ := List.mem_map.1 (List.mem_filter.mp hc).1
  exact fenceCopy_outstanding d h

theorem srcFence_lifted (f : SrcFlow) (pos : Nat) :
    (srcFence f pos true).flow = { f with fenced := f.fenced &&& ~~~(1#16 <<< pos) } := rfl

theorem fenceNotice_srcFlow {g : Agent} (a : Nat) {key : FlowKey} {f : SrcFlow} (hf : g.srcFlow key = some f) (pos : Nat)
    (lifted : Bool) : (g.fenceNotice a key pos lifted).1.srcFlow key = some (srcFence (g.fresh f) pos lifted).flow := by
  refine (onFlow_srcFlow (g := { g with groupFences := putNotice g.groupFences key pos lifted }) hf ?_).trans rfl
  cases lifted <;> rfl

/-- Settles O16: the acts on a source record, seen in the record (`answer_srcFlow`, `onFlow_srcFlow`). -/
theorem answersAndWaitingPackets : Obligations.AnswersAndWaitingPackets := by
  unfold Obligations.AnswersAndWaitingPackets
  refine ⟨fun a x rest f s h hgood => ⟨fun ht hbit hf => ⟨_, exec_live h rfl, ?_⟩,
    fun ht hf c hc hn => ⟨_, exec_live h rfl, ?_⟩, fun ht hf c hc hn => ⟨_, exec_live h rfl, ?_⟩⟩,
    fun a key f s h hf => ⟨fun w r hw hm hopen => ?_, fun w r hw hm hpos hset hnone hopen => ?_, fun pos hpos => ?_,
      fun pos hpos => ?_⟩⟩
  · rw [agent_onAgent_self, answer_srcFlow a ht hgood hf]
    · rw [ackAct_of_single hbit]
      rfl
    · rw [ackAct_of_single hbit]
      rfl
  · have hflow := srcNak_flow (epoch := (s.agent a).epochNow) (n := (field (pktTally x.pkt) 32 3).toNat) hc hn
    rw [agent_onAgent_self, answer_srcFlow a ht hgood hf]
    · exact congrArg some hflow
    · refine (congrArg SrcFlow.key hflow).trans ?_
      split <;> rfl
  · have hflow := srcBusy_of_latest (hold := (field (pktTally x.pkt) 36 20).toNat) hc hn
    rw [agent_onAgent_self, answer_srcFlow a ht hgood hf]
    · exact congrArg some hflow
    · exact (congrArg SrcFlow.key hflow).trans rfl
  · have hrel := srcRelease_of_single (epoch := (s.agent a).epochNow) (f := (s.agent a).fresh f) hw hm
      (by rw [windowOpen_fresh, hopen])
    obtain ⟨c, hseq, htries, htimer, hflow⟩ := sendFirst_flow (s.agent a).epochNow
      { (s.agent a).fresh f with waiting := r } w.pkt w.tag w.desc
    refine ⟨_, c, exec_live h rfl, hseq, htries, htimer, ?_⟩
    rw [agent_onAgent_self, onFlow_srcFlow hf, hrel, hflow]
    · simp [hm, fresh_eq]
    · rw [hrel, hflow, fresh_key]
  · have hnone' : ((s.agent a).fresh f).copies = [] := by simp [fresh_eq, hnone]
    have hrel := srcRelease_of_changed (epoch := (s.agent a).epochNow) (f := (s.agent a).fresh f) hw hpos hset hnone'
      (by rw [windowOpen_fresh, hopen])
    obtain ⟨c, hseq, htries, htimer, hflow⟩ := sendFirst_flow (s.agent a).epochNow
      { (s.agent a).fresh f with waiting := r } w.pkt w.tag w.desc
    refine ⟨_, c, exec_live h rfl, hseq, htries, htimer, ?_⟩
    rw [agent_onAgent_self, onFlow_srcFlow hf, hrel, hflow]
    · simp [hm, fresh_eq, hnone, positionSet]
    · rw [hrel, hflow, fresh_key]
  · obtain ⟨-, hfenced, hcopies⟩ := srcFence_flow ((s.agent a).fresh f) hpos
    refine ⟨_, _, exec_live h rfl, ?_, hfenced, hcopies⟩
    rw [agent_onAgent_self]
    exact fenceNotice_srcFlow a hf pos false
  · refine ⟨_, (srcFence ((s.agent a).fresh f) pos true).flow, exec_live h rfl, ?_, ?_, ?_⟩
    · rw [agent_onAgent_self]
      exact fenceNotice_srcFlow a hf pos true
    · simp [srcFence_lifted, hpos]
    · rfl

end Sys2Proof.Machine

/-! # Arrivals at an agent -/

namespace Sys2Proof.Machine

open Sys2Proof

/-! ## Destination records -/

theorem findDst_putDst_self (l : List DstFlow) {d : DstFlow} {key : FlowKey} (h : d.key = key) :
    findDst (putDst l d) key = some d := by
  induction l with
  | nil => simp [putDst, findDst, h]
  | cons e r ih =>
    unfold putDst
    split
    next => simp [findDst, h]
    next he =>
      rw [findDst, List.find?_cons_of_neg (by simpa [h] using he)]
      exact ih

theorem dstFlow_def (g : Agent) (key : FlowKey) : g.dstFlow key = findDst g.dsts key := rfl

theorem dstFlow_key {g : Agent} {key : FlowKey} {d : DstFlow} (h : g.dstFlow key = some d) : d.key = key := by
  simpa using List.find?_some h

/-- An ACK touches its record, the ports and what arrives, and nothing else. -/
theorem sendAck_moved (g : Agent) (d : DstFlow) :
    Moved { g with dsts := if (findDst g.dsts d.key).isSome then putDst g.dsts (acked d) else g.dsts } (g.sendAck d) :=
  Moved.transmit _ _

theorem sendAck_frame (g : Agent) (d : DstFlow) : (g.sendAck d).inbox = g.inbox ∧ (g.sendAck d).rings = g.rings := by
  have h := sendAck_moved g d
  unfold Moved at h
  rw [h]
  exact ⟨rfl, rfl⟩

theorem sendAck_dstFlow {g : Agent} {d : DstFlow} {key : FlowKey} (hk : d.key = key) (hs : (g.dstFlow key).isSome = true) :
    (g.sendAck d).dstFlow key = some (acked d) := by
  have h := sendAck_moved g d
  unfold Moved at h
  rw [h, dstFlow_def]
  dsimp only
  rw [if_pos (by rw [hk]; exact hs)]
  exact findDst_putDst_self _ hk

/-! ## What becomes of a packet that is taken -/

/-- What an agent does by the verdict of a packet's flow (R90, R92). -/
def Agent.onVerdict (g : Agent) (a : Nat) (p : Pkt) : DstVerdict → AgentStep
  | .beyond => (g, [])
  | .duplicate d => (g.sendAck d, [])
  | .accept d => if g.tallyFull p then (g, []) else g.acceptNew a d p

/-- A packet whose checks hold, of a flow with a record, and not of the manager's own kinds, is judged by that record. -/
theorem judge_of_record {g : Agent} (a : Nat) {p : Pkt} {d : DstFlow} (hres : reservedPacket p = false)
    (hhead : headOk p = true) (hdata : dataOk p = true) (htab : isTable p = false)
    (hctrl : isBillet p = false → p.c.type ≠ tCtrl) (hd : g.dstFlow (flowKeyOf p) = some d) :
    g.judge a p = g.onVerdict a p (dstJudge d p) := by
  have hfull : g.dstFullFor p = false := by
    rw [dstFlow_def] at hd
    simp [Agent.dstFullFor, hd]
  have hof : dstOf g.dsts p (g.position p) = d := by
    rw [dstFlow_def] at hd
    simp [dstOf, hd]
  have hown : (isTable p || (!isBillet p && p.c.type == tCtrl)) = false := by
    cases hb : isBillet p with
    | true => simp [htab]
    | false => simp [htab, hctrl hb]
  unfold Agent.judge
  simp only [hres, hhead, hdata, hown, hfull, hof, Bool.not_true, Bool.or_self, Bool.false_and, Bool.false_eq_true, if_false]
  cases dstJudge d p <;> rfl

/-- Handing packets over changes no destination record. -/
theorem handOver_dsts (g : Agent) (a : Nat) (p : Pkt) : (g.handOver a p).1.dsts = g.dsts := by
  unfold Agent.handOver
  split
  · rfl
  · split
    · have h := Delivered.deliver (g.endStep p) a (.packet p)
      unfold Delivered at h
      rw [h]
      unfold Agent.endStep
      split <;> rfl
    · have h := Delivered.deliver g a (.packet p)
      unfold Delivered at h
      rw [h]

theorem handAll_dsts (a : Nat) (l : List Pkt) (g : Agent) : (Agent.handAll a l g).1.dsts = g.dsts := by
  induction l generalizing g with
  | nil => rfl
  | cons p r ih =>
    unfold Agent.handAll
    dsimp only
    rw [ih, handOver_dsts]

theorem openFor_dsts (g : Agent) (p : Pkt) : (g.openFor p).dsts = g.dsts := by
  unfold Agent.openFor
  split
  · split <;> rfl
  · rfl

/-- A packet that is accepted stands in its record, which stands as after an ACK with the eighth since the last one. -/
theorem acceptNew_dstFlow {g : Agent} (a : Nat) {d : DstFlow} {p : Pkt} {key : FlowKey} (hk : d.key = key) :
    (g.acceptNew a d p).1.dstFlow key = some (if 8 ≤ (dstAccept d p (isFromManager g p)).1.sinceAck
      then acked (dstAccept d p (isFromManager g p)).1 else (dstAccept d p (isFromManager g p)).1) := by
  unfold Agent.acceptNew
  dsimp only
  generalize hr : dstAccept d p (isFromManager g p) = r
  have hkey : r.1.key = key := by rw [← hr]; exact hk
  generalize hk : (ite (toBuffer p && r.1.held.contains p) _ _ : Agent) = k
  have hput : (Agent.handAll a r.2 k).1.dsts = putDst g.dsts r.1 := by
    rw [handAll_dsts, ← hk]
    split
    · exact openFor_dsts _ _
    · exact openFor_dsts _ _
  have hfind : (Agent.handAll a r.2 k).1.dstFlow key = some r.1 := by
    rw [dstFlow_def, hput, findDst_putDst_self _ hkey]
  split
  · exact sendAck_dstFlow hkey (by rw [hfind]; rfl)
  · exact hfind

/-- Settles O17: the first packet that may be taken is judged by its flow's record (`judge_of_record`). -/
theorem arrivalsAtAnAgent : Obligations.ArrivalsAtAnAgent := by
  unfold Obligations.ArrivalsAtAnAgent
  intro a x rest d s h
  refine ⟨fun hpick hres hhead hdata hone htab hctrl hd => ?_, fun key hd ht => ?_⟩
  · have hframe := freeArrived_frame { s.agent a with arrived := rest } x
    generalize hg : ({ s.agent a with arrived := rest } : Agent).freeArrived x = g at hframe
    have hd' : g.dstFlow (flowKeyOf x.pkt) = some d := by rw [hframe]; exact hd
    have hexec : exec (.packetArrival ⟨.agent a, false⟩) s = .next (s.onAgent a fun _ => g.judge a x.pkt) := by
      refine (exec_live (f := Agent.takeArrival a) h rfl).trans (congrArg _ (onAgent_of_eq ?_))
      simp only [Agent.takeArrival, hpick, hg]
    rw [judge_of_record a hres hhead hdata htab hctrl hd'] at hexec
    refine ⟨fun hv => ⟨_, hexec, ?_⟩, fun hv => ⟨_, hexec, ?_⟩, fun hv hb => ⟨_, hexec, ?_⟩⟩
    · rw [agent_onAgent_self, hv]
      obtain ⟨hinbox, hrings⟩ := sendAck_frame g d
      refine ⟨sendAck_dstFlow (dstFlow_key hd) (by rw [hd']; rfl), hinbox.trans ?_, hrings.trans ?_⟩
      · rw [hframe]
      · rw [hframe]
    · rw [agent_onAgent_self, hv]
      change g.dsts = _ ∧ g.inbox = _ ∧ g.rings = _
      rw [hframe]
      exact ⟨rfl, rfl, rfl⟩
    · have hfull : g.tallyFull x.pkt = false := by simp [Agent.tallyFull, hb]
      have hfrom : isFromManager g x.pkt = isFromManager (s.agent a) x.pkt := by rw [hframe]; rfl
      rw [agent_onAgent_self, hv]
      simp only [Agent.onVerdict, hfull, Bool.false_eq_true, if_false]
      rw [acceptNew_dstFlow a (dstFlow_key hd), hfrom]
  · refine ⟨_, exec_live (f := Agent.ackTimer key) h rfl, ?_⟩
    have hact : (s.agent a).ackTimer key = ((s.agent a).sendAck d, []) := by
      rw [dstFlow_def] at hd
      simp [Agent.ackTimer, hd, ht]
    rw [agent_onAgent_self, hact]
    exact sendAck_dstFlow (dstFlow_key hd) (by rw [hd]; rfl)

end Sys2Proof.Machine

/-! # The endpoint interface, tree sums, barriers and adoption -/

namespace Sys2Proof.Machine

open Sys2Proof

/-! ## Descriptors -/

/-- A row of an agent that does nothing there. -/
theorem onAgent_idle {s : State} {a : Nat} {f : Agent → AgentStep} (h : f (s.agent a) = (s.agent a, [])) :
    s.onAgent a f = s.setAgent a (s.agent a) := by
  rw [onAgent_of_eq h, onAgent_of_irq_eq rfl]
  exact emit_nil _

/-- An agent after it has read a descriptor. -/
def Agent.readDesc (g : Agent) (d : Desc) (payload : List Byte) : Agent :=
  ({ g with rings := { g.rings with injHead := g.rings.injHead + 1 } } : Agent).seeInput d payload

theorem readDesc_frame (g : Agent) (d : Desc) (payload : List Byte) : g.readDesc d payload = { g with
    rings := { g.rings with injHead := g.rings.injHead + 1 }, input := (g.readDesc d payload).input } := seeInput_frame _ _ _

theorem enabled_of_canRead {g : Agent} (h : g.canRead = true) : g.rings.en = true := by
  simp only [Agent.canRead, Bool.and_eq_true] at h
  exact h.1.1.2

theorem inject_of_unread {g : Agent} (a : Nat) (d : Desc) (payload : List Byte) (h : g.canRead = false) :
    Agent.inject a d payload g = (g, []) := by
  simp [Agent.inject, h]

theorem inject_of_code {g : Agent} (a : Nat) {d : Desc} {payload : List Byte} {code : BitVec 8} (h : g.canRead = true)
    (hc : g.checkDesc d payload = some code) :
    Agent.inject a d payload g = (g.readDesc d payload).complete a d.tag code 0 := by
  simp [Agent.inject, h, hc, Agent.readDesc]

theorem inject_of_mode4 {g : Agent} (a : Nat) {d : Desc} {payload : List Byte} (h : g.canRead = true)
    (hc : g.checkDesc d payload = none) (hm : d.mode = 4) :
    Agent.inject a d payload g = if g.chunkRoom d.collId d.step d.chunk d.scale
      then Agent.describe a (g.readDesc d payload) d payload else (g, []) := by
  simp [Agent.inject, h, hc, hm, Agent.readDesc]

/-- A guard that is put changes no record of a flow and no ring. -/
theorem paceSent_frame (g : Agent) (b : BitVec 128) : g.paceSent b = { g with guards := (g.paceSent b).guards } := rfl

/-- The count of read descriptors is no business of what is sent or completed. -/
theorem complete_injHead (g : Agent) (a : Nat) (t : BitVec 16) (c : BitVec 8) (b : BitVec 16) :
    (g.complete a t c b).1.rings.injHead = g.rings.injHead := by
  unfold Agent.complete
  split <;> rfl

theorem finish_injHead (a : Nat) (l : List Finished) (g : Agent) :
    (Agent.finish a l g).1.rings.injHead = g.rings.injHead := by
  induction l generalizing g with
  | nil => rfl
  | cons d r ih =>
    unfold Agent.finish
    dsimp only
    cases d.tag with
    | none => exact ih g
    | some t => exact (ih _).trans (complete_injHead _ _ _ _ _)

theorem launch_injHead (g : Agent) (a : Nat) (st : SrcStep) : (g.launch a st).1.rings.injHead = g.rings.injHead := by
  obtain ⟨m, hm, hl⟩ := launch_frame g a st
  unfold Agent.launch
  refine (finish_injHead _ _ _).trans ?_
  have hsent : Moved { g with srcs := putSrc g.srcs st.flow }
      (st.send.foldl Agent.enter { g with srcs := putSrc g.srcs st.flow }) := Moved.foldl _ .enter _ _
  unfold Moved at hsent
  rw [hsent]

theorem offer_injHead (g : Agent) (a : Nat) (p : Pkt) (base : Nat) (tag : Option (BitVec 16)) (desc : Option Desc) :
    (g.offer a p base tag desc).1.rings.injHead = g.rings.injHead := by
  unfold Agent.offer
  split
  · exact finish_injHead _ _ _
  · exact launch_injHead _ _ _

/-- Past every check, the packet of a descriptor finds a record, or a place for one. -/
theorem hasRecord_of_checkDesc {g : Agent} {d : Desc} {payload : List Byte} (hc : g.checkDesc d payload = none) :
    g.noRecord (flowKeyOf (g.descPkt d payload)) = false := by
  refine Bool.eq_false_iff.mpr fun hfull => ?_
  unfold Agent.checkDesc at hc
  simp only [hfull, if_true] at hc
  repeat' split at hc
  all_goals cases hc

/-- A packet that finds a record, or a place for one, has its record afterwards. -/
theorem offer_isSome {g : Agent} (a : Nat) {p : Pkt} (base : Nat) (tag : Option (BitVec 16)) (desc : Option Desc)
    (h : g.noRecord (flowKeyOf p) = false) : ((g.offer a p base tag desc).1.srcFlow (flowKeyOf p)).isSome = true := by
  unfold Agent.offer
  rw [if_neg (by simp [h])]
  rw [launch_srcFlow _ _ (by rw [srcOffer_key, srcFrom_key])]
  rfl

/-- The agent from which a descriptor's packet is offered. -/
def Agent.beforeOffer (g : Agent) (d : Desc) (payload : List Byte) : Agent :=
  if !d.billet && d.type == tPaceArrive then (g.readDesc d payload).paceSent (pktTally (g.descPkt d payload))
  else g.readDesc d payload

theorem beforeOffer_frame (g : Agent) (d : Desc) (payload : List Byte) : g.beforeOffer d payload = { g.readDesc d payload with
    guards := (g.beforeOffer d payload).guards } := by
  unfold Agent.beforeOffer
  split <;> rfl

theorem inject_of_packet {g : Agent} (a : Nat) {d : Desc} {payload : List Byte} (h : g.canRead = true)
    (hc : g.checkDesc d payload = none) (hm : d.mode ≠ 4) :
    Agent.inject a d payload g = (g.beforeOffer d payload).offer a (g.descPkt d payload)
      (if d.mode = 5 then 20 else g.resendUs) (some d.tag) (some d) := by
  unfold Agent.inject
  simp only [h, hc, Bool.not_true, Bool.false_eq_true, if_false]
  rw [if_neg hm]
  rfl

/-- A descriptor that is read and completed at once moves the two indices, and with them nothing of flows, chunks or ports. -/
theorem readDesc_complete {g : Agent} (a : Nat) (d : Desc) (payload : List Byte) (code : BitVec 8) (hen : g.rings.en = true) :
    let h := (g.readDesc d payload).complete a d.tag code 0
    h.1.rings.injHead = g.rings.injHead + 1 ∧ h.1.rings.cplTail = g.rings.cplTail + 1 ∧ h.1.srcs = g.srcs ∧
      h.1.chunks = g.chunks ∧ h.1.ports = g.ports ∧
      h.2 = [.completion a g.rings.cplTail d.tag code g.rings.cplPhase 0 g.lapNow] := by
  rw [readDesc_frame]
  unfold Agent.complete
  rw [if_pos hen]
  exact ⟨rfl, rfl, rfl, rfl, rfl, rfl⟩

/-! ## Chunk records -/

/-- A record that is put stands among the records. -/
theorem mem_putChunk (p : ChunkRec → Bool) (c : ChunkRec) (l : List ChunkRec) : c ∈ putChunk p c l := by
  induction l with
  | nil => exact List.mem_singleton_self c
  | cons x r ih =>
    unfold putChunk
    split
    · exact List.mem_cons_self
    · exact List.mem_cons_of_mem x ih

/-- The record that a descriptor's own part joins. -/
def Agent.chunkFor (g : Agent) (d : Desc) : ChunkRec :=
  (g.chunks.find? (chunkMatches d.collId d.step d.chunk d.scale)).getD (openChunk d.collId d.step d.chunk d.scale)

/-- No part of its own is there in the record that a descriptor's part joins, when no record of the chunk has one. -/
theorem chunkFor_own {g : Agent} {d : Desc}
    (h : ∀ c ∈ g.chunks, chunkMatches d.collId d.step d.chunk d.scale c = true → c.own = none) :
    (g.chunkFor d).own = none := by
  unfold Agent.chunkFor
  cases hf : g.chunks.find? (chunkMatches d.collId d.step d.chunk d.scale) with
  | none => rfl
  | some c => exact h c (List.mem_of_find?_eq_some hf) (List.find?_some hf)

theorem describe_of_own_none {g : Agent} (a : Nat) {d : Desc} (payload : List Byte) (h : (g.chunkFor d).own = none) :
    Agent.describe a g d payload = ({ g with
      chunks := putChunk (chunkMatches d.collId d.step d.chunk d.scale)
        ((g.chunkFor d).describe d (descSwage d payload)) g.chunks }, []) := by
  unfold Agent.describe
  rw [if_neg (by rw [show (List.find? _ g.chunks).getD _ = g.chunkFor d from rfl, h]; decide)]
  rfl

/-- Settles O18, by what the agent finds: nothing to read, a code of Table 9-9, a part, or a packet. -/
theorem injectDescriptorReads : Obligations.InjectDescriptorReads := by
  unfold Obligations.InjectDescriptorReads
  intro a d payload s h
  have hexec : exec (.injectDescriptor a d payload) s = .next (s.onAgent a (Agent.inject a d payload)) := exec_live h rfl
  have hread := readDesc_frame (s.agent a) d payload
  have hidle : Agent.inject a d payload (s.agent a) = (s.agent a, []) →
      exec (.injectDescriptor a d payload) s = .next (s.setAgent a (s.agent a)) :=
    fun hi => hexec.trans (congrArg Host.Outcome.next (onAgent_idle hi))
  refine ⟨fun hr => hidle (inject_of_unread a d payload hr), fun hr code hc => ⟨_, hexec, ?_⟩,
    fun hr hc hm => ⟨fun hroom hown => ⟨_, (s.agent a).chunkFor d |>.describe d (descSwage d payload), hexec, ?_⟩,
      fun hroom => hidle ?_⟩,
    fun hr hc hm => ⟨_, hexec, ?_⟩⟩
  · obtain ⟨hinj, hcpl, hsrcs, hchunks, hports, hout⟩ := readDesc_complete a d payload code (enabled_of_canRead hr)
    rw [onAgent_out, agent_onAgent_self, inject_of_code a hr hc, hout, List.append_assoc]
    exact ⟨hinj, hcpl, hsrcs, hchunks, hports, rfl⟩
  · have hown' : (((s.agent a).readDesc d payload).chunkFor d).own = none :=
      chunkFor_own (by rw [hread]; exact hown)
    rw [agent_onAgent_self, inject_of_mode4 a hr hc hm, if_pos hroom, describe_of_own_none a payload hown', hread]
    exact ⟨rfl, rfl, mem_putChunk _ _ _, rfl, rfl, rfl, rfl⟩
  · rw [inject_of_mode4 a hr hc hm, if_neg (by rw [hroom]; decide)]
  · rw [agent_onAgent_self, inject_of_packet a hr hc hm]
    refine ⟨(offer_injHead _ _ _ _ _ _).trans ?_, offer_isSome a _ _ _ ?_⟩
    · rw [beforeOffer_frame, hread]
    · rw [beforeOffer_frame, hread]
      exact hasRecord_of_checkDesc hc

end Sys2Proof.Machine

/-! # Tree sums, barriers and adoption -/

namespace Sys2Proof.Machine

open Sys2Proof

/-! ## Lists -/

/-- Two changes that agree on the first element that is found make the same list. -/
theorem modFirst_congr {α : Type} {p : α → Bool} {f g : α → α} {x : α} {l : List α} (h : l.find? p = some x) (hx : f x = g x) :
    modFirst p f l = modFirst p g l := by
  induction l with
  | nil => rfl
  | cons y r ih =>
    cases hy : p y with
    | true =>
      have hxy : y = x := by simpa [List.find?_cons, hy] using h
      subst hxy
      simp [modFirst, hy, hx]
    | false =>
      have hr : r.find? p = some x := by simpa [List.find?_cons, hy] using h
      simp [modFirst, hy, ih hr]

theorem modFirst_id {α : Type} (p : α → Bool) (l : List α) : modFirst p id l = l := by
  induction l with
  | nil => rfl
  | cons y r ih =>
    unfold modFirst
    split
    · rfl
    · rw [ih]

/-! ## Parts and sums -/

theorem takePart_of_first {g : Agent} {p : Pkt} {rest : List Pkt} {h : BilletHdr} (ht : takeFirst isTreePart g.inbox = some (p, rest))
    (hh : pktHdr p = some h) :
    g.takePart.inbox = rest ∧ g.takePart.chunks = modFirst (chunkMatches h.collId h.step h.chunk h.scale)
      (fun c => c.combine { rank := h.rank, elems := swageElems (pktPayload p) (plenBytes h.plen / 8), ovf := h.ovf
                            scale := h.scale }) g.chunks := by
  unfold Agent.takePart
  simp only [ht, hh, and_self]

/-- A part of a named child that is not there yet joins the parts. -/
theorem combine_of_new {c : ChunkRec} {p : TreePart} (hs : c.sent = none) (hc : c.children.contains p.rank = true)
    (hn : ∀ x ∈ c.parts, x.rank ≠ p.rank) : c.combine p = { c with parts := c.parts ++ [p] } := by
  have hany : (c.parts.any fun x => x.rank == p.rank) = false := by simpa using hn
  unfold ChunkRec.combine
  rw [hs, hc, hany]
  simp

theorem combine_of_there {c : ChunkRec} {p : TreePart} (h : ∃ x ∈ c.parts, x.rank = p.rank) : c.combine p = c := by
  have hany : (c.parts.any fun x => x.rank == p.rank) = true := by simpa using h
  unfold ChunkRec.combine
  rw [hany]
  simp

theorem sumBillet_dst (g : Agent) (c : ChunkRec) : (g.sumBillet c).c.dst = c.dest := by
  unfold Agent.sumBillet
  dsimp only
  split <;> rfl

theorem formSum_of_ready {g : Agent} (a : Nat) {c : ChunkRec} (h : g.chunks.find? g.sumReady = some c) :
    (∃ es, (Agent.formSum a g).2 = .sumFrame a (g.sumBillet c) :: es) ∧ (Agent.formSum a g).1.chunks =
      modFirst g.sumReady (fun x => { x with sent := some (g.sumBillet c) }) g.chunks := by
  unfold Agent.formSum
  rw [h]
  refine ⟨⟨_, rfl⟩, ?_⟩
  dsimp only
  have hsent := Sent.offer { g with chunks := modFirst g.sumReady (fun x => { x with sent := some (g.sumBillet c) }) g.chunks } a
    (g.sumBillet c) g.resendUs (some c.tag) none
  unfold Sent at hsent
  rw [hsent]

/-- Settles O19: the part meets its record by `ChunkRec.combine`, and a sum that is formed is offered to the parent. -/
theorem treePartsAndSums : Obligations.TreePartsAndSums := by
  unfold Obligations.TreePartsAndSums
  intro a s hl
  refine ⟨fun p rest h ht hh c hc => ?_, fun c hc => ?_⟩
  · have hexec : exec (.treePartReceive a) s = .next (s.onAgent a fun g => (g.takePart, [])) := exec_live hl rfl
    obtain ⟨hinbox, hchunks⟩ := takePart_of_first ht hh
    refine ⟨fun hs hown hchild hnew => ⟨_, hexec, ?_⟩, fun hthere => ⟨_, hexec, ?_⟩⟩
    · rw [agent_onAgent_self]
      exact ⟨hinbox, hchunks.trans (modFirst_congr hc (combine_of_new hs hchild hnew))⟩
    · rw [agent_onAgent_self]
      exact ⟨hinbox, hchunks.trans ((modFirst_congr hc (combine_of_there hthere)).trans (modFirst_id _ _))⟩
  · obtain ⟨⟨es, hout⟩, hchunks⟩ := formSum_of_ready a hc
    refine ⟨_, _, es ++ irqChange a (s.agent a) (Agent.formSum a (s.agent a)).1, exec_live hl rfl, rfl, sumBillet_dst _ _, ?_, ?_⟩
    · rw [onAgent_out, hout]
      rfl
    · rw [agent_onAgent_self]
      exact hchunks

/-- Settles O20: each element is a sum of the three in either order, and the marks are joined. -/
theorem swageSumIgnoresOrder : Obligations.SwageSumIgnoresOrder := by
  unfold Obligations.SwageSumIgnoresOrder
  intro u v w huv hvw _ _
  refine ⟨List.ext_getElem ?_ fun i h1 h2 => ?_, ?_⟩
  · simp [addSwage, huv, hvw]
  · simp only [addSwage, List.getElem_zipWith]
    exact Int.add_right_comm _ _ _
  · exact BitVec.or_assoc _ _ _ |>.trans (congrArg _ (BitVec.or_comm _ _)) |>.trans (BitVec.or_assoc _ _ _).symm

end Sys2Proof.Machine

/-! # Deliveries, barriers and adoption at an agent -/

namespace Sys2Proof.Machine

open Sys2Proof

/-! ## What waits for room -/

theorem drainRoom_of_notice {g : Agent} (a : Nat) {kind : Nat} {words : List (BitVec 128)} (hroom : g.room = [.notice kind words])
    (hfree : g.rings.tdlvRoom = true) :
    Agent.drainRoom a g.room.length g = ({ g with room := [] } : Agent).writeDeliv a (.notice kind words) := by
  have hnext : nextDeliv g [] g.room = some (.notice kind words, []) := by
    have hfor : g.roomFor (.notice kind words) = true := hfree
    rw [hroom]
    simp [nextDeliv, hfor]
  rw [show g.room.length = 1 by rw [hroom]; rfl]
  unfold Agent.drainRoom
  rw [hnext]
  simp [Agent.drainRoom]

/-- Nothing is next of what has no room. -/
theorem nextDeliv_none {g : Agent} {l : List Deliv} (h : ∀ d ∈ l, g.roomFor d = false) (before : List Deliv) :
    nextDeliv g before l = none := by
  induction l generalizing before with
  | nil => rfl
  | cons d r ih =>
    unfold nextDeliv
    rw [if_neg (by simp [h d List.mem_cons_self])]
    exact ih (fun x hx => h x (List.mem_cons_of_mem d hx)) _

theorem drainRoom_of_full {g : Agent} (a n : Nat) (h : ∀ d ∈ g.room, g.roomFor d = false) : Agent.drainRoom a n g = (g, []) := by
  cases n with
  | zero => rfl
  | succ n =>
    unfold Agent.drainRoom
    rw [nextDeliv_none h]

/-! ## Guards -/

theorem find_putGuard (l : List Guard) {x : Guard} {barrier : BitVec 32} (h : x.barrier = barrier) :
    (putGuard l x).find? (fun y => y.barrier == barrier) = some x := by
  induction l with
  | nil => simp [putGuard, h]
  | cons y r ih =>
    unfold putGuard
    split
    · simp [h]
    · have hy : (y.barrier == barrier) = false := by
        rw [← h]
        simpa using ‹_›
      rw [List.find?_cons_of_neg (by simp [hy])]
      exact ih

theorem guardOf_barrier {g : Agent} {barrier : BitVec 32} {x : Guard} (h : g.guardOf barrier = some x) : x.barrier = barrier := by
  have := List.find?_some h
  simpa using this

/-- What is delivered changes no guard. -/
theorem Delivered.guardOf {g h : Agent} (hd : Delivered g h) (barrier : BitVec 32) : h.guardOf barrier = g.guardOf barrier := by
  unfold Delivered at hd
  rw [hd]
  rfl

theorem timedRelease_guardOf {g : Agent} (a : Nat) {barrier : BitVec 32} {x : Guard} (h : g.guardOf barrier = some x) :
    (Agent.timedRelease a barrier g).1.guardOf barrier = some (if g.timedOut x then
      { x with passed := x.step :: x.passed, timed := true, fallback := 0, arrived := false } else x) := by
  unfold Agent.timedRelease
  rw [h]
  dsimp only
  split
  · refine ((Delivered.notice _ _ _ _).guardOf barrier).trans (find_putGuard g.guards ?_)
    have hbarrier : x.barrier = barrier := guardOf_barrier h
    exact hbarrier
  · exact h

/-- The agent after a release has been entered in its guards. -/
def Agent.released (g : Agent) (rest : List Pkt) (x : Guard) (b : BitVec 128) : Agent :=
  { g with
    inbox := rest
    guards := putGuard g.guards (nextGuard (some x) (field b 0 32) (field b 32 32) (field b 64 64)) }

theorem paceRelease_of_guard {g : Agent} (a : Nat) {p : Pkt} {rest : List Pkt} {x : Guard}
    (ht : takeFirst (fun p => !isBillet p && p.c.type == tPaceRelease) g.inbox = some (p, rest))
    (hx : g.guardOf (field (pktTally p) 0 32) = some x) :
    Agent.paceRelease a g = if x.passed.contains (field (pktTally p) 32 32)
      then (g.released rest x (pktTally p), [])
      else (g.released rest x (pktTally p)).deliver a (.packet p) := by
  unfold Agent.paceRelease
  rw [ht]
  dsimp only
  rw [hx]
  rfl

theorem nextGuard_barrier (x : Guard) (barrier step : BitVec 32) (fallback : BitVec 64) :
    (nextGuard (some x) barrier step fallback).barrier = x.barrier := by
  unfold nextGuard
  dsimp only
  split <;> rfl

theorem nextGuard_of_open {x : Guard} {barrier step : BitVec 32} (fallback : BitVec 64) (hl : seqLater x.step (step + 1) = false)
    (hp : x.passed.contains (step + 1) = false) : (nextGuard (some x) barrier step fallback).step = step + 1 ∧
      (nextGuard (some x) barrier step fallback).fallback = fallback ∧
      (nextGuard (some x) barrier step fallback).passed = x.passed := by
  unfold nextGuard
  dsimp only
  rw [hl, hp]
  exact ⟨rfl, rfl, rfl⟩

theorem nextGuard_of_past {x : Guard} {barrier step : BitVec 32} (fallback : BitVec 64)
    (h : seqLater x.step (step + 1) = true ∨ x.passed.contains (step + 1) = true) :
    nextGuard (some x) barrier step fallback = x := by
  have : (seqLater x.step (step + 1) || x.passed.contains (step + 1)) = true := by rw [Bool.or_eq_true]; exact h
  unfold nextGuard
  simp only [this, if_true]

/-- A tally that is delivered waits for room, or takes the next record of the tally delivery ring. -/
theorem deliver_tally (g : Agent) (a : Nat) {p : Pkt} (hp : isBillet p = false) :
    (g.deliver a (.packet p)).1.room = g.room ++ [.packet p] ∨
      (g.deliver a (.packet p)).1.rings.tdlvTail = g.rings.tdlvTail + 1 := by
  unfold Agent.deliver
  split
  · right
    unfold Agent.writeDeliv
    dsimp only
    rw [hp]
    rfl
  · exact Or.inl rfl

/-- What is taken is of the kind that is looked for. -/
theorem takeFirst_spec {α : Type} {p : α → Bool} {l rest : List α} {x : α} (h : takeFirst p l = some (x, rest)) : p x = true := by
  induction l generalizing rest with
  | nil => cases h
  | cons y r ih =>
    unfold takeFirst at h
    split at h
    · cases h
      assumption
    · split at h
      · cases h
        exact ih ‹_›
      · cases h

/-- Settles O21: the room by `drainRoom_of_notice` and `drainRoom_of_full`, the barriers by the guard that each release puts. -/
theorem deliveriesAndBarriers : Obligations.DeliveriesAndBarriers := by
  unfold Obligations.DeliveriesAndBarriers
  refine ⟨fun a s hl => ?_, fun a barrier x s hl hx => ⟨fun hf ha hlap => ⟨_, exec_live hl rfl, ?_⟩,
    fun hno => ⟨_, exec_live hl rfl, ?_⟩, fun p rest ht hb => ?_⟩⟩
  · have hresume : exec (.deliveryRoomResume a) s = .next (s.onAgent a fun g => Agent.drainRoom a g.room.length g) := exec_live hl rfl
    have hstall : exec (.dlvStall a) s =
        .next (s.onAgent a fun g => (if g.stalled then { g with rings := g.rings.raise 7 } else g, [])) := exec_live hl rfl
    refine ⟨fun w ws hroom hfree => ⟨_, hresume, ?_⟩, fun hfull => ⟨_, hresume, ?_⟩, fun hs => ⟨_, hstall, ?_⟩, fun hs => ?_⟩
    · rw [onAgent_out, agent_onAgent_self, drainRoom_of_notice a hroom hfree, List.append_assoc]
      exact ⟨rfl, rfl, rfl⟩
    · rw [onAgent_idle (f := fun g => Agent.drainRoom a g.room.length g) (drainRoom_of_full a _ hfull)]
      exact ⟨agent_setAgent_self _ _ _, rfl⟩
    · rw [onAgent_out, agent_onAgent_self, if_pos hs]
      exact ⟨rfl, rfl⟩
    · rw [hstall]
      refine congrArg Host.Outcome.next (onAgent_idle ?_)
      rw [if_neg (by rw [hs]; decide)]
  · have hdue : (s.agent a).timedOut x = true := by
      unfold Agent.timedOut
      rw [ha, bne_iff_ne.mpr hf, decide_eq_true hlap]
      rfl
    rw [agent_onAgent_self, timedRelease_guardOf a hx, if_pos hdue]
  · have hdue : (s.agent a).timedOut x = false := by
      rcases hno with h | h
      · simp [Agent.timedOut, h]
      · simp [Agent.timedOut, Nat.not_le.mpr h]
    rw [agent_onAgent_self, timedRelease_guardOf a hx, if_neg (by rw [hdue]; decide)]
  · have hx' : (s.agent a).guardOf (field (pktTally p) 0 32) = some x := hb ▸ hx
    have hput : ((s.agent a).released rest x (pktTally p)).guardOf barrier =
        some (nextGuard (some x) (field (pktTally p) 0 32) (field (pktTally p) 32 32) (field (pktTally p) 64 64)) :=
      find_putGuard _ ((nextGuard_barrier _ _ _ _).trans (guardOf_barrier hx))
    have htally : isBillet p = false := by
      have := takeFirst_spec ht
      simp only [Bool.and_eq_true, Bool.not_eq_true'] at this
      exact this.1
    refine ⟨_, nextGuard (some x) (field (pktTally p) 0 32) (field (pktTally p) 32 32) (field (pktTally p) 64 64),
      exec_live hl rfl, ?_⟩
    rw [agent_onAgent_self, onAgent_out, paceRelease_of_guard a ht hx']
    split
    · rename_i hpassed
      refine ⟨rfl, hput, nextGuard_of_open _, nextGuard_of_past _, fun _ => ⟨?_, rfl⟩,
        fun h => absurd (hpassed.symm.trans h) (by decide)⟩
      rw [irqChange_of_irq_eq a (g := s.agent a) (h := (s.agent a).released rest x (pktTally p)) rfl]
      exact List.append_nil _
    · rename_i hpassed
      have hdel := Delivered.deliver ((s.agent a).released rest x (pktTally p)) a (.packet p)
      refine ⟨?_, (hdel.guardOf barrier).trans hput, nextGuard_of_open _, nextGuard_of_past _, fun h => absurd h hpassed,
        fun _ => deliver_tally _ a htally⟩
      unfold Delivered at hdel
      rw [hdel]
      rfl

/-! ## Adoption -/

theorem takeQuery_of_good {g : Agent} (a : Nat) {x : Arrived} {rest : List Arrived}
    (ht : takeTally tDiscoverQuery g.arrived = some (x, rest)) (hgood : tallyGood x.pkt = true) (hkey : x.pkt.c.laneKey = mgrKey) :
    Agent.takeQuery a g = ((({ g with arrived := rest } : Agent).freeArrived x).query a x, []) := by
  unfold Agent.takeQuery
  rw [ht]
  simp [hgood, hkey]

/-- What an agent is addressed by and routes with. -/
def Agent.placed (g : Agent) : Option Eid × Option Eid × Option Nat × Slot × Slot := (g.eid, g.mgrEid, g.uplink, g.slot0, g.slot1)

theorem Moved.placed {g h : Agent} (m : Moved g h) : h.placed = g.placed := by
  unfold Moved at m
  rw [m]
  rfl

theorem answerQuery_placed (a : Nat) (g : Agent) (p : Pkt) (adopted : Bool) : (g.answerQuery a p adopted).placed = g.placed := by
  unfold Agent.answerQuery
  dsimp only
  split
  · exact (Moved.transmit _ _).placed
  · exact (Moved.transmit _ _).placed

theorem relayQuery_placed (g : Agent) (p : Pkt) : (g.relayQuery p).placed = g.placed := (Moved.enqueue _ _ _ _).placed

/-- The agent that a query has reached, before it answers or sends it on. -/
def Agent.asked (g : Agent) (x : Arrived) : Agent :=
  let g := if !g.eid.isSome then g.adopt x.pkt x.port else g
  if !g.hasTable && g.uplink.isNone then { g with uplink := some x.port, mgrEid := some x.pkt.c.src } else g

theorem query_placed (a : Nat) (g : Agent) (x : Arrived) : (g.query a x).placed = (g.asked x).placed := by
  unfold Agent.query
  change Agent.placed (if (g.asked x).eid == some x.pkt.c.dst then _ else _) = _
  split
  · split
    · exact answerQuery_placed _ _ _ _
    · exact relayQuery_placed _ _
  · change Agent.placed (match tget (g.asked x).discTab x.pkt.c.dst.toNat with
      | some out => (g.asked x).enqueue out x.pkt none
      | none => g.asked x) = _
    split
    · exact (Moved.enqueue _ _ _ _).placed
    · rfl

theorem asked_of_new {g : Agent} (x : Arrived) (h : g.eid = none) : g.asked x = g.adopt x.pkt x.port := by
  unfold Agent.asked
  rw [h]
  exact if_neg (by simp [Agent.adopt])

theorem asked_of_known {g : Agent} (x : Arrived) {e : Eid} (h : g.eid = some e) :
    (g.asked x).eid = g.eid ∧ (g.asked x).slot0 = g.slot0 ∧ (g.asked x).slot1 = g.slot1 := by
  have hold : (if !g.eid.isSome then g.adopt x.pkt x.port else g) = g := if_neg (by simp [h])
  unfold Agent.asked
  rw [hold]
  dsimp only
  split
  · exact ⟨rfl, rfl, rfl⟩
  · exact ⟨rfl, rfl, rfl⟩

/-- Settles O22: an agent without an EID adopts (`asked_of_new`), and what it then answers or relays leaves its place alone. -/
theorem discoveryQueryAdoptsOnce : Obligations.DiscoveryQueryAdoptsOnce := by
  unfold Obligations.DiscoveryQueryAdoptsOnce
  intro a x rest s hl ht hgood hkey
  have hexec : exec (.discoverQuery a) s = .next (s.onAgent a (Agent.takeQuery a)) := exec_live hl rfl
  have hplaced := (query_placed a (({ s.agent a with arrived := rest } : Agent).freeArrived x) x).trans rfl
  simp only [Agent.placed, Prod.mk.injEq] at hplaced
  obtain ⟨heid, hmgr, hup, h0, h1⟩ := hplaced
  refine ⟨fun hn => ⟨_, hexec, ?_⟩, fun e he => ⟨_, hexec, ?_⟩⟩
  · rw [agent_onAgent_self, takeQuery_of_good a ht hgood hkey, heid, hmgr, hup, h0, h1,
      asked_of_new x (by rw [freeArrived_frame]; exact hn)]
    exact ⟨rfl, rfl, rfl, rfl, rfl⟩
  · have hg : (({ s.agent a with arrived := rest } : Agent).freeArrived x).eid = some e := by rw [freeArrived_frame]; exact he
    obtain ⟨ke, k0, k1⟩ := asked_of_known x hg
    rw [agent_onAgent_self, takeQuery_of_good a ht hgood hkey, heid, h0, h1, ke, k0, k1]
    rw [freeArrived_frame]
    exact ⟨he, rfl, rfl⟩

end Sys2Proof.Machine

/-! # The manager's operations at an agent -/

namespace Sys2Proof.Machine

open Sys2Proof

/-! ## Which packet an operation takes -/

/-- An agent once the manager's next packet has left its inbox. -/
def Agent.ordered (g : Agent) (rest : List Pkt) : Agent := { g with inbox := rest }

theorem ctrl_of_order {g : Agent} {op : BitVec 8} (f : Agent → BitVec 128 → AgentStep) {p : Pkt} {rest : List Pkt}
    (hn : g.nextOrder = some (p, rest)) (ht : isTable p = false) (hu : ctrlUnlisted (pktTally p) = false)
    (hop : field (pktTally p) 0 8 = op) : Agent.ctrl op f g = f (g.ordered rest) (pktTally p) := by
  unfold Agent.ctrl
  rw [hn]
  simp [ht, hu, hop, Agent.ordered]

theorem exec_ctrl {s : State} {a : Nat} {c : Instr} {op : BitVec 8} {f : Agent → BitVec 128 → AgentStep} {p : Pkt}
    {rest : List Pkt}
    (hc : exec c s = .next (s.onAgent a (whileLive (Agent.ctrl op f)))) (hl : (s.agent a).inReset = false)
    (hn : (s.agent a).nextOrder = some (p, rest)) (ht : isTable p = false) (hu : ctrlUnlisted (pktTally p) = false)
    (hop : field (pktTally p) 0 8 = op) :
    ∃ t, exec c s = .next t ∧ t.agent a = (f ((s.agent a).ordered rest) (pktTally p)).1 := by
  refine ⟨_, exec_live hl hc, ?_⟩
  rw [agent_onAgent_self, ctrl_of_order f hn ht hu hop]

/-- An operation finds its tally, or does nothing. -/
theorem ctrl_cases (op : BitVec 8) (f : Agent → BitVec 128 → AgentStep) (g : Agent) :
    Agent.ctrl op f g = (g, []) ∨ ∃ rest b, Agent.ctrl op f g = f (g.ordered rest) b := by
  unfold Agent.ctrl
  split
  · split
    · exact Or.inr ⟨_, _, rfl⟩
    · exact Or.inl rfl
  · exact Or.inl rfl

theorem takeTable_of_order {g : Agent} (a : Nat) {p : Pkt} {rest : List Pkt} (hn : g.nextOrder = some (p, rest))
    (ht : isTable p = true) : Agent.takeTable a g = Agent.applyTable a { g with inbox := rest } p := by
  unfold Agent.takeTable
  rw [hn]
  simp [ht]

/-- A row of an agent that puts out nothing and leaves AGENT_IRQ as it is. -/
theorem onAgent_silent {s : State} {a : Nat} {f : Agent → AgentStep} {k : Agent} (h : f (s.agent a) = (k, []))
    (hi : k.irq = (s.agent a).irq) : s.onAgent a f = s.setAgent a k := by
  rw [onAgent_of_irq_eq (by rw [h]; exact hi), h]
  exact emit_nil _

theorem reply_frame (g : Agent) (a : Nat) (op : BitVec 8) (result : BitVec 4) (count : Nat) (more : BitVec 128) :
    Sent g (g.reply a op result count more).1 := Sent.tellManager _ _ _ _

/-- The slots, keys, tables and counts of an agent, which a reply leaves as they are. -/
theorem Sent.tables {g h : Agent} (m : Sent g h) : h.slot0 = g.slot0 ∧ h.slot1 = g.slot1 ∧ h.keys = g.keys ∧
    h.fencedKeys = g.fencedKeys ∧ h.rejected = g.rejected ∧ h.stamp = g.stamp ∧ h.bridge = g.bridge ∧ h.chunks = g.chunks ∧
    h.runs = g.runs ∧ h.attrs = g.attrs ∧ h.inbox = g.inbox ∧ h.dsts = g.dsts ∧ h.mgrEid = g.mgrEid := by
  unfold Sent at m
  rw [m]
  exact ⟨rfl, rfl, rfl, rfl, rfl, rfl, rfl, rfl, rfl, rfl, rfl, rfl, rfl⟩

/-! ## Slots -/

theorem reparent_frame (g : Agent) : g.reparent = { g with lapSync := g.reparent.lapSync } := by
  unfold Agent.reparent
  split <;> rfl

theorem drain_state (t : Slot) (e : BitVec 2) : (t.drain e).state = .draining := by
  unfold Slot.drain
  split <;> rfl

/-- After TBL_FLIP the slots are those of the flip, or stay, and the count of rejected billets is zero. -/
theorem doFlip_slots (a : Nat) (g : Agent) (b : BitVec 128) : (Agent.doFlip a g b).1.rejected = 0 ∧
    (Agent.doFlip a g b).1.slot0 = ((g.flip (field b 8 2)).getD g).slot0 ∧
    (Agent.doFlip a g b).1.slot1 = ((g.flip (field b 8 2)).getD g).slot1 := by
  unfold Agent.doFlip
  split
  · rename_i g1 h
    obtain ⟨h0, h1, _, _, hr, _⟩ := (reply_frame { g1 with rejected := 0 } a 0x01 0 g.rejected 0).tables
    rw [h]
    exact ⟨hr, h0, h1⟩
  · rename_i h
    obtain ⟨h0, h1, _, _, hr, _⟩ := (reply_frame { g with rejected := 0 } a 0x01 1 g.rejected 0).tables
    rw [h]
    exact ⟨hr, h0, h1⟩

theorem doFlip_of_slot0 (a : Nat) (g : Agent) (b : BitVec 128) (hs : g.slot0.state = .staged) (he : g.slot0.epoch = field b 8 2) :
    (Agent.doFlip a g b).1.slot0 = { g.slot0 with state := .current } ∧ (Agent.doFlip a g b).1.slot1.state = .draining := by
  obtain ⟨_, h0, h1⟩ := doFlip_slots a g b
  rw [h0, h1, Agent.flip, if_pos ⟨hs, he⟩, Option.getD_some, reparent_frame]
  exact ⟨rfl, drain_state _ _⟩

theorem doFlip_of_slot1 (a : Nat) (g : Agent) (b : BitVec 128) (hn : ¬(g.slot0.state = .staged ∧ g.slot0.epoch = field b 8 2))
    (hs : g.slot1.state = .staged) (he : g.slot1.epoch = field b 8 2) :
    (Agent.doFlip a g b).1.slot1 = { g.slot1 with state := .current } ∧ (Agent.doFlip a g b).1.slot0.state = .draining := by
  obtain ⟨_, h0, h1⟩ := doFlip_slots a g b
  rw [h0, h1, Agent.flip, if_neg hn, if_pos ⟨hs, he⟩, Option.getD_some, reparent_frame]
  exact ⟨rfl, drain_state _ _⟩

theorem doFlip_of_other (a : Nat) (g : Agent) (b : BitVec 128) (h0 : ¬(g.slot0.state = .staged ∧ g.slot0.epoch = field b 8 2))
    (h1 : ¬(g.slot1.state = .staged ∧ g.slot1.epoch = field b 8 2)) :
    (Agent.doFlip a g b).1.slot0 = g.slot0 ∧ (Agent.doFlip a g b).1.slot1 = g.slot1 := by
  obtain ⟨_, hs0, hs1⟩ := doFlip_slots a g b
  rw [hs0, hs1, Agent.flip, if_neg h0, if_neg h1]
  exact ⟨rfl, rfl⟩

theorem Moved.voidAll (g : Agent) (e : BitVec 2) : Moved g (g.voidAll e) := by
  unfold Agent.voidAll
  exact Moved.trans (h := { g with
    ports := tmap (fun _ q => q.voidEpoch e) g.ports, arrived := g.arrived.filter fun x => x.pkt.c.epoch != e }) rfl
    (.foldl _ .freeArrived _ _)

theorem doRetire_slots (a : Nat) (g : Agent) (b : BitVec 128) :
    (Agent.doRetire a g b).1.slot0 = ((g.retire (field b 8 2)).getD g).slot0 ∧
    (Agent.doRetire a g b).1.slot1 = ((g.retire (field b 8 2)).getD g).slot1 := by
  unfold Agent.doRetire
  split
  · rename_i g1 h
    obtain ⟨h0, h1, _⟩ := (reply_frame g1 a 0x02 0 (g.voidCount (field b 8 2)) 0).tables
    rw [h]
    exact ⟨h0, h1⟩
  · rename_i h
    obtain ⟨h0, h1, _⟩ := (reply_frame g a 0x02 1 0 0).tables
    rw [h]
    exact ⟨h0, h1⟩

theorem voidAll_slots (g : Agent) (e : BitVec 2) : (g.voidAll e).slot0 = g.slot0 ∧ (g.voidAll e).slot1 = g.slot1 := by
  rw [Moved.voidAll g e]
  exact ⟨rfl, rfl⟩

theorem doRetire_of_slot0 (a : Nat) (g : Agent) (b : BitVec 128) (hs : g.slot0.state = .draining)
    (he : g.slot0.epoch = field b 8 2) :
    (Agent.doRetire a g b).1.slot0 = g.slot1.nextOf ∧ (Agent.doRetire a g b).1.slot1 = g.slot1 := by
  obtain ⟨h0, h1⟩ := doRetire_slots a g b
  rw [h0, h1, Agent.retire, if_pos ⟨hs, he⟩]
  exact ⟨rfl, (voidAll_slots _ _).2⟩

theorem doRetire_of_slot1 (a : Nat) (g : Agent) (b : BitVec 128)
    (hn : ¬(g.slot0.state = .draining ∧ g.slot0.epoch = field b 8 2))
    (hs : g.slot1.state = .draining) (he : g.slot1.epoch = field b 8 2) :
    (Agent.doRetire a g b).1.slot1 = g.slot0.nextOf ∧ (Agent.doRetire a g b).1.slot0 = g.slot0 := by
  obtain ⟨h0, h1⟩ := doRetire_slots a g b
  rw [h0, h1, Agent.retire, if_neg hn, if_pos ⟨hs, he⟩]
  exact ⟨rfl, (voidAll_slots _ _).1⟩

theorem doRetire_of_other (a : Nat) (g : Agent) (b : BitVec 128)
    (h0 : ¬(g.slot0.state = .draining ∧ g.slot0.epoch = field b 8 2))
    (h1 : ¬(g.slot1.state = .draining ∧ g.slot1.epoch = field b 8 2)) :
    (Agent.doRetire a g b).1.slot0 = g.slot0 ∧ (Agent.doRetire a g b).1.slot1 = g.slot1 := by
  obtain ⟨hs0, hs1⟩ := doRetire_slots a g b
  rw [hs0, hs1, Agent.retire, if_neg h0, if_neg h1]
  exact ⟨rfl, rfl⟩

theorem doSeed_of_tables (a : Nat) (g : Agent) (b : BitVec 128) (h : g.slot0.state = .current ∨ g.slot0.state = .draining ∨
    g.slot1.state = .current ∨ g.slot1.state = .draining) :
    (Agent.doSeed a g b).1.slot0 = g.slot0 ∧ (Agent.doSeed a g b).1.slot1 = g.slot1 := by
  unfold Agent.doSeed
  rw [if_pos h]
  obtain ⟨h0, h1, _⟩ := (reply_frame g a 0x04 1 0 0).tables
  exact ⟨h0, h1⟩

theorem doSeed_of_none (a : Nat) (g : Agent) (b : BitVec 128) (h : ¬(g.slot0.state = .current ∨ g.slot0.state = .draining ∨
    g.slot1.state = .current ∨ g.slot1.state = .draining)) :
    (Agent.doSeed a g b).1.slot0 = { Slot.reset with state := .staged, epoch := field b 8 2 } ∧
      (Agent.doSeed a g b).1.slot1 = Slot.reset := by
  unfold Agent.doSeed
  rw [if_neg h]
  obtain ⟨h0, h1, _⟩ := (reply_frame { g with
    slot0 := { Slot.reset with state := .staged, epoch := field b 8 2 }, slot1 := Slot.reset } a 0x04 0 0 0).tables
  exact ⟨h0, h1⟩

/-! ## TABLE billets -/

theorem applyTable_of_bad {g : Agent} (a : Nat) {p : Pkt} (h : tableBad (tableDesc (pktPayload p)) (pktPayload p) = true) :
    Agent.applyTable a g p = (g.reject, []) := by
  unfold Agent.applyTable
  simp only [h, if_true]

theorem applyTable_of_good {g : Agent} (a : Nat) {p : Pkt} {d : TableDesc} (hd : tableDesc (pktPayload p) = d)
    (h : tableBad d (pktPayload p) = false) :
    Agent.applyTable a g p =
      let es := tableEntries d ((tableShape d.kind).getD (1, 0)).1 (pktPayload p)
      if d.kind ≤ 3 then
        if g.slot0.state = .staged ∧ g.slot0.epoch = d.epoch then
          ({ g with discTab := [], slot0 := es.foldl (Slot.write d.kind) g.slot0 }, [])
        else if g.slot1.state = .staged ∧ g.slot1.epoch = d.epoch then
          ({ g with discTab := [], slot1 := es.foldl (Slot.write d.kind) g.slot1 }, [])
        else (g.reject, [])
      else if d.kind = 4 then ({ g with runs := es.foldl (fun t e => putEntry t e.1 e.2) g.runs }, [])
      else if d.kind = 5 then ({ g with attrs := es.foldl (fun t e => putEntry t e.1 e.2) g.attrs }, [])
      else Agent.loadKeys a es g := by
  unfold Agent.applyTable
  simp only [hd, h, Bool.false_eq_true, if_false]

theorem applyTable_of_attrs {g : Agent} (a : Nat) {p : Pkt} {d : TableDesc} (hd : tableDesc (pktPayload p) = d)
    (h : tableBad d (pktPayload p) = false) (hk : d.kind = 5) : Agent.applyTable a g p =
      ({ g with attrs := (tableEntries d 1 (pktPayload p)).foldl (fun t e => putEntry t e.1 e.2) g.attrs }, []) := by
  rw [applyTable_of_good a hd h, hk]
  rfl

theorem takeUnlisted_of_order {g : Agent} (a : Nat) {p : Pkt} {rest : List Pkt} (hn : g.nextOrder = some (p, rest))
    (ht : isTable p = false) (hu : ctrlUnlisted (pktTally p) = true) : Agent.takeUnlisted a g =
      ({ g with inbox := rest } : Agent).reply a (field (pktTally p) 0 8) 2 0 0 := by
  unfold Agent.takeUnlisted
  rw [hn]
  simp [ht, hu]

/-- Settles O23: the slots after a flip or a retire are those of `Agent.flip` and `Agent.retire`, which a reply leaves alone, and
a TABLE billet is applied in full or counted (`applyTable_of_good`). -/
theorem tableOperations : Obligations.TableOperations := by
  unfold Obligations.TableOperations
  refine ⟨fun a p rest s hl hn ht hu => ⟨fun hop => ?_, fun hop => ?_, fun hop => ?_, fun hop => ?_⟩,
    fun a p rest s hl hn => ?_⟩
  · obtain ⟨t, hexec, hagent⟩ := exec_ctrl (c := .tblFlip a) rfl hl hn ht hu hop
    refine ⟨t, hexec, ?_⟩
    rw [hagent]
    exact ⟨(doFlip_slots _ _ _).1, doFlip_of_slot0 a ((s.agent a).ordered rest) _,
      doFlip_of_slot1 a ((s.agent a).ordered rest) _,
      doFlip_of_other a ((s.agent a).ordered rest) _⟩
  · obtain ⟨t, hexec, hagent⟩ := exec_ctrl (c := .tblRetire a) rfl hl hn ht hu hop
    refine ⟨t, hexec, ?_⟩
    rw [hagent]
    exact ⟨doRetire_of_slot0 a ((s.agent a).ordered rest) _, doRetire_of_slot1 a ((s.agent a).ordered rest) _,
      doRetire_of_other a ((s.agent a).ordered rest) _⟩
  · obtain ⟨t, hexec, hagent⟩ := exec_ctrl (c := .tblState a) rfl hl hn ht hu hop
    refine ⟨t, hexec, ?_⟩
    rw [hagent]
    obtain ⟨h0, h1, hk, _⟩ := (reply_frame ((s.agent a).ordered rest) a 0x03 0 0 ((s.agent a).ordered rest).slotWord).tables
    exact ⟨h0, h1, hk⟩
  · obtain ⟨t, hexec, hagent⟩ := exec_ctrl (c := .tblSeed a) rfl hl hn ht hu hop
    refine ⟨t, hexec, ?_⟩
    rw [hagent]
    exact ⟨doSeed_of_tables a ((s.agent a).ordered rest) _, doSeed_of_none a ((s.agent a).ordered rest) _⟩
  · have hexec : exec (.tableBillet a) s = .next (s.onAgent a (Agent.takeTable a)) := exec_live hl rfl
    have hdone : isTable p = true → ∀ k : Agent, Agent.applyTable a { s.agent a with inbox := rest } p = (k, []) →
        k.irq = (s.agent a).irq → exec (.tableBillet a) s = .next (s.setAgent a k) := fun ht k hk hi =>
      hexec.trans (congrArg Host.Outcome.next (onAgent_silent ((takeTable_of_order a hn ht).trans hk) hi))
    refine ⟨fun ht hbad => hdone ht _ (applyTable_of_bad a hbad) rfl,
      fun ht hgood hkind => ⟨fun hs he => ?_, fun hno hs he => ?_, fun hno0 hno1 => ?_⟩,
      fun ht hgood hkind => ?_, fun ht hgood hkind => ?_, fun ht hu => ⟨_, exec_live hl rfl, ?_⟩⟩
    · refine hdone ht _ ((applyTable_of_good a rfl hgood).trans ?_) rfl
      rw [if_pos hkind, if_pos ⟨hs, he⟩]
    · refine hdone ht _ ((applyTable_of_good a rfl hgood).trans ?_) rfl
      rw [if_pos hkind, if_neg hno, if_pos ⟨hs, he⟩]
    · refine hdone ht _ ((applyTable_of_good a rfl hgood).trans ?_) rfl
      rw [if_pos hkind, if_neg hno0, if_neg hno1]
      rfl
    · refine hdone ht _ ((applyTable_of_good a rfl hgood).trans ?_) rfl
      rw [if_neg (by rw [hkind]; decide), if_pos hkind, hkind]
      rfl
    · refine ⟨_, hdone ht _ (applyTable_of_attrs a rfl hgood hkind) rfl, ?_⟩
      rw [agent_setAgent_self]
      exact ⟨rfl, rfl, rfl, rfl, rfl, rfl⟩
    · rw [agent_onAgent_self, takeUnlisted_of_order a hn ht hu]
      obtain ⟨h0, h1, hk, _, _, hst, hb, _, hr, ha, hi, _⟩ :=
        (reply_frame { s.agent a with inbox := rest } a (field (pktTally p) 0 8) 2 0 0).tables
      exact ⟨hi, h0, h1, hr, ha, hk, hb, hst⟩

end Sys2Proof.Machine

/-! # Control operations at an agent -/

namespace Sys2Proof.Machine

open Sys2Proof

/-! ## Keys -/

theorem tget_putEntry_self {w : Nat} (t : Tab (BitVec w)) (i : Nat) (e : BitVec 256) :
    (tget (putEntry t i e) i).getD 0 = e.setWidth w := by
  unfold putEntry
  split
  · rename_i h
    rw [tget_tdel_self, h]
    rfl
  · rw [tget_tset_self]
    rfl

theorem tget_putEntry_of_ne {w : Nat} (t : Tab (BitVec w)) {i j : Nat} (e : BitVec 256) (h : j ≠ i) :
    tget (putEntry t i e) j = tget t j := by
  unfold putEntry
  split
  · exact tget_tdel_of_ne t h
  · exact tget_tset_of_ne t _ h

/-- The keys of an agent, and those that a fence keeps as not withdrawn. -/
def Agent.keyTables (g : Agent) : Tab (BitVec 256) × BitVec 256 := (g.keys, g.fencedKeys)

theorem Delivered.keyTables {g h : Agent} (d : Delivered g h) : h.keyTables = g.keyTables := by
  unfold Delivered at d
  rw [d]
  rfl

theorem Sent.keyTables {g h : Agent} (m : Sent g h) : h.keyTables = g.keyTables := by
  unfold Sent at m
  rw [m]
  rfl

theorem silence_keyTables (g : Agent) (a : Nat) : (g.silence a).1.1.keyTables = g.keyTables := by
  unfold Agent.silence
  dsimp only
  rw [finish_frame]
  rfl

theorem fenceAck_keyTables (g : Agent) (a : Nat) (seq : BitVec 32) (on : Bool) (flows held : Nat) :
    (g.fenceAck a seq on flows held).1.keyTables = g.keyTables := (Sent.tellManager _ _ _ _).keyTables

/-- The keys of an endpoint after FENCE. -/
def Agent.fencing (g : Agent) : Agent :=
  { g with
    fencedKeys := if g.keyEntry 16 = 0 then g.fencedKeys else g.keyEntry 16
    keys := tdel (tset g.keys 17 (g.assignment ||| 2#256)) 16 }

theorem doFence_keyTables (a : Nat) {g : Agent} (b : BitVec 128) (h : g.isSwitch = false) :
    (Agent.doFence a g b).1.keyTables = g.fencing.keyTables := by
  unfold Agent.doFence
  rw [if_neg (by rw [h]; decide)]
  refine (fenceAck_keyTables _ _ _ _ _ _).trans ((silence_keyTables _ _).trans ?_)
  split
  · rfl
  · exact (Delivered.notice _ _ _ _).keyTables

theorem doFence_of_switch (a : Nat) {g : Agent} (b : BitVec 128) (h : g.isSwitch = true) :
    (Agent.doFence a g b).1.keys = g.keys := by
  unfold Agent.doFence
  rw [if_pos h]
  exact (reply_frame g a 0x05 2 0 0).tables.2.2.1

theorem doUnfence_keyTables (a : Nat) {g : Agent} (b : BitVec 128) (h : g.isSwitch = false) :
    (Agent.doUnfence a g b).1.keyTables = (putEntry g.keys 17 (g.assignment &&& ~~~(2#256)), g.fencedKeys) := by
  unfold Agent.doUnfence
  rw [if_neg (by rw [h]; decide)]
  exact (fenceAck_keyTables _ _ _ _ _ _).trans (Delivered.notice _ _ _ _).keyTables

theorem doUnfence_of_switch (a : Nat) {g : Agent} (b : BitVec 128) (h : g.isSwitch = true) :
    (Agent.doUnfence a g b).1.keys = g.keys := by
  unfold Agent.doUnfence
  rw [if_pos h]
  exact (reply_frame g a 0x06 2 0 0).tables.2.2.1

theorem keyEntry_of_keyTables {g h : Agent} (e : h.keyTables = g.keyTables) (n : Nat) : h.keyEntry n = g.keyEntry n := by
  unfold Agent.keyEntry
  rw [show h.keys = g.keys from congrArg Prod.fst e]

theorem fencing_assignment (g : Agent) : g.fencing.keyEntry 17 = g.assignment ||| 2#256 := by
  simp [Agent.keyEntry, Agent.fencing, tget_tdel_of_ne]

theorem fencing_local (g : Agent) : g.fencing.keyEntry 16 = 0 := by
  simp [Agent.keyEntry, Agent.fencing]

/-! ## Flows -/

theorem mem_putSrc {l : List SrcFlow} {f x : SrcFlow} (h : x ∈ putSrc l f) : x = f ∨ x ∈ l := by
  induction l with
  | nil => exact Or.inl (by simpa [putSrc] using h)
  | cons y r ih =>
    unfold putSrc at h
    split at h
    · rcases List.mem_cons.mp h with h | h
      · exact Or.inl h
      · exact Or.inr (List.mem_cons_of_mem y h)
    · rcases List.mem_cons.mp h with h | h
      · exact Or.inr (h ▸ List.mem_cons_self)
      · exact (ih h).imp_right (List.mem_cons_of_mem y)

/-- What is told to the manager adds a record of a flow to the manager alone. -/
theorem tellManager_mem {g : Agent} (a : Nat) (type : BitVec 8) (body : BitVec 128) {f : SrcFlow}
    (h : f ∈ (g.tellManager a type body).1.srcs) : f ∈ g.srcs ∨ g.isMgrFlow f.key = true := by
  unfold Agent.tellManager at h
  split at h
  · exact Or.inl h
  · rename_i m hm
    unfold Agent.offer at h
    split at h
    · rw [finish_frame] at h
      exact Or.inl h
    · rw [launch_srcs] at h
      refine (mem_putSrc h).symm.imp_right fun hf => ?_
      rw [hf, srcOffer_key, srcFrom_key]
      simp [Agent.isMgrFlow, flowKeyOf, mkTally, withChecks, common, hm]

/-- FLOW_CLEAR leaves the records that it does not name. -/
theorem doClear_dsts (a : Nat) (g : Agent) (b : BitVec 128) :
    (Agent.doClear a g b).1.dsts = g.dsts.filter fun d => !(b.getLsbD 40 && clearMatches b d.key d.key.src) := by
  unfold Agent.doClear
  dsimp only
  obtain ⟨_, _, _, _, _, _, _, _, _, _, _, hdsts, _⟩ := (reply_frame (Agent.finish a
    ((g.srcs.filter fun f => b.getLsbD 39 && clearMatches b f.key f.key.peer).flatMap discarded)
    (Agent.trimBuffers { g with
      srcs := g.srcs.filter fun f => !(b.getLsbD 39 && clearMatches b f.key f.key.peer)
      dsts := g.dsts.filter fun d => !(b.getLsbD 40 && clearMatches b d.key d.key.src) })).1 a 0x0A 0
    ((g.srcs.filter fun f => b.getLsbD 39 && clearMatches b f.key f.key.peer).length +
      (g.dsts.filter fun d => b.getLsbD 40 && clearMatches b d.key d.key.src).length) 0).tables
  rw [hdsts, finish_frame]
  rfl

theorem doClear_srcs {a : Nat} {g : Agent} {b : BitVec 128} {f : SrcFlow} (h : f ∈ (Agent.doClear a g b).1.srcs)
    (hm : g.isMgrFlow f.key = false) : (b.getLsbD 39 && clearMatches b f.key f.key.peer) = false := by
  unfold Agent.doClear at h
  dsimp only at h
  rcases tellManager_mem _ _ _ h with h | h
  · rw [finish_frame] at h
    exact (Bool.not_eq_true' _).mp (List.mem_filter.mp h).2
  · rw [finish_frame] at h
    exact absurd (h.symm.trans hm) (by decide)

/-! ## Stamps, bridges and retries -/

theorem Sent.linkEvents (a : Nat) (l : List Nat) (g : Agent) : Sent g (Agent.linkEvents a l g).1 := by
  induction l generalizing g with
  | nil => rfl
  | cons p r ih =>
    unfold Agent.linkEvents
    have hone := Sent.linkEvent g a p
    have hmore := ih (g.linkEvent a p).1
    unfold Sent at *
    dsimp only
    rw [hmore, hone]

theorem Sent.resendSums (a : Nat) (l : List Pkt) (g : Agent) : Sent g (Agent.resendSums a l g).1 := by
  induction l generalizing g with
  | nil => rfl
  | cons p r ih =>
    unfold Agent.resendSums
    have hone := Sent.offer g a p g.resendUs none none
    have hmore := ih (g.offer a p g.resendUs none).1
    unfold Sent at *
    dsimp only
    rw [hmore, hone]

theorem doAdmit_tables (a : Nat) (g : Agent) (b : BitVec 128) : (Agent.doAdmit a g b).1.stamp = field b 8 64 ∧
    (Agent.doAdmit a g b).1.slot0 = g.slot0 ∧ (Agent.doAdmit a g b).1.keys = g.keys := by
  unfold Agent.doAdmit
  dsimp only
  obtain ⟨h0, _, hk, _, _, hs, _⟩ := (reply_frame { g with stamp := field b 8 64 } a 0x09 0 0 0).tables
  obtain ⟨m0, _, mk, _, _, ms, _⟩ := (Sent.linkEvents a
    (((({ g with stamp := field b 8 64 } : Agent).reply a 0x09 0 0 0).1.ports.filter
      fun e => e.2.instW != 0 && !(e.2.isUp && e.2.nbrSeen)).map (·.1))
    (({ g with stamp := field b 8 64 } : Agent).reply a 0x09 0 0 0).1).tables
  exact ⟨ms.trans hs, m0.trans h0, mk.trans hk⟩

theorem doBridge_of_switch (a : Nat) {g : Agent} (b : BitVec 128) (h : g.isSwitch = true) :
    (Agent.doBridge a g b).1.bridge = g.bridge := by
  unfold Agent.doBridge
  dsimp only
  rw [if_pos (by rw [h]; rfl)]
  obtain ⟨_, _, _, _, _, _, hb, _⟩ := (reply_frame g a 0x0B 2 0 0).tables
  exact hb

theorem doBridge_of_valid (a : Nat) {g : Agent} {b : BitVec 128} (h : g.isSwitch = false)
    (hr : field (field b 11 64 : BitVec 64) 50 14 = 0#14) (hv : (field b 11 64 : BitVec 64).getLsbD 0 = true) :
    tget (Agent.doBridge a g b).1.bridge (field b 8 3).toNat = some (field b 11 64) := by
  unfold Agent.doBridge
  dsimp only
  rw [if_neg (by rw [h, hr]; decide), if_pos hv]
  obtain ⟨_, _, _, _, _, _, hb, _⟩ := (reply_frame { g with bridge := tset g.bridge (field b 8 3).toNat (field b 11 64) } a
    0x0B 0 0 0).tables
  rw [hb]
  exact tget_tset_self _ _ _

theorem doRetry_tables (a : Nat) (g : Agent) (b : BitVec 128) : (Agent.doRetry a g b).1.slot0 = g.slot0 ∧
    (Agent.doRetry a g b).1.keys = g.keys ∧ (Agent.doRetry a g b).1.chunks = g.chunks := by
  unfold Agent.doRetry
  split
  · obtain ⟨h0, _, hk, _, _, _, _, hc, _⟩ := (reply_frame g a 0x07 0 0 0).tables
    exact ⟨h0, hk, hc⟩
  · dsimp only
    generalize (List.filterMap _ _ : List Pkt) = sums
    have hsums := Sent.resendSums a sums g
    have hnote := Delivered.notice (Agent.resendSums a sums g).1 a 1
      [at' 128 0 (field b 26 32) ||| at' 128 32 (field b 58 64) ||| at' 128 96 (field b 8 18)]
    obtain ⟨h0, _, hk, _, _, _, _, hc, _⟩ := (reply_frame ((Agent.resendSums a sums g).1.notice a 1
      [at' 128 0 (field b 26 32) ||| at' 128 32 (field b 58 64) ||| at' 128 96 (field b 8 18)]).1 a 0x07 0 sums.length 0).tables
    unfold Delivered at hnote
    obtain ⟨s0, _, sk, _, _, _, _, sc, _⟩ := hsums.tables
    rw [h0, hk, hc, hnote]
    exact ⟨s0, sk, sc⟩

/-! ## Held ports -/

/-- What PORT_HOLD is about at a port: whether it is held, its state and width, its installed width, and whether its identity has
changed. -/
def Port.holding (q : Port) : Bool × PortState × Nat × Nat × Bool := (q.held, q.state, q.width, q.instW, q.shut)

theorem changePort_holding (g : Agent) (a p : Nat) (q : Port) : ((g.changePort a p q).1.port p).holding = q.holding := by
  simp [Port.holding]

theorem QueuesOnly.holding {g h : Agent} (m : QueuesOnly g h) (n : Nat) : (h.port n).holding = (g.port n).holding := by
  rw [(m n).1]
  rfl

/-- Another port is touched only where what it queues is. -/
theorem changePort_holding_of_ne (g : Agent) (a : Nat) {p n : Nat} (q : Port) (h : n ≠ p) :
    ((g.changePort a p q).1.port n).holding = (g.port n).holding := by
  unfold Agent.changePort
  dsimp only
  generalize hk : (ite ((g.port p).isUp && !((g.port p).since q g.lapNow).isUp &&
    (ite ((g.port p).sameStat ((g.port p).since q g.lapNow) = true) _ _ : Agent).lapSync.parent == some p) _ _ : Agent) = k
  have hp : k.port n = g.port n := by
    rw [← port_setPort_of_ne g ((g.port p).since q g.lapNow) h, ← hk]
    (repeat' split) <;> rfl
  rw [← hp]
  split
  · exact (QueuesOnly.linkEvent _ _ _).holding n
  · rfl

/-- What a port of the mask comes to. -/
def heldTo (on : Bool) : Bool × PortState × Nat × Nat × Bool → Bool × PortState × Nat × Nat × Bool
  | (held, state, width, instW, shut) =>
    if instW = 0 then (on, state, width, instW, shut)
    else if on then (true, .held, 0, instW, shut)
    else if held then (false, if shut then .idChanged else .training, width, instW, shut)
    else (held, state, width, instW, shut)

theorem heldTo_heldTo (on : Bool) (v : Bool × PortState × Nat × Nat × Bool) : heldTo on (heldTo on v) = heldTo on v := by
  obtain ⟨held, state, width, instW, shut⟩ := v
  by_cases hw : instW = 0
  · simp [heldTo, hw]
  · cases on <;> cases held <;> simp [heldTo, hw]

theorem holdPort_self (a : Nat) (on : Bool) (g : Agent) (p : Nat) :
    ((Agent.holdPort a on g p).1.port p).holding = heldTo on (g.port p).holding := by
  unfold Agent.holdPort
  dsimp only
  by_cases hw : (g.port p).instW = 0
  · rw [if_pos hw, changePort_holding]
    simp [Port.holding, heldTo, hw]
  · rw [if_neg hw]
    cases on with
    | true =>
      rw [if_pos rfl, changePort_holding]
      simp [Port.holding, Port.hold, heldTo, hw]
    | false =>
      rw [if_neg (by decide)]
      cases hh : (g.port p).held with
      | false =>
        rw [if_neg (by decide)]
        simp [Port.holding, heldTo, hw, hh]
      | true =>
        rw [if_pos rfl]
        cases hs : (g.port p).shut with
        | true =>
          rw [if_pos rfl, changePort_holding]
          simp [Port.holding, heldTo, hw, hh, hs]
        | false =>
          rw [if_neg (by decide), changePort_holding]
          simp [Port.holding, Port.training, heldTo, hw, hh, hs]

theorem holdPort_of_ne (a : Nat) (on : Bool) (g : Agent) {p n : Nat} (h : n ≠ p) :
    ((Agent.holdPort a on g p).1.port n).holding = (g.port n).holding := by
  unfold Agent.holdPort
  dsimp only
  repeat' split
  all_goals first | rfl | exact changePort_holding_of_ne _ _ _ h

theorem holdPorts_holding (a : Nat) (on : Bool) (l : List Nat) (g : Agent) (n : Nat) :
    ((Agent.holdPorts a on l g).1.port n).holding = if n ∈ l then heldTo on (g.port n).holding else (g.port n).holding := by
  induction l generalizing g with
  | nil => rfl
  | cons p r ih =>
    unfold Agent.holdPorts
    dsimp only
    rw [ih]
    by_cases hp : n = p
    · subst hp
      rw [holdPort_self, heldTo_heldTo]
      simp
    · rw [holdPort_of_ne a on g hp]
      simp [hp]

theorem QueuesOnly.tellManager (g : Agent) (a : Nat) (type : BitVec 8) (body : BitVec 128) :
    QueuesOnly g (g.tellManager a type body).1 := by
  unfold Agent.tellManager
  split
  · exact .refl g
  · exact .offer _ _ _ _ _ _

theorem doHold_holding (a : Nat) {g : Agent} {b : BitVec 128} {n : Nat}
    (hmask : ∀ i, i < 16 → (field b 8 16).getLsbD i = true → i < g.portCount) (hn : n < 16)
    (hb : (field b 8 16).getLsbD n = true) :
    ((Agent.doHold a g b).1.port n).holding = heldTo (b.getLsbD 24) (g.port n).holding := by
  have hgood : ((List.range 16).any fun i => (field b 8 16).getLsbD i && g.portCount ≤ i) = false := by
    simp only [List.any_eq_false, List.mem_range, Bool.and_eq_true, decide_eq_true_eq, not_and, Nat.not_le]
    exact hmask
  unfold Agent.doHold
  dsimp only
  rw [hgood, if_neg (by decide)]
  have hq : ∀ k : Agent, QueuesOnly k (k.reply a 0x08 0 0 0).1 := fun k => .tellManager k a _ _
  rw [(hq _).holding n, holdPorts_holding, if_pos (List.mem_filter.mpr ⟨List.mem_range.mpr hn, hb⟩)]

/-- Settles O24: each operation takes its tally (`exec_ctrl`), and what it does to keys, stamp, bridge, flows, chunks and ports is
said of the operation itself. -/
theorem controlOperationsAtAnAgent : Obligations.ControlOperationsAtAnAgent := by
  unfold Obligations.ControlOperationsAtAnAgent
  refine ⟨fun a p rest s hl hn ht hu => ⟨fun hop hsw => ?_, fun hsw => ?_, fun hop hsw => ?_⟩,
    fun a p rest s hl hn ht hu => ⟨fun hop => ?_, fun hop => ?_, fun hop => ?_, fun hop => ?_, fun hop hon hmask => ?_,
      fun hop hoff hmask => ?_⟩⟩
  · obtain ⟨t, hexec, hagent⟩ := exec_ctrl (c := .fence a) rfl hl hn ht hu hop
    have hkeys : (t.agent a).keyTables = (s.agent a).fencing.keyTables := by
      rw [hagent]
      exact doFence_keyTables a (g := (s.agent a).ordered rest) _ hsw
    have hassign : (t.agent a).assignment = (s.agent a).assignment ||| 2#256 :=
      (keyEntry_of_keyTables hkeys 17).trans (fencing_assignment _)
    refine ⟨t, hexec, ?_, hassign, (keyEntry_of_keyTables hkeys 16).trans (fencing_local _), fun hne => ?_⟩
    · unfold Agent.fenced
      rw [hassign]
      simp
    · exact (congrArg Prod.snd hkeys).trans (if_neg hne)
  · refine ⟨_, _, exec_live hl rfl, ?_, exec_live hl rfl, ?_⟩
    · rw [agent_onAgent_self]
      rcases ctrl_cases 0x05 (Agent.doFence a) (s.agent a) with h | ⟨q, b, h⟩
      · rw [h]
      · rw [h]
        exact doFence_of_switch a (g := (s.agent a).ordered q) b hsw
    · rw [agent_onAgent_self]
      rcases ctrl_cases 0x06 (Agent.doUnfence a) (s.agent a) with h | ⟨q, b, h⟩
      · rw [h]
      · rw [h]
        exact doUnfence_of_switch a (g := (s.agent a).ordered q) b hsw
  · obtain ⟨t, hexec, hagent⟩ := exec_ctrl (c := .unfence a) rfl hl hn ht hu hop
    have hkeys : (t.agent a).keys = putEntry (s.agent a).keys 17 ((s.agent a).assignment &&& ~~~(2#256)) := by
      rw [hagent]
      exact congrArg Prod.fst (doUnfence_keyTables a (g := (s.agent a).ordered rest) _ hsw)
    have hassign : (t.agent a).assignment = (s.agent a).assignment &&& ~~~(2#256) := by
      rw [Agent.assignment, Agent.keyEntry, hkeys, tget_putEntry_self]
      exact BitVec.setWidth_eq _
    refine ⟨t, hexec, ?_, hassign, ?_⟩
    · unfold Agent.fenced
      rw [hassign]
      simp
    · rw [Agent.keyEntry, hkeys, tget_putEntry_of_ne _ _ (by decide)]
      rfl
  · obtain ⟨t, hexec, hagent⟩ := exec_ctrl (c := .ctlAdmit a) rfl hl hn ht hu hop
    exact ⟨t, hexec, by rw [hagent]; exact doAdmit_tables a ((s.agent a).ordered rest) _⟩
  · obtain ⟨t, hexec, hagent⟩ := exec_ctrl (c := .bridgeSet a) rfl hl hn ht hu hop
    refine ⟨t, hexec, fun hsw => ?_, fun hsw hr hv => ?_⟩
    · rw [hagent]
      exact doBridge_of_switch a (g := (s.agent a).ordered rest) _ hsw
    · rw [hagent]
      refine doBridge_of_valid a (g := (s.agent a).ordered rest) hsw hr ?_
      rw [← hv]
      simp [field]
  · obtain ⟨t, hexec, hagent⟩ := exec_ctrl (c := .flowClear a) rfl hl hn ht hu hop
    refine ⟨t, hexec, fun hdst d hd => ?_, fun hsrc f hf hm => ?_⟩
    · rw [hagent, doClear_dsts] at hd
      have := (List.mem_filter.mp hd).2
      rwa [hdst, Bool.true_and, Bool.not_eq_true'] at this
    · rw [hagent] at hf
      have := doClear_srcs (g := (s.agent a).ordered rest) hf hm
      rwa [hsrc, Bool.true_and] at this
  · obtain ⟨t, hexec, hagent⟩ := exec_ctrl (c := .collRetry a) rfl hl hn ht hu hop
    exact ⟨t, hexec, by rw [hagent]; exact doRetry_tables a ((s.agent a).ordered rest) _⟩
  · obtain ⟨t, hexec, hagent⟩ := exec_ctrl (c := .portHold a) rfl hl hn ht hu hop
    refine ⟨t, hexec, fun i hi hb hw => ?_⟩
    have hport : ((t.agent a).port i).holding = heldTo ((pktTally p).getLsbD 24) ((s.agent a).port i).holding := by
      rw [hagent]
      exact doHold_holding a (g := (s.agent a).ordered rest) hmask hi hb
    rw [hon] at hport
    simp only [Port.holding, heldTo, hw, if_true, if_false, Prod.mk.injEq] at hport
    exact ⟨hport.1, hport.2.1, hport.2.2.1⟩
  · obtain ⟨t, hexec, hagent⟩ := exec_ctrl (c := .portHold a) rfl hl hn ht hu hop
    refine ⟨t, hexec, fun i hi hb hw hheld => ?_⟩
    have hport : ((t.agent a).port i).holding = heldTo ((pktTally p).getLsbD 24) ((s.agent a).port i).holding := by
      rw [hagent]
      exact doHold_holding a (g := (s.agent a).ordered rest) hmask hi hb
    rw [hoff] at hport
    simp only [Port.holding, heldTo, hw, hheld, Bool.false_eq_true, if_true, if_false, Prod.mk.injEq] at hport
    exact ⟨hport.1, hport.2.1⟩

end Sys2Proof.Machine

/-! # Functions of the host interface -/

namespace Sys2Proof.Machine

open Sys2Proof

/-! ## One function and the others -/

theorem fn_of_tget {s : State} {n : Nat} {f : Fn} (h : tget s.hif.fns n = some f) : s.fn n = f := by
  simp [State.fn, h]

theorem fn_modFn_of_some {s : State} {n : Nat} {f : Fn} (h : tget s.hif.fns n = some f) (g : Fn → Fn) :
    (s.modFn n g).fn n = g f := by
  simp [State.fn, tget_tmod_self, h]

theorem fn_modFn_of_ne (s : State) {k n : Nat} (g : Fn → Fn) (h : n ≠ k) : (s.modFn k g).fn n = s.fn n := by
  simp [State.fn, tget_tmod_of_ne _ _ h]

theorem grant_of_reaches {s : State} {n : Nat} (h : s.reaches n = true) : s.ember.grant = true := by
  simp only [State.reaches, State.pcieUp, Bool.and_eq_true] at h
  exact h.1.2

theorem isSome_of_reaches {s : State} {n : Nat} (h : s.reaches n = true) : (tget s.hif.fns n).isSome = true :=
  (Bool.and_eq_true_iff.1 h).2

/-! ## CFG_COMMIT -/

/-- The shadows of a function pass every check (R386). -/
def FnCfg.good (k : FnCfg) : Prop :=
  k.replyBase.toNat ≠ 0 ∧ k.replyBase.toNat % 16384 = 0 ∧ 6 ≤ (field k.eventCfg 0 4).toNat ∧
    (field k.eventCfg 0 4).toNat ≤ 14 ∧ k.eventBase.toNat ≠ 0 ∧
    k.eventBase.toNat % (32 * 2 ^ (field k.eventCfg 0 4).toNat) = 0 ∧
    (k.eventBase.toNat + 32 * 2 ^ (field k.eventCfg 0 4).toNat ≤ k.replyBase.toNat ∨
      k.replyBase.toNat + 16384 ≤ k.eventBase.toNat)

theorem fault_none_iff (k : FnCfg) : k.fault = none ↔ k.good := by
  unfold FnCfg.fault FnCfg.good
  dsimp only
  generalize 32 * 2 ^ (field k.eventCfg 0 4).toNat = size
  repeat' split
  all_goals simp only [reduceCtorEq, false_iff, true_iff]
  all_goals omega

theorem fault_one_iff (k : FnCfg) : k.fault = some 1 ↔ (k.replyBase.toNat = 0 ∨ k.replyBase.toNat % 16384 ≠ 0) := by
  unfold FnCfg.fault
  dsimp only
  generalize 32 * 2 ^ (field k.eventCfg 0 4).toNat = size
  by_cases hreply : k.replyBase.toNat = 0 ∨ k.replyBase.toNat % 16384 ≠ 0
  · rw [if_pos hreply]
    exact iff_of_true rfl hreply
  · rw [if_neg hreply]
    refine iff_of_false ?_ hreply
    repeat' split
    all_goals decide

theorem commit_of_zero {f : Fn} {v : BitVec 64} (h : v.getLsbD 0 = false) : f.commit v = f := by
  unfold Fn.commit
  rw [if_pos (by rw [h]; rfl)]

theorem commit_of_good {f : Fn} {v : BitVec 64} (h : v.getLsbD 0 = true) (hg : f.shadow.good) :
    f.commit v = { f with live := f.shadow, committed := true, evHead := 0, evTail := 0, phase := true } := by
  unfold Fn.commit
  rw [if_neg (by rw [h]; decide), (fault_none_iff _).mpr hg]

theorem commit_of_bad {f : Fn} {v : BitVec 64} (h : v.getLsbD 0 = true) (hg : ¬f.shadow.good) :
    ∃ k, f.shadow.fault = some k ∧ f.commit v = { f with commitErr := true, commitField := k } := by
  cases hf : f.shadow.fault with
  | none => exact absurd ((fault_none_iff _).mp hf) hg
  | some k =>
    refine ⟨k, rfl, ?_⟩
    unfold Fn.commit
    rw [if_neg (by rw [h]; decide), hf]

/-- Settles O25: the shadows pass (`FnCfg.good`) or a check fails, of which the first is REPLY_BASE's (`fault_one_iff`). -/
theorem functionCommit : Obligations.FunctionCommit := by
  unfold Obligations.FunctionCommit
  intro n v s
  refine ⟨_, rfl, ?_, fun hr hv => ⟨fun hg => ?_, fun hg => ?_⟩, fun m hm => ?_⟩
  · rintro (h | h)
    · rw [h]
      rfl
    · split
      · rename_i hr
        rw [fn_modFn_self hr, commit_of_zero h]
      · rfl
  · rw [if_pos hr, fn_modFn_self hr]
    exact commit_of_good hv hg
  · obtain ⟨k, hk, hc⟩ := commit_of_bad hv hg
    rw [if_pos hr, fn_modFn_self hr, hc]
    refine ⟨rfl, ?_⟩
    rw [← fault_one_iff, hk]
    exact (Option.some_inj).symm
  · split
    · exact fn_modFn_of_ne s _ hm
    · rfl

end Sys2Proof.Machine

/-! # Events and interrupts -/

namespace Sys2Proof.Machine

open Sys2Proof

theorem tget_modFn {s : State} {n : Nat} {f : Fn} (h : tget s.hif.fns n = some f) (g : Fn → Fn) :
    tget (s.modFn n g).hif.fns n = some (g f) := by
  rw [modFn_hif, tget_tmod_self, h]
  rfl

/-- A function with what its vectors are at. -/
def Fn.withIrqs (f : Fn) (q r : Irq) : Fn := { f with irq0 := q, irq1 := r }

/-- An interrupt touches the vectors of its function alone. -/
theorem tget_interrupt {s : State} {n : Nat} {f : Fn} (h : tget s.hif.fns n = some f) (vector : Nat) :
    ∃ q r, tget (s.interrupt n vector).hif.fns n = some (f.withIrqs q r) := by
  have hset (q : Irq) : ∃ a b, some (f.setIrq vector q) = some (f.withIrqs a b) := by
    unfold Fn.setIrq
    split
    · exact ⟨_, _, rfl⟩
    · exact ⟨_, _, rfl⟩
  unfold State.interrupt
  dsimp only
  repeat' split
  · exact ⟨_, _, h⟩
  · exact ⟨_, _, h⟩
  · rw [tget_modFn h]
    exact hset _
  · rw [emit_hif, tget_modFn h]
    exact hset _

/-- What has been put out stays so after an interrupt. -/
theorem interrupt_out (s : State) (n vector : Nat) {e : Emission} (h : e ∈ s.out) : e ∈ (s.interrupt n vector).out := by
  unfold State.interrupt
  dsimp only
  repeat' split
  · exact h
  · exact List.mem_append_left _ h
  · exact h
  · exact List.mem_append_left _ h

/-- What goes to the sessions touches no function, no command and not what the world decides next. -/
theorem postSessions_host (s : State) (n : Nat) (record : List Byte) :
    (s.postSessions n record).hif = s.hif ∧ (s.postSessions n record).free = s.free ∧
      (s.postSessions n record).ember = s.ember := by
  unfold State.postSessions
  split
  · exact ⟨rfl, rfl, rfl⟩
  · exact ⟨rfl, rfl, rfl⟩

/-- A record of an event goes to EVENT_TAIL, which advances; a write that fails tells so (R397, Table 10-3). -/
theorem tget_writeEvent {s : State} {n : Nat} {f : Fn} (hf : tget s.hif.fns n = some f) (e : Event) :
    ∃ q r, tget (s.writeEvent n e).hif.fns n = some (Fn.withIrqs { f with
      evTail := (f.evTail + 1) % f.ring
      phase := if (f.evTail + 1) % f.ring = 0 then !f.phase else f.phase
      dmaErr := f.dmaErr || (!s.ember.grant || Config.hostFails s.free) } q r) := by
  obtain ⟨hhif, hfree, hember⟩ := postSessions_host s n (eventBytes e f.phase)
  have hput : tget (s.postSessions n (eventBytes e f.phase)).hostFails.2.hif.fns n = some f := by
    rw [hostFails_hif, hhif]
    exact hf
  unfold State.writeEvent
  rw [fn_of_tget hf]
  dsimp only
  refine tget_interrupt ?_ 1
  rw [apply_ite (fun t : State => tget t.hif.fns n), emit_hif, ite_self, tget_modFn hput, hostFails_value, hfree, hember]

theorem writeEvent_out {s : State} {n : Nat} (e : Event) (h : (!s.ember.grant || Config.hostFails s.free) = false) :
    .event n ((s.fn n).live.eventBase + BitVec.ofNat 64 (32 * (s.fn n).evTail)) (eventBytes e (s.fn n).phase) ∈
      (s.writeEvent n e).out := by
  obtain ⟨_, hfree, hember⟩ := postSessions_host s n (eventBytes e (s.fn n).phase)
  unfold State.writeEvent
  dsimp only
  refine interrupt_out _ _ _ ?_
  rw [hostFails_value, hfree, hember, h, if_neg (by decide)]
  exact List.mem_append_right _ (List.mem_singleton_self _)

/-- EVENTS_LOST goes once there is space (R397). -/
theorem writeLost_of_space {s : State} {n : Nat} (hlost : (s.fn n).lostSince ≠ 0) (hspace : (s.fn n).full = false)
    (hen : (s.fn n).evtEn = true) :
    s.writeLost n = (s.writeEvent n { code := 0x0008, heat := 0, tenant := 0, step := 0, detail := leBytes 4 (s.fn n).lostSince }).modFn
      n fun f => { f with lostSince := 0 } := by
  unfold State.writeLost
  dsimp only
  rw [if_neg (by simp [hlost, hspace, hen])]

theorem writeLost_of_none {s : State} {n : Nat} (h : (s.fn n).lostSince = 0) : s.writeLost n = s := by
  unfold State.writeLost
  rw [if_pos (Or.inl h)]

theorem writeLost_evHead {s : State} {n : Nat} {f : Fn} (hf : tget s.hif.fns n = some f) :
    ((s.writeLost n).fn n).evHead = f.evHead := by
  unfold State.writeLost
  dsimp only
  split
  · rw [fn_of_tget hf]
  · obtain ⟨q, r, h⟩ := tget_writeEvent hf
      { code := 0x0008, heat := 0, tenant := 0, step := 0, detail := leBytes 4 (s.fn n).lostSince }
    rw [fn_modFn_of_some h]
    rfl

/-- EVENT_HEAD_WRITE of a function that the host reaches. -/
theorem exec_eventHeadWrite {s : State} {n : Nat} (h : s.reaches n = true) (v : BitVec 64) :
    exec (.eventHeadWrite n v) s = .next ((s.modFn n fun f => { f with evHead := v.toNat }).writeLost n) :=
  congrArg Host.Outcome.next (if_pos h)

/-- Settles O27: EVENT_HEAD is written, and EVENTS_LOST goes where that makes space (`writeLost_of_space`); the interval of a vector
ends or begins again. -/
theorem eventsAndInterrupts : Obligations.EventsAndInterrupts := by
  unfold Obligations.EventsAndInterrupts
  refine ⟨fun n s hr => ⟨congrArg Host.Outcome.next (if_pos hr), fun v => ⟨⟨_, exec_eventHeadWrite hr v, ?_⟩, fun hl => ?_⟩⟩,
    fun n v s hr hen hlost hspace => ⟨_, exec_eventHeadWrite hr v, ?_⟩, fun n v f s hf => ⟨_, rfl, ?_⟩⟩
  · obtain ⟨f, hf⟩ := Option.isSome_iff_exists.1 (isSome_of_reaches hr)
    exact writeLost_evHead (tget_modFn hf _)
  · rw [exec_eventHeadWrite hr v, writeLost_of_none (by rw [fn_modFn_self hr]; exact hl)]
  · obtain ⟨f, hf⟩ := Option.isSome_iff_exists.1 (isSome_of_reaches hr)
    rw [fn_of_tget hf] at hen hlost hspace ⊢
    have hput := tget_modFn hf fun f => { f with evHead := v.toNat }
    have hfn := fn_of_tget hput
    have hgrant := grant_of_reaches hr
    obtain ⟨q, r, hw⟩ := tget_writeEvent hput
      { code := 0x0008, heat := 0, tenant := 0, step := 0, detail := leBytes 4 f.lostSince }
    rw [writeLost_of_space (by rw [hfn]; exact hlost) (by rw [hfn]; exact beq_eq_false_iff_ne.mpr hspace) (by rw [hfn]; exact hen)]
    have hlostSince : ((s.modFn n fun f => { f with evHead := v.toNat }).fn n).lostSince = f.lostSince := by rw [hfn]
    rw [hlostSince, fn_modFn_of_some hw]
    refine ⟨rfl, rfl, ?_, ?_⟩
    · change (f.dmaErr || (!s.ember.grant || Config.hostFails s.free)) = _
      rw [hgrant]
      rfl
    · cases hfail : Config.hostFails s.free with
      | true => exact Or.inr rfl
      | false =>
        have hmem := writeEvent_out (s := s.modFn n fun f => { f with evHead := v.toNat }) (n := n)
          { code := 0x0008, heat := 0, tenant := 0, step := 0, detail := leBytes 4 f.lostSince }
          (by rw [modFn_ember, modFn_free, hgrant, hfail]; rfl)
        rw [hfn] at hmem
        exact Or.inl (List.any_eq_true.mpr ⟨_, hmem, by simp⟩)
  · have hfn := fn_of_tget hf
    have hirq (g : Fn) (q : Irq) : (g.setIrq v q).irq v = q := by
      unfold Fn.setIrq Fn.irq
      split <;> rfl
    rw [hfn]
    dsimp only
    refine ⟨fun hg hd hgrant => ?_, fun hg hno => ?_, fun hg => ?_⟩
    · rw [hg, hd, hgrant]
      simp only [Bool.not_true, Bool.and_self, Bool.false_eq_true, if_false, if_true]
      rw [fn_emit, fn_modFn_of_some hf, hirq]
      exact ⟨rfl, rfl, rfl⟩
    · have hdue : ((f.irq v).due && s.ember.grant) = false := by
        rcases hno with h | h
        · rw [h]; rfl
        · rw [h, Bool.and_false]
      rw [hg, hdue]
      simp only [Bool.not_true, Bool.false_eq_true, if_false]
      rw [fn_modFn_of_some hf, hirq]
      exact ⟨rfl, rfl⟩
    · rw [hg]
      rfl

end Sys2Proof.Machine

/-! # Register writes -/

namespace Sys2Proof.Machine

open Sys2Proof

/-! ## The command window -/

theorem putByte_getD (t : Tab Byte) (off i : Nat) (b : Byte) :
    (tget (putByte t off b) i).getD 0 = if i = off then b else (tget t i).getD 0 := by
  unfold putByte
  by_cases hi : i = off
  · subst hi
    rw [if_pos rfl]
    split
    · rename_i h
      rw [tget_tdel_self, h]
      rfl
    · rw [tget_tset_self]
      rfl
  · rw [if_neg hi]
    split
    · rw [tget_tdel_of_ne _ hi]
    · rw [tget_tset_of_ne _ _ hi]

/-- What a table of bytes holds after bytes have been put at an offset. -/
theorem putBytes_getD (t : Tab Byte) (off : Nat) (bytes : List Byte) (i : Nat) :
    (tget (putBytes t off bytes) i).getD 0 =
      if off ≤ i ∧ i < off + bytes.length then (bytes[i - off]?).getD 0 else (tget t i).getD 0 := by
  induction bytes generalizing t off with
  | nil =>
    rw [if_neg (by simp)]
    rfl
  | cons b r ih =>
    unfold putBytes
    rw [ih, putByte_getD]
    by_cases hi : i = off
    · subst hi
      rw [if_neg (by omega), if_pos rfl, if_pos ⟨Nat.le_refl _, by simp⟩]
      simp
    · by_cases hin : off + 1 ≤ i ∧ i < off + 1 + r.length
      · rw [if_pos hin, if_pos (by simp only [List.length_cons]; omega)]
        obtain ⟨k, hk⟩ : ∃ k, i - off = k + 1 := ⟨i - off - 1, by omega⟩
        rw [hk, List.getElem?_cons_succ, show i - (off + 1) = k by omega]
      · rw [if_neg hin, if_neg hi, if_neg (by simp only [List.length_cons]; omega)]

theorem touch_of_disabled {s : State} {n : Nat} (h : (s.fn n).cmdEn = false) (slot : Nat) : s.touch n slot = s := by
  unfold State.touch
  dsimp only
  rw [h]
  rfl

theorem foldl_touch_of_disabled {s : State} {n : Nat} (h : (s.fn n).cmdEn = false) (l : List Nat) :
    l.foldl (fun s slot => s.touch n slot) s = s := by
  induction l with
  | nil => rfl
  | cons slot r ih => rw [List.foldl_cons, touch_of_disabled h, ih]

theorem writeWindow_of_disabled {s : State} {n : Nat} (hr : s.reaches n = true) (h : (s.fn n).cmdEn = false) (off : Nat)
    (bytes : List Byte) : s.writeWindow n off bytes =
      s.modFn n fun f => { f with window := putBytes f.window off (bytes.take (0x4000 - off)) } := by
  unfold State.writeWindow
  exact foldl_touch_of_disabled (by rw [fn_modFn_self hr]; exact h) _

/-! ## The function registers -/

theorem exec_writeBar0 {s : State} {n : Nat} (h : s.reaches n = true) (off : Nat) (v : BitVec 64) :
    exec (.registerWrite (.bar0 n off v)) s = .next (s.writeBar0 n off v) :=
  congrArg Host.Outcome.next (if_pos h)

/-- Nothing between EVENT_TAIL and the MSI-X table takes a write (R385). -/
theorem writeBar0_of_gap (s : State) (n : Nat) {off : Nat} (v : BitVec 64) (h : 0x4040 ≤ off) (h' : off < 0x8000) :
    s.writeBar0 n off v = s := by
  unfold State.writeBar0
  split
  case h_8 => rw [if_neg (by omega), if_neg (by omega)]
  all_goals exact absurd h (by decide)

theorem writeBar0_msix (s : State) (n : Nat) {k : Nat} (v : BitVec 64) (h : k < 4) :
    s.writeBar0 n (0x8000 + 8 * k) v = s.modFn n fun f => { f with msix := tset f.msix (0x8000 + 8 * k) v } := by
  obtain rfl | rfl | rfl | rfl : k = 0 ∨ k = 1 ∨ k = 2 ∨ k = 3 := by omega
  all_goals rfl

/-! ## VFs -/

theorem resetFn_frame (s : State) (n : Nat) : s.resetFn n = { s with hif := (s.resetFn n).hif } := by
  unfold State.resetFn
  split <;> rfl

theorem foldl_resetFn_frame (l : List Nat) (s : State) :
    l.foldl State.resetFn s = { s with hif := (l.foldl State.resetFn s).hif } := by
  induction l generalizing s with
  | nil => rfl
  | cons n r ih =>
    rw [List.foldl_cons, ih (s.resetFn n), resetFn_frame s n]

theorem resetFn_of_ne (s : State) {n k : Nat} (h : n ≠ k) : tget (s.resetFn k).hif.fns n = tget s.hif.fns n := by
  unfold State.resetFn
  split
  · rfl
  · exact tget_tset_of_ne _ _ h

theorem foldl_resetFn_of_ne {l : List Nat} {n : Nat} (h : ∀ k ∈ l, n ≠ k) (s : State) :
    tget (l.foldl State.resetFn s).hif.fns n = tget s.hif.fns n := by
  induction l generalizing s with
  | nil => rfl
  | cons k r ih =>
    rw [List.foldl_cons, ih (fun j hj => h j (List.mem_cons_of_mem k hj)), resetFn_of_ne s (h k List.mem_cons_self)]

theorem tget_filter_key {α : Type} (t : Tab α) (p : Nat → Bool) (n : Nat) :
    tget (t.filter fun e => p e.1) n = if p n then tget t n else none := by
  induction t with
  | nil => simp [tget]
  | cons e r ih =>
    obtain ⟨j, x⟩ := e
    by_cases hj : j = n
    · subst hj
      cases hp : p j with
      | true => simp [hp, tget]
      | false =>
        rw [hp] at ih
        simpa [hp] using ih
    · cases hp : p j with
      | true => simp [hp, tget, hj, ih]
      | false => simp [hp, tget, hj, ih]

/-- The VFs of a list that are absent come at reset. -/
def fillVfs (l : List Nat) (t : Tab Fn) : Tab Fn :=
  l.foldl (fun t i => if (tget t i).isSome then t else tset t i (Fn.reset true)) t

theorem fillVfs_cons (i : Nat) (r : List Nat) (t : Tab Fn) :
    fillVfs (i :: r) t = fillVfs r (if (tget t i).isSome then t else tset t i (Fn.reset true)) := rfl

theorem fillVfs_isSome (l : List Nat) (t : Tab Fn) (n : Nat) :
    (tget (fillVfs l t) n).isSome = (decide (n ∈ l) || (tget t n).isSome) := by
  induction l generalizing t with
  | nil => simp [fillVfs]
  | cons i r ih =>
    rw [fillVfs_cons, ih]
    by_cases hn : n = i
    · subst hn
      split
      · rename_i h
        simp [h]
      · simp
    · split
      · simp [hn]
      · simp [hn, tget_tset_of_ne _ _ hn]

theorem setVfs_hif (s : State) (enable : Bool) (count n : Nat) (hn : n = if enable then min count 1024 else 0) :
    s.setVfs enable count = { s with hif := (s.setVfs enable count).hif } ∧ (s.setVfs enable count).hif.fns =
      fillVfs ((List.range n).map (· + 1))
        ((((tkeys s.hif.fns).filter fun i => n < i).foldl State.resetFn s).hif.fns.filter fun e => e.1 ≤ n) := by
  subst hn
  refine ⟨?_, rfl⟩
  unfold State.setVfs
  dsimp only
  rw [foldl_resetFn_frame]

theorem resetVfs_fn (s : State) (n : Nat) :
    tget (((tkeys s.hif.fns).filter fun i => n < i).foldl State.resetFn s).hif.fns 0 = tget s.hif.fns 0 :=
  foldl_resetFn_of_ne (fun k hk => by
    have := (List.mem_filter.mp hk).2
    simp only [decide_eq_true_eq] at this
    omega) s

/-- Settles O29: each write changes the register that it names, in the function or in the trust die, and the VFs are those that
`setVfs` leaves (`setVfs_hif`). -/
theorem registerWrites : Obligations.RegisterWrites := by
  unfold Obligations.RegisterWrites
  refine ⟨fun n s hr => ⟨fun off bytes hoff hdis => ?_, fun v => ⟨_, exec_writeBar0 hr _ v, rfl, fn_modFn_self hr _⟩,
      fun v => ⟨_, exec_writeBar0 hr _ v, rfl, fn_modFn_self hr _⟩, fun v => ⟨_, exec_writeBar0 hr _ v, rfl, fn_modFn_self hr _⟩,
      fun v => ⟨_, exec_writeBar0 hr _ v, rfl, fn_modFn_self hr _⟩, fun k v hk => ?_, fun off v hlo hhi => ?_⟩,
    fun s => ⟨fun hd => ⟨fun off v => ?_, fun e k => ?_, fun n off v => ?_⟩,
      fun hu => ⟨fun p v hp hput => ?_, fun v => ?_, fun v => ?_, fun v => ?_, fun k => ?_, fun k => ?_⟩⟩⟩
  · have hexec : exec (.registerWrite (.window n off bytes)) s = .next (s.writeWindow n off bytes) :=
      congrArg Host.Outcome.next (if_pos (by rw [hr]; exact decide_eq_true hoff))
    rw [writeWindow_of_disabled hr hdis] at hexec
    refine ⟨_, hexec, rfl, rfl, ?_, fun i hi => ?_⟩
    · rw [fn_modFn_self hr]
    · rw [fn_modFn_self hr, putBytes_getD]
      by_cases hin : off ≤ i ∧ i < off + bytes.length
      · rw [if_pos (by simp only [List.length_take]; omega), if_pos hin, List.getElem?_take_of_lt (by omega)]
      · rw [if_neg (by simp only [List.length_take]; omega), if_neg hin]
  · rw [exec_writeBar0 hr, writeBar0_msix s n v hk]
  · rw [exec_writeBar0 hr, writeBar0_of_gap s n v hlo hhi]
  · exact congrArg Host.Outcome.next (if_neg (by rw [hd]; decide))
  · exact congrArg Host.Outcome.next (if_neg (by rw [hd]; decide))
  · exact congrArg Host.Outcome.next (if_neg (by rw [State.reaches, hd]; simp))
  · have hexec : exec (.registerWrite (.bar2 (8 * p) v)) s = .next { s with
        link := { s.link with ports := tmod s.link.ports p fun q => q.clearStat v } } := by
      refine congrArg Host.Outcome.next ((if_pos hu).trans ?_)
      unfold State.writeBar2
      rw [if_pos (by omega), if_pos (by omega), show 8 * p / 8 = p by omega]
    refine ⟨_, hexec, rfl, ?_⟩
    obtain ⟨q, hq⟩ := Option.isSome_iff_exists.1 hput
    simp only [LinkTiles.port, tget_tmod_self, hq, Option.map_some, Option.getD_some]
    unfold Port.clearStat
    cases v.getLsbD 25 <;> simp
  · exact congrArg Host.Outcome.next (if_pos hu)
  · exact congrArg Host.Outcome.next (if_pos hu)
  · exact congrArg Host.Outcome.next (if_pos hu)
  · obtain ⟨hframe, hfns⟩ := setVfs_hif s false k 0 rfl
    refine ⟨_, congrArg Host.Outcome.next (if_pos hu), hframe, ?_, fun n hn => ?_⟩
    · rw [State.fn, hfns]
      change (tget (List.filter _ _) 0).getD _ = _
      rw [tget_filter_key _ (fun k => decide (k ≤ 0)), if_pos (by decide), resetVfs_fn]
      rfl
    · rw [State.fn, hfns]
      change (tget (List.filter _ _) n).getD _ = _
      rw [tget_filter_key _ (fun k => decide (k ≤ 0)), if_neg (by simp; omega)]
      rfl
  · obtain ⟨hframe, hfns⟩ := setVfs_hif s true k (min k 1024) rfl
    refine ⟨_, congrArg Host.Outcome.next (if_pos hu), hframe, fun n hn => ?_⟩
    rw [hfns, fillVfs_isSome, tget_filter_key _ (fun j => decide (j ≤ min k 1024))]
    have hmem : n ∈ (List.range (min k 1024)).map (· + 1) ↔ n ≤ min k 1024 := by
      rw [List.mem_map]
      exact ⟨fun ⟨j, hj, he⟩ => by rw [List.mem_range] at hj; omega, fun h => ⟨n - 1, List.mem_range.mpr (by omega), by omega⟩⟩
    by_cases h : n ≤ min k 1024
    · simp [hmem.mpr h, h]
    · simp only [h, hmem, decide_false, Bool.false_or, Bool.false_eq_true, if_false, Option.isSome_none]

end Sys2Proof.Machine

/-! # Commands and replies -/

namespace Sys2Proof.Machine

open Sys2Proof

/-! ## What every command begins with -/

/-- A row of a host command runs the command's body. -/
theorem exec_hostOp {i : Instr} {id : Nat} {op : BitVec 16} (h : i.hostOp = some (id, op)) (s : State) :
    ∃ body, exec i s = .next (s.run op id body) := by
  cases i <;> cases h <;> exact ⟨_, rfl⟩

theorem run_of_refused {s : State} {op : BitVec 16} {id : Nat} {c : Cmd} {a : Ans} (hc : s.cmd id = some c) (ho : c.opcode = op)
    (hm : s.mayStart c = true) (hp : s.precheck c = some a) (body : Cmd → State → State × Option Ans) :
    s.run op id body = (s.markStarted id).reply id a := by
  have hp' : (s.markStarted id).precheck c = some a := hp
  unfold State.run
  simp only [hc, ho, hm, hp', bne_self_eq_false, Bool.not_true, Bool.or_self, Bool.false_eq_true, if_false]

theorem run_of_left {s : State} {op : BitVec 16} {id : Nat} (h : ∀ c, s.cmd id = some c → ¬(c.opcode = op ∧ s.mayStart c = true))
    (body : Cmd → State → State × Option Ans) : s.run op id body = s := by
  unfold State.run
  split
  · rfl
  · rename_i c hc
    rw [if_pos]
    simp only [Bool.or_eq_true, bne_iff_ne, Bool.not_eq_true']
    refine Classical.byContradiction fun hn => ?_
    rw [not_or, Classical.not_not, Bool.not_eq_false] at hn
    exact h c hc hn

/-- Settles O30: every host command is run by `State.run`, which answers what the checks give and lets alone what may not start. -/
theorem commandsAreChecked : Obligations.CommandsAreChecked := by
  unfold Obligations.CommandsAreChecked
  refine ⟨fun i id op s hi => ?_, fun id c s hc hsrc hm => congrArg Host.Outcome.next ?_⟩
  · obtain ⟨body, hexec⟩ := exec_hostOp hi s
    exact ⟨fun c a hc ho hm hp => hexec.trans (congrArg Host.Outcome.next (run_of_refused hc ho hm hp body)),
      fun h => hexec.trans (congrArg Host.Outcome.next (run_of_left h body))⟩
  · rw [hc]
    simp [hsrc, hm]

/-! ## Replies -/

theorem reply_of_mute {s : State} {id : Nat} {c : Cmd} (hc : s.cmd id = some c) (hm : c.mute = true) (a : Ans) :
    s.reply id a = s.dropCmd id := by
  unfold State.reply
  simp only [hc, hm, if_true]

theorem reply_of_session {s : State} {id i : Nat} {c : Cmd} (hc : s.cmd id = some c) (hm : c.mute = false)
    (hs : c.src = .session i) (a : Ans) : s.reply id a = (s.dropCmd id).sessionReply i c a := by
  unfold State.reply
  simp only [hc, hm, hs, Bool.false_eq_true, if_false]

/-- The data of a reply, and the answer that is written after it (R394). -/
def State.dataSent (s : State) (c : Cmd) (a : Ans) : State × Ans :=
  let d := if a.data.isEmpty then (false, s) else s.hostFails
  let b := if d.1 then { fail sHostError with result := [] } else a
  (if d.1 || b.data.isEmpty then d.2 else d.2.emit [.dma c.dataAddr b.data], b)

/-- The reply itself, and its interrupt (R395, R396). -/
def State.putReply (s : State) (n : Nat) (c : Cmd) (a : Ans) : State :=
  if s.hostFails.1 then s.hostFails.2.modFn n fun f => { f with dmaErr := true }
  else
    let t := s.hostFails.2.emit (replyWrites n ((s.fn n).replyAt c.slot) (replyBytes c a s.lap))
    if c.noIrq then t else t.interrupt n 0

theorem writeReply_eq (s : State) (n : Nat) (c : Cmd) (a : Ans) :
    s.writeReply n c a = (s.dataSent c a).1.putReply n c (s.dataSent c a).2 := rfl

theorem dataSent_hif (s : State) (c : Cmd) (a : Ans) : (s.dataSent c a).1.hif = s.hif := by
  unfold State.dataSent
  dsimp only
  repeat' split
  all_goals rfl

theorem dataSent_of_none (s : State) (c : Cmd) {a : Ans} (h : a.data = []) : s.dataSent c a = (s, a) := by
  unfold State.dataSent
  simp [h]

/-- What a write to host memory may leave of a function: its vectors and HOST_DMA_ERR. -/
def Fn.afterReply (f : Fn) (d : Bool) (q r : Irq) : Fn := { f with dmaErr := d, irq0 := q, irq1 := r }

/-- A function's reply touches HOST_DMA_ERR and the vectors of the function alone. -/
theorem tget_writeReply {s : State} {n : Nat} {f : Fn} (hf : tget s.hif.fns n = some f) (c : Cmd) (a : Ans) :
    ∃ d q r, tget (s.writeReply n c a).hif.fns n = some (f.afterReply d q r) := by
  rw [← dataSent_hif s c a] at hf
  rw [writeReply_eq]
  unfold State.putReply
  dsimp only
  repeat' split
  · rw [tget_modFn (s := (s.dataSent c a).1.hostFails.2) hf]
    exact ⟨_, _, _, rfl⟩
  · exact ⟨_, _, _, hf⟩
  · obtain ⟨q, r, h⟩ := tget_interrupt (s := (s.dataSent c a).1.hostFails.2.emit
      (replyWrites n (((s.dataSent c a).1.fn n).replyAt c.slot) (replyBytes c (s.dataSent c a).2 (s.dataSent c a).1.lap))) hf 0
    exact ⟨_, q, r, h⟩

theorem interrupt_cmds (s : State) (n vector : Nat) : (s.interrupt n vector).hif.cmds = s.hif.cmds := by
  unfold State.interrupt
  dsimp only
  repeat' split
  all_goals rfl

theorem writeReply_cmds (s : State) (n : Nat) (c : Cmd) (a : Ans) : (s.writeReply n c a).hif.cmds = s.hif.cmds := by
  rw [writeReply_eq, ← dataSent_hif s c a]
  unfold State.putReply
  dsimp only
  repeat' split
  · rfl
  · rfl
  · exact interrupt_cmds _ _ _

/-- A function's reply without data. -/
theorem writeReply_of_fails {s : State} (n : Nat) (c : Cmd) {a : Ans} (ha : a.data = []) (hf : Config.hostFails s.free = true) :
    s.writeReply n c a = s.hostFails.2.modFn n fun f => { f with dmaErr := true } := by
  rw [writeReply_eq, dataSent_of_none s c ha]
  exact if_pos (by simp [hf])

theorem putReply_out_of_ok {s : State} {n : Nat} {f : Fn} (hfn : tget s.hif.fns n = some f) (c : Cmd) (a : Ans)
    (hg : s.ember.grant = true) (hf : Config.hostFails s.free = false) {w : Emission}
    (hw : w ∈ s.out ++ replyWrites n (f.replyAt c.slot) (replyBytes c a s.lap)) : w ∈ (s.putReply n c a).out := by
  unfold State.putReply
  rw [if_neg (by simp [hg, hf]), fn_of_tget hfn]
  dsimp only
  split
  · exact hw
  · exact interrupt_out _ _ _ hw

theorem putReply_out (s : State) (n : Nat) (c : Cmd) (a : Ans) {w : Emission} (hw : w ∈ s.out) : w ∈ (s.putReply n c a).out := by
  unfold State.putReply
  dsimp only
  repeat' split
  · exact hw
  · exact List.mem_append_left _ hw
  · exact interrupt_out _ _ _ (List.mem_append_left _ hw)

/-- The data of a reply is written first. -/
theorem writeReply_out_of_data {s : State} (n : Nat) (c : Cmd) {a : Ans} (ha : a.data ≠ []) (hg : s.ember.grant = true)
    (hf : Config.hostFails s.free = false) : .dma c.dataAddr a.data ∈ (s.writeReply n c a).out := by
  have hne : a.data.isEmpty = false := by simpa using ha
  have hsent : (s.dataSent c a).1 = s.hostFails.2.emit [.dma c.dataAddr a.data] := by
    unfold State.dataSent
    simp [hne, hg, hf]
  rw [writeReply_eq, hsent]
  exact putReply_out _ _ _ _ (List.mem_append_right _ (List.mem_singleton_self _))

theorem reply_of_fn {s : State} {id n : Nat} {c : Cmd} {f : Fn} (hc : s.cmd id = some c) (hm : c.mute = false)
    (hs : c.src = .fn n) (hf : tget s.hif.fns n = some f) (hl : f.later = []) (a : Ans) :
    s.reply id a = ((s.dropCmd id).writeReply n c a).modFn n fun f => { f with busy := f.busy.filter (· != c.slot) } := by
  obtain ⟨d, q, r, hw⟩ := tget_writeReply (s := s.dropCmd id) hf c a
  have hlater : ((((s.dropCmd id).writeReply n c a).modFn n fun f => { f with busy := f.busy.filter (· != c.slot) }).fn n).later = [] := by
    rw [fn_modFn_of_some hw]
    exact hl
  unfold State.reply
  simp only [hc, hm, hs, Bool.false_eq_true, if_false, hlater, List.contains_nil, Bool.false_and]

/-- Settles O31, by the command's source: a session's message (`sendSessions`), or the writes of a function's reply. -/
theorem repliesEndCommands : Obligations.RepliesEndCommands := by
  unfold Obligations.RepliesEndCommands
  refine fun id c a s hc => ⟨fun hm => reply_of_mute hc hm a, fun i x hm hs hx hcar => ?_, fun n f hm hs hf hl hg => ?_⟩
  · rw [reply_of_session hc hm hs]
    refine ⟨?_, rfl⟩
    have hone : s.trust.sessions.filter (fun y => (y.id == i && y.opened) && s.carries y) = [x] := by
      rw [show (fun y : Session => (y.id == i && y.opened) && s.carries y) = fun y => s.carries y && (y.id == i && y.opened) by
        funext y; exact Bool.and_comm _ _]
      rw [← List.filter_filter, hx]
      simp [hcar]
    change s.out ++ ((s.trust.sessions.filter fun y => (y.id == i && y.opened) && s.carries y).flatMap _) = _
    rw [hone]
    simp
  · rw [reply_of_fn hc hm hs hf hl]
    obtain ⟨d, q, r, hw⟩ := tget_writeReply (s := s.dropCmd id) hf c a
    refine ⟨by rw [fn_modFn_of_some hw]; rfl, writeReply_cmds _ _ _ _, fun ha => ?_, fun ha hfail => ?_⟩
    · split
      · rename_i hfail
        rw [writeReply_of_fails (s := s.dropCmd id) n c ha hfail,
          fn_modFn_of_some (tget_modFn (s := (s.dropCmd id).hostFails.2) hf _)]
      · rename_i hfail
        rw [writeReply_eq, dataSent_of_none _ c ha]
        exact fun w hw => putReply_out_of_ok (s := s.dropCmd id) hf c a hg (by simpa using hfail) (List.mem_append_right _ hw)
    · exact writeReply_out_of_data (s := s.dropCmd id) n c ha hg hfail

end Sys2Proof.Machine

/-! # Power-on and the grant -/

namespace Sys2Proof.Machine

open Sys2Proof

/-! ## Step 1 -/

theorem powerOnImage_ember (s : State) : s.powerOnImage.ember = s.ember := by
  have halarm (t : State) (code : Nat) (d : List Byte) : (t.alarm code d).ember = t.ember := by
    obtain ⟨_, _, _, _, _, _, _, h, _⟩ := ((Outward.refl t).alarm code d).frame
    exact h
  unfold State.powerOnImage State.writeConfirm State.fallBackFor State.fellBack
  dsimp only
  repeat' split
  all_goals first | rfl | exact halarm _ _ _

/-- The boot record's part of a power-on leaves the counts of the trust die. -/
theorem powerOnImage_counts (s : State) : s.powerOnImage.trust.powerCycles = s.trust.powerCycles ∧
    s.powerOnImage.trust.identity = s.trust.identity ∧ s.powerOnImage.trust.attest = s.trust.attest := by
  rcases powerOnImage_kept s with h | ⟨b, h⟩
  · exact ⟨congrArg Kept.powerCycles h, congrArg Kept.identity h, congrArg Kept.attest h⟩
  · exact ⟨congrArg Kept.powerCycles h, congrArg Kept.identity h, congrArg Kept.attest h⟩

theorem trustStarts_ember (s : State) : s.trustStarts.ember = s.ember := powerOnImage_ember _

theorem powerOn_ends (s : State) : s.powerOn.out.getLast? = some (.i3c 7 []) ∧ s.powerOn.mem.sets = quenchedSets ∧
    s.powerOn.boot.stage = (if s.ember.grant then .pllWait else .grantWait) := by
  refine ⟨List.getLast?_concat .., rfl, ?_⟩
  change (if s.trustStarts.ember.grant then Stage.pllWait else Stage.grantWait) = _
  rw [trustStarts_ember]

theorem powerOn_counts (s : State) : s.powerOn.trust.powerCycles = s.trust.powerCycles + 1 ∧
    s.powerOn.trust.identity = s.trust.identity.powerOn ∧ s.powerOn.trust.attest = s.trust.attest.powerOn :=
  powerOnImage_counts _

/-! ## The grant -/

/-- Every port of a module without the grant has width 0. -/
theorem loseGrant_width (s : State) (p : Nat) : (s.loseGrant.link.port p).width = 0 := by
  unfold State.loseGrant LinkTiles.port
  rw [emit_link]
  dsimp only
  rw [tget_tmap]
  cases tget s.link.ports p with
  | none => rfl
  | some q => rfl

theorem loseGrant_idle {s : State} {p : Nat} {q : Port} (h : tget s.loseGrant.link.ports p = some q) : q.idle = true := by
  unfold State.loseGrant at h
  rw [emit_link] at h
  dsimp only at h
  rw [tget_tmap] at h
  cases hq : tget s.link.ports p with
  | none => rw [hq] at h; cases h
  | some r => rw [hq] at h; cases h; rfl

/-- Settles O32: step 1 by `powerOn_ends` and `powerOn_counts`, the other rows by their guards, and the loss of the grant by what
`loseGrant` does to a port. -/
theorem powerOnBeginsAndGrantLost : Obligations.PowerOnBeginsAndGrantLost := by
  unfold Obligations.PowerOnBeginsAndGrantLost
  refine ⟨fun s => ⟨fun hoff hon => ?_, fun hoff => congrArg Host.Outcome.next (if_pos hoff),
    fun hw => congrArg Host.Outcome.next (if_pos hw), fun hw hg => ?_, fun hw hg => ?_⟩, fun s hg => ?_⟩
  · obtain ⟨hout, hsets, hstage⟩ := powerOn_ends s
    obtain ⟨hcycles, hid, hat⟩ := powerOn_counts s
    exact ⟨_, exec_powerOn_of_switchOn ⟨hoff, hon⟩, hout, hsets, hcycles, hstage, hid, hat⟩
  · have hexec : exec .fabricGrant s = .next
        (({ s with ember := { s.ember with grant := true, active := true } } : State).setBoot { s.boot with stage := .pllWait }) := by
      change Host.Outcome.next _ = _
      simp only [hg, hw, Bool.false_eq_true, if_false]
    exact ⟨_, hexec, rfl, rfl, rfl⟩
  · change Host.Outcome.next _ = _
    simp only [hg, hw, Bool.false_eq_true, if_false, if_true]
    rfl
  · exact ⟨_, congrArg Host.Outcome.next (if_pos hg), rfl, rfl, rfl, rfl, rfl, rfl, loseGrant_width s, fun p q => loseGrant_idle⟩

end Sys2Proof.Machine

/-! # From the clocks to the manager -/

namespace Sys2Proof.Machine

open Sys2Proof

/-! ## What is noticed goes outward -/

theorem Outward.foldl {α : Type} (f : State → α → State) (hf : ∀ s t x, Outward s t → Outward s (f t x)) (l : List α) {s t : State}
    (h : Outward s t) : Outward s (l.foldl f t) := by
  induction l generalizing t with
  | nil => exact h
  | cons x r ih => exact ih (hf s t x h)

theorem Outward.noticeLater {s t : State} (h : Outward s t) : Outward s t.noticeLater := by
  unfold State.noticeLater
  refine Outward.foldl _ (fun s t x k => ?_) _ h
  split
  · exact k
  · exact (k.modFn _ _).notice _ _

/-- What an alarm, or anything else that goes outward, leaves of bring-up, links, the manager and the configuration. -/
theorem Outward.rest {s t : State} (h : Outward s t) : t.boot = s.boot ∧ t.link = s.link ∧ t.mgr = s.mgr ∧ t.cfg = s.cfg ∧
    t.fw = s.fw ∧ t.ember = s.ember := by
  obtain ⟨_, hlink, _, hmgr, _, hboot, hfw, hember, hcfg, _⟩ := h.frame
  exact ⟨hboot, hlink, hmgr, hcfg, hfw, hember⟩

/-! ## The training window -/

/-- What a training attempt of a Chrohar port touches. -/
theorem startTraining_chrohar_frame (s : State) (p : Nat) : s.startTraining .chrohar p = { s with
    link := (s.startTraining .chrohar p).link, cfg := { s.cfg with calUsed := (s.startTraining .chrohar p).cfg.calUsed }
    rcd := (s.startTraining .chrohar p).rcd, out := (s.startTraining .chrohar p).out } := by
  unfold State.startTraining
  dsimp only
  split
  · unfold State.tally
    split <;> rfl
  · rfl

theorem mem_tkeys_of_tget {α : Type} {t : Tab α} {k : Nat} (h : (tget t k).isSome = true) : k ∈ tkeys t := by
  induction t with
  | nil => cases h
  | cons e r ih =>
    obtain ⟨j, x⟩ := e
    by_cases hj : j = k
    · exact hj ▸ List.mem_cons_self
    · exact List.mem_cons_of_mem j (ih (by simpa [tget, hj] using h))

/-- A change of an entry that is there leaves the keys of a table in order. -/
theorem tkeys_tset_of_mem {α : Type} {t : Tab α} {k : Nat} (y : α) (hs : (tkeys t).Pairwise (· < ·))
    (h : (tget t k).isSome = true) : tkeys (tset t k y) = tkeys t := by
  induction t with
  | nil => cases h
  | cons e r ih =>
    obtain ⟨j, x⟩ := e
    obtain ⟨hmin, hr⟩ := List.pairwise_cons.mp hs
    by_cases hj : j = k
    · simp [tset, tkeys, hj]
    · have hk : (tget r k).isSome = true := by simpa [tget, hj] using h
      have hlt : ¬k < j := Nat.lt_asymm (hmin k (mem_tkeys_of_tget hk))
      have := ih hr hk
      simp only [tkeys] at this
      simp [tset, tkeys, hj, hlt, this]

theorem startTraining_chrohar_ports {s : State} (hs : (tkeys s.link.ports).Pairwise (· < ·)) (p : Nat) :
    tkeys (s.startTraining .chrohar p).link.ports = tkeys s.link.ports := by
  unfold State.startTraining
  split
  · rename_i h
    have hput : (tget s.link.ports p).isSome = true := by
      simp only [Bool.and_eq_true] at h
      exact h.1.2
    dsimp only
    rw [(Outward.tally (.refl _) _ _ _).rest.2.1]
    exact tkeys_tset_of_mem _ hs hput
  · rfl

theorem installedPorts_sorted (r : Option InstRecord) : (tkeys (installedPorts r)).Pairwise (· < ·) := by
  unfold installedPorts tkeys
  rw [List.map_map]
  exact (List.pairwise_lt_range.filter _).map _ fun _ _ h => h

/-- The window opens on the ports of the record in force. -/
theorem openWindow_frame (s : State) : s.openWindow = { s with
    link := s.openWindow.link, cfg := { s.cfg with calUsed := s.openWindow.cfg.calUsed }, rcd := s.openWindow.rcd
    out := s.openWindow.out } := by
  have hfold (l : List Nat) (t : State) : l.foldl (fun s p => s.startTraining .chrohar p) t = { t with
      link := (l.foldl (fun s p => s.startTraining .chrohar p) t).link
      cfg := { t.cfg with calUsed := (l.foldl (fun s p => s.startTraining .chrohar p) t).cfg.calUsed }
      rcd := (l.foldl (fun s p => s.startTraining .chrohar p) t).rcd
      out := (l.foldl (fun s p => s.startTraining .chrohar p) t).out } := by
    induction l generalizing t with
    | nil => rfl
    | cons p r ih =>
      rw [List.foldl_cons, ih, startTraining_chrohar_frame t p]
  unfold State.openWindow
  split
  · exact hfold _ _
  · rfl

theorem openWindow_ports {s : State} (hl : s.boot.linkTest = true) (hc : s.boot.configRead = true) (he : s.link.ports = []) :
    tkeys s.openWindow.link.ports = tkeys (installedPorts s.mgr.record) := by
  have hfold (l : List Nat) (t : State) (hs : (tkeys t.link.ports).Pairwise (· < ·)) :
      tkeys (l.foldl (fun s p => s.startTraining .chrohar p) t).link.ports = tkeys t.link.ports := by
    induction l generalizing t with
    | nil => rfl
    | cons p r ih =>
      have hone := startTraining_chrohar_ports hs p
      rw [List.foldl_cons, ih _ (by rw [hone]; exact hs), hone]
  unfold State.openWindow
  rw [if_pos (by rw [hl, hc, he]; rfl)]
  exact hfold _ _ (installedPorts_sorted _)

/-! ## The stored configuration -/

theorem ensureKey_rest (s : State) (tenant : Nat) : (s.ensureKey tenant).boot = s.boot ∧ (s.ensureKey tenant).mgr = s.mgr ∧
    (s.ensureKey tenant).cfg = s.cfg := by
  unfold State.ensureKey State.createKey
  dsimp only
  repeat' split
  all_goals exact ⟨rfl, rfl, rfl⟩

theorem firstKeys_rest (s : State) : s.firstKeys.boot = s.boot ∧ s.firstKeys.mgr = s.mgr ∧ s.firstKeys.cfg = s.cfg := by
  have hfold (l : Tab (BitVec 64)) (t : State) : (l.foldl (fun s e => s.ensureKey e.1) t).boot = t.boot ∧
      (l.foldl (fun s e => s.ensureKey e.1) t).mgr = t.mgr ∧ (l.foldl (fun s e => s.ensureKey e.1) t).cfg = t.cfg := by
    induction l generalizing t with
    | nil => exact ⟨rfl, rfl, rfl⟩
    | cons e r ih =>
      obtain ⟨hb, hm, hc⟩ := ih (t.ensureKey e.1)
      obtain ⟨kb, km, kc⟩ := ensureKey_rest t e.1
      exact ⟨hb.trans kb, hm.trans km, hc.trans kc⟩
  unfold State.firstKeys
  exact hfold _ _

theorem readCal_rest (s : State) : s.readCal.boot = s.boot ∧ s.readCal.mgr = s.mgr ∧ s.readCal.cfg.live = s.cfg.live := by
  unfold State.readCal
  dsimp only
  split
  · exact ⟨rfl, rfl, rfl⟩
  · obtain ⟨hb, _, hm, hc, _⟩ := ((Outward.refl ((({ s with
      free := s.free + 1
      cfg := { s.cfg with calValid := s.cfg.calSound && Config.calGood s.free, calUsed := [] } } : State).useCal 2048).useCal
        2049 |>.useCal 2050)).note 0x1409 0 []).rest
    rw [hb, hm, hc]
    exact ⟨rfl, rfl, rfl⟩

theorem readPairing_rest (s : State) : s.readPairing.boot = s.boot ∧ s.readPairing.mgr = s.mgr ∧ s.readPairing.cfg = s.cfg := by
  unfold State.readPairing
  split <;> exact ⟨rfl, rfl, rfl⟩

/-- CONFIG_READ_DONE puts what was read in force (R406). -/
theorem configRead_inForce {s : State} (hc : s.boot.configRead = false) (hf : s.boot.fuseOk = true) :
    s.configRead.boot.configRead = true ∧ s.configRead.mgr.record = s.configRead.cfg.live.record ∧
      s.configRead.cfg.live = s.cfg.read.live := by
  obtain ⟨_, _, hcfg⟩ := readPairing_rest ({ s with cfg := s.cfg.read } : State).readCal
  obtain ⟨_, _, hlive⟩ := readCal_rest { s with cfg := s.cfg.read }
  have hread : ({ s with cfg := s.cfg.read } : State).readCal.readPairing.cfg.live = s.cfg.read.live := by
    rw [hcfg, hlive]
  unfold State.configRead
  rw [if_neg (by rw [hc, hf]; decide)]
  dsimp only
  split
  · exact ⟨rfl, rfl, hread⟩
  · obtain ⟨kb, km, kc⟩ := firstKeys_rest ((({ s with cfg := s.cfg.read } : State).readCal.readPairing.setBoot
      { ({ s with cfg := s.cfg.read } : State).readCal.readPairing.boot with configRead := true }).setMgr
      { ({ s with cfg := s.cfg.read } : State).readCal.readPairing.mgr with
        record := ({ s with cfg := s.cfg.read } : State).readCal.readPairing.cfg.live.record })
    refine ⟨(congrArg Boot.configRead kb).trans rfl, ?_, (congrArg Cfg.live kc).trans hread⟩
    exact (congrArg Mgr.record km).trans (congrArg (fun c : Cfg => c.live.record) kc).symm

theorem filter_of_any_false {α : Type} {p : α → Bool} {o : Option α} (h : o.any p = false) : o.filter p = none := by
  cases o with
  | none => rfl
  | some a => exact Option.filter_some_neg (by simpa using h)

/-- Which slot is the newest (R406). -/
theorem newest_of_none {c : Cfg} (ha : c.flashA.any CfgSlot.valid = false) (hb : c.flashB.any CfgSlot.valid = false) :
    c.newest = none := by
  unfold Cfg.newest
  rw [filter_of_any_false ha, filter_of_any_false hb]

theorem newest_of_first {c : Cfg} {a : CfgSlot} (ha : c.flashA = some a) (hv : a.valid = true)
    (hb : c.flashB.any CfgSlot.valid = false) : c.newest = some a := by
  unfold Cfg.newest
  rw [ha, Option.filter_some_pos hv, filter_of_any_false hb]

theorem newest_of_second {c : Cfg} {b : CfgSlot} (ha : c.flashA.any CfgSlot.valid = false) (hb : c.flashB = some b)
    (hv : b.valid = true) : c.newest = some b := by
  unfold Cfg.newest
  rw [hb, Option.filter_some_pos hv, filter_of_any_false ha]

theorem newest_of_both {c : Cfg} {a b : CfgSlot} (ha : c.flashA = some a) (hva : a.valid = true) (hb : c.flashB = some b)
    (hvb : b.valid = true) : c.newest = some (if a.seq < b.seq then b else a) := by
  unfold Cfg.newest
  rw [ha, hb, Option.filter_some_pos hva, Option.filter_some_pos hvb]
  dsimp only
  split <;> rfl

/-! ## The start-up tests -/

theorem testFound_frame (s : State) (failing : List (BitVec 32)) : (s.testFound failing).boot = { s.boot with
      failing := s.boot.failing ++ failing.eraseDups.filter fun r => !s.boot.failing.contains r } ∧
    (s.testFound failing).link = s.link ∧ (s.testFound failing).mgr = s.mgr ∧ (s.testFound failing).fw = s.fw := by
  unfold State.testFound
  obtain ⟨hb, hl, hm, _, hf, _⟩ := (Outward.foldl
    (fun s r => s.alarm 0x1104 (leBytes 2 (unitClass r) ++ leBytes 4 (unitIndex r))) (fun _ _ _ k => k.alarm _ _)
    ((failing.eraseDups.filter fun r => !s.boot.failing.contains r).filter fun r => !s.boot.fuse.contains r)
    (.refl { s with boot := { s.boot with
      failing := s.boot.failing ++ failing.eraseDups.filter fun r => !s.boot.failing.contains r } })).rest
  exact ⟨hb, hl, hm, hf⟩

/-- A unit that fails a start-up test counts as bad from then on (R424). -/
theorem mem_badUnits_testFound (s : State) {failing : List (BitVec 32)} {r : BitVec 32} (h : r ∈ failing) :
    r ∈ (s.testFound failing).boot.badUnits := by
  rw [(testFound_frame s failing).1]
  unfold Boot.badUnits
  rw [List.mem_eraseDups, List.mem_append]
  right
  by_cases hr : r ∈ s.boot.failing
  · exact List.mem_append_left _ hr
  · refine List.mem_append_right _ (List.mem_filter.mpr ⟨List.mem_eraseDups.mpr h, ?_⟩)
    simpa using hr

/-- The grade rests on the bad units and on the pairs that the tiles' pools have given. -/
theorem allUnfilled_congr {s t : State} (hb : t.boot.badUnits = s.boot.badUnits) (ho : t.link.onSpare = s.link.onSpare)
    (hp : t.link.pools = s.link.pools) : t.allUnfilled = s.allUnfilled := by
  have hunpaired : t.unpaired = s.unpaired := by
    funext tile
    simp only [State.unpaired, Boot.badPairs, Boot.freshPool, hb, ho, hp]
  have hunfilled : t.unfilled = s.unfilled := by
    funext cls
    simp only [State.unfilled, State.unpairedLanes, hunpaired, hb]
  unfold State.allUnfilled
  rw [hunfilled]

theorem regrade_frame (s : State) : s.regrade.boot = { s.boot with grade := s.allUnfilled != 0 } ∧ s.regrade.link = s.link ∧
    s.regrade.fw = s.fw := by
  unfold State.regrade
  dsimp only
  split
  · exact ⟨rfl, rfl, rfl⟩
  · obtain ⟨hb, hl, _, _, hf, _⟩ := ((Outward.refl ({ s with boot := { s.boot with grade := s.allUnfilled != 0 } } : State)).alarm
      0x1105 (leBytes 2 _ ++ leBytes 4 s.allUnfilled)).rest
    exact ⟨hb, hl, hf⟩

/-- The image that is started, or none: then COMPUTE_HELD stands (R488). -/
theorem copyImage_frame (s : State) (on : Bool) : ∃ held, (s.copyImage on).boot = { s.boot with computeHeld := held } ∧
    (s.copyImage on).link = s.link ∧ ((s.copyImage on).fw.noImage = true → held = true) := by
  have hnone : s.noImageRuns.boot = { s.boot with computeHeld := true } ∧ s.noImageRuns.link = s.link := by
    unfold State.noImageRuns
    obtain ⟨hb, hl, _⟩ := (((Outward.refl ({ s with
      fw := { s.fw with running := none, noImage := true }, boot := { s.boot with computeHeld := true } } : State)).alarm
        0x1304 []).noticeLater).rest
    exact ⟨hb, hl⟩
  have hback (f : Fw) (b : List Byte) : (({ s with fw := { f.runs b with noImage := false, imageSaved := false } } : State).fellBack 3 b).fw.noImage = false ∧
      (({ s with fw := { f.runs b with noImage := false, imageSaved := false } } : State).fellBack 3 b).boot = s.boot ∧
      (({ s with fw := { f.runs b with noImage := false, imageSaved := false } } : State).fellBack 3 b).link = s.link := by
    unfold State.fellBack
    obtain ⟨hb, hl, _, _, hf, _⟩ := ((Outward.refl ({ s with
      fw := { f.runs b with noImage := false, imageSaved := false } } : State)).alarm 0x1303
        (leBytes 2 3 ++ leBytes 4 (imageVersion b))).rest
    rw [hf]
    exact ⟨rfl, hb, hl⟩
  unfold State.copyImage
  dsimp only
  repeat' split
  · exact ⟨_, rfl, rfl, fun h => Bool.noConfusion h⟩
  · exact ⟨_, rfl, rfl, fun h => Bool.noConfusion h⟩
  · obtain ⟨hn, hb, hl⟩ := hback _ _
    exact ⟨_, hb, hl, fun h => absurd (hn.symm.trans h) (by decide)⟩
  · exact ⟨true, hnone.1, hnone.2, fun _ => rfl⟩

/-- A module that cannot serve gives its grant away, and keeps its bring-up and its pools. -/
theorem yieldGrant_frame (s : State) : s.yieldGrant.boot = s.boot ∧ s.yieldGrant.link.onSpare = s.link.onSpare ∧
    s.yieldGrant.link.pools = s.link.pools ∧ s.yieldGrant.fw = s.fw := by
  unfold State.yieldGrant
  split <;> exact ⟨rfl, rfl, rfl, rfl⟩

/-- The module once the compute-domain test has found what fails (R424, R425). -/
def State.computeTested (s : State) (failing : List (BitVec 32)) : State :=
  let u := (s.testFound (failing.filter fun r => unitClass r != 7)).withhold
  u.setBoot { u.boot with computeTest := true }

/-- COMPUTE_TEST_DONE: what the test found, the grade, and the image. -/
theorem exec_computeTestDone {failing : List (BitVec 32)} {s : State} (hs : s.boot.stage = .bellows) (hw : s.boot.wave = 8)
    (hc : s.boot.computeTest = false) : exec (.computeTestDone failing) s =
      .next (if ((s.computeTested failing).regrade.copyImage true).fw.noImage
        then ((s.computeTested failing).regrade.copyImage true).yieldGrant
        else (s.computeTested failing).regrade.copyImage true) := by
  have hg : (s.boot.stage = .bellows && !s.boot.computeTest && (s.boot.wave == 8 || (s.boot.halted && 4 ≤ s.boot.wave))) = true := by
    rw [hs, hw, hc]
    rfl
  unfold State.computeTested
  change Host.Outcome.next (if _ then _ else s) = _
  rw [if_pos hg]

theorem yieldIf_frame (v : State) : (if v.fw.noImage then v.yieldGrant else v).boot = v.boot ∧
    (if v.fw.noImage then v.yieldGrant else v).link.onSpare = v.link.onSpare ∧
    (if v.fw.noImage then v.yieldGrant else v).link.pools = v.link.pools ∧
    (if v.fw.noImage then v.yieldGrant else v).fw = v.fw := by
  split
  · exact yieldGrant_frame v
  · exact ⟨rfl, rfl, rfl, rfl⟩

/-- What the compute-domain test leaves: the test is done, the bad units stay, the grade says whether a role is unfilled, and without
an image COMPUTE_HELD stands. -/
theorem computeTest_leaves {w v t : State} (hv : v = w.regrade.copyImage true) (ht : t = if v.fw.noImage then v.yieldGrant else v) :
    t.boot.computeTest = w.boot.computeTest ∧ t.boot.badUnits = w.boot.badUnits ∧ t.boot.grade = (t.allUnfilled != 0) ∧
      (t.fw.noImage = true → t.boot.computeHeld = true) := by
  obtain ⟨hgb, hgl, _⟩ := regrade_frame w
  obtain ⟨held, hb, hl, hheld⟩ := copyImage_frame w.regrade true
  obtain ⟨htb, hto, htp, htf⟩ := yieldIf_frame v
  rw [← hv, hgb] at hb
  rw [← hv, hgl] at hl
  rw [← hv] at hheld
  rw [← ht, hb] at htb
  rw [← ht, hl] at hto htp
  rw [← ht] at htf
  have hunits : t.boot.badUnits = w.boot.badUnits := by rw [htb]; rfl
  have hgrade : t.boot.grade = (w.allUnfilled != 0) := by rw [htb]
  have hdone : t.boot.computeTest = w.boot.computeTest := by rw [htb]
  have hcomp : t.boot.computeHeld = held := by rw [htb]
  rw [allUnfilled_congr hunits hto htp, hcomp, htf]
  exact ⟨hdone, hunits, hgrade, hheld⟩

/-- Settles O33: what each row leaves of bring-up is said by the frame of its operation (`configRead_inForce`, `testFound_frame`,
`openWindow_ports`, `regrade_frame`, `copyImage_frame`). -/
theorem powerOnToTheManager : Obligations.PowerOnToTheManager := by
  unfold Obligations.PowerOnToTheManager
  refine ⟨fun s => ⟨fun hs => ?_, fun recs crc hs => ⟨fun hok => ?_, fun hbad => ?_⟩, fun hc hf => ?_⟩,
    fun failing s hstage => ⟨fun hw hc hl hp => ?_, fun hs hw hc => ?_⟩,
    fun s hs hct hcr hch hpr htk hst hact => ?_⟩
  · have hexec : exec .pllLock s = .next (({ s with ember := { s.ember with up0 := true, up1 := true } } : State).setBoot
        { s.boot with stage := .fuseWait, pllLock := true, strapsLatched := true, strap := Config.strapPins }).startRecorder := by
      change Host.Outcome.next s.lock = _
      unfold State.lock
      rw [hs]
    exact ⟨_, hexec, rfl, rfl, rfl, rfl, rfl, rfl, rfl, rfl⟩
  · have hmap : fuseMapOk recs crc = true := by
      simp only [fuseMapOk, Bool.and_eq_true, decide_eq_true_eq, beq_iff_eq, List.all_eq_true]
      exact ⟨⟨hok.1, hok.2.1⟩, fun r hr => by simpa using hok.2.2 r hr⟩
    refine congrArg Host.Outcome.next ?_
    unfold State.fuseLoaded
    dsimp only
    rw [hs, hmap]
    rfl
  · have hmap : fuseMapOk recs crc = false := by
      rw [← Bool.not_eq_true]
      intro h
      simp only [fuseMapOk, Bool.and_eq_true, decide_eq_true_eq, beq_iff_eq, List.all_eq_true] at h
      exact hbad ⟨h.1.1, h.1.2, fun r hr => by simpa using h.2 r hr⟩
    refine ⟨_, rfl, ?_⟩
    unfold State.fuseLoaded
    dsimp only
    rw [hs, hmap]
    rfl
  · obtain ⟨hread, hrec, hlive⟩ := configRead_inForce hc hf
    refine ⟨_, rfl, ?_⟩
    rw [openWindow_frame s.configRead]
    dsimp only
    rw [hlive]
    refine ⟨hread, hrec.trans (by rw [hlive]), fun ha hb => ?_, fun a ha hv hb => ?_, fun b ha hb hv => ?_,
      fun a b ha hva hb hvb => ?_⟩
    · simp [Cfg.read, newest_of_none ha hb]
    · simp [Cfg.read, newest_of_first ha hv hb]
    · simp [Cfg.read, newest_of_second ha hb hv]
    · simp only [Cfg.read, newest_of_both ha hva hb hvb, Option.map_some, Option.getD_some]
      split <;> rfl
  · obtain ⟨hboot, hlink, hmgr, _⟩ := testFound_frame s (failing.filter fun r => unitClass r == 7)
    generalize ht : s.testFound (failing.filter fun r => unitClass r == 7) = t at hboot hlink hmgr
    have hexec : exec (.linkTestDone failing) s = .next (t.setBoot { t.boot with linkTest := true }).openWindow := by
      refine (congrArg Host.Outcome.next (if_pos ?_)).trans (by rw [ht])
      simp [hstage, hw, hl]
    refine ⟨_, hexec, ?_, fun r hr hclass => ?_, ?_⟩
    · rw [openWindow_frame]
      rfl
    · rw [openWindow_frame]
      have hbad : r ∈ (s.testFound (failing.filter fun r => unitClass r == 7)).boot.badUnits :=
        mem_badUnits_testFound s (List.mem_filter.mpr ⟨hr, beq_iff_eq.mpr hclass⟩)
      rw [ht] at hbad
      exact hbad
    · rw [openWindow_ports (s := t.setBoot { t.boot with linkTest := true }) rfl (by rw [setBoot_boot, hboot]; exact hc)
        (by rw [setBoot_link, hlink]; exact hp)]
      rw [setBoot_mgr, hmgr]
  · have hexec := exec_computeTestDone (failing := failing) hs hw hc
    have hbad {r : BitVec 32} (hr : r ∈ failing) (hclass : unitClass r ≠ 7) : r ∈ (s.computeTested failing).boot.badUnits :=
      mem_badUnits_testFound s (List.mem_filter.mpr ⟨hr, bne_iff_ne.mpr hclass⟩)
    have htested : (s.computeTested failing).boot.computeTest = true := rfl
    generalize s.computeTested failing = w at hexec hbad htested
    generalize hv : w.regrade.copyImage true = v at hexec
    obtain ⟨hdone, hunits, hgrade, hheld⟩ := computeTest_leaves hv.symm rfl
    exact ⟨_, hexec, hdone.trans htested, fun r hr hclass => by rw [hunits]; exact hbad hr hclass, hgrade, hheld⟩
  · refine congrArg Host.Outcome.next ((if_pos ?_).trans ?_)
    · rw [hs, hct, hcr, hch, hpr]
      rfl
    · simp only [State.readyNow, setBoot_ember, setBoot_fw, htk, hst, hact, Bool.false_eq_true, if_false]
      rfl

end Sys2Proof.Machine

/-! # The bellows -/

namespace Sys2Proof.Machine

open Sys2Proof

/-! ## Fields of a word that is put together -/

theorem field_or {w : Nat} (a b : BitVec w) (lo n : Nat) : field (a ||| b) lo n = field a lo n ||| field b lo n := by
  unfold field
  ext i hi
  simp

theorem field_at_self {w n : Nat} (lo : Nat) (x : BitVec n) (h : lo + n ≤ w) : field (at' w lo x) lo n = x := by
  unfold field at'
  ext i hi
  have : lo + i < w := by omega
  simp [this, BitVec.getLsbD_eq_getElem hi]

theorem field_at_before {w m : Nat} (lo n k : Nat) (x : BitVec m) (h : lo + n ≤ k) : field (at' w k x) lo n = 0#n := by
  unfold field at'
  ext i hi
  have : lo + i < k := by omega
  simp [this]

theorem field_at_after {w m : Nat} (lo n k : Nat) (x : BitVec m) (h : k + m ≤ lo) : field (at' w k x) lo n = 0#n := by
  unfold field at'
  ext i hi
  have : ¬lo + i < k := by omega
  simp only [BitVec.getElem_extractLsb', BitVec.getLsbD_shiftLeft, BitVec.getLsbD_setWidth, BitVec.getElem_zero]
  rw [BitVec.getLsbD_of_ge x _ (by omega)]
  simp

/-! ## BRINGUP_STAT -/

theorem bringupStat_wave (s : State) : field s.bringupStat 0 4 = BitVec.ofNat 4 s.boot.wave := by
  unfold State.bringupStat
  simp only [field_or, field_at_before, field_at_self, Nat.reduceLeDiff, Nat.reduceAdd, BitVec.or_zero]

theorem bringupStat_halted (s : State) : field s.bringupStat 4 1 = bit s.boot.halted := by
  unfold State.bringupStat
  simp only [field_or, field_at_before, field_at_self, field_at_after, Nat.reduceLeDiff, Nat.reduceAdd, BitVec.or_zero, BitVec.zero_or]

theorem bringupStat_rail (s : State) : field s.bringupStat 5 3 = BitVec.ofNat 3 s.boot.haltRail := by
  unfold State.bringupStat
  simp only [field_or, field_at_before, field_at_self, field_at_after, Nat.reduceLeDiff, Nat.reduceAdd, BitVec.or_zero, BitVec.zero_or]

theorem getLsbD_of_field {w : Nat} {v : BitVec w} {k : Nat} {b : Bool} (h : field v k 1 = bit b) : v.getLsbD k = b := by
  have := congrArg (fun x : BitVec 1 => x.getLsbD 0) h
  simpa [field, bit] using this

/-! ## Waves -/

theorem alarm_keeps (s : State) (code : Nat) (d : List Byte) : (s.alarm code d).boot = s.boot :=
  (((Outward.refl s).alarm code d).rest).1

theorem ownNote_boot (s : State) (code : Nat) (d : List Byte) : (s.ownNote code d).boot = s.boot := rfl

/-- What the trust die copies is the register as it then stands (R429). -/
theorem copyStat_copy (s : State) : s.copyStat.trust.bringupCopy = s.copyStat.bringupStat := rfl

theorem waveFails_first {s : State} {rail : Nat} (h : s.boot.failedOnce = false) :
    (s.waveFails rail).boot = { s.boot with failedOnce := true, retried := true, retryWait := true, substep := 0 } ∧
      (s.waveFails rail).trust.bringupCopy = (s.waveFails rail).bringupStat := by
  unfold State.waveFails
  simp only [h, Bool.not_false, if_true]
  exact ⟨(alarm_keeps _ _ _).trans rfl, rfl⟩

theorem waveFails_again {s : State} {rail : Nat} (h : s.boot.failedOnce = true) :
    (s.waveFails rail).boot = { s.boot with halted := true, haltRail := rail, substep := 0 } ∧
      (s.waveFails rail).trust.bringupCopy = (s.waveFails rail).bringupStat := by
  unfold State.waveFails
  simp only [h, Bool.not_true, Bool.false_eq_true, if_false]
  refine ⟨?_, rfl⟩
  split
  · rfl
  · exact (alarm_keeps _ _ _).trans rfl

/-- WAVE_SETTLED, with the wave's last sub-step done. -/
theorem exec_waveSettled {s : State} (hb : s.bellowing = true) (hs : s.boot.substep = s.boot.stepsNow) :
    exec .waveSettled s = .next (s.setBoot s.boot.waveUp).copyStat :=
  congrArg Host.Outcome.next (if_pos (by rw [hb, beq_iff_eq.mpr hs]; rfl))

theorem exec_waveFail {s : State} {rail : Nat} (hb : s.bellowing = true) (hs : 1 ≤ s.boot.substep) (h1 : 1 ≤ rail) (h5 : rail ≤ 5) :
    exec (.waveFail rail) s = .next (s.waveFails rail) :=
  congrArg Host.Outcome.next (if_pos (by simp [hb, hs, h1, h5]))

theorem exec_bellowsSubstep {s : State} (hb : s.bellowing = true) (h1 : 1 ≤ s.boot.substep) (hn : s.boot.substep < s.boot.stepsNow) :
    exec .bellowsSubstep s = .next { s with boot := { s.boot with substep := s.boot.substep + 1 } } :=
  congrArg Host.Outcome.next (if_pos (by simp [hb, h1, hn]))

theorem stepsNow_of_standby {b : Boot} (h : b.standbyWave = true) : b.stepsNow = 2 := if_pos h

theorem stepsNow_of_wave {b : Boot} (h : b.standbyWave = false) : b.stepsNow = subSteps (b.wave + 1) := if_neg (by simp [h])

theorem wave_lt_of_bellowing {s : State} (h : s.bellowing = true) : s.boot.wave < 8 := by
  simp only [State.bellowing, Bool.and_eq_true, decide_eq_true_eq] at h
  exact h.1.1.2

/-- Settles O34: each row by its guard, and what the trust die copies by the fields of BRINGUP_STAT. -/
theorem bellowsAtWork : Obligations.BellowsAtWork := by
  unfold Obligations.BellowsAtWork
  refine ⟨⟨fun s hb hst => ⟨fun hs => ?_, fun hs => ?_⟩, fun s hb hst => ⟨fun h1 hn => ?_, fun hs => ?_,
    fun rail hs h1 h5 hf => ?_, fun rail hs h1 h5 hf => ?_⟩⟩, fun s => ⟨fun hr => congrArg Host.Outcome.next (if_pos hr), fun hw => ?_,
    fun flow inlet hs => ?_⟩⟩
  · rw [exec_bellowsSubstep hb (by omega) (by rw [stepsNow_of_standby hst]; omega), hs]
  · refine ⟨_, exec_waveSettled hb (by rw [stepsNow_of_standby hst]; exact hs), ?_, copyStat_copy _⟩
    change s.boot.waveUp = _
    unfold Boot.waveUp
    rw [if_pos hst]
  · exact exec_bellowsSubstep hb h1 (by rw [stepsNow_of_wave hst]; exact hn)
  · have hboot : (s.setBoot s.boot.waveUp).copyStat.boot = s.boot.settle := if_neg (by simp [hst])
    refine ⟨_, exec_waveSettled hb (by rw [stepsNow_of_wave hst]; exact hs), ?_, ?_, ?_, copyStat_copy _, ?_⟩
    · rw [hboot]; rfl
    · rw [hboot]; rfl
    · rw [hboot]
      change (if s.boot.wave + 1 = 8 ∨ (s.boot.wave + 1 = 1 ∧ (!s.boot.coolant) = true) then 0 else 1) = _
      simp only [Nat.add_eq_right, Nat.reduceEqDiff, Bool.not_eq_true']
    · rw [copyStat_copy, bringupStat_wave, hboot]
      rfl
  · obtain ⟨hboot, hcopy⟩ := waveFails_first (rail := rail) hf
    exact ⟨_, exec_waveFail hb hs h1 h5, hboot, hcopy⟩
  · obtain ⟨hboot, hcopy⟩ := waveFails_again (rail := rail) hf
    refine ⟨_, exec_waveFail hb hs h1 h5, hboot, ?_, ?_⟩
    · rw [hcopy, getLsbD_of_field (bringupStat_halted _), hboot]
    · rw [hcopy, bringupStat_rail, hboot]
  · exact ⟨_, congrArg Host.Outcome.next (if_pos hw), (alarm_keeps _ _ _).trans rfl⟩
  · refine ⟨_, congrArg Host.Outcome.next (if_neg hs), rfl, ?_⟩
    rw [setBoot_boot]
    split <;> rfl

end Sys2Proof.Machine

/-! # Every die but the trust die stops -/

namespace Sys2Proof.Machine

open Sys2Proof

/-- What a stop of every die but the trust die leaves (R415, R542). -/
def State.Stopped (s t : State) : Prop := t.mgr = Mgr.reset ∧ t.hub = Hub.reset ∧
  t.hif = { HostIf.reset with nextId := s.hif.nextId } ∧ t.rcd.running = false ∧ t.rcd.win = Win.reset ∧
  t.mem.sets = quenchedSets ∧ t.trust.gens = [] ∧ t.trust.sessions = [] ∧ t.lap = 0 ∧ t.agents = s.agents ∧
  t.trust.powerCycles = s.trust.powerCycles ∧ t.cfg.flashA = s.cfg.flashA

/-- The recorder's records stay. -/
def State.RecordsStay (s t : State) : Prop := t.rcd.first = s.rcd.first ∧ t.rcd.last = s.rcd.last

/-- What a stop takes over from the module: the agents, the next number of a command, the power-cycle count and the
configuration slots. -/
def State.board (s : State) : Tab Agent × Nat × BitVec 32 × Option CfgSlot :=
  (s.agents, s.hif.nextId, s.trust.powerCycles, s.cfg.flashA)

theorem blank_stopped {s x : State} (h : x.board = s.board) (stage : Stage) : s.Stopped (x.blank stage) := by
  simp only [State.board, Prod.mk.injEq] at h
  obtain ⟨ha, hn, hp, hf⟩ := h
  refine ⟨rfl, rfl, ?_, rfl, rfl, rfl, rfl, rfl, rfl, ha, hp, hf⟩
  rw [← hn]
  rfl

theorem blank_records (x : State) (stage : Stage) : x.RecordsStay (x.blank stage) := ⟨rfl, rfl⟩

/-- With the recorder stopped, the end of a session is the trust die's own business. -/
theorem endSession_of_stopped {s : State} (h : s.rcd.running = false) (i : Nat) :
    s.endSession i = { s with trust := (s.endSession i).trust } := by
  unfold State.endSession
  split
  · rfl
  · dsimp only
    split
    · unfold State.noteSpan
      dsimp only
      rw [h]
      rfl
    · rfl

theorem endSessions_of_stopped {s : State} (h : s.rcd.running = false) (p : Session → Bool) :
    s.endSessions p = { s with trust := (s.endSessions p).trust } := by
  have hfold (l : List Nat) (t : State) (ht : t.rcd.running = false) :
      l.foldl State.endSession t = { t with trust := (l.foldl State.endSession t).trust } := by
    induction l generalizing t with
    | nil => rfl
    | cons i r ih =>
      have hone := endSession_of_stopped ht i
      rw [List.foldl_cons, ih _ (by rw [hone]; exact ht), hone]
  exact hfold _ _ h

/-- The module of a clock-loss restart before its dies stop. -/
def State.tongsEnded (s : State) : State := s.stopRecorder.endSessions fun x => x.tongs

theorem tongsEnded_board (s : State) : s.tongsEnded.board = s.board ∧ s.RecordsStay s.tongsEnded := by
  have hk : s.tongsEnded.trust.powerCycles = s.trust.powerCycles :=
    congrArg Kept.powerCycles (endSessions_kept s.stopRecorder fun x => x.tongs)
  have hframe := endSessions_of_stopped (s := s.stopRecorder) rfl fun x => x.tongs
  change s.tongsEnded = { s.stopRecorder with trust := s.tongsEnded.trust } at hframe
  unfold State.board State.RecordsStay
  rw [hk, hframe]
  exact ⟨rfl, rfl, rfl⟩

theorem clockRestart_stopped (s : State) : s.Stopped s.clockRestart ∧ s.RecordsStay s.clockRestart ∧
    s.clockRestart.boot.restarts = s.boot.restarts + 1 ∧
    s.clockRestart.boot.stage = if s.ember.grant then .pllWait else .standby := by
  obtain ⟨hboard, hrec⟩ := tongsEnded_board s
  have hframe := endSessions_of_stopped (s := s.stopRecorder) rfl fun x => x.tongs
  have hboot : s.tongsEnded.boot = s.boot := (congrArg State.boot hframe :)
  refine ⟨blank_stopped hboard (if s.ember.grant then .pllWait else .standby), hrec, ?_, rfl⟩
  change s.tongsEnded.boot.restarts + 1 = _
  rw [hboot]

/-- A power loss: the dies stop, and the records stay where nothing was being written or cleared (R542). -/
theorem powerOff_stopped (s : State) : s.Stopped s.powerOff ∧ s.powerOff.boot.stage = .off ∧ s.powerOff.boot.switchOn = false ∧
    s.powerOff.ember.grant = false ∧ (s.rcd.writing = none → s.hif.cmds = [] → s.RecordsStay s.powerOff) := by
  have hcut (t : State) : t.cutClear.board = t.board := by
    unfold State.cutClear
    split <;> rfl
  have hboard : s.cutRecorder.cutClear.cutWrite.board = s.board := hcut s.cutRecorder
  refine ⟨blank_stopped hboard .off, rfl, rfl, rfl, fun hw hc => ?_⟩
  have hclear : s.cutRecorder.cutClear = s.cutRecorder := by
    unfold State.cutClear
    rw [show s.cutRecorder.hif.cmds = [] from hc]
    rfl
  have hkeep : s.RecordsStay s.cutRecorder := by
    unfold State.RecordsStay State.cutRecorder
    dsimp only
    rw [hw]
    dsimp only
    split <;> exact ⟨rfl, rfl⟩
  change s.RecordsStay s.cutRecorder.cutClear
  rw [hclear]
  exact hkeep

/-- Settles O35: each row stops the dies by `blank`, `clockRestart` or `powerOff`, after the trust die has noted the cause. -/
theorem diesStop : Obligations.DiesStop := by
  unfold Obligations.DiesStop
  intro stopped kept s
  refine ⟨fun hp => ?_, fun cause mv hon => ?_, fun kind hs => ?_, fun rail kind hs h1 h5 => ?_, fun unit celsius hs hu hc => ?_,
    fun hs hc => ?_⟩
  · obtain ⟨hst, hk, hr, hstage⟩ := clockRestart_stopped s
    exact ⟨_, congrArg Host.Outcome.next (if_pos hp), hst, hk, hr, hstage⟩
  · obtain ⟨hst, hstage, hsw, hg, hk⟩ := powerOff_stopped (s.ownNote 0x1601 (leBytes 2 cause ++ leBytes 4 mv))
    exact ⟨_, congrArg Host.Outcome.next (if_pos hon), hst, hstage, hsw, hg, hk⟩
  · obtain ⟨hst, hstage, _, _, hk⟩ := powerOff_stopped (s.ownNote 0x1602 [BitVec.ofNat 8 6, BitVec.ofNat 8 kind])
    exact ⟨_, congrArg Host.Outcome.next ((if_neg hs).trans (if_pos (Or.inl rfl))), hst, hstage, hk⟩
  · have hexec : exec (.railFault rail kind) s = .next (s.railFails rail kind) := by
      refine congrArg Host.Outcome.next ?_
      have hb : s.inBellows = false := by simp [State.inBellows, hs]
      rw [hs, hb, if_neg (by decide), if_neg (by omega), if_neg, if_neg (by decide)]
      rintro (h | h | h)
      · omega
      · omega
      · exact absurd h (by decide)
    refine ⟨_, hexec, ?_⟩
    unfold State.railFails
    dsimp only
    split
    · exact ⟨blank_stopped (s := s) rfl .railHeld, blank_records _ .railHeld, rfl⟩
    · obtain ⟨hst, hk, _, hstage⟩ := clockRestart_stopped ((s.ownNote 0x1602 [BitVec.ofNat 8 rail, BitVec.ofNat 8 kind]).setBoot
        { s.boot with railFaults := s.boot.railFaults ++ [s.opS] })
      exact ⟨hst, hk, hstage⟩
  · have hexec : exec (.thermalTrip unit celsius) s =
        .next ((s.ownNote 0x1604 (leBytes 2 unit ++ [BitVec.ofInt 8 celsius])).blank .tripped) := by
      refine congrArg Host.Outcome.next (if_neg ?_)
      rw [hs]
      simp only [Bool.or_eq_true, decide_eq_true_eq, not_or]
      exact ⟨⟨by decide, by omega⟩, by omega⟩
    exact ⟨_, hexec, blank_stopped (s := s) rfl .tripped, blank_records _ .tripped, rfl⟩
  · obtain ⟨hst, hk, hr, hstage⟩ := clockRestart_stopped s
    exact ⟨_, congrArg Host.Outcome.next (if_pos (by rw [hs, hc]; rfl)), hst, hk, hr, hstage⟩

end Sys2Proof.Machine

/-! # The governor, power, temperature and the sideband -/

namespace Sys2Proof.Machine

open Sys2Proof

/-! ## The governor -/

/-- One admission moves a rail by at most its sub-step limit, and what a standing order says (R421, R543, R547, R548). -/
theorem admission_bounds (b : Boot) (rail demand : Nat) :
    let was := (tget b.activity rail).getD 0
    let now := b.admission rail demand
    now ≤ was + railStep rail ∧ was ≤ now + railStep rail ∧ (was ≤ railRoom rail → now ≤ railRoom rail) ∧
      (b.noRise = true → now ≤ was) ∧ (b.sheds = true → now = was - railStep rail) := by
  unfold Boot.admission
  dsimp only
  generalize (tget b.activity rail).getD 0 = was
  by_cases hs : b.sheds = true
  · rw [if_pos hs]
    exact ⟨by omega, by omega, fun _ => by omega, fun _ => by omega, fun _ => rfl⟩
  · rw [if_neg hs]
    by_cases hw : was < min demand (railRoom rail)
    · rw [if_pos hw]
      by_cases hn : b.noRise = true
      · rw [if_pos hn]
        exact ⟨by omega, by omega, fun h => h, fun _ => Nat.le_refl _, fun h => absurd h hs⟩
      · rw [if_neg hn]
        exact ⟨by omega, by omega, fun _ => by omega, fun h => absurd h hn, fun h => absurd h hs⟩
    · rw [if_neg hw]
      exact ⟨by omega, by omega, fun _ => by omega, fun _ => by omega, fun h => absurd h hs⟩

theorem tget_admitted (f : Nat → Nat) {r : Nat} (h1 : 1 ≤ r) (h5 : r ≤ 5) :
    tget ([1, 2, 3, 4, 5].map fun r => (r, f r)) r = some (f r) := by
  obtain rfl | rfl | rfl | rfl | rfl : r = 1 ∨ r = 2 ∨ r = 3 ∨ r = 4 ∨ r = 5 := by omega
  all_goals rfl

/-- Settles O36: each rail is at its admission, which `admission_bounds` bounds. -/
theorem governorSteps : Obligations.GovernorSteps := by
  unfold Obligations.GovernorSteps
  intro s hw
  refine ⟨_, congrArg Host.Outcome.next (if_pos hw), rfl, fun r h1 h5 => ?_⟩
  have hnow : (tget ([1, 2, 3, 4, 5].map fun r => (r, s.boot.admission r (s.demand r))) r).getD 0 =
      s.boot.admission r (s.demand r) := by rw [tget_admitted _ h1 h5]; rfl
  have hbounds := admission_bounds s.boot r (s.demand r)
  rw [← hnow] at hbounds
  exact hbounds

/-! ## Power and temperature -/

theorem mem_insertBy {α : Type} (le : α → α → Bool) (x y : α) (l : List α) : y ∈ insertBy le x l ↔ y = x ∨ y ∈ l := by
  induction l with
  | nil => simp [insertBy]
  | cons z r ih =>
    unfold insertBy
    split
    · simp
    · simp only [List.mem_cons, ih]
      exact or_left_comm

theorem mem_sortBy {α : Type} (le : α → α → Bool) (y : α) (l : List α) : y ∈ sortBy le l ↔ y ∈ l := by
  induction l with
  | nil => simp [sortBy]
  | cons x r ih => rw [sortBy, mem_insertBy, ih, List.mem_cons]

theorem mem_sortNat (y : Nat) (l : List Nat) : y ∈ sortNat l ↔ y ∈ l := mem_sortBy _ y l

theorem alarmIf_boot (s : State) (c : Prop) [Decidable c] (code : Nat) (d : List Byte) :
    (if c then s.alarm code d else s).boot = s.boot := by
  split
  · exact alarm_keeps _ _ _
  · rfl

theorem exec_thermalThrottle {s : State} (h : s.boot.stage ≠ .off) {unit : Nat} {celsius : Int} (hu : unit < 48)
    (hc : throttleLimit unit ≤ celsius) : ∃ t, exec (.thermalThrottle unit celsius) s = .next t ∧ unit ∈ t.boot.throttled ∧
      t.boot = { s.boot with throttled := t.boot.throttled } := by
  by_cases hin : unit ∈ s.boot.throttled
  · exact ⟨s, congrArg Host.Outcome.next (if_pos (by simp [hin])), hin, rfl⟩
  · refine ⟨_, congrArg Host.Outcome.next (if_neg ?_), ?_⟩
    · simp only [Bool.or_eq_true, decide_eq_true_eq, List.contains_iff_mem, not_or]
      exact ⟨⟨⟨h, by omega⟩, by omega⟩, hin⟩
    · rw [alarm_keeps]
      exact ⟨(mem_sortNat _ _).mpr List.mem_cons_self, rfl⟩

/-- A die or pile that is too hot lets nothing rise. -/
theorem noRise_of_throttled {b : Boot} {unit : Nat} (h : unit ∈ b.throttled) : b.noRise = true := by
  have : b.throttled.isEmpty = false := by
    rw [List.isEmpty_eq_false_iff_exists_mem]
    exact ⟨unit, h⟩
  simp [Boot.noRise, this]

/-! ## The sideband -/

/-- The bytes of STATUS (Table 16-7). -/
def State.statusBytes (s : State) : List Byte :=
  leBytes 2 s.boot.inputWatts ++ [BitVec.ofInt 8 s.boot.hottest] ++ leBytes 1 (if s.boot.grade then 1 else 0) ++
    leBytes 1 s.role ++ bvBytes (field s.bringupStat 0 8)

theorem leBytes_succ (n v : Nat) : leBytes (n + 1) v = BitVec.ofNat 8 v :: leBytes n (v / 256) := by
  unfold leBytes bvBytes
  rw [show 8 * (n + 1) / 8 = n + 1 by omega, show 8 * n / 8 = n by omega, List.range_succ_eq_map, List.map_cons, List.map_map]
  refine congr (congrArg List.cons ?_) (List.map_congr_left fun i hi => ?_)
  · ext j hj
    have : j < 8 * (n + 1) := by omega
    rw [BitVec.getElem_extractLsb', BitVec.getLsbD_ofNat, ← BitVec.getLsbD_eq_getElem hj, BitVec.getLsbD_ofNat]
    simp [this, hj]
  · have hin : i < n := List.mem_range.mp hi
    ext j hj
    have h1 : 8 * (i + 1) + j < 8 * (n + 1) := by omega
    have h2 : 8 * i + j < 8 * n := by omega
    simp only [Function.comp_apply, BitVec.getElem_extractLsb', BitVec.getLsbD_ofNat, h1, h2, decide_true, Bool.true_and]
    rw [show (256 : Nat) = 2 ^ 8 by rfl, Nat.testBit_div_two_pow]
    congr 1
    omega

theorem length_leBytes (n v : Nat) : (leBytes n v).length = n := by
  simp [leBytes, bvBytes]

/-- A number comes back from its bytes, modulo what they hold. -/
theorem leNat_leBytes (n v : Nat) : leNat (leBytes n v) = v % 2 ^ (8 * n) := by
  induction n generalizing v with
  | zero =>
    rw [show leBytes 0 v = [] from rfl]
    simp [leNat, Nat.mod_one]
  | succ n ih =>
    rw [leBytes_succ]
    change (BitVec.ofNat 8 v).toNat + 256 * leNat (leBytes n (v / 256)) = _
    rw [ih, BitVec.toNat_ofNat, show 8 * (n + 1) = 8 + 8 * n by omega, Nat.pow_add, Nat.mod_mul]

theorem status_bytes (s : State) : s.statusBytes = [BitVec.ofNat 8 s.boot.inputWatts, BitVec.ofNat 8 (s.boot.inputWatts / 256),
    BitVec.ofInt 8 s.boot.hottest, BitVec.ofNat 8 (if s.boot.grade then 1 else 0), BitVec.ofNat 8 s.role,
    field s.bringupStat 0 8] := by
  have hlast (v : BitVec 8) : bvBytes v = [v] := by
    simp [bvBytes]
  have hzero (v : Nat) : leBytes 0 v = [] := rfl
  unfold State.statusBytes
  rw [leBytes_succ, leBytes_succ, leBytes_succ, leBytes_succ, hlast]
  simp [hzero]

/-- Settles O37: each row by its guard; what a die or pile that is too hot holds back by `noRise_of_throttled`, and what STATUS tells
by `status_bytes`. -/
theorem powerThermalAndSideband : Obligations.PowerThermalAndSideband := by
  unfold Obligations.PowerThermalAndSideband
  refine ⟨fun s hs => ⟨fun watts => ⟨_, congrArg Host.Outcome.next (if_neg hs), alarmIf_boot _ _ _ _⟩,
      fun watts => ⟨_, congrArg Host.Outcome.next (if_neg hs), alarmIf_boot _ _ _ _⟩, fun unit celsius hu hc => ?_,
      fun unit celsius hc => congrArg Host.Outcome.next (if_pos ?_),
      fun hw => congrArg Host.Outcome.next ((if_neg hs).trans (if_pos hw)),
      fun hw => ⟨_, congrArg Host.Outcome.next ((if_neg hs).trans (if_neg (by omega))), alarm_keeps _ _ _⟩⟩,
    fun s hs => ⟨fun hg => ?_, fun hg => congrArg Host.Outcome.next (if_neg (by rw [hg]; simp)),
      ⟨s.statusBytes, congrArg Host.Outcome.next (if_neg hs), ?_⟩, fun a => congrArg Host.Outcome.next (if_neg hs),
      congrArg Host.Outcome.next (if_neg hs)⟩⟩
  · obtain ⟨t, hexec, hin, hboot⟩ := exec_thermalThrottle hs hu hc
    exact ⟨t, hexec, hin, noRise_of_throttled hin, hboot⟩
  · unfold throttleLimit
    split at hc <;> simp only [*, if_true, if_false] <;> omega
  · refine congrArg Host.Outcome.next ((if_pos (by rw [hg]; simpa using hs)).trans ?_)
    simp only [Bool.or_eq_true]
    split <;> rfl
  · rw [status_bytes]
    refine ⟨rfl, ?_, rfl, ?_, ?_, rfl⟩
    · change leNat [BitVec.ofNat 8 s.boot.inputWatts, BitVec.ofNat 8 (s.boot.inputWatts / 256)] = _
      have := leNat_leBytes 2 s.boot.inputWatts
      rwa [leBytes_succ, leBytes_succ] at this
    · unfold State.role
      cases s.ember.grant <;> rfl
    · cases s.boot.grade <;> rfl

end Sys2Proof.Machine

/-! # Unplanned resets

What the reset begins with: the page under re-encryption is torn, the image that waits falls back, and the compute domain is gated or
held (11_bringup_power_reset.md, Partial reset). -/

namespace Sys2Proof.Machine

open Sys2Proof

/-! ## What going outward leaves of the trust die -/

/-- Of the trust die nothing has changed but its sessions and the notes of its own. -/
def State.TrustStays (s t : State) : Prop :=
  t.trust = { s.trust with sessions := t.trust.sessions, ownNotes := t.trust.ownNotes }

namespace State.TrustStays

variable {s t : State}

theorem refl : s.TrustStays s := rfl

theorem trans {u : State} (h : s.TrustStays t) (k : t.TrustStays u) : s.TrustStays u := by
  unfold State.TrustStays at *
  rw [k, h]

theorem gens (h : s.TrustStays t) : t.trust.gens = s.trust.gens := by
  unfold State.TrustStays at h
  rw [h]

theorem modFn (h : s.TrustStays t) (n : Nat) (g : Fn → Fn) : s.TrustStays (t.modFn n g) := h
theorem emit (h : s.TrustStays t) (es : List Emission) : s.TrustStays (t.emit es) := h
theorem hostFails (h : s.TrustStays t) : s.TrustStays t.hostFails.2 := h
theorem host (h : s.TrustStays t) (x : HostIf) : s.TrustStays { t with hif := x } := h

theorem postSessions (h : s.TrustStays t) (n : Nat) (record : List Byte) : s.TrustStays (t.postSessions n record) := by
  unfold State.postSessions
  split
  · exact h.trans rfl
  · exact h

theorem tally (h : s.TrustStays t) (series unit : BitVec 16) (k : Nat) : s.TrustStays (t.tally series unit k) := by
  unfold State.tally
  split <;> exact h

theorem note (h : s.TrustStays t) (code unit : BitVec 16) (d : List Byte) : s.TrustStays (t.note code unit d) := by
  unfold State.note
  split
  · exact h
  · exact h.trans rfl

theorem interrupt (h : s.TrustStays t) (n v : Nat) : s.TrustStays (t.interrupt n v) := by
  unfold State.interrupt
  dsimp only
  (repeat' split)
  · exact h
  · exact h.emit _
  · exact h.modFn _ _
  · exact (h.modFn _ _).emit _

theorem writeEvent (h : s.TrustStays t) (n : Nat) (e : Event) : s.TrustStays (t.writeEvent n e) := by
  unfold State.writeEvent
  dsimp only
  split
  · exact ((h.postSessions _ _).hostFails.modFn _ _).interrupt _ _
  · exact (((h.postSessions _ _).hostFails.modFn _ _).emit _).interrupt _ _

theorem writeLost (h : s.TrustStays t) (n : Nat) : s.TrustStays (t.writeLost n) := by
  unfold State.writeLost
  dsimp only
  split
  · exact h
  · exact (h.writeEvent _ _).modFn _ _

theorem post (h : s.TrustStays t) (n : Nat) (e : Event) : s.TrustStays (t.post n e) := by
  unfold State.post
  dsimp only
  (repeat' split)
  · exact (h.host _).tally _ _ _
  · exact h
  · exact ((h.writeLost _).modFn _ _).tally _ _ _
  · exact (h.writeLost _).writeEvent _ _

theorem alarm (h : s.TrustStays t) (k : Nat) (d : List Byte) : s.TrustStays (t.alarm k d) := (h.note _ _ _).post _ _

end State.TrustStays

/-! ## What an unplanned reset begins with -/

/-- The confirmation written into the image store, its alarm not yet raised. -/
def State.confirmed (s : State) : State := { s with fw := { s.fw.burnt.write s.fw.burnt.record.confirmed with health := 0 } }

theorem writeConfirm_eq (s : State) : ∃ d, s.writeConfirm = s.confirmed.alarm 0x1302 d := ⟨_, rfl⟩

theorem alarm_mgr (s : State) (code : Nat) (d : List Byte) : (s.alarm code d).mgr = s.mgr := by
  obtain ⟨_, _, _, hmgr, _⟩ := ((Outward.refl s).alarm code d).frame
  exact hmgr

theorem alarm_hub (s : State) (code : Nat) (d : List Byte) : (s.alarm code d).hub = s.hub := by
  obtain ⟨_, _, hhub, _⟩ := ((Outward.refl s).alarm code d).frame
  exact hhub

theorem alarm_sweepSet (s : State) (code : Nat) (d : List Byte) : (s.alarm code d).sweepSet = s.sweepSet := by
  obtain ⟨_, _, _, _, hmem, _⟩ := ((Outward.refl s).alarm code d).frame
  have htrust : (s.alarm code d).trust.gens = s.trust.gens := (State.TrustStays.refl.alarm code d).gens
  unfold State.sweepSet Trust.live
  rw [hmem, htrust]

/-- The confirmation record changes the image store and what goes outward, and no page set. -/
theorem writeConfirm_frame (s : State) : s.writeConfirm.boot = s.boot ∧ s.writeConfirm.mgr = s.mgr ∧
    s.writeConfirm.sweepSet = s.sweepSet := by
  obtain ⟨d, hd⟩ := writeConfirm_eq s
  rw [hd, alarm_boot, alarm_mgr, alarm_sweepSet]
  exact ⟨rfl, rfl, rfl⟩

theorem fallBackFor_mgr (s : State) (cause : Nat) : (s.fallBackFor cause).mgr = s.mgr := by
  unfold State.fallBackFor
  split
  · exact alarm_mgr _ _ _
  · rfl

/-- Without a page under re-encryption nothing is torn. -/
theorem tearSweep_of_none {s : State} (h : s.sweepSet = none) : s.tearSweep = s := by
  unfold State.tearSweep
  rw [h]
  rfl

theorem tearSweep_boot (s : State) : s.tearSweep.boot = s.boot := by
  unfold State.tearSweep
  split <;> rfl

theorem loseSram_mgr (s : State) : s.loseSram.mgr = s.mgr := rfl
theorem loseSram_chunks (s : State) : s.loseSram.hub.chunks = [] := rfl

theorem yieldGrant_mgr_hub (s : State) : s.yieldGrant.mgr = s.mgr ∧ s.yieldGrant.hub = s.hub := by
  unfold State.yieldGrant
  split <;> exact ⟨rfl, rfl⟩

/-- How a compute domain stands that is held at its third unplanned reset. -/
structure State.HeldCompute (s t : State) (cause : Nat) : Prop where
  service : t.service = false
  chunks : t.hub.chunks = []
  heats : t.mgr.heats = s.mgr.heats
  wave : t.boot.wave = 3
  test : t.boot.computeTest = false
  unplanned : t.boot.unplanned = s.boot.unplanned
  cause : t.boot.prCause = cause
  paused : t.boot.paused = true

theorem holdCompute_held (s : State) (cause count : Nat) : s.HeldCompute (s.holdCompute cause count) cause ∧
    (s.holdCompute cause count).boot.computeHeld = true ∧ (s.holdCompute cause count).boot.partialReset = none := by
  unfold State.holdCompute
  dsimp only
  generalize hu : s.loseSram.setBoot _ = u
  obtain ⟨hboot, _, hmgr, _⟩ := (((Outward.refl u).alarm 0x1108 (leBytes 2 count)).noticeLater).rest
  have hhub := (((Outward.refl u).alarm 0x1108 (leBytes 2 count)).noticeLater).frame.2.2.1
  generalize (u.alarm 0x1108 (leBytes 2 count)).noticeLater = v at hboot hmgr hhub ⊢
  obtain ⟨hyboot, _⟩ := yieldGrant_frame v
  obtain ⟨hymgr, hyhub⟩ := yieldGrant_mgr_hub v
  rw [hboot] at hyboot
  rw [hmgr] at hymgr
  rw [hhub] at hyhub
  subst hu
  refine ⟨⟨?_, ?_, ?_, ?_, ?_, ?_, ?_, ?_⟩, ?_, ?_⟩
  · unfold State.service
    rw [hyboot]
    rfl
  · rw [hyhub]
    rfl
  · rw [hymgr]
    rfl
  all_goals
    rw [hyboot]
    rfl

/-- A reset that begins with gated clocks. -/
theorem gateCompute_held (s : State) (cause : Nat) (cmd : Option Nat) (copy : Bool) :
    s.HeldCompute (s.beginReset 2 cause cmd copy).gateCompute cause ∧ (s.beginReset 2 cause cmd copy).gateCompute.boot.prPhase = 2 ∧
      (s.beginReset 2 cause cmd copy).gateCompute.boot.substep = 1 := by
  refine ⟨⟨?_, rfl, rfl, rfl, rfl, rfl, rfl, rfl⟩, rfl, rfl⟩
  unfold State.service
  rw [show (s.beginReset 2 cause cmd copy).gateCompute.boot.paused = true from rfl]
  simp

/-- What the statement says of an unplanned reset that has begun. -/
def State.ResetBegun (s : State) (cause : Nat) (t : State) : Prop :=
  t.service = false ∧ t.hub.chunks = [] ∧ t.boot.wave = 3 ∧ t.boot.computeTest = false ∧
    t.boot.unplanned = (s.boot.unplanned.filter fun t => s.opS < t + 600) ++ [s.opS] ∧
    (s.sweepSet = none → t.mgr.heats = s.mgr.heats) ∧ t.boot.prCause = cause ∧ t.boot.paused = true ∧
    if (s.boot.unplanned.filter fun t => s.opS < t + 600).length < 2 then t.boot.prPhase = 2 ∧ t.boot.substep = 1
    else t.boot.computeHeld = true ∧ t.boot.partialReset = none

theorem unplannedReset_begun (s : State) (cause : Nat) : s.ResetBegun cause (s.unplannedReset cause) := by
  unfold State.unplannedReset
  dsimp only
  generalize hr : (s.boot.unplanned.filter fun t => s.opS < t + 600) = recent
  have hconf : (if s.fw.burning.isSome = true then s.writeConfirm else s).mgr = s.mgr ∧
      (if s.fw.burning.isSome = true then s.writeConfirm else s).sweepSet = s.sweepSet := by
    split
    · exact (writeConfirm_frame s).2
    · exact ⟨rfl, rfl⟩
  generalize (if s.fw.burning.isSome = true then s.writeConfirm else s) = a at hconf ⊢
  obtain ⟨hmgr, hsweep⟩ := hconf
  obtain ⟨w, hw, hw1⟩ : ∃ w : State, w = { a.tearSweep.setBoot { a.boot with unplanned := recent ++ [s.opS] } with
      fw := { (a.tearSweep.setBoot { a.boot with unplanned := recent ++ [s.opS] }).fw with unplannedSince := true }
      ember := (a.tearSweep.setBoot { a.boot with unplanned := recent ++ [s.opS] }).ember.cancelTaking } ∧
      w.boot.unplanned = recent ++ [s.opS] ∧ (s.sweepSet = none → w.mgr.heats = s.mgr.heats) := by
    refine ⟨_, rfl, rfl, fun hn => ?_⟩
    change a.tearSweep.mgr.heats = _
    rw [tearSweep_of_none (hsweep.trans hn), hmgr]
  rw [← hw]
  have hfall (c : Bool) : (if c = true then w.fallBackFor 1 else w).boot.unplanned = recent ++ [s.opS] ∧
      (s.sweepSet = none → (if c = true then w.fallBackFor 1 else w).mgr.heats = s.mgr.heats) := by
    split
    · rwa [fallBackFor_boot, fallBackFor_mgr]
    · exact hw1
  generalize hx : (if (_ && _ : Bool) = true then w.fallBackFor 1 else w) = x
  have hx1 := hx ▸ hfall _
  obtain ⟨hun, hheats⟩ := hx1
  unfold State.ResetBegun
  rw [hr]
  by_cases h3 : 3 ≤ (recent ++ [s.opS]).length
  · rw [if_pos h3, if_neg (by rw [List.length_append, List.length_singleton] at h3; omega)]
    obtain ⟨⟨h1, h2, h4, h5, h6, h7, h8, h9⟩, h10, h11⟩ := holdCompute_held x cause (recent ++ [s.opS]).length
    exact ⟨h1, h2, h5, h6, h7.trans hun, fun hn => h4 ▸ hheats hn, h8, h9, h10, h11⟩
  · rw [if_neg h3, if_pos (by rw [List.length_append, List.length_singleton] at h3; omega)]
    obtain ⟨⟨h1, h2, h4, h5, h6, h7, h8, h9⟩, h10, h11⟩ := gateCompute_held x cause (s.boot.partialReset.bind (·.cmd)) _
    exact ⟨h1, h2, h5, h6, h7.trans hun, fun hn => h4 ▸ hheats hn, h8, h9, h10, h11⟩

theorem coreFills_iff (b : Boot) (core : Nat) : b.coreFills core = true ↔ ∃ role, role < 128 ∧ roleUnit 1 b.badUnits 0 role = some core := by
  unfold Boot.coreFills
  simp

/-- Settles O38: both causes begin the reset that `unplannedReset_begun` describes; without a running core of a role nothing begins. -/
theorem unplannedResets : Obligations.UnplannedResets := by
  unfold Obligations.UnplannedResets
  refine fun s => ⟨fun core role hrole hcore hrun => ?_, fun core hno => ?_, fun core hrun => ?_, fun hrun hready => ?_, fun h => ?_⟩
  · have hfill := (coreFills_iff s.boot core).mpr ⟨role, hrole, hcore⟩
    exact ⟨_, congrArg Host.Outcome.next (if_pos (by rw [hrun, hfill]; rfl)), unplannedReset_begun s 2⟩
  · have hfill : s.boot.coreFills core = false := by
      rw [← Bool.not_eq_true, coreFills_iff]
      exact fun ⟨role, hrole, hcore⟩ => hno role hrole hcore
    exact congrArg Host.Outcome.next (if_neg (by rw [hfill]; simp))
  · exact congrArg Host.Outcome.next (if_neg (by rw [hrun]; simp))
  · exact ⟨_, congrArg Host.Outcome.next (if_pos (by rw [hrun, hready]; rfl)), unplannedReset_begun s 3⟩
  · refine congrArg Host.Outcome.next (if_neg ?_)
    rcases h with h | h <;> rw [h] <;> simp

end Sys2Proof.Machine

/-! # Orderly resets, and the phases of a partial reset

First how a host command runs that passes its checks: what its body gives is answered, or it waits (10_host_commands.md, Command slots;
11_bringup_power_reset.md, Partial reset). -/

namespace Sys2Proof.Machine

open Sys2Proof

/-! ## A command that passes its checks -/

section
variable {s t : State} {id : Nat} {op : BitVec 16} {c : Cmd} {body : Cmd → State → State × Option Ans}

theorem run_of_ready (h : s.Ready id op c) (hb : readsBuffer op = false) :
    s.run op id body = match (body c (s.markStarted id)).2 with
      | some a => (body c (s.markStarted id)).1.finish id a
      | none => (body c (s.markStarted id)).1 := by
  obtain ⟨hc, ho, hm, hp⟩ := h
  have hp' : (s.markStarted id).precheck c = none := hp
  unfold State.run
  simp only [hc, ho, hm, hp', hb, bne_self_eq_false, Bool.not_true, Bool.or_self, Bool.false_and, Bool.false_eq_true, if_false] <;>
    rfl

/-- A command whose body answers ends with that answer. -/
theorem run_answers {a : Ans} (h : s.Ready id op c) (hb : readsBuffer op = false)
    (hbody : body c (s.markStarted id) = (t, some a)) : s.run op id body = t.finish id a := by
  rw [run_of_ready h hb, hbody]

/-- A command whose body gives no answer goes on. -/
theorem run_begins (h : s.Ready id op c) (hb : readsBuffer op = false)
    (hbody : body c (s.markStarted id) = (t, none)) : s.run op id body = t := by
  rw [run_of_ready h hb, hbody]

end

/-! ## The phases -/

theorem exec_prPhaseEnd {s : State} {p : Partial} (failing : List (BitVec 32)) (h : s.boot.partialReset = some p) :
    exec (.prPhaseEnd failing) s = .next (s.endPhase p failing) := by
  change Host.Outcome.next (match s.boot.partialReset with
    | some p => s.endPhase p failing
    | none => s) = _
  rw [h]

/-- The state in which a phase ends: the record that the reset began with is written. -/
def State.written (s : State) : State := { s with fw := { s.fw with writing := false } }

theorem regrade_badUnits (s : State) : s.regrade.boot.badUnits = s.boot.badUnits := by
  unfold Boot.badUnits
  rw [(regrade_frame s).1]

theorem setPhase_grade (s : State) (p : Partial) (n : Nat) : (s.setPhase p n).boot.computeTest = s.boot.computeTest ∧
    (s.setPhase p n).boot.grade = s.boot.grade ∧ (s.setPhase p n).boot.partialReset = some { p with phase := n } ∧
    (s.setPhase p n).allUnfilled = s.allUnfilled :=
  ⟨rfl, rfl, rfl, allUnfilled_congr rfl rfl rfl⟩

/-- The end of phase 3 leaves the grade of what is left unfilled, and the next phase. -/
theorem endPhase3_leaves (s : State) (p : Partial) (failing : List (BitVec 32)) :
    (s.endPhase3 p failing).boot.computeTest = true ∧ (s.endPhase3 p failing).boot.grade = ((s.endPhase3 p failing).allUnfilled != 0) ∧
      (s.endPhase3 p failing).boot.partialReset = some { p with phase := if p.copy then 6 else 4 } := by
  unfold State.endPhase3
  dsimp only
  generalize s.testFound (failing.filter fun r => 1 ≤ unitClass r && unitClass r ≤ 5) = u
  generalize hw : u.setBoot { u.boot with computeTest := true } = w
  obtain ⟨hboot, hlink, _⟩ := regrade_frame w
  have htest : w.boot.computeTest = true := by rw [← hw]; rfl
  obtain ⟨h1, h2, h3, h4⟩ := setPhase_grade w.regrade p (if p.copy = true then 6 else 4)
  have hun : w.regrade.allUnfilled = w.allUnfilled := allUnfilled_congr (regrade_badUnits w) (by rw [hlink]) (by rw [hlink])
  rw [h1, h2, h3, h4, hboot, hun]
  dsimp only
  exact ⟨htest, rfl, rfl⟩

theorem endPhase_1 {s : State} {p : Partial} (failing : List (BitVec 32)) (h : p.phase = 1) (hh : s.ember.handover = false)
    (ht : s.ember.taking = none) : s.endPhase p failing = (s.written.saveImage.setPhase p 2).gateCompute := by
  unfold State.endPhase
  dsimp only
  rw [h]
  change (if s.ember.handover = true then _ else if s.ember.taking.isSome = true then _ else _) = _
  rw [hh, ht]
  rfl

theorem endPhase_4 {s : State} {p : Partial} (failing : List (BitVec 32)) (h : p.phase = 4) :
    s.endPhase p failing = (s.written.setPhase p 5).beginRestore := by
  unfold State.endPhase
  dsimp only
  rw [h]
  rfl

/-- Settles O39: each phase's end is its function of the model on the written record; the grade by `endPhase3_leaves`. -/
theorem orderlyAndPartialResets : Obligations.OrderlyAndPartialResets := by
  unfold Obligations.OrderlyAndPartialResets
  refine ⟨fun s => ⟨fun id c hr hbit => ?_, fun id c hr hbit => ?_, fun hs => ?_, fun hp => ?_⟩,
    fun failing p s hp => ⟨fun h hh ht => ?_, fun h hw hh => ?_, fun h => ?_, fun h hh => ?_, fun h hh => ?_, fun h hh j rest tail hj hs => ?_,
      fun h hh hj => ?_⟩⟩
  · refine ⟨(s.markStarted id).beginReset 1 0 (some id) false, congrArg Host.Outcome.next (run_begins hr rfl ?_),
      rfl, rfl, rfl, rfl, rfl, rfl, rfl⟩
    exact if_neg (by rw [hbit]; simp)
  · refine congrArg Host.Outcome.next (run_answers hr rfl ?_)
    exact if_pos (by rw [hbit]; rfl)
  · exact ⟨_, congrArg Host.Outcome.next (if_pos hs), rfl, rfl, rfl, rfl, rfl, rfl, rfl⟩
  · refine congrArg Host.Outcome.next (if_neg ?_)
    unfold State.service
    rw [hp]
    simp
  · refine ⟨_, (exec_prPhaseEnd failing hp).trans (congrArg Host.Outcome.next (endPhase_1 failing h hh ht)), rfl, rfl, rfl, rfl, rfl, rfl⟩
  · rw [exec_prPhaseEnd failing hp]
    unfold State.endPhase
    dsimp only
    rw [h]
    change Host.Outcome.next (State.endPhase2 s.written p) = _
    unfold State.endPhase2
    rw [show s.written.boot.halted = false from hh, show s.written.boot.wave = 8 from hw]
    rfl
  · refine ⟨_, exec_prPhaseEnd failing hp, ?_⟩
    unfold State.endPhase
    dsimp only
    rw [h]
    exact endPhase3_leaves _ p failing
  · rw [exec_prPhaseEnd failing hp, endPhase_4 failing h]
    refine congrArg Host.Outcome.next ((if_pos hh).trans rfl)
  · rw [exec_prPhaseEnd failing hp, endPhase_4 failing h]
    rfl
  · rw [exec_prPhaseEnd failing hp]
    unfold State.endPhase
    dsimp only
    rw [h]
    change Host.Outcome.next (if s.boot.halted = true then _ else _) = _
    rw [hh]
    change Host.Outcome.next (match s.mgr.jobs with
      | { steps := .prEnd :: _, .. } :: rest => ((s.written.setMgr { s.written.mgr with jobs := rest }).reconcile p).endPause p
      | _ => s.written) = _
    rw [hj]
    obtain ⟨steps, waits, heat⟩ := j
    cases hs
    rfl
  · rw [exec_prPhaseEnd failing hp]
    unfold State.endPhase
    dsimp only
    rw [h]
    change Host.Outcome.next (if s.boot.halted = true then _ else match s.mgr.jobs with
      | { steps := .prEnd :: _, .. } :: rest => ((s.written.setMgr { s.written.mgr with jobs := rest }).reconcile p).endPause p
      | _ => s.written) = _
    rw [hh, hj]
    rfl

end Sys2Proof.Machine

/-! # Firmware updates

Delivery in pieces, activation, confirmation and fallback: what a write of the boot record leaves of the image store, and the restart
that follows (13_firmware_update.md). -/

namespace Sys2Proof.Machine

open Sys2Proof

/-! ## What the end of a command leaves -/

/-- The end of a command changes the host interface, the trust die's sessions, the ember links, the recorder and what is put out. -/
theorem finish_keeps (s : State) (id : Nat) (a : Ans) : (s.finish id a).agents = s.agents ∧ (s.finish id a).link = s.link ∧
    (s.finish id a).hub = s.hub ∧ (s.finish id a).mgr = s.mgr ∧ (s.finish id a).mem = s.mem ∧ (s.finish id a).boot = s.boot ∧
    (s.finish id a).fw = s.fw ∧ (s.finish id a).cfg = s.cfg ∧ (s.finish id a).lap = s.lap := by
  rcases finish_cases s id a with h | h | h
  · obtain ⟨h1, h2, h3, h4, h5, h6, h7, _, h9, h10, _⟩ := h.frame
    exact ⟨h1, h2, h3, h4, h5, h6, h7, h9, h10⟩
  · obtain ⟨h1, h2, h3, h4, h5, h6, h7, _, h9, h10, _⟩ := h.frame
    exact ⟨h1, h2, h3, h4, h5, h6, h7, h9, h10⟩
  · rw [h]
    exact ⟨rfl, rfl, rfl, rfl, rfl, rfl, rfl, rfl, rfl⟩

@[simp] theorem finish_fw (s : State) (id : Nat) (a : Ans) : (s.finish id a).fw = s.fw := by
  obtain ⟨_, _, _, _, _, _, h, _⟩ := finish_keeps s id a
  exact h

@[simp] theorem alarm_fw (s : State) (code : Nat) (d : List Byte) : (s.alarm code d).fw = s.fw := by
  obtain ⟨_, _, _, _, h, _⟩ := ((Outward.refl s).alarm code d).rest
  exact h

/-! ## The boot record -/

/-- A write puts the record in force with the next number, and changes no more than the copies. -/
theorem write_frame (f : Fw) (r : BootRec) : (f.write r).record = { r with seq := f.record.seq + 1 } ∧ (f.write r).staging = f.staging ∧
    (f.write r).fuse = f.fuse ∧ (f.write r).running = f.running ∧ (f.write r).burning = f.burning ∧ (f.write r).areas = f.areas := by
  unfold Fw.write
  dsimp only
  split <;> exact ⟨rfl, rfl, rfl, rfl, rfl, rfl⟩

theorem mem_of_areaOf {r : BootRec} {role : AreaRole} {a : Nat} (h : r.areaOf role = some a) : r.roles[a]? = some role := by
  have := List.find?_some h
  simpa using this

theorem turn_get {r : BootRec} {old new x : AreaRole} {a : Nat} (h : r.roles[a]? = some x) :
    (r.turn old new).roles[a]? = some (if x = old then new else x) := by
  unfold BootRec.turn
  rw [List.getElem?_map, h]
  rfl

theorem turn_length (r : BootRec) (old new : AreaRole) : (r.turn old new).roles.length = r.roles.length := by
  unfold BootRec.turn
  exact List.length_map _

theorem activated_current {f : Fw} {b : List Byte} {a : Nat} (h : f.record.areaOf .staging = some a) :
    (f.activated b).roles[a]? = some .current :=
  turn_get (turn_get (turn_get (mem_of_areaOf h) (old := .fallback) (new := .free)) (old := .current) (new := .fallback))
    (old := .staging) (new := .current)

theorem activated_length (f : Fw) (b : List Byte) : (f.activated b).roles.length = f.record.roles.length := by
  change (((f.record.turn .fallback .free).turn .current .fallback).turn .staging .current).roles.length = _
  rw [turn_length, turn_length, turn_length]

/-! ## Delivery -/

section
variable {s : State} {id : Nat} {c : Cmd}

/-- The first good piece of a delivery of several begins it. -/
theorem record1_first {f : Fw} (hf : f.staging = none) (h2 : 2 ≤ c.num 40 4) (data : List Byte) :
    (f.record1 c data).1.staging = some { imageId := BitVec.ofNat 32 (c.num 32 4), count := c.num 40 4,
                                          held := [(c.num 36 4, (c.hash 64, data))], state := 1 } := by
  have hd : (f.delivery c).2 = { imageId := BitVec.ofNat 32 (c.num 32 4), count := c.num 40 4, held := [], state := 1 } := by
    unfold Fw.delivery
    rw [hf]
  unfold Fw.record1
  dsimp only
  rw [hd, if_pos (by change 1 < c.num 40 4; omega)]
  rfl

theorem exec_fwPiece_of_fault (h : s.Ready id 0x0901 c) (piece : List Byte) {a : Ans} (hf : pieceFault c = some a) :
    exec (.fwPiece id piece) s = .next ((s.markStarted id).finish id a) := by
  refine congrArg Host.Outcome.next (run_answers h rfl ?_)
  dsimp only
  rw [hf]

theorem exec_fwPiece_of_busy (h : s.Ready id 0x0901 c) (piece : List Byte) (hf : pieceFault c = none) (hb : s.fw.pieceBusy c = true) :
    exec (.fwPiece id piece) s = .next ((s.markStarted id).finish id (fail sBusy)) := by
  refine congrArg Host.Outcome.next (run_answers h rfl ?_)
  dsimp only
  rw [hf]
  exact if_pos hb

theorem exec_fwPiece_of_badCheck (h : s.Ready id 0x0901 c) (piece : List Byte) (hf : pieceFault c = none) (hb : s.fw.pieceBusy c = false)
    (hc : pieceCheck c (bytesAt (c.buffer piece) 0 (c.num 44 4)) ≠ c.hash 64) :
    exec (.fwPiece id piece) s = .next ((s.markStarted id).finish id (fail sBadCheck)) := by
  refine congrArg Host.Outcome.next (run_answers h rfl ?_)
  dsimp only
  rw [hf]
  exact (if_neg (ne_true_of_eq_false hb)).trans (if_pos (bne_iff_ne.mpr hc))

theorem exec_fwPiece_of_held (h : s.Ready id 0x0901 c) (piece : List Byte) (hf : pieceFault c = none) (hb : s.fw.pieceBusy c = false)
    (hc : pieceCheck c (bytesAt (c.buffer piece) 0 (c.num 44 4)) = c.hash 64) {g : Staging} {x : BitVec 256 × List Byte}
    (hg : s.fw.staging = some g) (hx : tget g.held (c.num 36 4) = some x) :
    exec (.fwPiece id piece) s =
      .next ((s.markStarted id).finish id (if x.1 = c.hash 64 then ok (leBytes 4 g.held.length) else bad 64)) := by
  refine congrArg Host.Outcome.next (run_answers h rfl ?_)
  dsimp only
  rw [hf]
  refine (if_neg (ne_true_of_eq_false hb)).trans ((if_neg (by rw [hc]; simp)).trans ?_)
  change (match s.fw.staging.bind fun g : Staging => tget g.held (c.num 36 4) with
    | some x => (s.markStarted id, some (if x.1 = c.hash 64 then ok (leBytes 4 ((s.fw.staging.map fun g : Staging => g.held.length).getD 0)) else bad 64))
    | none => _) = _
  rw [hg]
  change (match tget g.held (c.num 36 4) with | some x => _ | none => _) = _
  rw [hx]
  rfl

/-- The state in which a piece is written: the open value of its read-back is used. -/
def State.readBack (s : State) : State := { s with free := s.free + 1 }

theorem exec_fwPiece_of_first (h : s.Ready id 0x0901 c) (piece : List Byte) (hf : pieceFault c = none) (hb : s.fw.pieceBusy c = false)
    (hc : pieceCheck c (bytesAt (c.buffer piece) 0 (c.num 44 4)) = c.hash 64) (hg : s.fw.staging = none) :
    exec (.fwPiece id piece) s = .next (if Config.flashGood s.free then
      ({ (s.markStarted id).readBack with fw := (s.fw.record1 c (bytesAt (c.buffer piece) 0 (c.num 44 4))).1 } : State).finish id
        (s.fw.record1 c (bytesAt (c.buffer piece) 0 (c.num 44 4))).2
      else (s.markStarted id).readBack.finish id (fail sBadCheck)) := by
  have hbody : ∀ t a, (if (!Config.flashGood s.free) = true then ((s.markStarted id).readBack, some (fail sBadCheck))
      else ({ (s.markStarted id).readBack with fw := (s.fw.record1 c (bytesAt (c.buffer piece) 0 (c.num 44 4))).1 },
        some (s.fw.record1 c (bytesAt (c.buffer piece) 0 (c.num 44 4))).2)) = (t, some a) →
      exec (.fwPiece id piece) s = .next (t.finish id a) := by
    intro t a ht
    refine congrArg Host.Outcome.next (run_answers h rfl ?_)
    dsimp only
    rw [hf]
    refine (if_neg (ne_true_of_eq_false hb)).trans ((if_neg (by rw [hc]; simp)).trans ?_)
    change (match s.fw.staging.bind fun g : Staging => tget g.held (c.num 36 4) with | some x => _ | none => _) = _
    rw [hg]
    exact ht
  cases hgood : Config.flashGood s.free
  · exact hbody _ _ (by rw [hgood]; rfl)
  · exact hbody _ _ (by rw [hgood]; rfl)

end

/-- A discarded delivery is gone, and neither the fuse nor what runs has changed. -/
theorem freeStaging_frame (f : Fw) : f.freeStaging.staging = none ∧ f.freeStaging.fuse = f.fuse ∧ f.freeStaging.running = f.running := by
  obtain ⟨_, h2, h3, h4, _⟩ := write_frame ({ f with staging := none, areas := match f.record.areaOf .staging with
    | some a => tdel f.areas a
    | none => f.areas } : Fw) (f.record.turn .staging .free)
  exact ⟨h2, h3, h4⟩

/-! ## Activation, confirmation and fallback -/

/-- The restart after a change of image starts the health checks again, and changes no more of the image store. -/
theorem restartOn_fw (s : State) (cmd : Option Nat) :
    (s.restartOn cmd).fw = s.fw ∨ (s.restartOn cmd).fw = { s.fw with health := 0 } := by
  unfold State.restartOn
  split
  · exact .inr rfl
  · split
    · exact .inr rfl
    · exact .inl rfl

theorem restartOn_of_ready {s : State} (cmd : Option Nat) (h : s.boot.mgrReady = true) :
    (s.restartOn cmd).boot.paused = true ∧ (s.restartOn cmd).boot.prPhase = 1 ∧ (s.restartOn cmd).boot.prCause = 1 := by
  unfold State.restartOn
  rw [if_pos h]
  exact ⟨rfl, rfl, rfl⟩

/-- The confirmation puts the record of the running image in force, with its bits burned. -/
theorem writeConfirm_fw (s : State) {b : BitVec 64} (hb : s.fw.burning = some b) : s.writeConfirm.fw.record.confirm = 0 ∧
    s.writeConfirm.fw.record.roles = s.fw.record.roles.map (fun x => if x = .fallback then .free else x) ∧
    s.writeConfirm.fw.fuse = s.fw.fuse ||| b ∧ s.writeConfirm.fw.burning = none := by
  obtain ⟨d, hd⟩ := writeConfirm_eq s
  obtain ⟨hrec, _, hfuse, _, hburn, _⟩ := write_frame s.fw.burnt s.fw.burnt.record.confirmed
  have hfw : s.writeConfirm.fw = { s.fw.burnt.write s.fw.burnt.record.confirmed with health := 0 } := by
    rw [hd, alarm_fw]
    rfl
  rw [hfw]
  dsimp only
  rw [hrec, hfuse, hburn]
  refine ⟨rfl, rfl, ?_, rfl⟩
  change s.fw.fuse ||| s.fw.burning.getD 0 = _
  rw [hb]
  rfl

theorem fallBackFor_fw (s : State) (cause : Nat) {b : List Byte} (hb : s.fw.imageIn .fallback = some b) :
    (s.fallBackFor cause).fw.record.confirm = 2 ∧ (s.fallBackFor cause).fw.record.hash = imageHash b ∧
      (s.fallBackFor cause).fw.fuse = s.fw.fuse := by
  obtain ⟨hrec, _, hfuse, _⟩ := write_frame s.fw (s.fw.fallRecord b)
  have hfw : (s.fallBackFor cause).fw = { s.fw.write (s.fw.fallRecord b) with fallback := true } := by
    unfold State.fallBackFor State.fellBack
    rw [hb]
    exact alarm_fw _ _ _
  rw [hfw]
  dsimp only
  rw [hrec, hfuse]
  exact ⟨rfl, rfl, rfl⟩

/-- The image store once an activation is accepted. -/
def State.activatedFw (s : State) (id : Nat) : Fw :=
  { s.fw.write (s.fw.activated ((s.fw.imageIn .staging).getD [])) with
    staging := none, activating := some id, fabricAt := s.mgr.fabricState, imageSaved := false, unplannedSince := false
    fallback := false, former := (s.fw.running.map (·.2)).getD 0, writing := true }

theorem activate_eq (s : State) (id : Nat) : s.activate id = ({ s with fw := s.activatedFw id } : State).restartOn (some id) := rfl

/-- The parts of the image store of which the statement speaks, whatever the health count. -/
theorem activate_fw (s : State) (id : Nat) : (s.activate id).fw.record = { s.fw.activated ((s.fw.imageIn .staging).getD []) with
    seq := s.fw.record.seq + 1 } ∧ (s.activate id).fw.activating = some id ∧ (s.activate id).fw.staging = none := by
  obtain ⟨hrec, _⟩ := write_frame s.fw (s.fw.activated ((s.fw.imageIn .staging).getD []))
  rw [activate_eq]
  rcases restartOn_fw ({ s with fw := s.activatedFw id } : State) (some id) with h | h <;> rw [h] <;> exact ⟨hrec, rfl, rfl⟩

section
variable {s : State}

theorem exec_healthCheck (cores rec : Bool) (hc : s.fw.record.confirm = 1) (ha : s.fw.activating = none) :
    exec (.healthCheck cores rec) s = .next (
      if 120 ≤ (if s.healthy cores rec then s.fw.health + 1 else 0) || s.fw.burning.isSome then
        ({ s with fw := { s.fw with health := if s.healthy cores rec then s.fw.health + 1 else 0 } } : State).confirmImage
      else { s with fw := { s.fw with health := if s.healthy cores rec then s.fw.health + 1 else 0 } }) :=
  congrArg Host.Outcome.next (if_neg (by rw [hc, ha]; simp))

theorem exec_healthCheck_of_burning (cores rec : Bool) (hc : s.fw.record.confirm = 1) (ha : s.fw.activating = none) {b : BitVec 64}
    (hb : s.fw.burning = some b) : ∃ n, exec (.healthCheck cores rec) s =
      .next ({ s with fw := { s.fw with health := n } } : State).writeConfirm := by
  refine ⟨if s.healthy cores rec then s.fw.health + 1 else 0, (exec_healthCheck cores rec hc ha).trans ?_⟩
  rw [if_pos (by rw [hb]; simp)]
  unfold State.confirmImage
  rw [if_pos (by change s.fw.burning.isSome = true; rw [hb]; rfl)]

theorem exec_fwDeadline_of_due (hc : s.fw.record.confirm = 1) (ha : s.fw.activating = none) (hd : s.fw.record.deadline ≤ s.opS) :
    exec .fwDeadline s = .next (if s.fw.burning.isSome then s.writeConfirm else match s.boot.partialReset with
      | some p => s.deadlineIn p
      | none => (s.fallBackFor 0).restartOn none) :=
  congrArg Host.Outcome.next (if_neg (by rw [hc, ha]; simpa using hd))

end

/-- At DEADLINE the record falls back, with or without a partial reset under way. -/
theorem deadlineIn_fw (s : State) (p : Partial) : (s.deadlineIn p).fw = (s.fallBackFor 0).fw ∨
    (s.deadlineIn p).fw = { (s.fallBackFor 0).fw with health := 0 } := by
  unfold State.deadlineIn
  dsimp only
  split
  · exact .inr rfl
  · exact .inl rfl

/-- Settles O40: each row of the tables by its own equation above. -/
theorem firmwareUpdates : Obligations.FirmwareUpdates := by
  unfold Obligations.FirmwareUpdates
  refine ⟨fun id c s => ⟨fun h => ⟨fun piece a => exec_fwPiece_of_fault h piece, fun piece => exec_fwPiece_of_busy h piece,
      fun piece hf hb => ?_⟩, fun h => ?_, fun h => ⟨fun g hg hid => ?_, fun hno => ?_⟩⟩,
    fun s => ⟨fun id c h hf => ?_, fun id c a h hf => ?_, fun cores rec hc ha hb => ⟨fun hh => ?_, fun hh hn => ?_, fun hh hn => ?_⟩,
      fun b i hc ha hb hi => ?_, fun b hc ha hd hn hb => ?_, fun hc => ⟨?_, fun cores rec => ?_⟩⟩⟩
  · by_cases hcheck : pieceCheck c (bytesAt (c.buffer piece) 0 (c.num 44 4)) = c.hash 64
    · simp only [ne_eq, hcheck, not_true_eq_false, if_false]
      cases hg : s.fw.staging with
      | none =>
        refine ⟨_, exec_fwPiece_of_first h piece hf hb hcheck hg, nofun, fun _ h2 => ?_⟩
        split
        · rw [finish_fw]
          exact record1_first hg h2 _
        · rw [finish_fw]
          exact hg
      | some g =>
        cases hx : tget g.held (c.num 36 4) with
        | none => exact ⟨_, rfl, fun g' x hg' hx' => absurd (hx'.symm.trans (by cases hg'; exact hx)) (by simp),
            nofun⟩
        | some x =>
          refine ⟨_, exec_fwPiece_of_held h piece hf hb hcheck hg hx, fun g' x' hg' hx' => ?_, nofun⟩
          cases hg'
          cases hx.symm.trans hx'
          rfl
    · refine ⟨_, exec_fwPiece_of_badCheck h piece hf hb hcheck, ?_⟩
      rw [if_pos hcheck]
  · exact congrArg Host.Outcome.next (run_answers h rfl rfl)
  · refine ⟨_, congrArg Host.Outcome.next (run_answers h rfl (if_pos ?_)), ?_⟩
    · change (s.fw.staging.any fun g => g.imageId == BitVec.ofNat 32 (c.num 32 4)) = true
      rw [hg]
      exact beq_iff_eq.mpr hid
    · rw [finish_fw]
      exact freeStaging_frame s.fw
  · refine congrArg Host.Outcome.next (run_answers h rfl (if_neg ?_))
    exact ne_true_of_eq_false hno
  · refine ⟨(s.markStarted id).activate id, congrArg Host.Outcome.next (run_begins h rfl ?_), ?_⟩
    · rw [show (s.markStarted id).activateFault c = none from hf]
    · obtain ⟨h1, h2, h3⟩ := activate_fw (s.markStarted id) id
      rw [h1, h2, h3]
      exact ⟨rfl, rfl, rfl, rfl, activated_length s.fw ((s.fw.imageIn .staging).getD []),
        fun a ha => activated_current (b := (s.fw.imageIn .staging).getD []) ha, fun hr => restartOn_of_ready (some id) hr⟩
  · refine congrArg Host.Outcome.next (run_answers h rfl ?_)
    rw [show (s.markStarted id).activateFault c = some a from hf]
  · rw [exec_healthCheck cores rec hc ha, hh, hb]
    rfl
  · rw [exec_healthCheck cores rec hc ha, hh, hb, if_pos rfl, if_neg (by simpa using hn)]
  · refine ⟨_, (exec_healthCheck cores rec hc ha).trans (congrArg Host.Outcome.next (if_pos ?_)), ?_⟩
    · rw [hh, if_pos rfl]
      simpa using Or.inl hn
    · unfold State.confirmImage
      rw [show (({ s with fw := { s.fw with health := _ } } : State).fw.burning) = none from hb]
      exact ⟨rfl, rfl, rfl⟩
  · rcases hi with ⟨cores, rec, rfl⟩ | ⟨rfl, hd⟩
    · obtain ⟨n, hn⟩ := exec_healthCheck_of_burning cores rec hc ha hb
      exact ⟨_, hn, writeConfirm_fw _ hb⟩
    · refine ⟨_, (exec_fwDeadline_of_due hc ha hd).trans (congrArg Host.Outcome.next (if_pos (by rw [hb]; rfl))), writeConfirm_fw s hb⟩
  · rw [exec_fwDeadline_of_due hc ha hd, hn]
    obtain ⟨h1, h2, h3⟩ := fallBackFor_fw s 0 hb
    cases hp : s.boot.partialReset with
    | some p =>
      refine ⟨_, rfl, ?_⟩
      change (s.deadlineIn p).fw.record.confirm = 2 ∧ (s.deadlineIn p).fw.record.hash = _ ∧ (s.deadlineIn p).fw.fuse = _ ∧ _
      rcases deadlineIn_fw s p with h | h <;> rw [h] <;> exact ⟨h1, h2, h3, fun hnone => absurd hnone (by simp)⟩
    | none =>
      refine ⟨_, rfl, ?_⟩
      change ((s.fallBackFor 0).restartOn none).fw.record.confirm = 2 ∧ ((s.fallBackFor 0).restartOn none).fw.record.hash = _ ∧
        ((s.fallBackFor 0).restartOn none).fw.fuse = _ ∧ _
      have hboot : s.boot.mgrReady = true → ((s.fallBackFor 0).restartOn none).boot.paused = true ∧
          ((s.fallBackFor 0).restartOn none).boot.prPhase = 1 := fun hr => by
        obtain ⟨hpaused, hphase, _⟩ := restartOn_of_ready (s := s.fallBackFor 0) none (by rwa [fallBackFor_boot])
        exact ⟨hpaused, hphase⟩
      rcases restartOn_fw (s.fallBackFor 0) none with h | h <;> rw [h] <;> exact ⟨h1, h2, h3, fun _ => hboot⟩
  · exact congrArg Host.Outcome.next (if_pos (.inl hc))
  · exact congrArg Host.Outcome.next (if_pos (.inl hc))

end Sys2Proof.Machine

/-! # Management sessions

How a session begins, opens and ends, and what a message of one does (12_security.md, Management sessions). -/

namespace Sys2Proof.Machine

open Sys2Proof

/-! ## The end of a session -/

/-- A session's end takes its identifier off the list, and beside that writes the recorder's notes alone. -/
theorem endSession_sessions (s : State) (i : Nat) : (s.endSession i).trust.sessions = s.trust.sessions.filter fun x => x.id != i := by
  unfold State.endSession
  split
  · rename_i hn
    rw [List.find?_eq_none] at hn
    exact (List.filter_eq_self.mpr fun x hx => by have := hn x hx; simpa using this).symm
  · dsimp only
    split
    · unfold State.noteSpan
      dsimp only
      split <;> rfl
    · rfl

theorem endSession_frame (s : State) (i : Nat) : (s.endSession i).hif = s.hif ∧ (s.endSession i).mgr = s.mgr ∧
    s.TrustStays (s.endSession i) := by
  unfold State.endSession
  split
  · exact ⟨rfl, rfl, .refl⟩
  · dsimp only
    split
    · unfold State.noteSpan
      dsimp only
      split <;> exact ⟨rfl, rfl, rfl⟩
    · exact ⟨rfl, rfl, rfl⟩

theorem State.TrustStays.creds {s t : State} (h : s.TrustStays t) : t.trust.claimOpen = s.trust.claimOpen ∧ t.trust.creds = s.trust.creds := by
  unfold State.TrustStays at h
  rw [h]
  exact ⟨rfl, rfl⟩

theorem foldl_endSession_sessions (l : List Nat) (s : State) :
    (l.foldl State.endSession s).trust.sessions = s.trust.sessions.filter fun x => x.id ∉ l := by
  induction l generalizing s with
  | nil => exact (List.filter_eq_self.mpr fun x _ => decide_eq_true List.not_mem_nil).symm
  | cons i r ih =>
    rw [List.foldl_cons, ih, endSession_sessions, List.filter_filter]
    congr 1
    funext x
    simp only [List.mem_cons, not_or]
    by_cases hx : x.id = i <;> simp [hx]

theorem foldl_endSession_stays (l : List Nat) (s : State) : s.TrustStays (l.foldl State.endSession s) := by
  induction l generalizing s with
  | nil => exact .refl
  | cons i r ih =>
    obtain ⟨_, _, h⟩ := endSession_frame s i
    exact h.trans (ih _)

/-- Sessions that a predicate names leave no session with their identifiers. -/
theorem endSessions_gone {s : State} {p : Session → Bool} {x : Session} (hx : x ∈ s.trust.sessions) (hp : p x = true) :
    ∀ y ∈ (s.endSessions p).trust.sessions, y.id ≠ x.id := by
  intro y hy
  unfold State.endSessions at hy
  rw [foldl_endSession_sessions, List.mem_filter, decide_eq_true_eq] at hy
  obtain ⟨_, hno⟩ := hy
  exact fun he => hno (he ▸ List.mem_map.mpr ⟨x, List.mem_filter.mpr ⟨hx, hp⟩, rfl⟩)

theorem endSessions_all (s : State) : (s.endSessions fun _ => true).trust.sessions = [] := by
  rw [List.eq_nil_iff_forall_not_mem]
  intro y hy
  have hold : y ∈ s.trust.sessions := by
    unfold State.endSessions at hy
    rw [foldl_endSession_sessions] at hy
    exact (List.mem_filter.mp hy).1
  exact endSessions_gone hold rfl y hy rfl

/-! ## The highest index that was accepted -/

/-- A record newer than the other copy's is the one in force, whichever copy it is in. -/
theorem later_of_newer {a : Option IndexRec} {r : IndexRec} (h : ∀ x, a = some x → x.seq < r.seq) :
    IndexRec.later a (some r) = some r ∧ IndexRec.later (some r) a = some r := by
  cases a with
  | none => exact ⟨rfl, rfl⟩
  | some x =>
    have hx := h x rfl
    exact ⟨if_pos hx, if_neg (by omega)⟩

/-- A table's record of an entry, when its CHECK holds. -/
def goodRec (i : Nat) (tab : Tab IndexRec) : Option IndexRec := (tget tab i).filter (IndexRec.good (BitVec.ofNat 8 i))

theorem acceptedRec_eq (t : Trust) (i : Nat) : t.acceptedRec i = IndexRec.later (goodRec i t.acceptedA) (goodRec i t.acceptedB) := rfl

theorem goodRec_tset (i : Nat) (tab : Tab IndexRec) (seq last : Nat) :
    goodRec i (tset tab i (indexRec (BitVec.ofNat 8 i) seq last)) = some (indexRec (BitVec.ofNat 8 i) seq last) := by
  unfold goodRec
  rw [tget_tset_self]
  exact Option.filter_some_pos (indexRec_good _ _ _)

/-- An index that is written is the highest accepted one of its entry (R446, R455). -/
theorem lastIndex_setIndex (t : Trust) (i ix : Nat) : (t.setIndex i ix).lastIndex i = ix := by
  have hle {x : IndexRec} (hx : goodRec i t.acceptedA = some x ∨ goodRec i t.acceptedB = some x) :
      x.seq < ((t.acceptedRec i).map (·.seq)).getD 0 + 1 := by
    obtain ⟨y, hy, hxy⟩ := le_later hx
    rw [acceptedRec_eq, hy]
    exact Nat.lt_succ_of_le hxy
  have hrec : (t.setIndex i ix).acceptedRec i =
      some (indexRec (BitVec.ofNat 8 i) (((t.acceptedRec i).map (·.seq)).getD 0 + 1) ix) := by
    unfold Trust.setIndex
    dsimp only
    split
    · rw [acceptedRec_eq]
      dsimp only
      rw [goodRec_tset]
      exact (later_of_newer fun x hx => hle (.inl hx)).1
    · rw [acceptedRec_eq]
      dsimp only
      rw [goodRec_tset]
      exact (later_of_newer fun x hx => hle (.inr hx)).2
  unfold Trust.lastIndex
  rw [hrec]
  rfl

/-! ## A session opens -/

/-- What takes the first place is found there by any narrower search that it meets. -/
theorem find_modFirst {α : Type} {p q : α → Bool} {y : α} (hy : q y = true) (hq : ∀ z, q z = true → p z = true) (l : List α)
    (h : ∃ z ∈ l, p z = true) : (modFirst p (fun _ => y) l).find? q = some y := by
  induction l with
  | nil => simp at h
  | cons x r ih =>
    unfold modFirst
    by_cases hx : p x = true
    · rw [if_pos hx, List.find?_cons_of_pos hy]
    · obtain ⟨z, hz, hpz⟩ := h
      have hzr : z ∈ r := (List.mem_cons.mp hz).resolve_left fun he => hx (he ▸ hpz)
      rw [if_neg hx, List.find?_cons_of_neg fun hqx => hx (hq x hqx), ih ⟨z, hzr, hpz⟩]

theorem session_mem {s : State} {i : Nat} {o : Bool} {x : Session} (h : s.session i o = some x) :
    x ∈ s.trust.sessions ∧ x.id = i ∧ x.opened = o := by
  have h1 := List.mem_of_find?_eq_some h
  have h2 := List.find?_some h
  rw [Bool.and_eq_true, beq_iff_eq, beq_iff_eq] at h2
  exact ⟨h1, h2⟩

/-- The session as it stands once it has opened. -/
def Session.openedAs (x : Session) (ct : List Byte) (opS : Nat) : Session :=
  let w := Config.shake256Wide (Config.decapsulate x.draw ct ++ bvBytes (x.t3 ct))
  { x with opened := true, inKey := field w 0 256, outKey := field w 256 256, ident := field w 512 256, inCount := x.inCount + 1, openAt := opS }

theorem streamCreds_trust (s : State) : s.streamCreds.trust = s.trust := by
  unfold State.streamCreds
  split <;> rfl

/-- What the trust die keeps of a session that opens, but for the list of sessions. -/
theorem openSession_trust (s : State) (x : Session) (ct : List Byte) (ix : Nat) :
    (s.openSession x ct ix).trust.sessions = modFirst (fun z => z.id == x.id) (fun _ => x.openedAs ct s.opS) s.trust.sessions ∧
    (s.openSession x ct ix).trust.debugged = (s.trust.debugged || x.tongs) ∧
    (∀ e, x.cred = some e → (s.openSession x ct ix).trust.lastIndex e = (s.trust.setIndex e ix).lastIndex e) := by
  unfold State.openSession
  dsimp only
  split
  · rw [streamCreds_trust]
    refine ⟨rfl, rfl, fun e he => ?_⟩
    rw [he]
    rfl
  · rename_i hn
    exact ⟨rfl, rfl, fun e he => absurd (by rw [he]; rfl) hn⟩

theorem openSession_opens {s : State} {i : Nat} {x : Session} (h : s.session i false = some x) (ct : List Byte) (ix : Nat) :
    (s.openSession x ct ix).session i true = some (x.openedAs ct s.opS) := by
  obtain ⟨hmem, hid, _⟩ := session_mem h
  unfold State.session
  rw [(openSession_trust s x ct ix).1]
  refine find_modFirst ?_ (fun z hz => ?_) _ ⟨x, hmem, beq_self_eq_true _⟩
  · change (x.id == i && true == true) = true
    rw [hid]
    simp
  · rw [Bool.and_eq_true, beq_iff_eq] at hz
    exact beq_iff_eq.mpr (hz.1.trans hid.symm)

/-! ## The rows -/

section
variable {s : State} {source : BitVec 128}

theorem ignores_of_mem (h : source ∈ s.trust.blocked) : s.ignores source = true := List.contains_iff_mem.mpr h

theorem ignores_of_not_mem (h : source ∉ s.trust.blocked) : s.ignores source = false := by
  rw [← Bool.not_eq_true]
  exact fun hc => h (List.contains_iff_mem.mp hc)

theorem exec_clientHello_heard {path : SessPath} (hr : s.reached path = true) (hb : source ∉ s.trust.blocked)
    (hl : s.trust.sessions.length < 16) (cred : BitVec 8) (events : Bool) (nonce : BitVec 256) (rsv : Nat) :
    exec (.clientHello path source cred events nonce rsv) s = .next (
      if rsv ≠ 0 then s.failHandshake 5 source
      else if !s.helloAllowed path.isTongs cred then s.failHandshake 2 source
      else s.beginSession path source cred events nonce) :=
  congrArg Host.Outcome.next (if_neg (by rw [hr, ignores_of_not_mem hb]; simpa using hl))

theorem beginSession_of_index {path : SessPath} {cred : BitVec 8} {events : Bool} {nonce : BitVec 256} {i : Nat} {k : KeyIndex}
    (h : s.trust.identity.take s.skips = some (i, k)) : ∃ x : Session, x.id = s.trust.nextSession ∧ x.opened = false ∧
      x.source = source ∧ x.tongs = path.isTongs ∧ x.port = path.port ∧
      s.beginSession path source cred events nonce = ({ s with free := s.free + 1, trust := { s.trust with
        identity := k, draws := s.trust.draws + 1, nextSession := s.trust.nextSession + 1, sessions := s.trust.sessions ++ [x] } } : State).emit
          ([.serverHello x.id (serverBytes s.trust.draws)
            (Config.sign 1 i (bvBytes (Config.shake256 (helloBytes cred events nonce ++ serverBytes s.trust.draws))))] ++
            tongsFrame x.tongs (serverBytes s.trust.draws ++
              Config.sign 1 i (bvBytes (Config.shake256 (helloBytes cred events nonce ++ serverBytes s.trust.draws))))) := by
  unfold State.beginSession
  rw [h]
  exact ⟨_, rfl, rfl, rfl, rfl, rfl, rfl⟩

theorem exec_clientAuth_heard {i : Nat} {x : Session} (h : s.session i false = some x) (hb : x.source ∉ s.trust.blocked)
    (ct : List Byte) (ix : Nat) (sig : List Byte) : exec (.clientAuth i ct ix sig 0) s = .next (
      if s.clientSigned x ct ix sig then s.openSession x ct ix else (s.endSession i).failHandshake 1 x.source) := by
  change Host.Outcome.next (match s.session i false with
    | none => s
    | some x => if s.ignores x.source then s else if (0 : Nat) ≠ 0 then (s.endSession i).failHandshake 5 x.source
      else if s.clientSigned x ct ix sig then s.openSession x ct ix else (s.endSession i).failHandshake 1 x.source) = _
  rw [h]
  dsimp only
  rw [ignores_of_not_mem hb]
  rfl

theorem exec_sessionCommand_of_session {i : Nat} {x : Session} (h : s.session i true = some x) (m : SessMsg) :
    exec (.sessionCommand i m) s = .next (if s.ignores x.source then s else match x.msgFault 4 m with
      | some r => (s.endSession i).noteFail r x.source
      | none => if x.tongs then (s.countIn x).takeTongs x.id (Config.decrypt x.inKey m.counter m.body)
        else (s.countIn x).takeCommand x (Config.decrypt x.inKey m.counter m.body)) := by
  change execSessionCommand i m s = _
  unfold execSessionCommand
  rw [h] <;> rfl

theorem exec_sessionClose_of_session {i : Nat} {x : Session} (h : s.session i true = some x) (m : SessMsg) :
    exec (.sessionClose i m) s = .next (if s.ignores x.source then s else match x.msgFault 7 m with
      | some r => (s.endSession i).noteFail r x.source
      | none => s.endSession i) := by
  change execSessionClose i m s = _
  unfold execSessionClose
  rw [h] <;> rfl

theorem msgFault_of_counter {x : Session} {m : SessMsg} (h : m.counter ≠ x.inCount) (type : Nat) : (x.msgFault type m).isSome = true := by
  unfold Session.msgFault
  split <;> rfl

end

theorem reached_mgmt_iff (s : State) (port : Nat) (dest : BitVec 128) : s.reached (.mgmt port dest) = true ↔
    (1 ≤ s.boot.wave ∨ s.boot.standbyUp = true) ∧ s.ember.grant = true ∧ port < 2 ∧
      (dest = linkLocal port ∨ dest ∈ (tget s.cfg.live.addrs port).getD []) := by
  simp only [State.reached, State.p0Up, Bool.and_eq_true, Bool.or_eq_true, decide_eq_true_eq, beq_iff_eq, List.contains_iff_mem, and_assoc]

theorem reached_tongs_iff (s : State) : s.reached .tongs = true ↔ 1 ≤ s.boot.wave ∨ s.boot.standbyUp = true := by
  simp only [State.reached, State.p0Up, Bool.and_true, Bool.or_eq_true, decide_eq_true_eq]

/-- The module without credentials and without what was accepted of them. -/
def State.credsGone (s : State) : State := { s with trust := (s.trust.writeCreds []).clearIndices fun _ => true }

/-- CRED_CLEAR with no heat open: no credential, no accepted index and no session is left. -/
theorem credClear_leaves {s : State} (h : s.mgr.heats = []) : ∃ t, exec .credClear s = .next t ∧ t.trust.creds = [] ∧
    t.trust.creds2 = [] ∧ t.trust.acceptedA = [] ∧ t.trust.acceptedB = [] ∧ t.trust.sessions = [] := by
  have hgone : s.credsGone.trust.creds = [] ∧ s.credsGone.trust.creds2 = [] ∧ s.credsGone.trust.acceptedA = [] ∧ s.credsGone.trust.acceptedB = [] := by
    refine ⟨rfl, rfl, ?_, ?_⟩ <;> exact List.filter_eq_nil_iff.mpr fun _ _ => by simp
  have hexec : exec .credClear s = .next (((s.credsGone.endSessions fun _ => true).note 0x1408 0 []).streamCreds) := by
    refine congrArg Host.Outcome.next ((if_pos (by rw [h]; rfl)).trans rfl)
  refine ⟨_, hexec, ?_⟩
  rw [streamCreds_trust]
  have hnil := endSessions_all s.credsGone
  have hstays : s.credsGone.TrustStays (s.credsGone.endSessions fun _ => true) := foldl_endSession_stays _ s.credsGone
  generalize (s.credsGone.endSessions fun _ => true) = v at hnil hstays ⊢
  have hv : (v.note 0x1408 0 []).trust.sessions = v.trust.sessions := by
    unfold State.note
    split <;> rfl
  rw [hv, hnil]
  have hall : s.credsGone.TrustStays (v.note 0x1408 0 []) := hstays.note _ _ _
  unfold State.TrustStays at hall
  rw [hall]
  obtain ⟨h1, h2, h3, h4⟩ := hgone
  exact ⟨h1, h2, h3, h4, rfl⟩

/-- Settles O41: each row's equation above, with `openSession_opens`, `lastIndex_setIndex` and `endSessions_gone`. -/
theorem sessions : Obligations.Sessions := by
  unfold Obligations.Sessions
  refine ⟨fun s => ⟨fun path source cred events nonce hr hb hl => ⟨fun ha i k hk => ?_, fun ha hk => ?_, fun ha => ?_, fun rsv hrsv => ?_⟩,
      fun path source cred events nonce rsv h => ?_, reached_mgmt_iff s, reached_tongs_iff s, fun i x ct ix sig h hb => ?_⟩,
    fun s => ⟨fun i x m h hb => ⟨?_, ?_⟩, fun i x m h hb => ⟨?_, ?_, fun hc => msgFault_of_counter hc⟩, fun i => ?_, fun a => rfl, rfl, ?_,
      credClear_leaves, fun h => ?_⟩⟩
  · obtain ⟨x, hid, hopen, hsrc, htongs, hport, hbegin⟩ := beginSession_of_index (source := source) (path := path) (cred := cred)
      (events := events) (nonce := nonce) hk
    have hexec : exec (.clientHello path source cred events nonce 0) s = .next (s.beginSession path source cred events nonce) :=
      (exec_clientHello_heard hr hb hl cred events nonce 0).trans
        (congrArg Host.Outcome.next ((if_neg (by simp)).trans (if_neg (by rw [ha]; simp))))
    refine ⟨_, Config.sign 1 i (bvBytes (Config.shake256 (helloBytes cred events nonce ++ serverBytes s.trust.draws))), hexec, rfl, ?_⟩
    rw [hbegin, ← hid, ← htongs, ← hport]
    exact ⟨rfl, rfl, List.length_append, x, List.mem_append_right _ (List.mem_singleton_self x), rfl, hopen, hsrc, rfl, rfl⟩
  · rw [exec_clientHello_heard hr hb hl, if_neg (by simp), ha]
    refine congrArg Host.Outcome.next ((if_neg (by simp)).trans ?_)
    unfold State.beginSession
    rw [hk]
  · rw [exec_clientHello_heard hr hb hl, if_neg (by simp), ha]
    rfl
  · rw [exec_clientHello_heard hr hb hl, if_pos hrsv]
  · refine congrArg Host.Outcome.next (if_pos ?_)
    rcases h with h | h | h
    · rw [ignores_of_mem h]
      simp
    · simp [h]
    · rw [h]
      rfl
  · refine ⟨_, exec_clientAuth_heard h hb ct ix sig, ?_⟩
    by_cases hsig : s.clientSigned x ct ix sig = true
    · rw [if_pos hsig, if_pos hsig]
      obtain ⟨_, hdebug, hlast⟩ := openSession_trust s x ct ix
      exact ⟨⟨_, openSession_opens h ct ix, rfl, rfl⟩, fun e he => (hlast e he).trans (lastIndex_setIndex _ _ _),
        fun ht => by rw [hdebug, ht, Bool.or_true]⟩
    · rw [if_neg hsig, if_neg hsig]
  · rw [exec_sessionCommand_of_session h, if_pos (ignores_of_mem hb)]
  · rw [exec_sessionClose_of_session h, if_pos (ignores_of_mem hb)]
  · refine ⟨_, exec_sessionCommand_of_session h m, ?_⟩
    rw [if_neg (ne_true_of_eq_false (ignores_of_not_mem hb))]
    cases x.msgFault 4 m with
    | some r => rfl
    | none =>
      dsimp only
      split
      · rfl
      · exact ⟨rfl, _, rfl, rfl, rfl, rfl, rfl⟩
  · rw [exec_sessionClose_of_session h, if_neg (ne_true_of_eq_false (ignores_of_not_mem hb))] <;> rfl
  · obtain ⟨hhif, _⟩ := endSession_frame s i
    refine ⟨s.endSession i, rfl, fun x hx => ?_, fun x hx hi => ?_, hhif⟩
    · rw [endSession_sessions] at hx
      simpa using (List.mem_filter.mp hx).2
    · rw [endSession_sessions]
      exact List.mem_filter.mpr ⟨hx, by simpa using hi⟩
  · have hstays := foldl_endSession_stays (((s.trust.sessions.filter fun x => x.cred.isNone).map (·.id)))
      ({ s with trust := { s.trust with claimOpen := false } } : State)
    obtain ⟨hopen, hcreds⟩ := hstays.creds
    exact ⟨({ s with trust := { s.trust with claimOpen := false } } : State).endSessions fun x => x.cred.isNone, rfl, hopen, hcreds,
      fun x hx hc => endSessions_gone hx (by rw [hc]; rfl)⟩
  · exact congrArg Host.Outcome.next (if_neg (by simpa using h))

end Sys2Proof.Machine

/-! # Quotes, tenant keys and credentials

What the trust die keeps through replies and the ends of sessions, and then the rows of quotes, keys and the credential set
(12_security.md, Attestation; Tenant keys; Management sessions). -/

namespace Sys2Proof.Machine

open Sys2Proof

/-! ## Replies leave the trust die's keys and quotes -/

namespace State.TrustStays

variable {s t : State}

theorem sendSessions (h : s.TrustStays t) (p : Session → Bool) (type : Nat) (body : List Byte) :
    s.TrustStays (t.sendSessions p type body) := h.trans rfl

theorem writeReply (h : s.TrustStays t) (n : Nat) (c : Cmd) (a : Ans) : s.TrustStays (t.writeReply n c a) := by
  have hdata : t.TrustStays (t.dataSent c a).1 := by
    unfold State.dataSent
    dsimp only
    repeat' split
    all_goals exact .refl
  rw [writeReply_eq]
  refine h.trans (hdata.trans ?_)
  unfold State.putReply
  dsimp only
  repeat' split
  · exact .refl
  · exact .refl
  · exact State.TrustStays.interrupt (.emit (.hostFails .refl) _) _ _

theorem notice (h : s.TrustStays t) (n k : Nat) : s.TrustStays (t.notice n k) := by
  unfold State.notice
  dsimp only
  repeat' split
  · exact h
  · exact h
  · exact ((h.modFn _ _).host _).writeReply _ _ _

theorem reply (h : s.TrustStays t) (id : Nat) (a : Ans) : s.TrustStays (t.reply id a) := by
  have hdrop : s.TrustStays (t.dropCmd id) := h
  unfold State.reply
  split
  · exact h
  · dsimp only
    repeat' split
    · exact hdrop
    · exact hdrop.sendSessions _ _ _
    · exact (((hdrop.writeReply _ _ _).modFn _ _).modFn _ _).notice _ _
    · exact (hdrop.writeReply _ _ _).modFn _ _

theorem finish (h : s.TrustStays t) (id : Nat) (a : Ans) : s.TrustStays (t.finish id a) := by
  have hj : s.TrustStays t.journal := h
  unfold State.finish
  split
  · exact h
  · dsimp only
    repeat' split
    · exact hj.reply _ _
    · exact h
    · exact h.reply _ _

theorem quotes (h : s.TrustStays t) : t.trust.quotes = s.trust.quotes ∧ t.trust.attest = s.trust.attest ∧
    t.trust.done = s.trust.done := by
  unfold State.TrustStays at h
  rw [h]
  exact ⟨rfl, rfl, rfl⟩

theorem accepted (h : s.TrustStays t) : t.trust.creds = s.trust.creds ∧ t.trust.creds2 = s.trust.creds2 ∧
    ∀ i, t.trust.lastIndex i = s.trust.lastIndex i := by
  unfold State.TrustStays at h
  rw [h]
  exact ⟨rfl, rfl, fun _ => rfl⟩

end State.TrustStays

/-! ## Quotes -/

theorem tally_trust (s : State) (series unit : BitVec 16) (k : Nat) : (s.tally series unit k).trust = s.trust := by
  unfold State.tally
  split <;> rfl

/-- The state in which a quote is signed and delivered: its request has left the queue, and its index is taken. -/
def State.quoted (s : State) (rest : List QuoteReq) (k : KeyIndex) : State :=
  ({ s with free := s.free + 1, trust := { s.trust with quotes := rest, attest := k } } : State).tally 0x0032 0 1

/-- The bytes of a quote under an index. -/
def State.quoteOf (s : State) (q : QuoteReq) (i : Nat) : List Byte :=
  s.quoteBody q i ++ Config.sign 2 i (s.quoteBody q i) ++ Config.endorsement

theorem exec_quoteDone_of_index {s : State} {q : QuoteReq} {rest : List QuoteReq} (hq : s.trust.quotes = q :: rest) {i : Nat}
    {k : KeyIndex} (hk : s.trust.attest.take s.skips = some (i, k)) (dmaOk : Bool) :
    exec (.quoteDone dmaOk) s = .next ((s.quoted rest k).deliverQuote q (s.quoteOf q i) dmaOk) := by
  change execQuoteDone dmaOk s = _
  unfold execQuoteDone
  rw [hq]
  dsimp only
  rw [hk]
  rfl

theorem exec_quoteDone_of_none {s : State} {q : QuoteReq} {rest : List QuoteReq} (hq : s.trust.quotes = q :: rest)
    (hk : s.trust.attest.take s.skips = none) (dmaOk : Bool) : exec (.quoteDone dmaOk) s = .next (match q.asker with
      | .cmd id => ({ s with trust := { s.trust with quotes := rest } } : State).reply id (fail sNoIndex)
      | .mailbox => { s with trust := { s.trust with quotes := rest } }) := by
  change execQuoteDone dmaOk s = _
  unfold execQuoteDone
  rw [hq]
  dsimp only
  rw [hk] <;> rfl

theorem quoted_cmd (s : State) (rest : List QuoteReq) (k : KeyIndex) (id : Nat) : (s.quoted rest k).cmd id = s.cmd id := by
  unfold State.quoted State.tally
  split <;> rfl

theorem quoted_trust (s : State) (rest : List QuoteReq) (k : KeyIndex) : (s.quoted rest k).trust = { s.trust with quotes := rest, attest := k } := by
  unfold State.quoted
  exact tally_trust _ _ _ _

theorem deliverQuote_mailbox (s : State) {q : QuoteReq} (h : q.asker = .mailbox) (quote : List Byte) (dmaOk : Bool) :
    if dmaOk = true then (s.deliverQuote q quote dmaOk).trust.done = true ∧
        Emission.quote s.trust.quoteAddr quote ∈ (s.deliverQuote q quote dmaOk).out
      else (s.deliverQuote q quote dmaOk).trust.dmaErr = true := by
  unfold State.deliverQuote
  rw [h]
  cases dmaOk with
  | true =>
    obtain ⟨_, _, hdone⟩ := (State.TrustStays.interrupt (.refl (s := ({ s with trust := { s.trust with done := true } } : State).emit
      [.quote s.trust.quoteAddr quote])) 0 1).quotes
    exact ⟨hdone, interrupt_out _ _ _ (List.mem_append_right _ (List.mem_singleton_self _))⟩
  | false => rfl

theorem deliverQuote_session {s : State} {q : QuoteReq} {id i : Nat} {c : Cmd} (h : q.asker = .cmd id) (hc : s.cmd id = some c)
    (hm : c.mute = false) (hs : c.src = .session i) (quote : List Byte) (dmaOk : Bool) :
    s.deliverQuote q quote dmaOk = s.reply id { ({ ok (leBytes 4 11628) with bytes := 11628 } : Ans) with data := quote } := by
  unfold State.deliverQuote
  rw [h]
  dsimp only
  rw [hc]
  dsimp only
  rw [hm, hs]
  rfl

theorem deliverQuote_fn {s : State} {q : QuoteReq} {id n : Nat} {c : Cmd} (h : q.asker = .cmd id) (hc : s.cmd id = some c)
    (hm : c.mute = false) (hs : c.src = .fn n) (quote : List Byte) (dmaOk : Bool) :
    s.deliverQuote q quote dmaOk = if dmaOk = true then (s.emit [.quote c.dataAddr quote]).reply id { ok (leBytes 4 11628) with bytes := 11628 }
      else s.reply id (fail sHostError) := by
  unfold State.deliverQuote
  rw [h]
  dsimp only
  rw [hc]
  dsimp only
  rw [hm, hs]
  rfl

/-- The delivery of a quote changes neither the queue nor the key that signs. -/
theorem deliverQuote_stays (s : State) (q : QuoteReq) (quote : List Byte) (dmaOk : Bool) :
    (s.deliverQuote q quote dmaOk).trust.quotes = s.trust.quotes ∧ (s.deliverQuote q quote dmaOk).trust.attest = s.trust.attest := by
  have hof {t : State} (h : s.TrustStays t) : t.trust.quotes = s.trust.quotes ∧ t.trust.attest = s.trust.attest := by
    obtain ⟨h1, h2, _⟩ := h.quotes
    exact ⟨h1, h2⟩
  cases hq : q.asker with
  | mailbox =>
    unfold State.deliverQuote
    rw [hq]
    cases dmaOk with
    | true =>
      obtain ⟨h1, h2, _⟩ := (State.TrustStays.interrupt (.refl (s := ({ s with trust := { s.trust with done := true } } : State).emit
        [.quote s.trust.quoteAddr quote])) 0 1).quotes
      exact ⟨h1, h2⟩
    | false => exact ⟨rfl, rfl⟩
  | cmd id =>
    cases hc : s.cmd id with
    | none =>
      unfold State.deliverQuote
      rw [hq]
      dsimp only
      rw [hc]
      exact ⟨rfl, rfl⟩
    | some c =>
      cases hm : c.mute with
      | true =>
        unfold State.deliverQuote
        rw [hq]
        dsimp only
        rw [hc]
        dsimp only
        rw [hm]
        exact ⟨rfl, rfl⟩
      | false =>
        cases hs : c.src with
        | session i =>
          rw [deliverQuote_session hq hc hm hs]
          exact hof (.reply .refl _ _)
        | fn n =>
          rw [deliverQuote_fn hq hc hm hs]
          split
          · exact hof (.reply (.emit .refl _) _ _)
          · exact hof (.reply .refl _ _)

/-! ## Tenant keys -/

theorem tget_getD_tset {α : Type} (t : Tab α) (k : Nat) (x d : α) : (tget (tset t k x) k).getD d = x := by
  rw [tget_tset_self]
  rfl

theorem destroyKey_live (s : State) (tenant gen : Nat) :
    (s.destroyKey tenant gen).trust.live tenant = (s.trust.live tenant).filter (· != gen) := by
  unfold State.destroyKey
  dsimp only
  split <;> exact tget_getD_tset _ _ _ _

/-- To retire the older generation leaves the newest one where it is. -/
theorem retireKey_head {s : State} {tenant g h : Nat} {r : List Nat} (hl : s.trust.live tenant = g :: h :: r) (hne : g ≠ h) :
    ((s.retireKey tenant).trust.live tenant).head? = some g := by
  have hkeep : (s.trust.live tenant).head? = some g := by rw [hl]; rfl
  unfold State.retireKey
  rw [hl]
  dsimp only
  split
  · rw [destroyKey_live, hl, List.filter_cons_of_pos (by simpa using hne)]
    rfl
  · exact hkeep

theorem createKey_live (s : State) (tenant gen : Nat) :
    (s.createKey tenant gen).trust.live tenant = gen :: s.trust.live tenant := by
  unfold State.createKey
  dsimp only
  split <;> exact tget_getD_tset _ _ _ _

/-- A rotation makes the next generation the newest one (R465). -/
theorem rotate_head {s : State} {tenant g : Nat} (h : s.trust.live tenant = [g]) :
    (((s.createKey tenant ((g + 1) % 4)).rotateOut tenant g).trust.live tenant).head? = some ((g + 1) % 4) := by
  unfold State.rotateOut
  exact retireKey_head (r := []) ((createKey_live s tenant _).trans (by rw [h])) (by omega)

theorem live_finish (s : State) (id : Nat) (a : Ans) (tenant : Nat) : (s.finish id a).trust.live tenant = s.trust.live tenant := by
  unfold Trust.live
  rw [(State.TrustStays.refl.finish id a).gens]

/-- The generations of a list as bits. -/
theorem testBit_foldl_or (l : List Nat) (n g : Nat) :
    (l.foldl (fun n g => n ||| 2 ^ g) n).testBit g = (n.testBit g || decide (g ∈ l)) := by
  induction l generalizing n with
  | nil => simp
  | cons h r ih =>
    rw [List.foldl_cons, ih, Nat.testBit_or, Nat.testBit_two_pow]
    by_cases hg : h = g
    · simp [hg]
    · simp [hg, Ne.symm hg]

/-! ## The credential set -/

/-- A record of an entry whose key is another one starts at zero, and any other stands. -/
theorem lastIndex_clear (t : Trust) (gone : Nat → Bool) (i : Nat) :
    (t.clearIndices gone).lastIndex i = if gone i then 0 else t.lastIndex i := by
  have hget (tab : Tab IndexRec) : goodRec i (tab.filter fun e => !gone e.1) = if gone i then none else goodRec i tab := by
    unfold goodRec
    rw [tget_filter_key tab (fun n => !gone n) i]
    cases gone i <;> rfl
  unfold Trust.lastIndex
  rw [acceptedRec_eq, acceptedRec_eq]
  change ((IndexRec.later (goodRec i (t.acceptedA.filter fun e => !gone e.1)) (goodRec i (t.acceptedB.filter fun e => !gone e.1))).map
    (·.last)).getD 0 = _
  rw [hget, hget]
  cases gone i <;> rfl

theorem contains_changedKeys (old new : List Cred) {i : Nat} (h : i < 16) : (changedKeys old new).contains i = true ↔
    ¬ (old[i]?).map (fun x => (x.oid, x.root, x.seed)) = (new[i]?).map (fun x => (x.oid, x.root, x.seed)) := by
  unfold changedKeys
  rw [List.contains_iff_mem, List.mem_filter, List.mem_range, bne_iff_ne]
  exact ⟨fun hm => hm.2, fun hm => ⟨h, hm⟩⟩

/-- The state in which a new credential set stands, before its reply. -/
def State.newCreds (s : State) (new : List Cred) : State :=
  ({ s with trust := (s.trust.clearIndices (changedKeys s.trust.creds new).contains).writeCreds new } : State).streamCreds

theorem setCreds_stays (s : State) (c : Cmd) (new : List Cred) : (s.newCreds new).TrustStays (s.setCreds c new) :=
  (State.TrustStays.refl.reply c.id (ok [])).trans (foldl_endSession_stays _ _)

theorem setCreds_leaves (s : State) (c : Cmd) (new : List Cred) : (s.setCreds c new).trust.creds = new ∧
    (s.setCreds c new).trust.creds2 = new ∧ ∀ i, i < 16 → (s.setCreds c new).trust.lastIndex i =
      if (s.trust.creds[i]?).map (fun x => (x.oid, x.root, x.seed)) = (new[i]?).map (fun x => (x.oid, x.root, x.seed))
      then s.trust.lastIndex i else 0 := by
  have htrust : (s.newCreds new).trust = (s.trust.clearIndices (changedKeys s.trust.creds new).contains).writeCreds new :=
    streamCreds_trust _
  obtain ⟨h1, h2, h3⟩ := (setCreds_stays s c new).accepted
  rw [h1, h2, htrust]
  refine ⟨rfl, rfl, fun i hi => ?_⟩
  rw [h3, htrust]
  change (s.trust.clearIndices (changedKeys s.trust.creds new).contains).lastIndex i = _
  rw [lastIndex_clear]
  by_cases hk : (changedKeys s.trust.creds new).contains i = true
  · rw [if_pos hk, if_neg ((contains_changedKeys _ _ hi).mp hk)]
  · rw [if_neg hk, if_pos (Classical.not_not.mp fun hn => hk ((contains_changedKeys _ _ hi).mpr hn))]

/-! ## The rows -/

section
variable {s : State} {id : Nat} {c : Cmd}

theorem cmd_id (h : s.cmd id = some c) : c.id = id := beq_iff_eq.mp (List.find?_some (p := fun c : Cmd => c.id == id) h)

/-- The function number and the tenant of a quote that a command asks for (R458). -/
def quoteFrom (c : Cmd) : Nat × Nat :=
  match c.src with
  | .fn 0 => (0, c.num 64 2 % 1024)
  | .fn n => (n, n - 1)
  | .session _ => (0xFFFF, c.num 64 2 % 1024)

/-- The request that SEC_QUOTE puts into the queue. -/
def quoteRequest (c : Cmd) : QuoteReq :=
  { asker := .cmd c.id, nonce := c.hash 32, fnNo := BitVec.ofNat 16 (quoteFrom c).1, tenant := (quoteFrom c).2 }

/-- A request joins the queue of quotes. -/
def State.joinQuotes (s : State) (q : QuoteReq) : State := { s with trust := { s.trust with quotes := s.trust.quotes ++ [q] } }

theorem quoteRequest_from (c : Cmd) : (c.src = .fn 0 → (quoteRequest c).fnNo = 0 ∧ (quoteRequest c).tenant = c.num 64 2 % 1024) ∧
    (∀ n, c.src = .fn (n + 1) → (quoteRequest c).fnNo = BitVec.ofNat 16 (n + 1) ∧ (quoteRequest c).tenant = n) ∧
    (∀ i, c.src = .session i → (quoteRequest c).fnNo = 0xFFFF ∧ (quoteRequest c).tenant = c.num 64 2 % 1024) := by
  unfold quoteRequest quoteFrom
  refine ⟨fun h => ?_, fun n h => ?_, fun i h => ?_⟩ <;> rw [h] <;> exact ⟨rfl, rfl⟩

theorem secQuote_of_room {t : State} (hd : ¬ c.dataLen < 11628) (hl : ¬ 64 ≤ t.trust.quotes.length) :
    Sys2Proof.Machine.secQuote c t = (t.joinQuotes (quoteRequest c), none) := by
  unfold Sys2Proof.Machine.secQuote
  rw [if_neg hd, if_neg hl]
  dsimp only
  unfold quoteRequest quoteFrom
  cases c.src with
  | fn n => cases n <;> rfl
  | session i => rfl

theorem exec_secKeyRotate_of_named (h : s.Ready id 0x0802 c) (hn : c.src.mayNameTenant (c.num 32 2) = true) {t : State} {a : Ans}
    (ht : (match s.trust.live (c.num 32 2) with
      | [] => (s.markStarted id, some (bad 32))
      | [g] => (((s.markStarted id).createKey (c.num 32 2) ((g + 1) % 4)).rotateOut (c.num 32 2) g, some (ok (leBytes 1 ((g + 1) % 4))))
      | _ => (s.markStarted id, some (fail sBusy))) = (t, some a)) : exec (.secKeyRotate id) s = .next (t.finish id a) := by
  refine congrArg Host.Outcome.next (run_answers h rfl ?_)
  exact (if_neg (by rw [hn]; simp)).trans ht

end

/-- The request that TD_GO puts into the queue. -/
def mailRequest (t : Trust) : QuoteReq :=
  { asker := .mailbox, nonce := BitVec.ofNat 256 (leNat (t.nonce.flatMap bvBytes)), fnNo := 0xFFFF
    tenant := (field t.quoteTenant 0 10).toNat }

/-- Settles O42: the queue and the delivery of quotes by `deliverQuote_*`, keys by `rotate_head`, and the credential set by
`setCreds_leaves`. -/
theorem quotesKeysAndCredentials : Obligations.QuotesKeysAndCredentials := by
  unfold Obligations.QuotesKeysAndCredentials
  refine ⟨fun s => ⟨fun v hp hv => ⟨fun hl hm hq => ?_, fun hl hm hq => ?_, fun hfull => ?_⟩, fun v hv => ?_,
      fun id c h => ⟨fun hd hl => ?_, fun hd hl => ?_, fun hd => ?_⟩, fun hq dmaOk => ?_, fun q rest dmaOk hq => ⟨fun i k hk => ?_,
      fun hk ha => ?_, fun id hk ha => ?_⟩⟩,
    fun id c s => ⟨fun h hn => ⟨fun g hg => ?_, fun g h' r hg => ?_, fun hg => ?_⟩, fun h hn => ?_, fun h => ?_, fun data h hform hok => ?_,
      fun data h hno => ?_⟩⟩
  · refine ⟨mailRequest s.trust, rfl, rfl, congrArg Host.Outcome.next ((if_pos hp).trans ?_)⟩
    exact (if_neg (by rw [hv]; simp)).trans ((if_neg (by rw [hm]; simpa using hl)).trans (if_neg (by omega)))
  · refine congrArg Host.Outcome.next ((if_pos hp).trans ?_)
    exact (if_neg (by rw [hv]; simp)).trans ((if_neg (by rw [hm]; simpa using hl)).trans (if_pos hq))
  · refine ⟨_, congrArg Host.Outcome.next ((if_pos hp).trans ((if_neg (by rw [hv]; simp)).trans (if_pos hfull))), ?_⟩
    rw [tally_trust]
    exact ⟨rfl, rfl⟩
  · rcases hv with hv | hv
    · exact congrArg Host.Outcome.next (if_neg (by rw [hv]; simp))
    · refine congrArg Host.Outcome.next ((ite_congr rfl (fun _ => if_pos (by rw [hv]; rfl)) fun _ => rfl).trans (ite_self _))
  · obtain ⟨hpf, hvf, hsess⟩ := quoteRequest_from c
    have hid := cmd_id h.1
    exact ⟨quoteRequest c, congrArg QuoteFrom.cmd hid, rfl, hpf, hvf, hsess, congrArg Host.Outcome.next (run_begins h rfl
      (secQuote_of_room (t := s.markStarted id) (by omega) (Nat.not_le.mpr hl)))⟩
  · exact congrArg Host.Outcome.next (run_answers h rfl ((if_neg (by omega)).trans (if_pos hl)))
  · exact congrArg Host.Outcome.next (run_answers h rfl (if_pos hd))
  · change execQuoteDone dmaOk s = _
    unfold execQuoteDone
    rw [hq]
  · obtain ⟨hquotes, hattest⟩ := deliverQuote_stays (s.quoted rest k) q (s.quoteOf q i) dmaOk
    rw [quoted_trust] at hquotes hattest
    refine ⟨_, exec_quoteDone_of_index hq hk dmaOk, hattest, hquotes, fun ha => ?_, fun id c ha hc hm => ⟨fun n hs => ?_, fun n hs => ?_⟩⟩
    · have hdone := deliverQuote_mailbox (s.quoted rest k) ha (s.quoteOf q i) dmaOk
      rwa [show (s.quoted rest k).trust.quoteAddr = s.trust.quoteAddr by rw [quoted_trust]] at hdone
    · exact deliverQuote_session ha ((quoted_cmd s rest k id).trans hc) hm hs _ _
    · exact deliverQuote_fn ha ((quoted_cmd s rest k id).trans hc) hm hs _ _
  · rw [exec_quoteDone_of_none hq hk, ha]
  · rw [exec_quoteDone_of_none hq hk, ha]
  · refine ⟨_, exec_secKeyRotate_of_named h hn (by rw [hg]), ?_⟩
    rw [live_finish]
    exact rotate_head (s := s.markStarted id) hg
  · exact exec_secKeyRotate_of_named h hn (by rw [hg])
  · exact exec_secKeyRotate_of_named h hn (by rw [hg])
  · refine ⟨(s.trust.live (c.num 32 2)).foldl (fun n g => n ||| 2 ^ g) 0, fun g _ => ?_, congrArg Host.Outcome.next (run_answers h rfl ?_)⟩
    · rw [testBit_foldl_or]
      simp
    · exact congrArg (fun a => (s.markStarted id, some a)) (if_neg (by rw [hn]; simp))
  · exact congrArg Host.Outcome.next (run_answers h rfl rfl)
  · refine ⟨(s.markStarted id).setCreds c (credsOf (c.buffer data)), congrArg Host.Outcome.next (run_begins h rfl (if_pos ?_)), ?_⟩
    · rw [hform, hok]
      rfl
    · exact setCreds_leaves (s.markStarted id) c _
  · refine congrArg Host.Outcome.next (run_answers h rfl (if_neg ?_))
    rw [hno]
    simp

end Sys2Proof.Machine

/-! # The event recorder

A reply leaves the recorder alone; the records of a window and what a write of some of them leaves of the two areas
(14_event_recorder.md). -/

namespace Sys2Proof.Machine

open Sys2Proof

/-! ## Replies leave the recorder -/

theorem interrupt_rcd (s : State) (n v : Nat) : (s.interrupt n v).rcd = s.rcd := by
  unfold State.interrupt
  dsimp only
  repeat' split
  all_goals rfl

theorem writeReply_rcd (s : State) (n : Nat) (c : Cmd) (a : Ans) : (s.writeReply n c a).rcd = s.rcd := by
  have hdata : (s.dataSent c a).1.rcd = s.rcd := by
    unfold State.dataSent
    dsimp only
    repeat' split
    all_goals rfl
  rw [writeReply_eq, ← hdata]
  unfold State.putReply
  dsimp only
  repeat' split
  · rfl
  · rfl
  · exact interrupt_rcd _ _ _

theorem notice_rcd (s : State) (n slot : Nat) : (s.notice n slot).rcd = s.rcd := by
  unfold State.notice
  dsimp only
  repeat' split
  · rfl
  · rfl
  · exact writeReply_rcd _ _ _ _

theorem reply_rcd (s : State) (id : Nat) (a : Ans) : (s.reply id a).rcd = s.rcd := by
  unfold State.reply
  split
  · rfl
  · dsimp only
    repeat' split
    · rfl
    · rfl
    · exact (notice_rcd _ _ _).trans (writeReply_rcd (s.dropCmd id) _ _ _)
    · exact writeReply_rcd (s.dropCmd id) _ _ _

@[simp] theorem finish_rcd (s : State) (id : Nat) (a : Ans) : (s.finish id a).rcd = s.rcd := by
  unfold State.finish
  split
  · rfl
  · dsimp only
    repeat' split
    · exact reply_rcd s.journal _ _
    · rfl
    · exact reply_rcd _ _ _

/-! ## Writing records -/

/-- Records take the numbers in turn, and the last area keeps within its room (R499, R501). -/
theorem foldl_write (xs : List Rec) (r : Recorder) : (xs.foldl Recorder.write r).nextSeq = r.nextSeq + xs.length ∧
    (xs.foldl Recorder.write r).last.length ≤ max 65536 r.last.length := by
  induction xs generalizing r with
  | nil => exact ⟨rfl, Nat.le_max_right _ _⟩
  | cons x xs ih =>
    obtain ⟨hseq, hlen⟩ := ih (r.write x)
    have hone : (r.write x).last.length ≤ max 65536 r.last.length := by
      change ((if r.last.length < 65536 then r.last else r.last.drop 1) ++ [_]).length ≤ _
      rw [List.length_append, List.length_singleton]
      split
      · omega
      · rw [List.length_drop]
        omega
    rw [List.foldl_cons, hseq, List.length_cons]
    refine ⟨?_, by omega⟩
    change r.nextSeq + 1 + xs.length = _
    omega

/-- A window has at most 1,024 records (R506). -/
theorem records_length (l : LinkTiles) (w : Win) (cut : Bool) (dur : Nat) : (w.records l cut dur).length ≤ 1024 := by
  unfold Win.records
  dsimp only
  split
  · assumption
  · rw [List.length_append, List.length_take, List.length_singleton]
    omega

/-- The recorder once its window has closed (R505). -/
def State.closeWindow (s : State) (rs : List Rec) : State :=
  { s with rcd := { s.rcd.writeAll rs with win := s.freshWin, ckpt := none, older := none } }

theorem closeWindow_leaves (s : State) (rs : List Rec) : (s.closeWindow rs).rcd.nextSeq = s.rcd.nextSeq + rs.length ∧
    (s.closeWindow rs).rcd.win = s.freshWin ∧ (s.closeWindow rs).rcd.ckpt = none ∧
    (s.closeWindow rs).rcd.last.length ≤ max 65536 s.rcd.last.length := by
  obtain ⟨hseq, hlen⟩ := foldl_write rs s.rcd
  exact ⟨hseq, rfl, rfl, hlen⟩

/-- Both areas are cleared, and the CLEAR record is alone in each (R509). -/
theorem clearAreas_both (s : State) (k : Nat) : (s.clearAreas 3 k).rcd.first.length = 1 ∧ (s.clearAreas 3 k).rcd.last.length = 1 ∧
    ((s.clearAreas 3 k).rcd.last.map (·.kind)) = [5] ∧ ((s.clearAreas 3 k).rcd.last.map (·.seq)) = [s.rcd.nextSeq] :=
  ⟨rfl, rfl, rfl, rfl⟩

theorem sessionCred_of_session {s : State} {src : Source} {i : Nat} {x : Session} (hs : src = .session i)
    (hx : (s.trust.sessions.find? fun x => x.id == i) = some x) : s.sessionCred src = x.cred := by
  subst hs
  exact congrArg (fun o => Option.bind o fun x : Session => x.cred) hx

/-- Settles O43: the sample and the close by what `foldl_write` and `records_length` say; the commands ask or clear. -/
theorem recorderWindowsAndReads : Obligations.RecorderWindowsAndReads := by
  unfold Obligations.RecorderWindowsAndReads
  refine fun s => ⟨fun xs hs => ⟨s.sample xs, congrArg Host.Outcome.next (if_neg hs), rfl, ?_, ?_, fun hr x hx ht hh => ?_⟩,
    fun hr hm hne => ?_, fun hr => congrArg Host.Outcome.next (if_pos hr), fun id c h => congrArg Host.Outcome.next (run_answers h rfl rfl),
    fun id c h h1 h2 h3 => ?_, fun id c i x h hs hx hc => ?_, fun id c i x k h hs hx hc h3 => ?_⟩
  · change (if s.rcd.running = true then _ else s.rcd).first = _
    split <;> rfl
  · change (if s.rcd.running = true then _ else s.rcd).last = _
    split <;> rfl
  · subst hx
    change (if s.rcd.running = true then _ else s.rcd).win.hists = _
    rw [if_pos hr]
    change ([x].filter s.takesSample).foldl (fun hs x => addSample s.opS x hs) s.rcd.win.hists = _
    rw [hh, List.filter_cons_of_pos ht]
    rfl
  · have hdue : (s.rcd.running && s.opS % 3600 == 0 && s.opS != s.rcd.win.start) = true := by
      rw [hr, hm]
      simpa using hne
    obtain ⟨h1, h2, h3, h4⟩ := closeWindow_leaves s (s.rcd.win.records s.link false (s.opS - s.rcd.win.start))
    exact ⟨_, congrArg Host.Outcome.next (if_pos hdue), h1, h2, h3, h4, records_length _ _ _ _⟩
  · intro rs
    refine congrArg Host.Outcome.next (run_answers h rfl (congrArg (fun a => (s.markStarted id, some a)) ?_))
    exact (if_neg (by omega)).trans ((if_neg (by omega)).trans (if_neg (by omega)))
  · refine congrArg Host.Outcome.next (run_answers h rfl ?_)
    rw [sessionCred_of_session (s := s.markStarted id) hs hx, hc]
  · refine ⟨((s.markStarted id).clearAreas 3 k).finish id (ok []), congrArg Host.Outcome.next (run_answers h rfl ?_), ?_⟩
    · rw [sessionCred_of_session (s := s.markStarted id) hs hx, hc, h3]
      rfl
    · rw [finish_rcd]
      exact clearAreas_both (s.markStarted id) k

end Sys2Proof.Machine

/-! # The ember links: sending

A packet on a link changes that link's credits and cell stream and nothing else of the module; from that what each row sends
(15_standby_and_hotplug.md, The ember links; What is streamed, and when). -/

namespace Sys2Proof.Machine

open Sys2Proof

/-! ## A packet on a link -/

/-- What is put out for a packet on a link. -/
def Ember.sentAs (e : Ember) (k : Nat) (p : EmberPkt) : Emission :=
  .ember k (slotNo (e.tx k).next) (emberWord (e.dress k p)) (e.dress k p) (emberHop (e.dress k p))

/-- A link's own fields of the ember state change. -/
def Ember.onLink (e : Ember) (k : Nat) (c : Credit) (t : TxStream) : Ember := (e.setCredit k c).setTx k t

/-- The credits of a link once a packet has gone. -/
def Ember.spent (e : Ember) (k : Nat) (p : EmberPkt) : Credit :=
  { e.credit k with sent := (e.credit k).sent + BitVec.ofNat 16 (emberCells p) }

/-- The hop check of a dressed packet covers no field that comes after it. -/
theorem hop_dress (e : Ember) (k : Nat) (p : EmberPkt) : (e.dress k p).hop = emberHop (e.dress k p) := by
  unfold Ember.dress
  simp only [emberHop, emberWord, emberHead, emberCells, emberBytes]

theorem emberOn'_eq (s : State) (k : Nat) (p : EmberPkt) : s.emberOn' k p =
    (s.setEmber (s.ember.onLink k (s.ember.spent k p) ((s.ember.tx k).takeFrame (emberCells p)))).emit [s.ember.sentAs k p] := by
  unfold Ember.sentAs
  rw [← hop_dress]
  rfl

theorem onLink_frame (e : Ember) (k : Nat) (c : Credit) (t : TxStream) : e.onLink k c t =
    { e with credit0 := if k = 0 then c else e.credit0, credit1 := if k = 0 then e.credit1 else c
             tx0 := if k = 0 then t else e.tx0, tx1 := if k = 0 then e.tx1 else t } := by
  unfold Ember.onLink Ember.setCredit Ember.setTx
  by_cases hk : k = 0
  · simp only [if_pos hk]
  · simp only [if_neg hk]

theorem credit_onLink (e : Ember) (k : Nat) (c : Credit) (t : TxStream) : (e.onLink k c t).credit k = c := by
  rw [onLink_frame]
  unfold Ember.credit
  split <;> rfl

/-- The credits of the packet's link count its cells. -/
theorem credit_emberOn' (s : State) (k : Nat) (p : EmberPkt) :
    ((s.emberOn' k p).ember.credit k).sent = (s.ember.credit k).sent + BitVec.ofNat 16 (emberCells p) := by
  rw [emberOn'_eq]
  change ((s.ember.onLink k _ _).credit k).sent = _
  rw [credit_onLink]
  rfl

theorem emberOn'_out (s : State) (k : Nat) (p : EmberPkt) : (s.emberOn' k p).out = s.out ++ [s.ember.sentAs k p] := by
  rw [emberOn'_eq]
  rfl

/-- A packet on a link leaves the queues, the numbers and the grant. -/
theorem emberOn'_queues (s : State) (k : Nat) (p : EmberPkt) : (s.emberOn' k p).ember.txNext = s.ember.txNext ∧
    (s.emberOn' k p).ember.unacked = s.ember.unacked ∧ (s.emberOn' k p).ember.urgent = s.ember.urgent ∧
    (s.emberOn' k p).ember.image = s.ember.image ∧ (s.emberOn' k p).ember.pages = s.ember.pages ∧
    (s.emberOn' k p).ember.grant = s.ember.grant ∧ (s.emberOn' k p).ember.sinceAck = s.ember.sinceAck ∧
    (s.emberOn' k p).ember.ackTimer = s.ember.ackTimer := by
  rw [emberOn'_eq]
  change (s.ember.onLink k _ _).txNext = _ ∧ (s.ember.onLink k _ _).unacked = _ ∧ (s.ember.onLink k _ _).urgent = _ ∧
    (s.ember.onLink k _ _).image = _ ∧ (s.ember.onLink k _ _).pages = _ ∧ (s.ember.onLink k _ _).grant = _ ∧
    (s.ember.onLink k _ _).sinceAck = _ ∧ (s.ember.onLink k _ _).ackTimer = _
  rw [onLink_frame]
  exact ⟨rfl, rfl, rfl, rfl, rfl, rfl, rfl, rfl⟩

theorem emberOut_of_link {s : State} {k : Nat} {p : EmberPkt} (h : s.ember.link p = some k) : s.emberOut p = s.emberOn' k p := by
  unfold State.emberOut
  rw [h]

theorem emberOut_of_none {s : State} {p : EmberPkt} (h : s.ember.link p = none) : s.emberOut p = s := by
  unfold State.emberOut
  rw [h]

/-! ## Sending the next packet -/

/-- The ember state with a packet numbered and kept. -/
def Ember.numbered (e : Ember) (p : EmberPkt) : Ember :=
  { e with txNext := e.txNext + 1, unacked := e.unacked ++ [{ p with seq := e.txNext }]
           waits := e.waits ++ if p.type = 0x04 then [.stepDone (objectHeat p.object) (objectStep p.object)] else [] }

theorem emberNumber_of_link {s : State} {k : Nat} {p : EmberPkt} (h : s.ember.link p = some k) :
    s.emberNumber p = (s.setEmber (s.ember.numbered p)).emberOn' k { p with seq := s.ember.txNext } :=
  emberOut_of_link (s := s.setEmber (s.ember.numbered p)) (p := { p with seq := s.ember.txNext }) h

/-- What the sending of one packet leaves, of a packet that a queue gave. -/
structure State.SentNext (s t : State) (p : EmberPkt) (e : Ember) (k : Nat) : Prop where
  next : t.ember.txNext = s.ember.txNext + 1
  kept : t.ember.unacked = s.ember.unacked ++ [{ p with seq := s.ember.txNext }]
  cells : (t.ember.credit k).sent = (s.ember.credit k).sent + BitVec.ofNat 16 (emberCells p)
  queues : t.ember.urgent = e.urgent ∧ t.ember.image = e.image ∧ t.ember.pages = e.pages
  plain : p.type ≠ 0x0A → t.out = s.out ++ [s.ember.sentAs k { p with seq := s.ember.txNext }] ∧ t.ember.grant = s.ember.grant
  released : p.type = 0x0A → t.ember.grant = false ∧ t.ember.active = false ∧ Emission.i3c 8 [] ∈ t.out

/-- A queue has given its packet, and nothing else of the ember state has changed. -/
def Ember.GaveFrom (e e' : Ember) : Prop :=
  e' = { e with urgent := e'.urgent, image := e'.image, pages := e'.pages, pageTurn := e'.pageTurn }

/-- A packet under the number that it leaves with. -/
def Ember.numbers (e : Ember) (p : EmberPkt) : EmberPkt := { p with seq := e.txNext }

theorem sentNext {s : State} {e : Ember} {p : EmberPkt} {k : Nat} (he : s.ember.GaveFrom e) (hk : s.ember.link p = some k) :
    s.SentNext (if p.type = 0x0A then ((s.setEmber e).emberNumber p).releaseGrant else (s.setEmber e).emberNumber p) p e k := by
  have hlink : e.link p = some k := by
    rw [he]
    exact hk
  have hsent (q : EmberPkt) : e.sentAs k q = s.ember.sentAs k q := by
    rw [he]
    rfl
  have hcredit : e.credit k = s.ember.credit k := by
    rw [he]
    rfl
  have hnext : e.txNext = s.ember.txNext := by rw [he]
  have hkept : e.unacked = s.ember.unacked := by rw [he]
  have hgrant : e.grant = s.ember.grant := by rw [he]
  rw [emberNumber_of_link (s := s.setEmber e) hlink]
  have hq : e.numbers p = { p with seq := s.ember.txNext } := by
    unfold Ember.numbers
    rw [hnext]
  have hcred := credit_emberOn' ((s.setEmber e).setEmber (e.numbered p)) k (e.numbers p)
  obtain ⟨h1, h2, h3, h4, h5, h6, _⟩ := emberOn'_queues ((s.setEmber e).setEmber (e.numbered p)) k (e.numbers p)
  have hout := emberOn'_out ((s.setEmber e).setEmber (e.numbered p)) k (e.numbers p)
  change _ = e.txNext + 1 at h1
  change _ = e.unacked ++ [(e.numbers p)] at h2
  change _ = e.urgent at h3
  change _ = e.image at h4
  change _ = e.pages at h5
  change _ = e.grant at h6
  change _ = (e.credit k).sent + BitVec.ofNat 16 (emberCells p) at hcred
  change _ = s.out ++ [e.sentAs k (e.numbers p)] at hout
  rw [hnext] at h1
  rw [hkept] at h2
  rw [hgrant] at h6
  rw [hcredit] at hcred
  rw [hsent] at hout
  change State.SentNext s (if p.type = 0x0A then (((s.setEmber e).setEmber (e.numbered p)).emberOn' k (e.numbers p)).releaseGrant
    else ((s.setEmber e).setEmber (e.numbered p)).emberOn' k (e.numbers p)) p e k
  generalize ((s.setEmber e).setEmber (e.numbered p)).emberOn' k (e.numbers p) = t at h1 h2 h3 h4 h5 h6 hcred hout ⊢
  split
  · rename_i hty
    refine ⟨h1, hq ▸ h2, hcred, ⟨h3, h4, h5⟩, fun hn => absurd hty hn, fun _ => ⟨rfl, rfl, ?_⟩⟩
    exact List.mem_append_left _ (List.mem_append_right _ (List.mem_singleton_self _))
  · rename_i hty
    exact ⟨h1, hq ▸ h2, hcred, ⟨h3, h4, h5⟩, fun _ => ⟨hq ▸ hout, h6⟩, fun hn => absurd hn hty⟩

theorem exec_emberSend {s : State} {e : Ember} {p : EmberPkt} {k : Nat} (hon : s.emberOn = true) (ha : s.ember.active = true)
    (hn : s.ember.next = some (p, e)) (hk : s.ember.link p = some k) : exec .emberSend s =
      .next (if p.type = 0x0A then ((s.setEmber e).emberNumber p).releaseGrant else (s.setEmber e).emberNumber p) := by
  have hg : (s.emberOn && s.ember.active && s.ember.next.any fun x => (s.ember.link x.1).isSome) = true := by
    rw [hon, ha, hn]
    change (s.ember.link p).isSome = true
    rw [hk]
    rfl
  refine congrArg Host.Outcome.next ((if_pos hg).trans ?_)
  unfold State.emberSend
  rw [hn]

theorem exec_emberSend_of_idle {s : State} (h : ∀ p e, s.ember.next = some (p, e) → s.ember.link p = none) : exec .emberSend s = .next s := by
  refine congrArg Host.Outcome.next (if_neg ?_)
  cases hn : s.ember.next with
  | none => simp
  | some x =>
    rw [show (some x).any (fun x => (s.ember.link x.1).isSome) = (s.ember.link x.1).isSome from rfl, h x.1 x.2 hn]
    simp

/-- The state once a queue has given its packet: an urgent one first, then a piece of an image. -/
theorem next_of_queues {e : Ember} {p : EmberPkt} {r : List EmberPkt} (h : e.urgent = p :: r ∨ (e.urgent = [] ∧ e.image = p :: r)) :
    ∃ e', e.next = some (p, e') ∧ e.GaveFrom e' ∧ (e.urgent = p :: r → e'.urgent = r ∧ e'.image = e.image) ∧
      (e.urgent = [] → e'.urgent = [] ∧ e'.image = r) := by
  unfold Ember.next
  rcases h with h | ⟨h, hi⟩
  · refine ⟨{ e with urgent := r }, by rw [h], rfl, fun _ => ⟨rfl, rfl⟩, fun hn => ?_⟩
    rw [h] at hn
    cases hn
  · refine ⟨{ e with image := r }, by rw [h, hi], rfl, fun hn => ?_, fun _ => ⟨h, rfl⟩⟩
    rw [h] at hn
    cases hn

theorem takeFirst_of_mem {α : Type} {p : α → Bool} {l : List α} (h : ∃ x ∈ l, p x = true) :
    ∃ x rest, takeFirst p l = some (x, rest) ∧ x ∈ l ∧ rest.length + 1 = l.length := by
  induction l with
  | nil => simp at h
  | cons y r ih =>
    unfold takeFirst
    by_cases hy : p y = true
    · rw [if_pos hy]
      exact ⟨y, r, rfl, List.mem_cons_self, rfl⟩
    · obtain ⟨z, hz, hpz⟩ := h
      obtain ⟨x, rest, hx, hmem, hlen⟩ := ih ⟨z, (List.mem_cons.mp hz).resolve_left fun he => hy (he ▸ hpz), hpz⟩
      rw [if_neg hy, hx]
      exact ⟨x, y :: rest, rfl, List.mem_cons_of_mem _ hmem, congrArg (· + 1) hlen⟩

/-- While packets of saved steps wait, one of them is next. -/
theorem nextPage_of_some (turn : Nat) {l : List EmberPkt} (h : l ≠ []) :
    ∃ p rest n, nextPage turn l = some (p, rest, n) ∧ p ∈ l ∧ rest.length + 1 = l.length := by
  obtain ⟨q, hq⟩ := List.exists_mem_of_ne_nil l h
  obtain ⟨heats, hheats⟩ : ∃ m, m = sortNat ((l.map fun p => objectHeat p.object).eraseDups) := ⟨_, rfl⟩
  have hmem (n : Nat) : n ∈ heats ↔ ∃ p ∈ l, objectHeat p.object = n := by
    rw [hheats, mem_sortNat, List.mem_eraseDups, List.mem_map]
  have hsome : ∃ n, ((heats.find? fun h => turn < h).orElse fun _ => heats.head?) = some n ∧ n ∈ heats := by
    cases hf : heats.find? fun h => turn < h with
    | some n => exact ⟨n, rfl, List.mem_of_find?_eq_some hf⟩
    | none =>
      have hne : heats ≠ [] := List.ne_nil_of_mem ((hmem _).mpr ⟨q, hq, rfl⟩)
      exact ⟨heats.head hne, List.head?_eq_some_head hne, List.head_mem hne⟩
  obtain ⟨n, hn, hnm⟩ := hsome
  obtain ⟨p, hp, hpn⟩ := (hmem n).mp hnm
  obtain ⟨x, rest, hx, hxm, hlen⟩ := takeFirst_of_mem (p := fun p : EmberPkt => objectHeat p.object == n) ⟨p, hp, beq_iff_eq.mpr hpn⟩
  refine ⟨x, rest, n, ?_, hxm, hlen⟩
  unfold nextPage
  dsimp only
  rw [← hheats, hn]
  dsimp only
  rw [hx]
  rfl

theorem next_of_pages {e : Ember} (hu : e.urgent = []) (hi : e.image = []) (hp : e.pages ≠ []) :
    ∃ p e', e.next = some (p, e') ∧ e.GaveFrom e' ∧ p ∈ e.pages ∧ e'.pages.length + 1 = e.pages.length := by
  obtain ⟨p, rest, n, hn, hmem, hlen⟩ := nextPage_of_some e.pageTurn hp
  refine ⟨p, { e with pages := rest, pageTurn := n }, ?_, rfl, hmem, hlen⟩
  unfold Ember.next
  rw [hu, hi]
  dsimp only
  rw [hn]
  rfl

theorem next_of_empty {e : Ember} (hu : e.urgent = []) (hi : e.image = []) (hp : e.pages = []) : e.next = none := by
  unfold Ember.next
  rw [hu, hi, hp]
  rfl

/-! ## Acknowledgement, resending, heartbeats -/

theorem exec_emberAckTimer {s : State} {k : Nat} (hon : s.emberOn = true) (ht : s.ember.ackTimer = true) (hr : s.ember.rxNext ≠ 0)
    (hk : s.ember.link (s.ember.answer 0x09 (BitVec.ofNat 64 (s.ember.rxNext - 1))) = some k) : ∃ t, exec .emberAckTimer s = .next t ∧
      t.ember.sinceAck = 0 ∧ t.ember.ackTimer = false ∧
      t.out = s.out ++ [s.ember.sentAs k (s.ember.answer 0x09 (BitVec.ofNat 64 (s.ember.rxNext - 1)))] := by
  let ack := s.ember.answer 0x09 (BitVec.ofNat 64 (s.ember.rxNext - 1))
  let u := s.setEmber { s.ember with sinceAck := 0, ackTimer := false }
  refine ⟨u.emberOn' k ack, congrArg Host.Outcome.next ((if_pos (by rw [hon, ht]; rfl)).trans ?_), ?_⟩
  · unfold State.sendEmberAck
    exact (if_neg hr).trans (emberOut_of_link (s := u) (p := ack) hk)
  · obtain ⟨_, _, _, _, _, _, h7, h8⟩ := emberOn'_queues u k ack
    exact ⟨h7, h8, emberOn'_out u k ack⟩

theorem exec_emberResendExpire {s : State} (hon : s.emberOn = true) (n : Nat) : exec (.emberResendExpire n) s =
    .next (match s.ember.unacked.find? fun p => p.seq == n with
      | some p => s.emberOut p
      | none => s) := congrArg Host.Outcome.next (if_pos hon)

/-- A heartbeat on the lower link changes nothing of the other. -/
theorem emberOn'_other (s : State) (p : EmberPkt) : (s.emberOn' 0 p).ember.credit 1 = s.ember.credit 1 ∧
    (s.emberOn' 0 p).ember.tx 1 = s.ember.tx 1 ∧ (s.emberOn' 0 p).ember.up1 = s.ember.up1 := ⟨rfl, rfl, rfl⟩

/-- The heartbeat's packets on the links that take them. -/
def State.heartbeats (s : State) (p : EmberPkt) : State := [0, 1].foldl (fun s k => if s.ember.holds k p then s.emberOn' k p else s) s

theorem exec_emberHeartbeatSend {s : State} (hon : s.emberOn = true) :
    exec .emberHeartbeatSend s = .next (s.heartbeats (s.ember.answer 0x08 s.lap)) := congrArg Host.Outcome.next (if_pos hon)

theorem heartbeats_sent (s : State) (p : EmberPkt) {k : Nat} (hk : k < 2) (h : s.ember.holds k p = true) :
    s.ember.sentAs k p ∈ (s.heartbeats p).out := by
  unfold State.heartbeats
  rw [List.foldl_cons, List.foldl_cons, List.foldl_nil]
  generalize hu : (if s.ember.holds 0 p = true then s.emberOn' 0 p else s) = u
  have hlast (e : Emission) (he : e ∈ u.out) : e ∈ (if u.ember.holds 1 p = true then u.emberOn' 1 p else u).out := by
    split
    · rw [emberOn'_out]
      exact List.mem_append_left _ he
    · exact he
  obtain rfl | rfl : k = 0 ∨ k = 1 := by omega
  · refine hlast _ ?_
    rw [← hu, if_pos h, emberOn'_out]
    exact List.mem_append_right _ (List.mem_singleton_self _)
  · have hother : u.ember.holds 1 p = s.ember.holds 1 p ∧ u.ember.sentAs 1 p = s.ember.sentAs 1 p := by
      rw [← hu]
      split
      · exact ⟨rfl, rfl⟩
      · exact ⟨rfl, rfl⟩
    rw [hother.1, if_pos h, emberOn'_out, hother.2]
    exact List.mem_append_right _ (List.mem_singleton_self _)

theorem heartbeats_none (s : State) (p : EmberPkt) (h : ∀ k, k < 2 → s.ember.holds k p = false) : s.heartbeats p = s := by
  unfold State.heartbeats
  rw [List.foldl_cons, List.foldl_cons, List.foldl_nil, if_neg (ne_true_of_eq_false (h 0 (by omega))),
    if_neg (ne_true_of_eq_false (h 1 (by omega)))]

/-! ## A lost standby -/

/-- What waited for a lost standby is given up: the replies leave, and the rest goes. -/
theorem dropEmberWaits_ember (s : State) : s.dropEmberWaits.ember =
    { s.ember with waits := [], urgent := [], image := [], pages := [], streaming := [], abandons := [] } := by
  unfold State.dropEmberWaits
  dsimp only
  have hout := Outward.foldl (fun s w => match w with
    | .cmd _ _ id n result => s.reply id { ok result with bytes := n }
    | _ => s) (fun s t w k => by
      dsimp only
      split
      · exact k.reply _ _
      · exact k) s.ember.waits
    (.refl (s.setEmber { s.ember with waits := [], urgent := [], image := [], pages := [], streaming := [], abandons := [] }))
  obtain ⟨_, _, _, _, _, h⟩ := hout.rest
  exact h

theorem exec_emberLostTimer {s : State} (hon : s.emberOn = true) (h0 : s.ember.up0 = false) (h1 : s.ember.up1 = false)
    (hp : s.ember.paired = true) (hn : s.ember.state ≠ .none) (hl : s.ember.state ≠ .lost) :
    exec .emberLostTimer s = .next s.emberLost := by
  have hg : (s.emberOn && !s.ember.up0 && !s.ember.up1 && s.ember.paired && s.ember.state != .none && s.ember.state != .lost) = true := by
    rw [hon, h0, h1, hp]
    simp [hn, hl]
  exact congrArg Host.Outcome.next (if_pos hg)

/-- Settles O44: what leaves by `sentNext`, and the rows of the links and of a lost standby one by one. -/
theorem emberSending : Obligations.EmberSending := by
  unfold Obligations.EmberSending
  refine ⟨fun s hon => ⟨fun k p r ha hq hk => ?_, fun p r hq hk => ?_, fun ha hu hi hp hlink => ?_, fun hu hi hp => ?_,
      fun k ht hr hk => exec_emberAckTimer hon ht hr hk, fun n p hf => ⟨fun k hk => ?_, fun hk => ?_⟩, fun n hf => ?_, ?_, fun h => ?_⟩,
    fun s => ⟨rfl, rfl, fun hup => ?_, fun hon h0 h1 hp hn hl => ⟨fun hs => ?_, fun hs => ?_⟩, fun hh hg ht => ?_⟩⟩
  · obtain ⟨e, hnext, hgave, hurg, himg⟩ := next_of_queues hq
    obtain ⟨h1, h2, h3, ⟨h4, h5, _⟩, h6, h7⟩ := sentNext hgave hk
    refine ⟨_, exec_emberSend hon ha hnext hk, h1, h2, h3, fun hu => ?_, fun hu => ?_, h6, h7⟩
    · rw [h4, h5]
      exact hurg hu
    · rw [h4, h5]
      exact himg hu
  · obtain ⟨e, hnext, _⟩ := next_of_queues hq
    refine exec_emberSend_of_idle fun p' e' hn => ?_
    cases hnext.symm.trans hn
    exact hk
  · obtain ⟨p, e, hnext, hgave, hmem, hlen⟩ := next_of_pages hu hi hp
    obtain ⟨k, hk⟩ := Option.isSome_iff_exists.mp (hlink p hmem)
    obtain ⟨h1, h2, _, ⟨_, _, h5⟩, _⟩ := sentNext hgave hk
    exact ⟨_, exec_emberSend hon ha hnext hk, h1, by rw [h5, hlen], p, hmem, h2⟩
  · refine exec_emberSend_of_idle fun p' e' hn => ?_
    rw [next_of_empty hu hi hp] at hn
    cases hn
  · obtain ⟨h1, h2, _⟩ := emberOn'_queues s k p
    refine ⟨s.emberOn' k p, ?_, emberOn'_out s k p, h2, h1, credit_emberOn' s k p⟩
    rw [exec_emberResendExpire hon, hf]
    exact congrArg Host.Outcome.next (emberOut_of_link hk)
  · rw [exec_emberResendExpire hon, hf]
    exact congrArg Host.Outcome.next (emberOut_of_none hk)
  · rw [exec_emberResendExpire hon, hf]
  · exact ⟨_, exec_emberHeartbeatSend hon, fun k hk hh => heartbeats_sent s _ hk hh⟩
  · rw [exec_emberHeartbeatSend hon, heartbeats_none s _ h]
  · refine congrArg Host.Outcome.next (if_neg ?_)
    rcases hup with hup | hup <;> rw [hup] <;> simp
  · rw [exec_emberLostTimer hon h0 h1 hp hn hl]
    exact congrArg Host.Outcome.next (if_pos hs)
  · refine ⟨s.emberLost, exec_emberLostTimer hon h0 h1 hp hn hl, ?_⟩
    unfold State.emberLost
    rw [if_neg hs]
    dsimp only
    rw [dropEmberWaits_ember]
    refine ⟨?_, rfl, rfl, rfl, rfl⟩
    change (if s.ember.grant = true then _ else _ : Ember).state = .lost
    split <;> rfl
  · exact congrArg Host.Outcome.next (if_pos (by rw [hh, hg, ht]; rfl))

end Sys2Proof.Machine

/-! # The ember links: receiving

What hearing a packet and counting its number change, and from that what each kind of packet leaves at a standby and at the active
(15_standby_and_hotplug.md, The ember links; What is streamed, and when; Takeover). -/

namespace Sys2Proof.Machine

open Sys2Proof

/-! ## Hearing and counting -/

/-- Only what belongs to the links has changed: which are up, their credits and cell streams, and the numbers received. -/
def Ember.LinksMove (e e' : Ember) : Prop :=
  e' = { e with up0 := e'.up0, up1 := e'.up1, credit0 := e'.credit0, credit1 := e'.credit1, tx0 := e'.tx0, tx1 := e'.tx1
                rxNext := e'.rxNext, rxAhead := e'.rxAhead, sinceAck := e'.sinceAck, ackTimer := e'.ackTimer }

theorem Ember.LinksMove.refl {e : Ember} : e.LinksMove e := rfl

theorem Ember.LinksMove.trans {e f g : Ember} (h : e.LinksMove f) (k : f.LinksMove g) : e.LinksMove g := by
  unfold Ember.LinksMove at *
  rw [k, h]

/-- What the links' movement leaves of the stored objects. -/
theorem Ember.LinksMove.stored {e e' : Ember} (h : e.LinksMove e') : e'.slotA = e.slotA ∧ e'.journalRx = e.journalRx ∧
    e'.mirrorA = e.mirrorA ∧ e'.mirrorB = e.mirrorB ∧ e'.keys = e.keys ∧ e'.configRx = e.configRx ∧ e'.handover = e.handover ∧
    e'.newest = e.newest := by
  unfold Ember.LinksMove at h
  rw [h]
  exact ⟨rfl, rfl, rfl, rfl, rfl, rfl, rfl, rfl⟩

theorem Ember.LinksMove.standing {e e' : Ember} (h : e.LinksMove e') : e'.state = e.state ∧ e'.taking = e.taking ∧ e'.grant = e.grant ∧
    e'.unacked = e.unacked ∧ e'.waits = e.waits ∧ e'.abandons = e.abandons := by
  unfold Ember.LinksMove at h
  rw [h]
  exact ⟨rfl, rfl, rfl, rfl, rfl, rfl⟩

theorem hear_frame (e : Ember) (l : Nat) (p : EmberPkt) : e.hear l p =
    { e with up0 := (e.hear l p).up0, up1 := (e.hear l p).up1, credit0 := (e.hear l p).credit0, credit1 := (e.hear l p).credit1 } := by
  unfold Ember.hear Ember.setCredit
  dsimp only
  by_cases hl : l = 0 <;> simp only [hl, if_true, if_false]

theorem hear_moves (e : Ember) (l : Nat) (p : EmberPkt) : e.LinksMove (e.hear l p) := by
  unfold Ember.LinksMove
  rw [hear_frame]

/-- The link that a packet has come on is up, and the peer's count is known. -/
theorem hear_up (e : Ember) (l : Nat) (p : EmberPkt) : (if l = 0 then (e.hear l p).up0 else (e.hear l p).up1) = true ∧
    ((e.hear l p).credit l).freedSeen = p.freed := by
  unfold Ember.hear Ember.setCredit Ember.credit
  dsimp only
  by_cases hl : l = 0 <;> simp [hl]

theorem onLink_moves (e : Ember) (k : Nat) (c : Credit) (t : TxStream) : e.LinksMove (e.onLink k c t) := by
  rw [onLink_frame]
  rfl

/-- Nothing but the ember state and what is put out has changed. -/
def State.EmberOut (s t : State) : Prop := t = { s with ember := t.ember, out := t.out }

theorem sendEmberAck_moves (s : State) : s.EmberOut s.sendEmberAck ∧ s.ember.LinksMove s.sendEmberAck.ember ∧
    s.sendEmberAck.ember.rxNext = s.ember.rxNext := by
  unfold State.sendEmberAck
  dsimp only
  split
  · exact ⟨rfl, rfl, rfl⟩
  · unfold State.emberOut
    split
    · rw [emberOn'_eq]
      refine ⟨rfl, Ember.LinksMove.trans (f := { s.ember with sinceAck := 0, ackTimer := false }) rfl (onLink_moves _ _ _ _), ?_⟩
      change (Ember.onLink _ _ _ _).rxNext = _
      rw [onLink_frame]
      rfl
    · exact ⟨rfl, rfl, rfl⟩

theorem gapless_moves (n : Nat) (e : Ember) : e.LinksMove (Ember.gapless n e) := by
  induction n generalizing e with
  | zero => exact .refl
  | succ n ih =>
    unfold Ember.gapless
    split
    · exact Ember.LinksMove.trans (f := { e with rxNext := e.rxNext + 1, rxAhead := e.rxAhead.filter (· != e.rxNext) }) rfl (ih _)
    · exact .refl

/-- Counting a number received moves the links alone. -/
theorem countRx_moves (s : State) (seq : Nat) : s.EmberOut (s.countRx seq) ∧ s.ember.LinksMove (s.countRx seq).ember := by
  unfold State.countRx
  dsimp only
  let e : Ember := { s.ember with rxAhead := sortNat (seq :: s.ember.rxAhead), sinceAck := s.ember.sinceAck + 1, ackTimer := true }
  have hmove : s.ember.LinksMove (Ember.gapless (e.rxAhead.length + 1) e) := Ember.LinksMove.trans (f := e) rfl (gapless_moves _ _)
  split
  · obtain ⟨hout, hack, _⟩ := sendEmberAck_moves (s.setEmber (Ember.gapless (e.rxAhead.length + 1) e))
    refine ⟨?_, hmove.trans hack⟩
    unfold State.EmberOut at hout ⊢
    rw [hout]
    rfl
  · exact ⟨rfl, hmove⟩

/-- The number that was waited for advances what ACK names. -/
theorem countRx_next {s : State} (h : s.ember.rxAhead = []) : (s.countRx s.ember.rxNext).ember.rxNext = s.ember.rxNext + 1 := by
  unfold State.countRx
  dsimp only
  have hgap : (Ember.gapless ((sortNat (s.ember.rxNext :: s.ember.rxAhead)).length + 1)
      { s.ember with rxAhead := sortNat (s.ember.rxNext :: s.ember.rxAhead), sinceAck := s.ember.sinceAck + 1, ackTimer := true }).rxNext =
        s.ember.rxNext + 1 := by
    rw [h]
    have hone : sortNat [s.ember.rxNext] = [s.ember.rxNext] := rfl
    rw [hone]
    simp [Ember.gapless]
  split
  · rw [(sendEmberAck_moves _).2.2]
    exact hgap
  · exact hgap

/-! ## Taking a packet -/

section
variable {s : State} {l : Nat} {p : EmberPkt} {type : BitVec 8}

theorem hears_iff : s.hears l p type = true ↔ s.emberOn = true ∧ l < 2 ∧ p.type = type ∧ p.hop = emberHop p ∧ p.crc = emberCrc p := by
  simp only [State.hears, Bool.and_eq_true, decide_eq_true_eq, beq_iff_eq, and_assoc]

/-- The state in which a packet is looked at: its link has been heard. -/
def State.heard (s : State) (l : Nat) (p : EmberPkt) : State := s.setEmber (s.ember.hear l p)

theorem resync_of_kept (h : s.ember.state ≠ .lost) : s.resync = s := if_pos h

theorem heard_resync (h : s.ember.state ≠ .lost) : (s.setEmber (s.ember.hear l p)).resync = s.heard l p := by
  refine resync_of_kept ?_
  rw [show (s.setEmber (s.ember.hear l p)).ember.state = s.ember.state from (hear_moves s.ember l p).standing.1]
  exact h

theorem meetPartner_of_paired (h : s.boot.stage ≠ .standby ∨ s.ember.paired = true) : s.meetPartner = s := by
  refine if_neg ?_
  rcases h with h | h <;> simp [h]

theorem emberTake_of_new (hh : s.hears l p type = true) (hm : s.boot.stage ≠ .standby ∨ s.ember.paired = true)
    (hl : s.ember.state ≠ .lost) (hr : s.ember.rxNext ≤ p.seq) (ha : p.seq ∉ s.ember.rxAhead) (f : State → State) :
    s.emberTake l p type f = (f (s.heard l p)).countRx p.seq := by
  unfold State.emberTake
  rw [if_neg (by rw [hh]; simp), meetPartner_of_paired hm, heard_resync hl]
  have hframe := hear_frame s.ember l p
  refine if_neg ?_
  have h1 : (s.heard l p).ember.rxNext = s.ember.rxNext := by
    change (s.ember.hear l p).rxNext = _
    rw [hframe]
  have h2 : (s.heard l p).ember.rxAhead = s.ember.rxAhead := by
    change (s.ember.hear l p).rxAhead = _
    rw [hframe]
  rw [h1, h2, Bool.or_eq_true, decide_eq_true_eq, List.contains_iff_mem]
  exact fun h => h.elim (by omega) ha

theorem standbyTake_of_unheard (h : s.hears l p type = false) (f : State → State) : s.standbyTake l p type f = s := by
  unfold State.standbyTake State.emberTake
  rw [h]
  split <;> rfl

end

/-- What the statement supposes of a standby that a packet has reached. -/
structure State.Expects (s : State) (l : Nat) (p : EmberPkt) (type : BitVec 8) : Prop where
  stage : s.boot.stage = .standby
  hears : s.hears l p type = true
  paired : s.ember.paired = true
  kept : s.ember.state ≠ .lost
  fresh : s.ember.rxNext ≤ p.seq
  single : p.seq ∉ s.ember.rxAhead

section
variable {s : State} {l : Nat} {p : EmberPkt} {type : BitVec 8}

/-- What a standby holds once it has stored a packet is what the row gives, but for what belongs to the links; the number that was
waited for advances what ACK names. -/
theorem standbyTake_stores (h : s.Expects l p type) {g : State → State} {e : Ember} (hg : g (s.heard l p) = (s.heard l p).setEmber e) :
    e.LinksMove (s.standbyTake l p type g).ember ∧ (e.rxNext = s.ember.rxNext → e.rxAhead = s.ember.rxAhead →
      p.seq = s.ember.rxNext → s.ember.rxAhead = [] → (s.standbyTake l p type g).ember.rxNext = s.ember.rxNext + 1) := by
  unfold State.standbyTake
  rw [if_pos h.stage, emberTake_of_new h.hears (.inr h.paired) h.kept h.fresh h.single, hg]
  obtain ⟨_, hmove⟩ := countRx_moves ((s.heard l p).setEmber e) p.seq
  refine ⟨hmove, fun hnext hahead hseq hnil => ?_⟩
  have hone := countRx_next (s := (s.heard l p).setEmber e) (hahead.trans hnil)
  rw [hseq, ← hnext]
  exact hone

/-- The numbers received stand as before while a packet is stored. -/
theorem hear_numbers (e : Ember) (l : Nat) (p : EmberPkt) : (e.hear l p).rxNext = e.rxNext ∧ (e.hear l p).rxAhead = e.rxAhead := by
  rw [hear_frame]
  exact ⟨rfl, rfl⟩

end

/-! ## What each kind of packet leaves -/

theorem trimMirrors_frame (e : Ember) : e.trimMirrors = { e with mirrorA := e.trimMirrors.mirrorA, mirrorB := e.trimMirrors.mirrorB } := rfl

theorem trimJournal_frame (e : Ember) : e.trimJournal = { e with journalRx := e.trimJournal.journalRx } := by
  unfold Ember.trimJournal
  split <;> rfl

/-- An image piece changes the image slots, what of the journal and the mirrors they still need, and the state. -/
theorem putImage_frame (e : Ember) (p : EmberPkt) : (e.putImage p).keys = e.keys ∧ (e.putImage p).configRx = e.configRx ∧
    (e.putImage p).rxNext = e.rxNext ∧ (e.putImage p).rxAhead = e.rxAhead := by
  have htrim (x : Ember) : x.trimJournal.trimMirrors.keys = x.keys ∧ x.trimJournal.trimMirrors.configRx = x.configRx ∧
      x.trimJournal.trimMirrors.rxNext = x.rxNext ∧ x.trimJournal.trimMirrors.rxAhead = x.rxAhead := by
    rw [trimMirrors_frame, trimJournal_frame]
    exact ⟨rfl, rfl, rfl, rfl⟩
  unfold Ember.putImage
  dsimp only
  split
  · exact ⟨rfl, rfl, rfl, rfl⟩
  · split <;> split <;> exact htrim _

/-- With no whole image yet a new piece of the image under way is added to slot A. -/
theorem putImage_adds {e : Ember} {p : EmberPkt} (hn : e.newest = none) (ho : e.slotA.number = p.object)
    (hp : ∀ y ∈ e.slotA.pieces, y.1 ≠ p.offset) : (e.putImage p).slotA.pieces = e.slotA.pieces ++ [(p.offset, p.payload)] := by
  have hput : (e.slotA.put p).pieces = e.slotA.pieces ++ [(p.offset, p.payload)] := by
    have hany : (e.slotA.pieces.any fun y => y.1 == p.offset) = false := by
      rw [List.any_eq_false]
      exact fun y hy => by simpa using hp y hy
    unfold ImageSlot.put
    dsimp only
    rw [if_pos ho, hany]
    split <;> rfl
  have htrim (x : Ember) : x.trimJournal.trimMirrors.slotA = x.slotA := by
    rw [trimMirrors_frame, trimJournal_frame]
  unfold Ember.putImage Ember.newestSlot
  dsimp only
  rw [hn]
  simp only [Option.map_none, Option.any_none, Bool.false_eq_true, if_false, reduceCtorEq, beq_iff_eq]
  split
  · exact (congrArg ImageSlot.pieces (htrim _)).trans hput
  · exact (congrArg ImageSlot.pieces (htrim _)).trans hput

theorem putJournal_frame (e : Ember) (p : EmberPkt) : (e.putJournal p).rxNext = e.rxNext ∧ (e.putJournal p).rxAhead = e.rxAhead := by
  unfold Ember.putJournal
  split <;> exact ⟨rfl, rfl⟩

theorem putJournal_adds {e : Ember} {p : EmberPkt} (hn : e.newest = none)
    (hp : ∀ q ∈ e.journalRx, ¬(q.object = p.object ∧ q.offset = p.offset)) : (e.putJournal p).journalRx = e.journalRx ++ [p] := by
  have hany : (e.journalRx.any fun q => q.object == p.object && q.offset == p.offset) = false := by
    rw [List.any_eq_false]
    exact fun q hq => by simpa using hp q hq
  unfold Ember.putJournal Ember.newestSlot
  rw [hn, hany]
  rfl

theorem onMirror_frame (e : Ember) (no step seq : Nat) (f : Mirror → Mirror) : (e.onMirror no step seq f).rxNext = e.rxNext ∧
    (e.onMirror no step seq f).rxAhead = e.rxAhead := by
  unfold Ember.onMirror
  dsimp only
  split
  · exact ⟨rfl, rfl⟩
  · split <;> exact ⟨rfl, rfl⟩

/-- A heat with no mirror slot gets one. -/
theorem onMirror_fresh {e : Ember} {no : Nat} (ha : tget e.mirrorA no = none) (hb : tget e.mirrorB no = none) (step seq : Nat)
    (f : Mirror → Mirror) : tget (e.onMirror no step seq f).mirrorA no = some (f (Mirror.fresh step seq)) := by
  unfold Ember.onMirror Ember.intoB
  rw [ha, hb]
  exact tget_tset_self _ _ _

/-- The slot that is filling takes the next packet of its step. -/
theorem onMirror_filling {e : Ember} {no : Nat} {m : Mirror} (ha : tget e.mirrorA no = some m) (hb : tget e.mirrorB no = none)
    {step : Nat} (hs : m.step = step) (hc : m.complete = false) (seq : Nat) (f : Mirror → Mirror) :
    tget (e.onMirror no step seq f).mirrorA no = some (f m) := by
  unfold Ember.onMirror Ember.intoB
  rw [ha, hb]
  simp only [List.any_cons, List.any_nil, Option.any_some, Option.any_none, hs, hc, bne_self_eq_false, Bool.false_and, Bool.or_self,
    Bool.or_false, Bool.false_eq_true, if_false, Bool.not_false, Bool.and_true, decide_true, if_true]
  exact tget_tset_self _ _ _

/-- No mirror that is kept holds a page under the key. -/
theorem mirrorsWithout_key {key : Nat} {t : Tab Mirror} {x : Nat × Mirror} (hx : x ∈ mirrorsWithout key t) :
    ∀ y ∈ x.2.pages, Config.pageKey x.1 x.2.step y.1.toNat ≠ key := by
  have h := (List.mem_filter.mp hx).2
  rw [Bool.not_eq_true', List.any_eq_false] at h
  exact fun y hy => by simpa using h y hy

/-! ## The standby's rows -/

section
variable {s : State} {l : Nat} {p : EmberPkt}

theorem exec_fabric_stores (h : s.Expects l p 0x01) : ∃ t, exec (.fabric l p) s = .next t ∧
    (p.seq = s.ember.rxNext → s.ember.rxAhead = [] → t.ember.rxNext = s.ember.rxNext + 1) ∧
    (s.ember.newest = none → s.ember.slotA.number = p.object → (∀ y ∈ s.ember.slotA.pieces, y.1 ≠ p.offset) →
      t.ember.slotA.pieces = s.ember.slotA.pieces ++ [(p.offset, p.payload)]) ∧
    t.ember.keys = s.ember.keys ∧ t.ember.configRx = s.ember.configRx := by
  obtain ⟨hmove, hnum⟩ := standbyTake_stores h (g := fun s => s.setEmber (s.ember.putImage p))
    (e := (s.ember.hear l p).putImage p) rfl
  obtain ⟨hA, _, _, _, hkeys, hcfg, _⟩ := hmove.stored
  obtain ⟨hA0, _, _, _, hkeys0, hcfg0, _, hnew⟩ := (hear_moves s.ember l p).stored
  obtain ⟨hk, hc, hr1, hr2⟩ := putImage_frame (s.ember.hear l p) p
  obtain ⟨hn1, hn2⟩ := hear_numbers s.ember l p
  refine ⟨_, rfl, hnum (hr1.trans hn1) (hr2.trans hn2), fun hn ho hp => ?_, (hkeys.trans hk).trans hkeys0, (hcfg.trans hc).trans hcfg0⟩
  rw [hA, putImage_adds (hnew.trans hn) (by rw [hA0]; exact ho) (by rw [hA0]; exact hp), hA0]

theorem exec_journal_stores (h : s.Expects l p 0x02) : ∃ t, exec (.journal l p) s = .next t ∧
    (p.seq = s.ember.rxNext → s.ember.rxAhead = [] → t.ember.rxNext = s.ember.rxNext + 1) ∧
    (s.ember.newest = none → (∀ q ∈ s.ember.journalRx, ¬(q.object = p.object ∧ q.offset = p.offset)) →
      t.ember.journalRx = s.ember.journalRx ++ [p]) := by
  obtain ⟨hmove, hnum⟩ := standbyTake_stores h (g := fun s => s.setEmber (s.ember.putJournal p))
    (e := (s.ember.hear l p).putJournal p) rfl
  obtain ⟨_, hJ, _⟩ := hmove.stored
  obtain ⟨_, hJ0, _, _, _, _, _, hnew⟩ := (hear_moves s.ember l p).stored
  obtain ⟨hr1, hr2⟩ := putJournal_frame (s.ember.hear l p) p
  obtain ⟨hn1, hn2⟩ := hear_numbers s.ember l p
  refine ⟨_, rfl, hnum (hr1.trans hn1) (hr2.trans hn2), fun hn hp => ?_⟩
  rw [hJ, putJournal_adds (hnew.trans hn) (by rw [hJ0]; exact hp), hJ0]

/-- A packet for the mirrors changes the slot that takes its heat's step. -/
theorem standbyTake_mirror {type : BitVec 8} (h : s.Expects l p type) (no step : Nat) (f : Mirror → Mirror) :
    (p.seq = s.ember.rxNext → s.ember.rxAhead = [] →
      (s.standbyTake l p type fun s => s.setEmber (s.ember.onMirror no step p.seq f)).ember.rxNext = s.ember.rxNext + 1) ∧
    (tget s.ember.mirrorA no = none → tget s.ember.mirrorB no = none →
      tget (s.standbyTake l p type fun s => s.setEmber (s.ember.onMirror no step p.seq f)).ember.mirrorA no =
        some (f (Mirror.fresh step p.seq))) ∧
    ∀ m, tget s.ember.mirrorA no = some m → tget s.ember.mirrorB no = none → m.step = step → m.complete = false →
      tget (s.standbyTake l p type fun s => s.setEmber (s.ember.onMirror no step p.seq f)).ember.mirrorA no = some (f m) := by
  obtain ⟨hmove, hnum⟩ := standbyTake_stores h (g := fun s => s.setEmber (s.ember.onMirror no step p.seq f))
    (e := (s.ember.hear l p).onMirror no step p.seq f) rfl
  obtain ⟨_, _, hA, _⟩ := hmove.stored
  obtain ⟨_, _, hA0, hB0, _⟩ := (hear_moves s.ember l p).stored
  obtain ⟨hr1, hr2⟩ := onMirror_frame (s.ember.hear l p) no step p.seq f
  obtain ⟨hn1, hn2⟩ := hear_numbers s.ember l p
  refine ⟨hnum (hr1.trans hn1) (hr2.trans hn2), fun ha hb => ?_, fun m ha hb hs hc => ?_⟩
  · rw [hA]
    exact onMirror_fresh (by rw [hA0]; exact ha) (by rw [hB0]; exact hb) _ _ _
  · rw [hA]
    exact onMirror_filling (by rw [hA0]; exact ha) (by rw [hB0]; exact hb) hs hc _ _

/-- The key pair that a KEY packet gives is held under its number. -/
def Ember.holdKey (e : Ember) (key : Nat) (pair : BitVec 512) : Ember := { e with keys := tset e.keys key pair }

theorem exec_key_stores (h : s.Expects l p 0x05) : ∃ t, exec (.key l p) s = .next t ∧
    (p.seq = s.ember.rxNext → s.ember.rxAhead = [] → t.ember.rxNext = s.ember.rxNext + 1) ∧
    tget t.ember.keys p.object.toNat = some (Config.unwrap s.trust.pairingKey p.payload) := by
  obtain ⟨hmove, hnum⟩ := standbyTake_stores h
    (g := fun s => s.setEmber { s.ember with keys := tset s.ember.keys p.object.toNat (Config.unwrap s.trust.pairingKey p.payload) })
    (e := (s.ember.hear l p).holdKey p.object.toNat (Config.unwrap s.trust.pairingKey p.payload)) rfl
  obtain ⟨_, _, _, _, hkeys, _⟩ := hmove.stored
  obtain ⟨hn1, hn2⟩ := hear_numbers s.ember l p
  refine ⟨_, rfl, hnum hn1 hn2, ?_⟩
  rw [hkeys]
  exact tget_tset_self _ _ _

/-- A destroyed key is gone, and with it every mirror that holds a page under it. -/
def Ember.loseKey (e : Ember) (key : Nat) : Ember :=
  { e with keys := tdel e.keys key, mirrorA := mirrorsWithout key e.mirrorA, mirrorB := mirrorsWithout key e.mirrorB }

theorem exec_keyDestroy_stores (h : s.Expects l p 0x06) : ∃ t, exec (.keyDestroy l p) s = .next t ∧
    (p.seq = s.ember.rxNext → s.ember.rxAhead = [] → t.ember.rxNext = s.ember.rxNext + 1) ∧
    tget t.ember.keys p.object.toNat = none ∧
    (∀ x ∈ t.ember.mirrorA, ∀ y ∈ x.2.pages, Config.pageKey x.1 x.2.step y.1.toNat ≠ p.object.toNat) ∧
    ∀ k, k ≠ p.object.toNat → tget t.ember.keys k = tget s.ember.keys k := by
  obtain ⟨hmove, hnum⟩ := standbyTake_stores h (g := fun s => s.setEmber (s.ember.loseKey p.object.toNat))
    (e := (s.ember.hear l p).loseKey p.object.toNat) rfl
  obtain ⟨_, _, hA, _, hkeys, _⟩ := hmove.stored
  obtain ⟨_, _, _, _, hkeys0, _⟩ := (hear_moves s.ember l p).stored
  obtain ⟨hn1, hn2⟩ := hear_numbers s.ember l p
  refine ⟨_, rfl, hnum hn1 hn2, ?_, fun x hx => ?_, fun k hk => ?_⟩
  · exact (congrArg (tget · p.object.toNat) hkeys).trans (tget_tdel_self _ _)
  · refine mirrorsWithout_key (t := (s.ember.hear l p).mirrorA) ?_
    have hkept : x ∈ (s.standbyTake l p 0x06 fun s => s.setEmber (s.ember.loseKey p.object.toNat)).ember.mirrorA := hx
    rw [hA] at hkept
    exact hkept
  · refine (congrArg (tget · k) hkeys).trans ((tget_tdel_of_ne _ hk).trans ?_)
    rw [hkeys0]

/-- A configuration piece takes the place of the former one of its object and offset. -/
def Ember.putConfig (e : Ember) (p : EmberPkt) : Ember :=
  { e with configRx := e.configRx.filter (fun q => q.object != p.object || (p.offset != 0 && q.offset != p.offset)) ++ [p] }

theorem exec_config_stores (h : s.Expects l p 0x07) : ∃ t, exec (.config l p) s = .next t ∧
    (p.seq = s.ember.rxNext → s.ember.rxAhead = [] → t.ember.rxNext = s.ember.rxNext + 1) ∧ p ∈ t.ember.configRx ∧
    ∀ q ∈ s.ember.configRx, q.object ≠ p.object → q ∈ t.ember.configRx := by
  obtain ⟨hmove, hnum⟩ := standbyTake_stores h (g := fun s => s.setEmber (s.ember.putConfig p))
    (e := (s.ember.hear l p).putConfig p) rfl
  obtain ⟨_, _, _, _, _, hcfg, _⟩ := hmove.stored
  obtain ⟨_, _, _, _, _, hcfg0, _⟩ := (hear_moves s.ember l p).stored
  obtain ⟨hn1, hn2⟩ := hear_numbers s.ember l p
  have hmem (q : EmberPkt) (hq : q ∈ ((s.ember.hear l p).putConfig p).configRx) :
      q ∈ (s.standbyTake l p 0x07 fun s => s.setEmber (s.ember.putConfig p)).ember.configRx := hcfg ▸ hq
  refine ⟨_, rfl, hnum hn1 hn2, hmem p ?_, fun q hq ho => hmem q ?_⟩
  · exact List.mem_append_right _ (List.mem_singleton_self _)
  · refine List.mem_append_left _ (List.mem_filter.mpr ⟨?_, by simp [ho]⟩)
    rw [hcfg0]
    exact hq

theorem exec_handover_stores (h : s.Expects l p 0x0A) : ∃ t, exec (.handover l p) s = .next t ∧
    (p.seq = s.ember.rxNext → s.ember.rxAhead = [] → t.ember.rxNext = s.ember.rxNext + 1) ∧ t.ember.handover = true := by
  obtain ⟨hmove, hnum⟩ := standbyTake_stores h (g := fun s => s.setEmber { s.ember with handover := true })
    (e := { s.ember.hear l p with handover := true }) rfl
  obtain ⟨_, _, _, _, _, _, hhand, _⟩ := hmove.stored
  obtain ⟨hn1, hn2⟩ := hear_numbers s.ember l p
  exact ⟨_, rfl, hnum hn1 hn2, hhand⟩

/-! ## The active's rows -/

theorem exec_heartbeat_heard (hh : s.hears l p 0x08 = true) (hs : s.boot.stage ≠ .standby) (hl : s.ember.state ≠ .lost) :
    exec (.heartbeat l p) s = .next (s.heard l p) := by
  refine congrArg Host.Outcome.next ((if_pos hh).trans ?_)
  rw [meetPartner_of_paired (.inl hs)]
  exact heard_resync hl

theorem heard_only (s : State) (l : Nat) (p : EmberPkt) : s.heard l p = { s with ember := { s.ember with
    up0 := (s.heard l p).ember.up0, up1 := (s.heard l p).ember.up1, credit0 := (s.heard l p).ember.credit0
    credit1 := (s.heard l p).ember.credit1 } } := by
  unfold State.heard State.setEmber
  dsimp only
  rw [← hear_frame]

theorem endEmberWaits_of_idle (h : s.mgrRuns = false ∨ s.ember.waits = []) : s.endEmberWaits = s := by
  unfold State.endEmberWaits
  rcases h with h | h
  · rw [h]
    rfl
  · split
    · rfl
    · dsimp only
      rw [h, List.filter_nil, List.filter_nil, List.foldl_nil]
      unfold State.setEmber
      rw [← h]

/-- An ACK covers every packet up to its number; the first whole image makes the standby ready. -/
theorem takeEmberAck_leaves (s : State) (n : Nat) (h : s.mgrRuns = false ∨ s.ember.waits = []) :
    (s.takeEmberAck n).ember.unacked = s.ember.unacked.filter (fun q => n < q.seq) ∧ (s.takeEmberAck n).ember.waits = s.ember.waits ∧
    (s.takeEmberAck n).ember.up0 = s.ember.up0 ∧ (s.takeEmberAck n).ember.up1 = s.ember.up1 ∧
    (s.ember.state = .syncing → (∃ q ∈ s.ember.unacked, q.seq ≤ n ∧ q.type = 0x01 ∧ q.last = true) →
      (s.takeEmberAck n).ember.state = if s.ember.abandons.any (fun x => 2 ≤ x.2) then .behind else .ready) := by
  unfold State.takeEmberAck
  dsimp only
  let e : Ember := { s.ember with unacked := s.ember.unacked.filter fun p => n < p.seq }
  let c := (s.ember.unacked.any fun p => decide (p.seq ≤ n) && p.type == 0x01 && p.last) && e.state == .syncing
  have hidle : (s.setEmber (if c = true then { e with state := e.readyState } else e)).endEmberWaits =
      s.setEmber (if c = true then { e with state := e.readyState } else e) := by
    refine endEmberWaits_of_idle (h.imp id fun hw => ?_)
    change (if c = true then _ else e : Ember).waits = []
    split <;> exact hw
  rw [hidle]
  change (if c = true then _ else e : Ember).unacked = _ ∧ (if c = true then _ else e : Ember).waits = _ ∧
    (if c = true then _ else e : Ember).up0 = _ ∧ (if c = true then _ else e : Ember).up1 = _ ∧
    (_ → _ → (if c = true then _ else e : Ember).state = _)
  by_cases hcc : c = true
  · rw [if_pos hcc]
    exact ⟨rfl, rfl, rfl, rfl, fun _ _ => rfl⟩
  · rw [if_neg hcc]
    refine ⟨rfl, rfl, rfl, rfl, fun hs hq => absurd ?_ hcc⟩
    obtain ⟨q, hq, hle, hty, hla⟩ := hq
    change (_ && _) = true
    rw [Bool.and_eq_true, List.any_eq_true, beq_iff_eq]
    exact ⟨⟨q, hq, by simp [hle, hty, hla]⟩, hs⟩

/-- A module that enters standby holds no model, no session and no key, and its memory is under quench (R534). -/
theorem enterStandby_stands (s : State) : s.enterStandby.boot.stage = .standby ∧ s.enterStandby.trust.sessions = [] ∧
    s.enterStandby.trust.gens = [] ∧ s.enterStandby.mem.sets = quenchedSets ∧ s.enterStandby.mgr = Mgr.reset ∧
    s.enterStandby.ember.state = .syncing ∧ s.enterStandby.ember.taking = none :=
  ⟨rfl, rfl, rfl, rfl, rfl, rfl, rfl⟩

theorem exec_taken_new (hh : s.hears l p 0x0B = true) (hs : s.boot.stage ≠ .standby) (hl : s.ember.state ≠ .lost)
    (ht : s.ember.taking.isSome = true) (hhand : s.ember.handover = true) (hg : s.ember.grant = false) (hr : s.ember.rxNext ≤ p.seq)
    (ha : p.seq ∉ s.ember.rxAhead) : ∃ t, exec (.taken l p) s = .next t ∧ t.boot.stage = .standby ∧ t.trust.sessions = [] ∧
      t.trust.gens = [] ∧ t.mem.sets = quenchedSets ∧ t.mgr = Mgr.reset ∧ t.ember.state = .syncing ∧ t.ember.taking = none := by
  obtain ⟨id, hid⟩ := Option.isSome_iff_exists.mp ht
  have htake : (s.heard l p).takeTaken p = ((s.heard l p).reply id (takenAns p.payload)).enterStandby := by
    have htk : (s.heard l p).ember.taking = some id := (hear_moves s.ember l p).standing.2.1.trans hid
    have hgr : (s.heard l p).ember.grant = false := (hear_moves s.ember l p).standing.2.2.1.trans hg
    obtain ⟨_, _, _, _, _, _, hho, _⟩ := (hear_moves s.ember l p).stored
    unfold State.takeTaken
    rw [htk]
    refine if_pos ?_
    rw [hgr, show (s.heard l p).ember.handover = true from hho.trans hhand]
    rfl
  refine ⟨_, congrArg Host.Outcome.next (emberTake_of_new hh (.inl hs) hl hr ha _), ?_⟩
  rw [htake]
  obtain ⟨h1, h2, h3, h4, h5, h6, h7⟩ := enterStandby_stands ((s.heard l p).reply id (takenAns p.payload))
  generalize ((s.heard l p).reply id (takenAns p.payload)).enterStandby = v at h1 h2 h3 h4 h5 h6 h7 ⊢
  obtain ⟨hout, hmove⟩ := countRx_moves v p.seq
  obtain ⟨hstate, htaking, _⟩ := hmove.standing
  rw [hstate, htaking]
  unfold State.EmberOut at hout
  rw [hout]
  exact ⟨h1, h2, h3, h4, h5, h6, h7⟩

theorem exec_taken_again (hh : s.hears l p 0x0B = true) (hs : s.boot.stage ≠ .standby) (hl : s.ember.state ≠ .lost)
    (hr : p.seq < s.ember.rxNext) : ∃ t, exec (.taken l p) s = .next t ∧ t.boot = s.boot ∧ t.mgr = s.mgr ∧
      t.ember.taking = s.ember.taking := by
  refine ⟨(s.heard l p).sendEmberAck, congrArg Host.Outcome.next ?_, ?_⟩
  · unfold State.emberTake
    rw [if_neg (by rw [hh]; simp), meetPartner_of_paired (.inl hs), heard_resync hl]
    refine if_pos ?_
    rw [show (s.heard l p).ember.rxNext = s.ember.rxNext from (hear_numbers s.ember l p).1]
    simp [hr]
  · obtain ⟨hout, hmove, _⟩ := sendEmberAck_moves (s.heard l p)
    obtain ⟨_, htaking, _⟩ := hmove.standing
    unfold State.EmberOut at hout
    refine ⟨?_, ?_, htaking.trans (hear_moves s.ember l p).standing.2.1⟩ <;> rw [hout] <;> rfl

end

/-- Settles O45: a standby stores each kind by its row above, where the checks hold; the active's rows by what hearing moves. -/
theorem emberReceiving : Obligations.EmberReceiving := by
  unfold Obligations.EmberReceiving
  refine ⟨fun l p s hs hon hl hp hk hr ha => ⟨fun hbad i hi => ?_, fun hcrc hhop => ?_⟩, fun l p s hon hl hs hk hcrc hhop => ?_⟩
  · have hun (type : BitVec 8) : s.hears l p type = false := by
      rw [← Bool.not_eq_true, hears_iff]
      exact fun ⟨_, _, _, h1, h2⟩ => hbad.elim (fun h => h h2) (fun h => h h1)
    simp only [List.mem_cons, List.not_mem_nil, or_false] at hi
    rcases hi with rfl | rfl | rfl | rfl | rfl | rfl | rfl | rfl <;>
      exact congrArg Host.Outcome.next (standbyTake_of_unheard (hun _) _)
  · have hexp {type : BitVec 8} (ht : p.type = type) : s.Expects l p type :=
      ⟨hs, hears_iff.mpr ⟨hon, hl, ht, hhop, hcrc⟩, hp, hk, hr, ha⟩
    refine ⟨fun ht => exec_fabric_stores (hexp ht), fun ht => exec_journal_stores (hexp ht), fun ht => ?_, fun ht => ?_,
      fun ht => exec_key_stores (hexp ht), fun ht => exec_keyDestroy_stores (hexp ht), fun ht => exec_config_stores (hexp ht),
      fun ht => exec_handover_stores (hexp ht)⟩
    · obtain ⟨hnum, hfresh, _⟩ := standbyTake_mirror (hexp ht) (objectHeat p.object) (objectStep p.object) fun m => m.putPage p
      exact ⟨_, rfl, hnum, fun h1 h2 => ⟨_, hfresh h1 h2, rfl, rfl, rfl⟩⟩
    · obtain ⟨hnum, _, hfill⟩ := standbyTake_mirror (hexp ht) (objectHeat p.object) (objectStep p.object) fun m => m.done p.offset.toNat
      exact ⟨_, rfl, hnum, fun m h1 h2 h3 h4 => ⟨_, hfill m h1 h2 h3 h4, rfl, rfl⟩⟩
  · have hheard {type : BitVec 8} (ht : p.type = type) : s.hears l p type = true := hears_iff.mpr ⟨hon, hl, ht, hhop, hcrc⟩
    obtain ⟨hup, hfreed⟩ := hear_up s.ember l p
    refine ⟨fun ht => ?_, fun ht hw => ?_, fun ht h1 h2 h3 h4 h5 => exec_taken_new (hheard ht) hs hk h1 h2 h3 h4 h5,
      fun ht hlt => exec_taken_again (hheard ht) hs hk hlt⟩
    · exact ⟨_, exec_heartbeat_heard (hheard ht) hs hk, hup, hfreed, heard_only s l p⟩
    · obtain ⟨hst, htk, hgr, hun, hwa, hab⟩ := (hear_moves s.ember l p).standing
      have hidle : (s.heard l p).mgrRuns = false ∨ (s.heard l p).ember.waits = [] := hw.imp id fun h => hwa.trans h
      obtain ⟨h1, h2, h3, h4, h5⟩ := takeEmberAck_leaves (s.heard l p) p.object.toNat hidle
      have hexec : exec (.emberAck l p) s = .next ((s.heard l p).takeEmberAck p.object.toNat) := by
        refine congrArg Host.Outcome.next ((if_pos (hheard ht)).trans ?_)
        rw [heard_resync hk]
      refine ⟨_, hexec, ?_, h1.trans (congrArg _ hun), h2.trans hwa, fun hsync hq => ?_⟩
      · dsimp only
        rw [h3, h4]
        exact hup
      · have := h5 (hst.trans hsync) (by rw [show (s.heard l p).ember.unacked = s.ember.unacked from hun]; exact hq)
        rwa [show (s.heard l p).ember.abandons = s.ember.abandons from hab] at this

end Sys2Proof.Machine

/-! # Redundancy commands and the grant

Bytes of a reply read back; then pairing, takeover and what the grant brings (15_standby_and_hotplug.md, Pairing; Takeover). -/

namespace Sys2Proof.Machine

open Sys2Proof

/-! ## Reading fields of a reply -/

/-- A number written into a text is read back, modulo what its bytes hold. -/
theorem natAt_leBytes (x z : List Byte) (n v : Nat) {off : Nat} (h : x.length = off) :
    natAt (x ++ leBytes n v ++ z) off n = v % 2 ^ (8 * n) := by
  subst h
  unfold natAt
  rw [List.append_assoc, Sys2Proof.Laws.bytesAt_append x (leBytes n v) z n (length_leBytes n v), leNat_leBytes]

theorem bvBytes_eq_leBytes (v : BitVec 64) : bvBytes v = leBytes 8 v.toNat := by
  unfold leBytes
  rw [show 8 * 8 = 64 from rfl, BitVec.ofNat_toNat, BitVec.setWidth_eq]

/-- RED_STATUS as its fields read. -/
theorem redStatus_bytes (e : Ember) : ∃ b, b = leBytes 1 (if e.paired then 1 else 0) ++ leBytes 1 e.state.code ++ leBytes 6 0 ++
      bvBytes e.imageLap ++ leBytes 8 (((e.urgent ++ e.image ++ e.pages).map emberBytes).sum) ∧ b.length = 24 ∧
    natAt b 0 1 = (if e.paired then 1 else 0) ∧ natAt b 1 1 = e.state.code ∧ natAt b 8 8 = e.imageLap.toNat ∧
    natAt b 16 8 = ((e.urgent ++ e.image ++ e.pages).map emberBytes).sum % 2 ^ 64 := by
  rw [bvBytes_eq_leBytes]
  generalize ((e.urgent ++ e.image ++ e.pages).map emberBytes).sum = n
  refine ⟨_, rfl, ?_, ?_, ?_, ?_, ?_⟩
  · simp only [List.length_append, length_leBytes]
  · have := natAt_leBytes [] (leBytes 1 e.state.code ++ leBytes 6 0 ++ leBytes 8 e.imageLap.toNat ++ leBytes 8 n) 1
      (if e.paired then 1 else 0) (off := 0) rfl
    rw [List.nil_append] at this
    simp only [← List.append_assoc] at this
    refine this.trans ?_
    split <;> rfl
  · have := natAt_leBytes (leBytes 1 (if e.paired then 1 else 0)) (leBytes 6 0 ++ leBytes 8 e.imageLap.toNat ++ leBytes 8 n) 1
      e.state.code (length_leBytes _ _)
    simp only [← List.append_assoc] at this
    rw [this]
    cases e.state <;> rfl
  · rw [natAt_leBytes _ _ 8 e.imageLap.toNat (by simp only [List.length_append, length_leBytes])]
    exact Nat.mod_eq_of_lt e.imageLap.isLt
  · have := natAt_leBytes (leBytes 1 (if e.paired then 1 else 0) ++ leBytes 1 e.state.code ++ leBytes 6 0 ++ leBytes 8 e.imageLap.toNat) [] 8 n
      (off := 16) (by simp only [List.length_append, length_leBytes])
    rwa [List.append_nil] at this

/-! ## Pairing -/

/-- What pairing has set stands while the standby is filled. -/
def State.paired (s : State) : KeyIndex × Bool × StandbyState × Nat × Nat :=
  (s.trust.identity, s.ember.paired, s.ember.state, s.ember.txNext, s.ember.rxNext)

theorem startStream_paired (s : State) (no : Nat) : (s.startStream no).paired = s.paired := by
  unfold State.startStream
  repeat' split
  all_goals rfl

theorem startSync_paired (s : State) : s.startSync.paired = ({ s with ember := { s.ember with state := .syncing } } : State).paired := by
  have hfold (l : List Nat) (t : State) : (l.foldl State.startStream t).paired = t.paired := by
    induction l generalizing t with
    | nil => rfl
    | cons n r ih => rw [List.foldl_cons, ih, startStream_paired]
  have hcreds (t : State) : t.streamCreds.paired = t.paired := by
    unfold State.streamCreds
    split <;> rfl
  have hcfg (t : State) (b : Stored) : (t.streamConfig b).paired = t.paired := by
    unfold State.streamConfig
    split <;> rfl
  unfold State.startSync
  dsimp only
  rw [hfold, hcreds, hcfg]
  rfl

theorem store_live (s : State) (id : Nat) (r : List Byte) (f : Stored → Stored) : (s.store id r f).cfg.live = f s.cfg.live := by
  unfold State.store Cfg.beginWrite
  dsimp only
  split
  · rfl
  · split <;> rfl

/-- What waited for a lost standby is given up without a change of the identity key. -/
theorem State.TrustStays.identity {s t : State} (h : s.TrustStays t) : t.trust.identity = s.trust.identity := by
  unfold State.TrustStays at h
  rw [h]

theorem dropEmberWaits_identity (s : State) : s.dropEmberWaits.trust.identity = s.trust.identity := by
  have hfold (l : List EmberWait) (t : State) : t.TrustStays (l.foldl (fun s w => match w with
      | .cmd _ _ id n result => s.reply id { ok result with bytes := n }
      | _ => s) t) := by
    induction l generalizing t with
    | nil => exact .refl
    | cons w r ih =>
      rw [List.foldl_cons]
      refine State.TrustStays.trans ?_ (ih _)
      dsimp only
      split
      · exact .reply .refl _ _
      · exact .refl
  have := hfold s.ember.waits (s.setEmber { s.ember with
    waits := [], urgent := [], image := [], pages := [], streaming := [], abandons := [] })
  exact this.identity

/-- Pairing takes one identity index and is stored; counts of packets begin at 0. -/
theorem pair_leaves (s : State) (id i : Nat) (k : KeyIndex) : (s.pair id i k).paired = (k, true, .syncing, 0, 0) ∧
    (s.pair id i k).cfg.live.pairing = true := by
  unfold State.pair
  dsimp only
  refine ⟨?_, congrArg Stored.pairing (store_live _ _ _ _)⟩
  refine (startSync_paired _).trans ?_
  unfold State.paired
  change ((s.askPairing i k).dropEmberWaits.trust.identity, true, StandbyState.syncing, 0, 0) = _
  rw [dropEmberWaits_identity]
  rfl

theorem dropEmberWaits_cfg (s : State) : s.dropEmberWaits.cfg = s.cfg := by
  unfold State.dropEmberWaits
  dsimp only
  have hout := Outward.foldl (fun s w => match w with
    | .cmd _ _ id n result => s.reply id { ok result with bytes := n }
    | _ => s) (fun s t w k => by
      dsimp only
      split
      · exact k.reply _ _
      · exact k) s.ember.waits
    (.refl (s.setEmber { s.ember with waits := [], urgent := [], image := [], pages := [], streaming := [], abandons := [] }))
  obtain ⟨_, _, _, h, _⟩ := hout.rest
  exact h

/-- Unpairing is stored, and there is no standby any more. -/
theorem unpair_leaves (s : State) (id : Nat) : (s.unpair id).ember.paired = false ∧ (s.unpair id).ember.state = .none ∧
    (s.unpair id).cfg.live.pairing = false :=
  ⟨rfl, rfl, congrArg Stored.pairing (store_live _ _ _ _)⟩

/-! ## The grant -/

theorem takeConfig_frame (s : State) : s.takeConfig.boot = s.boot ∧ s.takeConfig.ember = s.ember := by
  have hcfg (t : State) (o : Option Stored) (f : Stored → Cfg) :
      (match o with | some x => { t with cfg := f x } | none => t).boot = t.boot ∧
        (match o with | some x => { t with cfg := f x } | none => t).ember = t.ember := by
    cases o <;> exact ⟨rfl, rfl⟩
  unfold State.takeConfig
  dsimp only
  split
  · exact hcfg _ _ _
  · exact hcfg _ _ _

/-- A standby that has the grant, before it takes what the former active streamed. -/
def State.granted (s : State) : State :=
  let point := s.ember.newest.isSome
  let b := s.boot
  let s := s.setBoot { b with
    stage := if !b.pllLock then .pllWait else if !b.fuseOk then .fuseWait else .bellows
    wave := 0, substep := 1, configRead := b.configRead && point }
  { s with ember := { s.ember with
    grant := true, active := !point, takeover := point, lapWait := true, state := if point then s.ember.state else
      if s.ember.paired then .syncing else .none } }

/-- What the former active streamed is taken: configuration, credentials and keys. -/
def State.takeStreamed (s : State) : State :=
  let s := s.takeConfig
  ({ s with
    trust := { s.trust with gens := gensOf s.ember.keys, keys := s.ember.keys, moduleKey := true }
    ember := { s.ember with keys := [] } } : State).loadSlots

theorem takeStreamed_frame (s : State) : s.takeStreamed.boot = s.boot ∧ s.takeStreamed.ember = { s.ember with keys := [] } := by
  obtain ⟨hboot, hember⟩ := takeConfig_frame s
  refine ⟨hboot, ?_⟩
  change { s.takeConfig.ember with keys := [] } = _
  rw [hember]

/-- The record in force is that of the stored configuration; with the clocks in lock the recorder starts. -/
def State.takeRecord (s : State) (on : Bool) : State :=
  let s := s.setMgr { s.mgr with record := s.cfg.live.record }
  if on then s.startRecorder else s

theorem takeRecord_frame (s : State) (on : Bool) : (s.takeRecord on).boot = s.boot ∧ (s.takeRecord on).ember = s.ember ∧
    (s.takeRecord on).mgr.record = (s.takeRecord on).cfg.live.record := by
  unfold State.takeRecord
  dsimp only
  split <;> exact ⟨rfl, rfl, rfl⟩

theorem beginTakeover_eq (s : State) : s.beginTakeover =
    (if s.ember.newest.isSome then s.granted.takeStreamed else s.granted).takeRecord s.boot.pllLock := rfl

/-- What a standby that gets the grant has of its ember links, its bring-up and its record. -/
theorem beginTakeover_leaves (s : State) : s.beginTakeover.ember.grant = true ∧
    s.beginTakeover.ember.takeover = s.ember.newest.isSome ∧ s.beginTakeover.ember.active = !s.ember.newest.isSome ∧
    s.beginTakeover.boot.wave = 0 ∧ s.beginTakeover.boot.substep = 1 ∧
    s.beginTakeover.boot.stage = (if s.boot.pllLock = false then .pllWait else if s.boot.fuseOk = false then .fuseWait else .bellows) ∧
    s.beginTakeover.mgr.record = s.beginTakeover.cfg.live.record := by
  have hv : (if s.ember.newest.isSome then s.granted.takeStreamed else s.granted).boot = s.granted.boot ∧
      (if s.ember.newest.isSome then s.granted.takeStreamed else s.granted).ember.grant = true ∧
      (if s.ember.newest.isSome then s.granted.takeStreamed else s.granted).ember.takeover = s.ember.newest.isSome ∧
      (if s.ember.newest.isSome then s.granted.takeStreamed else s.granted).ember.active = !s.ember.newest.isSome := by
    split
    · obtain ⟨hboot, hember⟩ := takeStreamed_frame s.granted
      rw [hember]
      exact ⟨hboot, rfl, rfl, rfl⟩
    · exact ⟨rfl, rfl, rfl, rfl⟩
  obtain ⟨h1, h2, h3, h4⟩ := hv
  rw [beginTakeover_eq]
  generalize (if s.ember.newest.isSome then s.granted.takeStreamed else s.granted) = v at h1 h2 h3 h4 ⊢
  obtain ⟨hboot, hember, hrecord⟩ := takeRecord_frame v s.boot.pllLock
  rw [hboot, hember, h1]
  refine ⟨h2, h3, h4, rfl, rfl, ?_, hrecord⟩
  change (if (!s.boot.pllLock) = true then Stage.pllWait else if (!s.boot.fuseOk) = true then Stage.fuseWait else Stage.bellows) = _
  cases s.boot.pllLock <;> cases s.boot.fuseOk <;> rfl

/-- The ports train again, and no more than that of the ember links changes. -/
theorem grantBack_ember (s : State) : s.grantBack.ember.grant = true ∧ s.grantBack.ember.active = true ∧
    s.grantBack.ember.takeBack = false := by
  have hfold (l : List Nat) (t : State) : (l.foldl (fun s p => s.startTraining .chrohar p) t).ember = t.ember := by
    induction l generalizing t with
    | nil => rfl
    | cons p r ih => rw [List.foldl_cons, ih, startTraining_chrohar_frame]
  have hgate (t : State) (p : Partial) : (t.setPhase p 2).gateCompute.ember = t.ember := rfl
  unfold State.grantBack
  dsimp only
  split
  · rw [hgate, hfold]
    exact ⟨rfl, rfl, rfl⟩
  · rw [hfold]
    exact ⟨rfl, rfl, rfl⟩

section
variable {s : State} {id : Nat} {c : Cmd}

/-- A pairing command asks for what its partner's answer gives. -/
theorem exec_redPairSet_answers (h : s.Ready id 0x0B04 c) (hbit : c.bit 32 0 = true) (partner : Nat) {a : Ans}
    (hp : ∀ u : State, u.trust.identity = s.trust.identity → u.skips = s.skips → (match partner with
      | 1 => (u, some (fail sTopology))
      | 2 => (u, some (fail sBadSignature))
      | 3 => (u, some (fail sBusy))
      | _ => match u.trust.identity.take u.skips with
        | none => (u, some (fail sNoIndex))
        | some (i, k) => (u.pair id i k, none)) = (u, some a)) :
    exec (.redPairSet id partner) s = .next ((s.markStarted id).finish id a) := by
  refine congrArg Host.Outcome.next (run_answers h rfl ?_)
  exact (if_neg (by rw [hbit]; simp)).trans (hp _ rfl rfl)

end

/-- Settles O46: the commands by what `pair_leaves`, `unpair_leaves` and `redStatus_bytes` say, the grant by `beginTakeover_leaves` and
`grantBack_ember`. -/
theorem redundancyAndTakeover : Obligations.RedundancyAndTakeover := by
  unfold Obligations.RedundancyAndTakeover
  refine ⟨fun id c s => ⟨fun h => ?_, fun h => ?_, fun h hbit => ?_, fun h hbit => ⟨fun hst htk => ?_, fun hno => ?_⟩, fun h hbit => ⟨?_, ?_, ?_,
      fun hk => ?_, fun i k hk => ?_⟩, fun partner h hbit => ?_⟩,
    fun s => ⟨fun hg => congrArg Host.Outcome.next (if_pos hg), fun hg hs => ?_, fun hg hs => ?_, fun hg hs => ?_⟩⟩
  · obtain ⟨b, hb, hrest⟩ := redStatus_bytes s.ember
    refine ⟨b, congrArg Host.Outcome.next (run_answers h rfl ?_), hrest⟩
    rw [hb]
    rfl
  · exact ⟨(s.markStarted id).saveImage, congrArg Host.Outcome.next (run_answers h rfl rfl), rfl, rfl, rfl, rfl, rfl⟩
  · exact congrArg Host.Outcome.next (run_answers h rfl (if_pos (by rw [hbit]; rfl)))
  · refine ⟨_, congrArg Host.Outcome.next (run_begins h rfl ((if_neg (by rw [hbit]; simp)).trans (if_neg ?_))), rfl, rfl, rfl, rfl⟩
    change ¬((s.ember.state ≠ .ready ∧ s.ember.state ≠ .behind) ∨ s.ember.taking.isSome = true)
    rw [htk]
    rcases hst with hst | hst <;> simp [hst]
  · exact congrArg Host.Outcome.next (run_answers h rfl ((if_neg (by rw [hbit]; simp)).trans (if_pos hno)))
  · exact exec_redPairSet_answers h hbit 1 fun u _ _ => rfl
  · exact exec_redPairSet_answers h hbit 2 fun u _ _ => rfl
  · exact exec_redPairSet_answers h hbit 3 fun u _ _ => rfl
  · refine exec_redPairSet_answers h hbit 0 fun u h1 h2 => ?_
    rw [h1, h2, hk] <;> rfl
  · obtain ⟨h1, h2⟩ := pair_leaves (s.markStarted id) id i k
    simp only [State.paired, Prod.mk.injEq] at h1
    obtain ⟨hid, hpaired, hstate, htx, hrx⟩ := h1
    refine ⟨(s.markStarted id).pair id i k, congrArg Host.Outcome.next (run_begins h rfl ((if_neg (by rw [hbit]; simp)).trans ?_)),
      hid, hpaired, hstate, h2, htx, hrx⟩
    change (match s.trust.identity.take s.skips with
      | none => (s.markStarted id, some (fail sNoIndex))
      | some (i, k) => ((s.markStarted id).pair id i k, none)) = _
    rw [hk]
  · exact ⟨(s.markStarted id).unpair id, congrArg Host.Outcome.next (run_begins h rfl (if_pos (by rw [hbit]; rfl))), unpair_leaves _ id⟩
  · refine ⟨s.beginTakeover, congrArg Host.Outcome.next ((if_neg (by rw [hg]; simp)).trans ?_), beginTakeover_leaves s⟩
    rw [hs]
  · refine ⟨s.grantBack, congrArg Host.Outcome.next ((if_neg (by rw [hg]; simp)).trans ?_), grantBack_ember s⟩
    rw [hs]
  · refine congrArg Host.Outcome.next ((if_neg (by rw [hg]; simp)).trans ?_)
    rw [hs]

end Sys2Proof.Machine

/-! # Commands that only ask

Fields of a reply are read past the parts before them; then each query answers with the bytes of its table (10_host_commands.md, Opcodes
and parameters). -/

namespace Sys2Proof.Machine

open Sys2Proof

/-! ## Reading past the parts of a text -/

theorem length_bvBytes {w : Nat} (v : BitVec w) : (bvBytes v).length = w / 8 := by
  simp [bvBytes]

theorem bytesAt_skip {a r : List Byte} {off n : Nat} (h : a.length ≤ off) : bytesAt (a ++ r) off n = bytesAt r (off - a.length) n := by
  unfold bytesAt
  refine List.map_congr_left fun i _ => ?_
  rw [List.getElem?_append_right (by omega), show off + i - a.length = off - a.length + i by omega]

theorem natAt_skip {a r : List Byte} {off n : Nat} (h : a.length ≤ off) : natAt (a ++ r) off n = natAt r (off - a.length) n := by
  unfold natAt
  rw [bytesAt_skip h]

/-- The number at the head of a text. -/
theorem natAt_head (n v : Nat) (r : List Byte) : natAt (leBytes n v ++ r) 0 n = v % 2 ^ (8 * n) :=
  natAt_leBytes [] r n v rfl

theorem natAt_alone (n v : Nat) : natAt (leBytes n v) 0 n = v % 2 ^ (8 * n) := by
  have := natAt_head n v []
  rwa [List.append_nil] at this

theorem bvBytes32_eq_leBytes (v : BitVec 32) : bvBytes v = leBytes 4 v.toNat := by
  unfold leBytes
  rw [show 8 * 4 = 32 from rfl, BitVec.ofNat_toNat, BitVec.setWidth_eq]

theorem natAt_head64 (v : BitVec 64) (r : List Byte) : natAt (bvBytes v ++ r) 0 8 = v.toNat := by
  rw [bvBytes_eq_leBytes, natAt_head]
  exact Nat.mod_eq_of_lt v.isLt

theorem natAt_alone64 (v : BitVec 64) : natAt (bvBytes v) 0 8 = v.toNat := by
  rw [bvBytes_eq_leBytes, natAt_alone]
  exact Nat.mod_eq_of_lt v.isLt

theorem natAt_head32 (v : BitVec 32) (r : List Byte) : natAt (bvBytes v ++ r) 0 4 = v.toNat := by
  rw [bvBytes32_eq_leBytes, natAt_head]
  exact Nat.mod_eq_of_lt v.isLt

theorem natAt_alone32 (v : BitVec 32) : natAt (bvBytes v) 0 4 = v.toNat := by
  rw [bvBytes32_eq_leBytes, natAt_alone]
  exact Nat.mod_eq_of_lt v.isLt

theorem sum_map_const {α : Type} (l : List α) (n : Nat) : (l.map fun _ => n).sum = n * l.length := by
  induction l with
  | nil => rfl
  | cons x r ih => rw [List.map_cons, List.sum_cons, ih, List.length_cons, Nat.mul_succ, Nat.add_comm]

/-- One of a row of 4-byte numbers. -/
theorem natAt_row (f : Nat → Nat) {m h : Nat} (hm : h < m) (r : List Byte) :
    natAt (((List.range m).flatMap fun h => leBytes 4 (f h)) ++ r) (4 * h) 4 = f h % 2 ^ 32 := by
  obtain ⟨k, rfl⟩ : ∃ k, m = h + (k + 1) := ⟨m - h - 1, by omega⟩
  have hlen (n : Nat) : ((List.range n).flatMap fun h => leBytes 4 (f h)).length = 4 * n := by
    simp only [List.length_flatMap, length_leBytes, sum_map_const, List.length_range]
  rw [List.range_add, List.flatMap_append, List.range_succ_eq_map, List.map_cons, List.flatMap_cons, List.append_assoc, List.append_assoc,
    natAt_skip (Nat.le_of_eq (hlen h)), hlen, Nat.sub_self, Nat.add_zero, natAt_head]

/-! ## The texts -/

theorem identity_bytes (s : State) : s.identity.length = 69 ∧ bytesAt s.identity 8 16 = orderCode ∧
    natAt s.identity 25 1 = (if s.boot.grade then 1 else 0) ∧ natAt s.identity 60 4 = s.trust.powerCycles.toNat ∧
    natAt s.identity 64 4 = s.trust.operatingS.toNat := by
  have hcode : orderCode.length = 16 := rfl
  unfold State.identity
  refine ⟨?_, ?_, ?_, ?_, ?_⟩
  · simp only [List.length_append, length_leBytes, length_bvBytes, hcode]
  · simp only [List.append_assoc]
    exact Sys2Proof.Laws.bytesAt_append (bvBytes Config.serial) orderCode _ 16 hcode
  · simp only [List.append_assoc, natAt_skip, length_leBytes, length_bvBytes, hcode, Nat.reduceDiv, Nat.reduceLeDiff, Nat.reduceSub, natAt_head]
    split <;> rfl
  · simp only [List.append_assoc, natAt_skip, length_leBytes, length_bvBytes, hcode, Nat.reduceDiv, Nat.reduceLeDiff, Nat.reduceSub, natAt_head32]
  · simp only [List.append_assoc, natAt_skip, length_leBytes, length_bvBytes, hcode, Nat.reduceDiv, Nat.reduceLeDiff, Nat.reduceSub, natAt_head32]

/-- Bytes 32 to 55 of DEV_STATUS. -/
def State.statusText (s : State) : List Byte :=
  bvBytes (BitVec.ofInt 16 s.boot.hottest) ++ leBytes 2 s.boot.inputWatts ++ leBytes 1 s.cfg.stateBits ++
    leBytes 1 s.mgr.fabricState ++ leBytes 2 0 ++ leBytes 8 s.cfg.seq ++ bvBytes s.mgr.fabricGen ++ bvBytes s.hif.dropped

theorem statusText_bytes (s : State) : s.statusText.length = 24 ∧ natAt s.statusText 5 1 = s.mgr.fabricState % 256 ∧
    natAt s.statusText 16 4 = s.mgr.fabricGen.toNat ∧ natAt s.statusText 20 4 = s.hif.dropped.toNat := by
  unfold State.statusText
  refine ⟨?_, ?_, ?_, ?_⟩
  · simp only [List.length_append, length_leBytes, length_bvBytes]
  · simp only [List.append_assoc, natAt_skip, length_leBytes, length_bvBytes, Nat.reduceDiv, Nat.reduceLeDiff, Nat.reduceSub, natAt_head] <;> rfl
  · simp only [List.append_assoc, natAt_skip, length_leBytes, length_bvBytes, Nat.reduceDiv, Nat.reduceLeDiff, Nat.reduceSub, natAt_head32]
  · simp only [List.append_assoc, natAt_skip, length_leBytes, length_bvBytes, Nat.reduceDiv, Nat.reduceLeDiff, Nat.reduceSub, natAt_alone32]

/-- Bytes 32 to 47 of TOPO_ENTRY_QUERY. -/
def State.entryText (s : State) (e : Nat) : List Byte :=
  leBytes 1 (s.entry e).service.code ++ leBytes 1 ((if (s.heatOfEntry e).isSome then 1 else 0) +
    (if s.mgr.record.any (fun r => (r.posOf e).any r.isSpare) then 2 else 0)) ++
    leBytes 2 (((s.heatOfEntry e).map (·.1)).getD 0) ++ leBytes 4 0 ++ bvBytes ((s.entry e).stamp.getD 0)

theorem entryText_bytes (s : State) (e : Nat) : (s.entryText e).length = 16 ∧ natAt (s.entryText e) 0 1 = (s.entry e).service.code ∧
    natAt (s.entryText e) 8 8 = ((s.entry e).stamp.getD 0).toNat := by
  unfold State.entryText
  refine ⟨?_, ?_, ?_⟩
  · simp only [List.length_append, length_leBytes, length_bvBytes]
  · simp only [List.append_assoc, natAt_head]
    cases (s.entry e).service <;> rfl
  · simp only [List.append_assoc, natAt_skip, length_leBytes, Nat.reduceLeDiff, Nat.reduceSub, natAt_alone64]

/-- Bytes 32 to 63 of ROUTE_QUERY. -/
def State.routeText (s : State) : List Byte :=
  leBytes 1 s.mgr.epoch.toNat ++ leBytes 1 s.mgr.routing ++ leBytes 2 0 ++ leBytes 4 s.cfg.live.drainUs ++
    leBytes 8 s.mgr.lastFull ++ leBytes 8 s.mgr.lastIncr ++ leBytes 4 s.mgr.runs.length ++ leBytes 4 s.mgr.groups.length

theorem routeText_bytes (s : State) : s.routeText.length = 32 ∧ natAt s.routeText 0 1 = s.mgr.epoch.toNat ∧
    natAt s.routeText 1 1 = s.mgr.routing % 256 ∧ natAt s.routeText 4 4 = s.cfg.live.drainUs % 2 ^ 32 := by
  unfold State.routeText
  refine ⟨?_, ?_, ?_, ?_⟩
  · simp only [List.length_append, length_leBytes]
  · simp only [List.append_assoc, natAt_head]
    exact Nat.mod_eq_of_lt (Nat.lt_trans s.mgr.epoch.isLt (by decide))
  · simp only [List.append_assoc, natAt_skip, length_leBytes, Nat.reduceLeDiff, Nat.reduceSub, natAt_head, Nat.reduceMul, Nat.reducePow]
  · simp only [List.append_assoc, natAt_skip, length_leBytes, Nat.reduceLeDiff, Nat.reduceSub, natAt_head, Nat.reduceMul]

/-- Bytes 32 to 51 of TENANT_GET. -/
def State.tenantText (s : State) (t : Nat) : List Byte :=
  leBytes 8 0 ++ bvBytes (tenantRec s.cfg.live.tenants t) ++ leBytes 2 (s.heatsOf t).length ++
    leBytes 2 ((s.heatsOf t).map fun h => h.2.size).sum

theorem tenantText_bytes (s : State) (t : Nat) : (s.tenantText t).length = 20 ∧
    natAt (s.tenantText t) 8 8 = (tenantRec s.cfg.live.tenants t).toNat ∧
    natAt (s.tenantText t) 16 2 = (s.heatsOf t).length % 65536 := by
  unfold State.tenantText
  refine ⟨?_, ?_, ?_⟩
  · simp only [List.length_append, length_leBytes, length_bvBytes]
  · simp only [List.append_assoc, natAt_skip, length_leBytes, Nat.reduceLeDiff, Nat.reduceSub, natAt_head64]
  · simp only [List.append_assoc, natAt_skip, length_leBytes, length_bvBytes, Nat.reduceDiv, Nat.reduceLeDiff, Nat.reduceSub, natAt_head] <;> rfl

/-- Bytes 32 to 111 of MEM_QUERY. -/
def State.memText (s : State) : List Byte :=
  ((List.range 16).flatMap fun h => leBytes 4 (s.mem.free .p h)) ++ leBytes 4 ((List.range (tierPiles .b)).map (s.mem.free .b)).sum ++
    leBytes 4 ((List.range (tierPiles .c)).map (s.mem.free .c)).sum ++
    leBytes 4 ((s.mem.sets.filter fun x => x.use.quenching).map (·.count)).sum ++ leBytes 4 s.cfg.live.cacheGib

theorem memText_bytes (s : State) : s.memText.length = 80 ∧ (∀ h, h < 16 → natAt s.memText (4 * h) 4 = s.mem.free .p h % 2 ^ 32) ∧
    natAt s.memText 76 4 = s.cfg.live.cacheGib % 2 ^ 32 := by
  have hrow : ((List.range 16).flatMap fun h => leBytes 4 (s.mem.free .p h)).length = 64 := by
    simp only [List.length_flatMap, length_leBytes, sum_map_const, List.length_range, Nat.reduceMul]
  unfold State.memText
  refine ⟨?_, fun h hh => ?_, ?_⟩
  · simp only [List.length_append, length_leBytes, hrow]
  · simp only [List.append_assoc]
    exact natAt_row (s.mem.free .p) hh _
  · simp only [List.append_assoc, natAt_skip, length_leBytes, hrow, Nat.reduceLeDiff, Nat.reduceSub, natAt_alone, Nat.reduceMul]

/-- A list of records of one length. -/
theorem length_flatMap_const {α : Type} {f : α → List Byte} {n : Nat} (h : ∀ x, (f x).length = n) (l : List α) :
    (l.flatMap f).length = n * l.length := by
  rw [List.length_flatMap, show (fun x => (f x).length) = fun _ => n from funext h, sum_map_const]

/-! ## The queries -/

section
variable {s : State} {id : Nat} {op : BitVec 16} {c : Cmd}

/-- A command that only asks ends with its answer. -/
theorem ask_of_ready (h : s.Ready id op c) (hb : readsBuffer op = false) (body : Cmd → State → Ans) :
    s.ask op id body = (s.markStarted id).finish id (body c (s.markStarted id)) := run_answers h hb rfl

/-- The same, for a body whose answer in this case is known. -/
theorem ask_answers (h : s.Ready id op c) (hb : readsBuffer op = false) {body : Cmd → State → Ans} {a : Ans}
    (ha : body c (s.markStarted id) = a) : Host.Outcome.next (s.ask op id body) =
      (.next ((s.markStarted id).finish id a) : Host.Outcome State Fault Refusal) := by
  rw [ask_of_ready h hb, ha]

end

/-- Settles O47: each query by its text above. -/
theorem queriesAnswer : Obligations.QueriesAnswer := by
  unfold Obligations.QueriesAnswer
  refine fun id c s => ⟨fun h => ⟨s.identity, ask_answers h rfl rfl, identity_bytes s⟩,
    fun h => ⟨s.statusText, ask_answers h rfl rfl, statusText_bytes s⟩, fun h => ask_answers h rfl rfl, fun h => ask_answers h rfl rfl,
    fun h => ⟨fun hn => ask_answers h rfl (if_pos ?_), fun hn => ⟨s.entryText (c.num 32 2), ask_answers h rfl (if_neg ?_), entryText_bytes s _⟩⟩,
    fun h => ⟨s.routeText, ask_answers h rfl rfl, routeText_bytes s⟩, fun h => ?_, fun h => ?_,
    fun h => ⟨fun hm => ask_answers h rfl (if_pos ?_), fun hm => ⟨s.tenantText (c.num 32 2), ask_answers h rfl (if_neg ?_),
      tenantText_bytes s _⟩⟩,
    fun h => ⟨fun hm => ask_answers h rfl (if_pos ?_), fun hm => ⟨_, ask_answers h rfl (if_neg ?_), ?_⟩⟩,
    fun h => ⟨fun hm => ask_answers h rfl (if_pos ?_), fun hm => ⟨_, ask_answers h rfl (if_neg ?_), ?_⟩⟩, fun h => ?_,
    fun h => ⟨s.memText, ask_answers h rfl rfl, memText_bytes s⟩⟩
  · exact (congrArg (!·) hn : (!s.hasEntry (c.num 32 2)) = !false)
  · rw [show (s.markStarted id).hasEntry (c.num 32 2) = true from hn]
    simp
  · refine ask_answers h rfl ?_
    change (match s.heatFor c.src (c.num 32 2) with | some h => ok (s.heatResult (c.num 32 2) h) | none => bad 32) = _
    cases s.heatFor c.src (c.num 32 2) <;> rfl
  · refine ask_answers h rfl ?_
    cases hm : c.src.mayNameTenant (c.num 32 2) with
    | false => exact if_pos rfl
    | true => exact if_neg (by simp)
  · rw [show c.src.mayNameTenant (c.num 32 2) = false from hm]
    rfl
  · rw [show c.src.mayNameTenant (c.num 32 2) = true from hm]
    simp
  · rw [show c.src.mayNameTenant (c.num 32 2) = false from hm]
    rfl
  · rw [show c.src.mayNameTenant (c.num 32 2) = true from hm]
    simp
  · exact length_flatMap_const (fun e => by simp only [List.length_append, length_leBytes, length_bvBytes]) _
  · rw [show c.src.mayNameTenant (c.num 32 2) = false from hm]
    rfl
  · rw [show c.src.mayNameTenant (c.num 32 2) = true from hm]
    simp
  · exact length_flatMap_const (fun e => by simp only [List.length_append, length_leBytes, length_bvBytes]) _
  · refine ask_answers h rfl ?_
    change (match s.heatFor c.src (c.num 32 2), s.forgeOf (c.num 32 2) with
      | some _, some f => ok (expBytes f.plan.lsExp ++ leBytes 6 0 ++ leBytes 8 f.plan.applied ++ bvBytes f.plan.lastNorm ++ bvBytes f.plan.flags)
      | _, _ => bad 32) = _
    cases s.heatFor c.src (c.num 32 2) <;> cases s.forgeOf (c.num 32 2) <;> rfl

end Sys2Proof.Machine

/-! # Stored settings, the installation record, calibration

What a change of stored configuration leaves; what the operations on keys and pages leave of everything else; and commands that read a
host buffer (10_host_commands.md, Configuration storage; Calibration). -/

namespace Sys2Proof.Machine

open Sys2Proof

/-! ## Keys and pages -/

/-- Only the trust die, the memory and the ember links have changed. -/
def State.Keyed (s t : State) : Prop := t = { s with trust := t.trust, mem := t.mem, ember := t.ember }

namespace State.Keyed

variable {s t u : State}

theorem refl : s.Keyed s := rfl

theorem trans (h : s.Keyed t) (k : t.Keyed u) : s.Keyed u := by
  unfold State.Keyed at *
  rw [k, h]

theorem setMem (h : s.Keyed t) (m : Mem) : s.Keyed (t.setMem m) := h.trans rfl

theorem createKey (h : s.Keyed t) (tenant gen : Nat) : s.Keyed (t.createKey tenant gen) := by
  refine h.trans ?_
  unfold State.createKey
  dsimp only
  split <;> rfl

theorem destroyKey (h : s.Keyed t) (tenant gen : Nat) : s.Keyed (t.destroyKey tenant gen) := by
  refine h.trans ?_
  unfold State.destroyKey
  dsimp only
  split <;> rfl

theorem retireKey (h : s.Keyed t) (tenant : Nat) : s.Keyed (t.retireKey tenant) := by
  unfold State.retireKey
  split
  · split
    · exact h.destroyKey _ _
    · exact h
  · exact h

theorem ensureKey (h : s.Keyed t) (tenant : Nat) : s.Keyed (t.ensureKey tenant) := by
  unfold State.ensureKey
  split
  · exact h.createKey _ _
  · exact h

theorem evict (h : s.Keyed t) (room share fuel : Nat) : s.Keyed (t.evict room share fuel) := by
  induction fuel generalizing t with
  | zero => exact h
  | succ fuel ih =>
    unfold State.evict
    split
    · exact h
    · split
      · exact h
      · exact ih ((h.setMem _).retireKey _)

/-- The host side, the configuration and the manager stand. -/
theorem frame (h : s.Keyed t) : t.cfg = s.cfg ∧ t.hif = s.hif ∧ t.out = s.out ∧ t.mgr = s.mgr ∧ t.boot = s.boot := by
  unfold State.Keyed at h
  rw [h]
  exact ⟨rfl, rfl, rfl, rfl, rfl⟩

end State.Keyed

/-! ## A change of stored configuration -/

/-- What the statement says of a stored change: it is in force at once, nothing is sent, and it joins the next write. -/
def State.Stores (s : State) (id : Nat) (t : State) (live : Stored) : Prop :=
  t.cfg.live = live ∧ t.hif = (s.markStarted id).hif ∧ t.out = s.out ∧
    (s.cfg.writing = none → t.cfg.writing = some (CfgSlot.of (s.cfg.seq + 1) live) ∧ t.cfg.writeCmds.map (·.cmd) = [id]) ∧
    (s.cfg.writing.isSome = true → t.cfg.writing = s.cfg.writing ∧ t.cfg.nextCmds.map (·.cmd) = s.cfg.nextCmds.map (·.cmd) ++ [id])

theorem beginWrite_leaves (c : Cfg) (cmds : List CfgWait) : (c.beginWrite cmds).live = c.live ∧
    (c.beginWrite cmds).writing = some (CfgSlot.of (c.seq + 1) c.live) ∧ (c.beginWrite cmds).writeCmds = cmds ∧
    (c.beginWrite cmds).seq = c.seq := by
  unfold Cfg.beginWrite
  dsimp only
  split <;> exact ⟨rfl, rfl, rfl, rfl⟩

theorem store_stores {s u : State} {id : Nat} (h : (s.markStarted id).Keyed u) (r : List Byte) (f : Stored → Stored) :
    s.Stores id (u.store id r f) (f s.cfg.live) := by
  obtain ⟨hcfg, hhif, hout, _⟩ := h.frame
  refine ⟨(store_live _ _ _ _).trans (by rw [hcfg]; rfl), hhif, hout, fun hn => ?_, fun hs => ?_⟩
  · unfold State.store
    rw [hcfg]
    change (if s.cfg.writing.isSome = true then _ else _ : Cfg).writing = _ ∧ ((if s.cfg.writing.isSome = true then _ else _ : Cfg).writeCmds.map _) = _
    rw [hn]
    obtain ⟨_, h2, h3, _⟩ := beginWrite_leaves { s.cfg with live := f s.cfg.live } [{ cmd := id, result := r }]
    exact ⟨h2, congrArg (List.map _) h3⟩
  · unfold State.store
    rw [hcfg]
    change (if s.cfg.writing.isSome = true then _ else _ : Cfg).writing = _ ∧ ((if s.cfg.writing.isSome = true then _ else _ : Cfg).nextCmds.map _) = _
    rw [if_pos hs]
    exact ⟨rfl, List.map_append⟩

/-! ## Commands that read a host buffer -/

section
variable {s t : State} {id : Nat} {op : BitVec 16} {c : Cmd} {body : Cmd → State → State × Option Ans}

/-- The state in which such a command's body runs: a function's buffer has used an open value. -/
def State.bufferRead (s : State) (c : Cmd) : State :=
  match c.src with
  | .fn _ => s.hostFails.2
  | .session _ => s

theorem run_of_buffer (h : s.Ready id op c) (hb : readsBuffer op = true) :
    s.run op id body = if s.bufferFails c then ((s.markStarted id).bufferRead c).reply id (fail sHostError)
      else match (body c ((s.markStarted id).bufferRead c)).2 with
        | some a => (body c ((s.markStarted id).bufferRead c)).1.finish id a
        | none => (body c ((s.markStarted id).bufferRead c)).1 := by
  obtain ⟨hc, ho, hm, hp⟩ := h
  have hp' : (s.markStarted id).precheck c = none := hp
  unfold State.run State.bufferFails State.bufferRead
  simp only [hc, ho, hm, hp', hb, bne_self_eq_false, Bool.not_true, Bool.or_self, Bool.true_and, Bool.false_eq_true, if_false]
  cases c.src with
  | fn n => rfl
  | session i => rfl

theorem run_buffer_answers {a : Ans} (h : s.Ready id op c) (hb : readsBuffer op = true) (hf : s.bufferFails c = false)
    (hbody : body c ((s.markStarted id).bufferRead c) = (t, some a)) : s.run op id body = t.finish id a := by
  rw [run_of_buffer h hb, hf, hbody]
  rfl

theorem run_buffer_fails (h : s.Ready id op c) (hb : readsBuffer op = true) (hf : s.bufferFails c = true) :
    s.run op id body = ((s.markStarted id).bufferRead c).reply id (fail sHostError) := by
  rw [run_of_buffer h hb, hf]
  rfl

theorem bufferRead_frame (s : State) (c : Cmd) : s.bufferRead c = { s with free := (s.bufferRead c).free } := by
  unfold State.bufferRead
  split <;> rfl

end

/-! ## The shadow record -/

/-- Bytes go into the shadow at their offsets, and every other byte stands. -/
theorem tget_putShadow (t : Tab Byte) (off : Nat) (data : List Byte) (i : Nat) : tget (putShadow t off data) i =
    if off ≤ i ∧ i < off + data.length then some ((data[i - off]?).getD 0) else tget t i := by
  have hgen (l : List Byte) (k : Nat) (t : Tab Byte) : tget ((l.zipIdx k).foldl (fun t x => tset t (off + x.2) x.1) t) i =
      if off + k ≤ i ∧ i < off + k + l.length then some ((l[i - (off + k)]?).getD 0) else tget t i := by
    induction l generalizing k t with
    | nil =>
      rw [List.zipIdx_nil, List.foldl_nil, if_neg (by simp)]
    | cons x r ih =>
      rw [List.zipIdx_cons, List.foldl_cons, ih]
      by_cases hi : i = off + k
      · subst hi
        rw [if_neg (by omega), if_pos (by simp), tget_tset_self, Nat.sub_self]
        rfl
      · by_cases hin : off + (k + 1) ≤ i ∧ i < off + (k + 1) + r.length
        · rw [if_pos hin, if_pos (by rw [List.length_cons]; omega), show i - (off + k) = (i - (off + (k + 1))) + 1 by omega,
            List.getElem?_cons_succ]
        · rw [if_neg hin, if_neg (by rw [List.length_cons]; omega), tget_tset_of_ne _ _ hi]
  exact hgen data 0 t

theorem length_bytesAt (b : List Byte) (off n : Nat) : (bytesAt b off n).length = n := by
  simp [bytesAt]

theorem getD_bytesAt (b : List Byte) {n i : Nat} (h : i < n) : ((bytesAt b 0 n)[i]?).getD 0 = (b[i]?).getD 0 := by
  simp [bytesAt, h]

theorem shadowRecord_good {s : State} {n : Nat} {r : InstRecord} (h : s.shadowRecord n = some r) : n ≠ 0 ∧ r.good s.quadSlot = true := by
  unfold State.shadowRecord at h
  split at h
  · rename_i hn
    obtain ⟨x, _, hx⟩ := Option.bind_eq_some_iff.mp h
    split at hx
    · cases hx
      exact ⟨hn.1, by assumption⟩
    · cases hx
  · cases h

/-! ## The end of a write -/

theorem streamConfig_cfg (s : State) (b : Stored) : (s.streamConfig b).cfg = s.cfg := by
  unfold State.streamConfig
  split <;> rfl

theorem foldl_finish_cfg (l : List CfgWait) (s : State) : (l.foldl (fun s w => s.finish w.cmd (ok w.result)) s).cfg = s.cfg := by
  induction l generalizing s with
  | nil => rfl
  | cons w r ih =>
    obtain ⟨_, _, _, _, _, _, _, h, _⟩ := finish_keeps s w.cmd (ok w.result)
    rw [List.foldl_cons, ih, h]

theorem written_frame (c : Cfg) (w : CfgSlot) : (c.written w).seq = w.seq ∧ (c.written w).live = c.live ∧
    (c.written w).nextCmds = c.nextCmds ∧ (c.written w).writing = none ∧
    (if c.flashA.map (·.seq) = some c.seq then (c.written w).flashB = some w ∧ (c.written w).flashA = c.flashA
      else (c.written w).flashA = some w ∧ (c.written w).flashB = c.flashB) := by
  unfold Cfg.written
  dsimp only
  split <;> exact ⟨rfl, rfl, rfl, rfl, rfl, rfl⟩

/-- The slot written is in force and its commands are answered. -/
def State.writeEnds (s : State) (w : CfgSlot) : State :=
  s.cfg.writeCmds.foldl (fun t x => t.finish x.cmd (ok x.result)) (({ s with cfg := s.cfg.written w } : State).streamConfig w.body)

theorem writeEnds_cfg (s : State) (w : CfgSlot) : (s.writeEnds w).cfg = s.cfg.written w :=
  (foldl_finish_cfg _ _).trans (streamConfig_cfg _ _)

theorem configWritten_eq {s : State} {w : CfgSlot} (h : s.cfg.writing = some w) : s.configWritten true =
    if (s.writeEnds w).cfg.nextCmds.isEmpty then s.writeEnds w
    else { s.writeEnds w with cfg := (s.writeEnds w).cfg.beginWrite (s.writeEnds w).cfg.nextCmds } := by
  unfold State.configWritten
  rw [h]
  rfl

/-- CONFIG_WRITE_DONE with a good read-back. -/
theorem configWritten_leaves {s : State} {w : CfgSlot} (h : s.cfg.writing = some w) : (s.configWritten true).cfg.seq = w.seq ∧
    (s.configWritten true).cfg.live = s.cfg.live ∧ (s.cfg.nextCmds = [] → (s.configWritten true).cfg.writing = none ∧
      s.configWritten true = s.writeEnds w ∧
      if s.cfg.flashA.map (·.seq) = some s.cfg.seq then (s.configWritten true).cfg.flashB = some w ∧
          (s.configWritten true).cfg.flashA = s.cfg.flashA
        else (s.configWritten true).cfg.flashA = some w ∧ (s.configWritten true).cfg.flashB = s.cfg.flashB) := by
  obtain ⟨h1, h2, h3, h4, h5⟩ := written_frame s.cfg w
  rw [configWritten_eq h, writeEnds_cfg, h3]
  by_cases hn : s.cfg.nextCmds = []
  · rw [hn]
    simp only [List.isEmpty_nil, if_true, writeEnds_cfg]
    exact ⟨h1, h2, fun _ => ⟨h4, trivial, h5⟩⟩
  · rw [if_neg (by simpa using hn)]
    obtain ⟨b1, _, _, b4⟩ := beginWrite_leaves (s.cfg.written w) s.cfg.nextCmds
    exact ⟨b4.trans h1, b1.trans h2, fun hnil => absurd hnil hn⟩

/-! ## The settings -/

theorem ensureKey_live (s : State) (tenant : Nat) : (s.ensureKey tenant).trust.live tenant ≠ [] := by
  unfold State.ensureKey
  split
  · rw [createKey_live]
    exact List.cons_ne_nil _ _
  · rename_i h
    simpa using h

/-- The configuration with a calibration set in place of the former one. -/
def Cfg.calibrated (c : Cfg) (set : List Byte) : Cfg :=
  { c with cal := set, calHead := bytesAt (slotBytes 0 set) 0 32, calValid := true, calFactory := false }

theorem finish_cfg (s : State) (id : Nat) (a : Ans) : (s.finish id a).cfg = s.cfg := by
  obtain ⟨_, _, _, _, _, _, _, h, _⟩ := finish_keeps s id a
  exact h

theorem reply_mgr_cfg (s : State) (id : Nat) (a : Ans) : (s.reply id a).mgr = s.mgr ∧ (s.reply id a).cfg = s.cfg := by
  obtain ⟨_, _, h1, h2, _⟩ := ((Outward.refl s).reply id a).rest
  exact ⟨h1, h2⟩

theorem finish_mgr (s : State) (id : Nat) (a : Ans) : (s.finish id a).mgr = s.mgr := by
  obtain ⟨_, _, _, h, _⟩ := finish_keeps s id a
  exact h

/-- A piece of the record in the shadow. -/
def State.shadowed (s : State) (c : Cmd) (data : List Byte) : State :=
  { s with cfg := { s.cfg with shadow := putShadow s.cfg.shadow (c.num 32 8) (bytesAt (c.buffer data) 0 c.dataLen) } }

theorem exec_topoRecWrite {s : State} {id : Nat} {c : Cmd} (data : List Byte) (h : s.Ready id 0x0201 c) (hlen : c.dataLen ≤ 1048576)
    (hheats : s.mgr.heats = []) : ∃ t, exec (.topoRecWrite id data) s = .next t ∧ t.mgr = s.mgr ∧
      t.cfg = if s.bufferFails c then s.cfg else (s.shadowed c data).cfg := by
  have hframe := bufferRead_frame (s.markStarted id) c
  cases hf : s.bufferFails c with
  | true =>
    refine ⟨_, congrArg Host.Outcome.next (run_buffer_fails h rfl hf), ?_⟩
    obtain ⟨h1, h2⟩ := reply_mgr_cfg ((s.markStarted id).bufferRead c) id (fail sHostError)
    rw [h1, h2, hframe]
    exact ⟨rfl, rfl⟩
  | false =>
    have hmgr : ((s.markStarted id).bufferRead c).mgr = s.mgr := by rw [hframe]; rfl
    have hcfg : ((s.markStarted id).bufferRead c).cfg = s.cfg := by rw [hframe]; rfl
    refine ⟨_, congrArg Host.Outcome.next (run_buffer_answers h rfl hf (t := ((s.markStarted id).bufferRead c).shadowed c data)
      (a := { ok [] with bytes := c.dataLen }) ?_), ?_, ?_⟩
    · exact (if_neg (by omega)).trans (if_neg (by rw [hmgr, hheats]; simp))
    · rw [finish_mgr]
      exact hmgr
    · rw [finish_cfg]
      unfold State.shadowed
      rw [hcfg]
      rfl

theorem tget_shadowed (s : State) (c : Cmd) (data : List Byte) (i : Nat) : tget (s.shadowed c data).cfg.shadow i =
    if c.num 32 8 ≤ i ∧ i < c.num 32 8 + c.dataLen then some (((c.buffer data)[i - c.num 32 8]?).getD 0) else tget s.cfg.shadow i := by
  refine (tget_putShadow _ _ _ _).trans ?_
  rw [length_bytesAt]
  by_cases hi : c.num 32 8 ≤ i ∧ i < c.num 32 8 + c.dataLen
  · rw [if_pos hi, if_pos hi, getD_bytesAt _ (by omega)]
  · rw [if_neg hi, if_neg hi]

/-- Settles O48: settings by `store_stores`, the write's end by `configWritten_leaves`, the shadow by `tget_shadowed`. -/
theorem settingsAndRecords : Obligations.SettingsAndRecords := by
  unfold Obligations.SettingsAndRecords
  refine ⟨fun id c s => ⟨fun h => ⟨fun h1 h2 => ?_, fun hv => ?_⟩, fun h => ⟨fun h1 h2 => ?_, fun hv => ?_⟩, fun h => ⟨fun hg => ?_, fun hg => ?_⟩,
      fun h => ⟨fun h1 => ?_, fun h1 h2 h3 => ?_⟩, fun w hw => ⟨?_, ?_⟩, fun hw => ?_⟩,
    fun id c s => ⟨fun data h hlen hheats => ?_, fun h => ⟨fun hheats => ?_, fun hheats => ?_⟩, fun data h hbit hlen => ?_,
      fun data h hbit hf => ?_⟩⟩
  · exact ⟨(s.markStarted id).store id [] fun k => { k with probeS := c.num 32 4 }, congrArg Host.Outcome.next (run_begins h rfl
      (if_neg (show ¬(c.num 32 4 < 5 ∨ 3600 < c.num 32 4) by omega))), store_stores .refl [] _⟩
  · exact congrArg Host.Outcome.next (run_answers h rfl (if_pos hv))
  · exact ⟨(s.markStarted id).store id [] fun k => { k with drainUs := c.num 32 4 }, congrArg Host.Outcome.next (run_begins h rfl
      (if_neg (show ¬(c.num 32 4 < 20 ∨ 20000 < c.num 32 4) by omega))), store_stores .refl [] _⟩
  · exact congrArg Host.Outcome.next (run_answers h rfl (if_pos hv))
  · let u := if recEnabled (BitVec.ofNat 64 (c.num 40 8)) then (s.markStarted id).ensureKey (c.num 32 2) else s.markStarted id
    have hu : u = if recEnabled (BitVec.ofNat 64 (c.num 40 8)) then (s.markStarted id).ensureKey (c.num 32 2)
      else s.markStarted id := rfl
    have hkeyed : (s.markStarted id).Keyed u := by
      rw [hu]
      split
      · exact State.Keyed.refl.ensureKey _
      · exact .refl
    have hbody : ∀ f : Stored → Stored, (if (!recGood (BitVec.ofNat 64 (c.num 40 8))) = true then (s.markStarted id, some (bad 40))
        else (u.store id [] f, none)) = (u.store id [] f, none) := fun f => if_neg (by rw [hg]; simp)
    refine ⟨u.store id [] fun k => { k with tenants := tset k.tenants (c.num 32 2) (BitVec.ofNat 64 (c.num 40 8)) },
      congrArg Host.Outcome.next (run_begins h rfl (hbody _)), store_stores hkeyed [] _, fun he => ?_⟩
    change u.trust.live _ ≠ []
    rw [hu, if_pos he]
    exact ensureKey_live _ _
  · exact congrArg Host.Outcome.next (run_answers h rfl (if_pos (by rw [hg]; rfl)))
  · exact congrArg Host.Outcome.next (run_answers h rfl (if_pos h1))
  · let u := (s.markStarted id).evict (c.num 32 4 * gibPages) (c.num 32 4 * gibPages / 16) (s.markStarted id).mem.cache.length
    exact ⟨u.store id [] fun k => { k with cacheGib := c.num 32 4 }, congrArg Host.Outcome.next (run_begins h rfl
      ((if_neg (Nat.not_lt.mpr h1)).trans ((if_neg (Nat.not_lt.mpr h2)).trans (if_neg (Nat.not_lt.mpr h3))))),
      store_stores (State.Keyed.refl.evict _ _ _) [] _⟩
  · change Host.Outcome.next (s.configWritten false) = _
    unfold State.configWritten
    rw [hw]
    rfl
  · obtain ⟨h1, h2, h3⟩ := configWritten_leaves hw
    exact ⟨s.configWritten true, rfl, h1, h2, h3⟩
  · change Host.Outcome.next (s.configWritten true) = _
    unfold State.configWritten
    rw [hw]
  · obtain ⟨t, hexec, hmgr, hcfg⟩ := exec_topoRecWrite data h hlen hheats
    refine ⟨t, hexec, hmgr, ?_, fun i => ?_⟩
    · rw [hcfg]
      split <;> rfl
    · rw [hcfg]
      cases hf : s.bufferFails c with
      | true => simp
      | false => simpa using tget_shadowed s c data i
  · exact congrArg Host.Outcome.next (run_answers h rfl (if_pos (by simpa using hheats)))
  · have hbusy : ¬(!(s.markStarted id).mgr.heats.isEmpty) = true := by
      change ¬(!s.mgr.heats.isEmpty) = true
      rw [hheats]
      simp
    cases hr : s.shadowRecord (c.num 32 8) with
    | none =>
      refine ⟨(s.markStarted id).finish id (bad 32), congrArg Host.Outcome.next (run_answers h rfl ((if_neg hbusy).trans ?_)),
        finish_mgr _ _ _, rfl⟩
      rw [show (s.markStarted id).shadowRecord (c.num 32 8) = none from hr]
    | some r =>
      obtain ⟨h1, h2⟩ := shadowRecord_good hr
      refine ⟨(s.markStarted id).store id [] fun k => { k with record := some r }, congrArg Host.Outcome.next (run_begins h rfl
        ((if_neg hbusy).trans ?_)), rfl, h1, h2, store_live _ _ _ _⟩
      rw [show (s.markStarted id).shadowRecord (c.num 32 8) = some r from hr]
  · have hframe := bufferRead_frame (s.markStarted id) c
    cases hf : s.bufferFails c with
    | true =>
      refine ⟨_, congrArg Host.Outcome.next (run_buffer_fails h rfl hf), ?_⟩
      rw [if_pos rfl, (reply_mgr_cfg _ _ _).2, hframe]
      rfl
    | false =>
      have hcfg : ((s.markStarted id).bufferRead c).cfg = s.cfg := by rw [hframe]; rfl
      refine ⟨_, congrArg Host.Outcome.next (run_buffer_answers h rfl hf ((if_neg (by rw [hbit]; simp)).trans (if_neg (by omega)))), ?_⟩
      rw [if_neg (by simp), finish_cfg]
      change ((s.markStarted id).bufferRead c).cfg.calibrated (bytesAt (c.buffer data) 0 c.dataLen) = _
      rw [hcfg]
      rfl
  · exact ⟨(s.markStarted id).bufferRead c, congrArg Host.Outcome.next (run_buffer_answers h rfl hf (if_pos (by rw [hbit]; rfl))),
      bufferRead_frame _ _⟩

end Sys2Proof.Machine

/-! # Topology and route commands (R141, R166, R236, R249, R432) -/

namespace Sys2Proof.Machine

/-! ## What setting an entry's service leaves -/

theorem setService_service (s : State) (e : Nat) (v : Service) : ((s.setService e v).entry e).service = v := by
  unfold State.setService
  split
  next h => exact h
  next h =>
    have hpost := ((Outward.refl (s.modEntry e fun x => { x with service := v })).postPf
      { code := 0x0102, heat := 0, tenant := 0, step := 0, detail := leBytes 2 e ++ leBytes 1 v.code }).rest
    obtain ⟨_, _, hmgr, _⟩ := hpost
    rw [journal_frame]
    unfold State.entry
    dsimp only
    rw [hmgr]
    simp

theorem setService_readmitCmds (s : State) (e : Nat) (v : Service) :
    (s.setService e v).mgr.readmitCmds = s.mgr.readmitCmds := by
  unfold State.setService
  split
  · rfl
  · have hpost := ((Outward.refl (s.modEntry e fun x => { x with service := v })).postPf
      { code := 0x0102, heat := 0, tenant := 0, step := 0, detail := leBytes 2 e ++ leBytes 1 v.code }).rest
    obtain ⟨_, _, hmgr, _⟩ := hpost
    rw [journal_frame]
    dsimp only
    rw [hmgr]
    rfl

/-! ## A new discovery -/

theorem setFabric_eq (s : State) (v : Nat) : (s.setFabric v).mgr = { s.mgr with fabricState := v } := by
  unfold State.setFabric
  split
  next h => rw [← h]
  next h =>
    obtain ⟨_, _, hmgr, _⟩ := ((Outward.refl ({ s with mgr := { s.mgr with fabricState := v } } : State)).postPf
      { code := 0x0101, heat := 0, tenant := 0, step := 0, detail := leBytes 1 v }).rest
    exact hmgr

theorem foldl_finish_mgr_cfg (l : List (Nat × Nat)) (a : Ans) (s : State) :
    (l.foldl (fun s x => s.finish x.1 a) s).mgr = s.mgr ∧ (l.foldl (fun s x => s.finish x.1 a) s).cfg = s.cfg := by
  induction l generalizing s with
  | nil => exact ⟨rfl, rfl⟩
  | cons x l ih =>
    obtain ⟨hm, hc⟩ := ih (s.finish x.1 a)
    rw [List.foldl_cons]
    exact ⟨hm.trans (finish_mgr _ _ _), hc.trans (finish_cfg _ _ _)⟩

/-- The manager's model as a discovery begins (R141): a blank one, of the record that is stored. -/
theorem newDiscovery_mgr (s : State) (cmd : Option Nat) : (s.newDiscovery cmd).mgr = { s.mgr.blank with
    record := s.cfg.live.record, disc := { Disc.reset with cmd := cmd }, fabricState := 1 } := by
  unfold State.newDiscovery
  dsimp only
  obtain ⟨hm, hc⟩ := foldl_finish_mgr_cfg s.mgr.readmitCmds (fail sBusy) s
  rw [setFabric_eq]
  generalize s.mgr.readmitCmds.foldl (fun s x => s.finish x.1 (fail sBusy)) s = t at hm hc ⊢
  rw [← hm, ← hc]
  rfl

theorem tkeys_tmap {α β : Type} (f : Nat → α → β) (t : Tab α) : tkeys (tmap f t) = tkeys t := by
  induction t with
  | nil => rfl
  | cons x t ih => exact congrArg (x.1 :: ·) ih

/-- Training ports one by one changes neither the manager's model nor which ports there are. -/
theorem foldl_startTraining_chrohar (l : List Nat) (t : State) (hs : (tkeys t.link.ports).Pairwise (· < ·)) :
    (l.foldl (fun s p => s.startTraining .chrohar p) t).mgr = t.mgr ∧
    tkeys (l.foldl (fun s p => s.startTraining .chrohar p) t).link.ports = tkeys t.link.ports := by
  induction l generalizing t with
  | nil => exact ⟨rfl, rfl⟩
  | cons p r ih =>
    have hone := startTraining_chrohar_ports hs p
    obtain ⟨hm, hp⟩ := ih (t.startTraining .chrohar p) (by rw [hone]; exact hs)
    rw [List.foldl_cons]
    refine ⟨hm.trans ?_, hp.trans hone⟩
    rw [startTraining_chrohar_frame]

theorem retrainAll_leaves (s : State) : s.retrainAll.mgr = { s.mgr with peersRefused := false } ∧
    tkeys s.retrainAll.link.ports = tkeys (installedPorts s.mgr.record) := by
  unfold State.retrainAll
  dsimp only
  obtain ⟨hm, hp⟩ := foldl_startTraining_chrohar
    (tkeys (tmap (fun p q => { q with idChanged := (s.link.port p).idChanged }) (installedPorts s.mgr.record)))
    { s with
      link := { s.link with
        ports := tmap (fun p q => { q with idChanged := (s.link.port p).idChanged }) (installedPorts s.mgr.record), onSpare := []
        log := [], pools := tmap (fun tile _ => s.link.sparesOf tile) s.link.pools }
      mgr := { s.mgr with peersRefused := false } }
    (by rw [tkeys_tmap]; exact installedPorts_sorted _)
  exact ⟨hm, hp.trans (tkeys_tmap _ _)⟩

/-! ## The commands -/

section
variable {id : Nat} {c : Cmd} {s : State}

theorem exec_topoDiscover_of_heats (h : s.Ready id 0x0204 c) (hh : s.mgr.heats ≠ []) :
    exec (.topoDiscover id) s = .next ((s.markStarted id).finish id (fail sBusy)) := by
  refine congrArg Host.Outcome.next (run_answers h rfl (if_pos ?_))
  show (!s.mgr.heats.isEmpty) = true
  simpa using hh

theorem exec_topoDiscover_of_no_record (h : s.Ready id 0x0204 c) (hh : s.mgr.heats = []) (hr : s.cfg.live.record = none) :
    exec (.topoDiscover id) s = .next ((s.markStarted id).finish id (fail sTopology)) := by
  refine congrArg Host.Outcome.next (run_answers h rfl ((if_neg ?_).trans (if_pos ?_)))
  · show ¬(!s.mgr.heats.isEmpty) = true
    simpa using hh
  · show s.cfg.live.record.isNone = true
    rw [hr]
    rfl

theorem exec_topoDiscover_begins (h : s.Ready id 0x0204 c) (hh : s.mgr.heats = []) (hr : s.cfg.live.record.isSome = true)
    (hf : s.mgr.fabricState ≠ 1) :
    exec (.topoDiscover id) s = .next ((s.markStarted id).newDiscovery (some id)).retrainAll := by
  refine congrArg Host.Outcome.next (run_begins h rfl ((if_neg ?_).trans ((if_neg ?_).trans (if_neg hf))))
  · show ¬(!s.mgr.heats.isEmpty) = true
    simpa using hh
  · show ¬s.cfg.live.record.isNone = true
    simpa using Option.isSome_iff_ne_none.mp hr

/-- A discovery that begins has the record's ports and nothing else in the model. -/
theorem discovery_begun (s : State) (id : Nat) : (s.newDiscovery (some id)).retrainAll.mgr.fabricState = 1 ∧
    (s.newDiscovery (some id)).retrainAll.mgr.record = s.cfg.live.record ∧
    (s.newDiscovery (some id)).retrainAll.mgr.entries = [] ∧ (s.newDiscovery (some id)).retrainAll.mgr.jobs = [] ∧
    (s.newDiscovery (some id)).retrainAll.mgr.disc.cmd = some id ∧
    tkeys (s.newDiscovery (some id)).retrainAll.link.ports = tkeys (installedPorts s.cfg.live.record) := by
  obtain ⟨hm, hp⟩ := retrainAll_leaves (s.newDiscovery (some id))
  rw [hm, hp, newDiscovery_mgr]
  exact ⟨rfl, rfl, rfl, rfl, rfl, rfl⟩

theorem exec_routeFull_of_out {v : BitVec 16} (h : s.Ready id 0x0301 c) (hv : s.outOfFabric = some v) :
    exec (.routeFull id) s = .next ((s.markStarted id).finish id (fail v)) := by
  have hv' : (s.markStarted id).outOfFabric = some v := hv
  refine congrArg Host.Outcome.next (run_answers h rfl ?_)
  rw [hv']

theorem exec_routeFull_in_service (h : s.Ready id 0x0301 c) (hv : s.outOfFabric = none) : exec (.routeFull id) s =
    .next ((s.markStarted id).addJob (epochSteps true ++ [.routeReply id]) none).settle := by
  have hv' : (s.markStarted id).outOfFabric = none := hv
  refine congrArg Host.Outcome.next (run_begins h rfl ?_)
  rw [hv']

theorem exec_topoPortRetrain_in_service (h : s.Ready id 0x0209 c) (hp : (tget s.link.ports (c.num 32 2)).isSome = true)
    (hu : (s.link.port (c.num 32 2)).isUp = true) (hr : s.retraining (c.num 32 2) = false) (hv : s.outOfFabric = none) :
    exec (.topoPortRetrain id) s = .next ((s.markStarted id).addJob
      (epochSteps false ++ [.retrain (c.num 32 2), .wait, .portReply (c.num 32 2) id]) none).settle := by
  have hv' : (s.markStarted id).outOfFabric = none := hv
  refine congrArg Host.Outcome.next (run_begins h rfl ((if_neg ?_).trans ((if_neg ?_).trans ?_)))
  · show ¬(tget s.link.ports (c.num 32 2)).isNone = true
    simpa using Option.isSome_iff_ne_none.mp hp
  · show ¬(!(s.link.port (c.num 32 2)).isUp || s.retraining (c.num 32 2)) = true
    rw [hu, hr]
    decide
  · rw [hv']

theorem exec_topoPortRetrain_of_unlisted (h : s.Ready id 0x0209 c) (hp : tget s.link.ports (c.num 32 2) = none) :
    exec (.topoPortRetrain id) s = .next ((s.markStarted id).finish id (bad 32)) := by
  refine congrArg Host.Outcome.next (run_answers h rfl (if_pos ?_))
  show (tget s.link.ports (c.num 32 2)).isNone = true
  rw [hp]
  rfl

theorem exec_topoPortRetrain_of_down (h : s.Ready id 0x0209 c) (hp : (tget s.link.ports (c.num 32 2)).isSome = true)
    (hu : (s.link.port (c.num 32 2)).isUp = false ∨ s.retraining (c.num 32 2) = true) :
    exec (.topoPortRetrain id) s = .next ((s.markStarted id).finish id (fail sBusy)) := by
  refine congrArg Host.Outcome.next (run_answers h rfl ((if_neg ?_).trans (if_pos ?_)))
  · show ¬(tget s.link.ports (c.num 32 2)).isNone = true
    simpa using Option.isSome_iff_ne_none.mp hp
  · show (!(s.link.port (c.num 32 2)).isUp || s.retraining (c.num 32 2)) = true
    rcases hu with h | h <;> simp [h]

theorem exec_topoEntryHold_of_unlisted (h : s.Ready id 0x0205 c) (he : s.hasEntry (c.num 32 2) = false) :
    exec (.topoEntryHold id) s = .next ((s.markStarted id).finish id (bad 32)) := by
  refine congrArg Host.Outcome.next (run_answers h rfl (if_pos ?_))
  show (!s.hasEntry (c.num 32 2)) = true
  rw [he]
  rfl

theorem exec_topoEntryHold_of_listed (h : s.Ready id 0x0205 c) (he : s.hasEntry (c.num 32 2) = true) :
    exec (.topoEntryHold id) s = .next (((s.markStarted id).holdEntry (c.num 32 2) (c.bit 34 0)).settle.finish id
      (ok (leBytes 1 (((s.markStarted id).holdEntry (c.num 32 2) (c.bit 34 0)).entry (c.num 32 2)).service.code))) := by
  refine congrArg Host.Outcome.next (run_answers h rfl (if_neg ?_))
  show ¬(!s.hasEntry (c.num 32 2)) = true
  rw [he]
  decide

theorem exec_topoReadmit_of_unlisted (h : s.Ready id 0x0206 c) (he : s.hasEntry (c.num 32 2) = false) :
    exec (.topoReadmit id) s = .next ((s.markStarted id).finish id (bad 32)) := by
  refine congrArg Host.Outcome.next (run_answers h rfl (if_pos ?_))
  show (!s.hasEntry (c.num 32 2)) = true
  rw [he]
  rfl

theorem exec_topoReadmit_in_service (h : s.Ready id 0x0206 c) (he : s.hasEntry (c.num 32 2) = true)
    (hv : (s.entry (c.num 32 2)).service = .inService ∨ (s.entry (c.num 32 2)).service = .failedForwarding) :
    exec (.topoReadmit id) s =
      .next ((s.markStarted id).finish id (ok (leBytes 1 (s.entry (c.num 32 2)).service.code))) := by
  refine congrArg Host.Outcome.next (run_answers h rfl ((if_neg ?_).trans (if_pos hv)))
  show ¬(!s.hasEntry (c.num 32 2)) = true
  rw [he]
  decide

/-- The state in which a command's probe of an entry starts (R249). -/
def State.readmitAsked (s : State) (id e : Nat) : State :=
  let s := s.setService e .outOfService
  s.setMgr { s.mgr with readmitCmds := s.mgr.readmitCmds ++ [(id, e)] }

theorem exec_topoReadmit_probes (h : s.Ready id 0x0206 c) (he : s.hasEntry (c.num 32 2) = true)
    (hv : (s.entry (c.num 32 2)).service = .repairHeld ∨ (s.entry (c.num 32 2)).service = .outOfService) :
    exec (.topoReadmit id) s =
      .next (((s.markStarted id).readmitAsked id (c.num 32 2)).startProbe (c.num 32 2)).settle := by
  refine congrArg Host.Outcome.next (run_begins h rfl ((if_neg ?_).trans (if_neg ?_)))
  · show ¬(!s.hasEntry (c.num 32 2)) = true
    rw [he]
    decide
  · show ¬((s.entry (c.num 32 2)).service = .inService ∨ (s.entry (c.num 32 2)).service = .failedForwarding)
    rcases hv with hv | hv <;> rw [hv] <;> decide

end

theorem readmitAsked_service (s : State) (id e : Nat) : ((s.readmitAsked id e).entry e).service = .outOfService :=
  setService_service s e .outOfService

theorem readmitAsked_cmds (s : State) (id e : Nat) :
    (s.readmitAsked id e).mgr.readmitCmds = s.mgr.readmitCmds ++ [(id, e)] :=
  congrArg (· ++ [(id, e)]) (setService_readmitCmds s e .outOfService)

/-- Settles O49: each command's branches, and what the beginning of a discovery leaves of the model and of the ports. -/
theorem topologyCommands : Obligations.TopologyCommands := by
  unfold Obligations.TopologyCommands
  intro id c s
  refine ⟨fun h => ⟨fun hh => exec_topoDiscover_of_heats h hh, fun hh hr => exec_topoDiscover_of_no_record h hh hr,
      fun hh hr hf => ⟨_, exec_topoDiscover_begins h hh hr hf, discovery_begun (s.markStarted id) id⟩⟩,
    fun h => ⟨fun v hv => exec_routeFull_of_out h hv, fun hv => exec_routeFull_in_service h hv⟩,
    fun h => ⟨fun hp => exec_topoPortRetrain_of_unlisted h hp, fun hp hu => exec_topoPortRetrain_of_down h hp hu,
      fun hp hu hr hv => exec_topoPortRetrain_in_service h hp hu hr hv⟩,
    fun h => ⟨fun he => exec_topoEntryHold_of_unlisted h he, fun he => ⟨_, exec_topoEntryHold_of_listed h he, rfl⟩⟩,
    fun h => ⟨fun he => exec_topoReadmit_of_unlisted h he, fun he hv => exec_topoReadmit_in_service h he hv,
      fun he hv => ⟨_, exec_topoReadmit_probes h he hv, readmitAsked_service _ _ _, readmitAsked_cmds _ _ _⟩⟩⟩

end Sys2Proof.Machine

/-! # Heat commands and the heat queue (R166, R193, R198, R199, R214, R215, Table 5-3) -/

namespace Sys2Proof.Machine

/-! ## Entering the queue -/

section
variable {id : Nat} {c : Cmd} {s : State}

theorem run_enterQueue {op : BitVec 16} {f : Cmd → HeatOp} (h : s.Ready id op c) (hb : readsBuffer op = false) :
    s.run op id (fun c s => s.enterQueue id (f c)) = (s.markStarted id).enqueueHeat (f c) (some id) :=
  run_begins h hb rfl

end

/-! ## The checks of a carve (Table 5-3) -/

section
variable {s : State} {src : Option Source} {records : Tab (BitVec 64)} {w : BitVec 64}

/-- A command may name the carve's tenant: no command's source stands against it. -/
theorem source_may_name {id : Nat} (h : ∀ k, s.cmd id = some k → k.src.mayNameTenant (carveTenant w) = true) :
    (((s.cmd id).map (·.src)).any fun x => !x.mayNameTenant (carveTenant w)) = false := by
  cases hk : s.cmd id with
  | none => rfl
  | some k =>
    have hm := h k hk
    simp [hm]

theorem carveChecks_of_bad_word (hw : carveWordBad w = true) : s.carveChecks src records w = some (bad 32) := by
  unfold State.carveChecks
  rw [hw]
  rfl

/-- A word that its source may name is checked against the record in force. -/
theorem carveChecks_of_record {r : InstRecord} (hw : carveWordBad w = false)
    (hs : (src.any fun x => !x.mayNameTenant (carveTenant w)) = false) (hr : s.mgr.record = some r)
    (hb : carveBad r w = false) : s.carveChecks src records w =
      if s.mgr.fabricState = 3 then some (fail sTopology) else if s.mgr.fabricState ≠ 2 then some (fail sBusy)
      else s.carveQuota r records w := by
  unfold State.carveChecks
  rw [hw, hs, hr]
  simp only [Bool.or_false, hb, Bool.false_eq_true, if_false]

theorem carveQuota_of_disabled {r : InstRecord} (he : recEnabled (tenantRec records (carveTenant w)) = false) :
    s.carveQuota r records w = some (fail sQuota) := by
  unfold State.carveQuota
  refine if_pos ?_
  rw [he]
  rfl

end

/-! ## The head of the queue -/

section
variable {s : State} {q : Queued} {rest : List Queued} {id : Nat}

theorem asMgr_of_mgrRuns (h : s.mgrRuns = true) (f : State → State) : s.asMgr f = (f s).settle := if_pos h

/-- Only what can share an epoch's computation joins one that is under way (R166, R214). -/
theorem joins_of_not_computing (op : HeatOp) (h : s.computing = false) : s.joins op = false := by
  cases op <;> simp [State.joins, State.joinable, h]

theorem queueHead_of_empty (h : s.mgr.queue = []) : s.queueHead = s := by
  unfold State.queueHead
  rw [h]

theorem queueHead_of_busy (hj : s.mgr.jobs ≠ []) (hf : s.mgr.fabricState = 2) (hq : s.mgr.queue = q :: rest)
    (h : s.joins q.op = false) : s.queueHead = s := by
  unfold State.queueHead
  rw [hq]
  refine if_neg ?_
  rw [hf, h]
  simpa using hj

/-- The state in which the head of the queue is served. -/
def State.unqueued (s : State) (rest : List Queued) : State := { s with mgr := { s.mgr with queue := rest } }

theorem queueHead_served (h : s.mgr.jobs = [] ∨ s.mgr.fabricState ≠ 2 ∨ s.joins q.op = true) (hq : s.mgr.queue = q :: rest) :
    s.queueHead = (s.unqueued rest).heatCommand q := by
  unfold State.queueHead
  rw [hq]
  refine if_pos ?_
  rcases h with h | h | h <;> simp [h]

theorem exec_heatQueueHead (hr : s.mgrRuns = true) : exec .heatQueueHead s = .next s.queueHead.settle :=
  congrArg Host.Outcome.next (asMgr_of_mgrRuns hr State.queueHead)

theorem exec_heatQueueHead_served (hr : s.mgrRuns = true)
    (h : s.mgr.jobs = [] ∨ s.mgr.fabricState ≠ 2 ∨ s.joins q.op = true) (hq : s.mgr.queue = q :: rest) :
    exec .heatQueueHead s = .next ((s.unqueued rest).heatCommand q).settle := by
  rw [exec_heatQueueHead hr, queueHead_served h hq]

/-! ### Carves -/

theorem heatCommand_of_carve {w : BitVec 64} (ho : q.op = .carve w none) : s.heatCommand q = s.carve q w := by
  unfold State.heatCommand
  rw [ho]

theorem endQueued_of_carve {w : BitVec 64} (hc : q.cmd = some id) (ho : q.op = .carve w none) (a : Ans) :
    s.endQueued q a = s.finish id a := by
  unfold State.endQueued
  rw [hc, ho]

/-- A carve that its checks refuse ends with their answer. -/
theorem heatCommand_of_refused {w : BitVec 64} {a : Ans} (hc : q.cmd = some id) (ho : q.op = .carve w none)
    (h : s.carveChecks ((s.cmd id).map (·.src)) q.records w = some a) : s.heatCommand q = s.finish id a := by
  rw [heatCommand_of_carve ho]
  unfold State.carve
  rw [hc]
  have h' : s.carveChecks (((some id).bind s.cmd).map (·.src)) q.records w = some a := h
  rw [h']
  exact endQueued_of_carve hc ho a

theorem heatCommand_of_placed {w : BitVec 64} {n : Net} {h : Heat} {ts : List Axis} (hc : q.cmd = some id)
    (ho : q.op = .carve w none) (hk : s.carveChecks ((s.cmd id).map (·.src)) q.records w = none) (hn : s.net = some n)
    (hp : (s.placing n q.records).search w q.seq = some (h, ts)) : s.heatCommand q = s.setUpHeat n q h ts := by
  rw [heatCommand_of_carve ho]
  unfold State.carve
  rw [hc]
  have hk' : s.carveChecks (((some id).bind s.cmd).map (·.src)) q.records w = none := hk
  rw [hk', hn]
  dsimp only
  rw [hp]

/-! ### Releases and fences of no open heat -/

theorem heatFor_of_none {src : Source} {no : Nat} (h : tget s.mgr.heats no = none) : s.heatFor src no = none := by
  unfold State.heatFor
  rw [h]

theorem endQueued_of_other (hc : q.cmd = some id) (ho : ∀ w r, q.op ≠ .carve w r) (a : Ans) :
    s.endQueued q a = s.finish id a := by
  obtain ⟨op, seq, cmd, records⟩ := q
  obtain rfl : cmd = some id := hc
  cases op with
  | carve w r => exact absurd rfl (ho w r)
  | release => rfl
  | fence => rfl
  | unfence => rfl

theorem heatCommand_of_no_release {no : Nat} {keep : Bool} (hc : q.cmd = some id) (ho : q.op = .release no keep)
    (h : tget s.mgr.heats no = none) : s.heatCommand q = s.finish id (bad 32) := by
  refine Eq.trans ?_ (endQueued_of_other hc (fun w r hw => by rw [ho] at hw; cases hw) (bad 32))
  unfold State.heatCommand
  rw [ho]
  dsimp only
  cases hs : (q.cmd.bind s.cmd).map (·.src) with
  | none => rw [h]
  | some x =>
    dsimp only
    rw [heatFor_of_none h]

theorem heatCommand_of_no_fence {no rank : Nat} (hc : q.cmd = some id) (ho : q.op = .fence no rank ∨ q.op = .unfence no rank)
    (h : tget s.mgr.heats no = none) : s.heatCommand q = s.finish id (bad 32) := by
  refine Eq.trans ?_ (endQueued_of_other hc (fun w r hw => by rcases ho with ho | ho <;> rw [ho] at hw <;> cases hw) (bad 32))
  unfold State.heatCommand
  rcases ho with ho | ho
  · rw [ho]
    dsimp only
    cases hs : (q.cmd.bind s.cmd).map (·.src) with
    | none => rw [h]
    | some x =>
      dsimp only
      rw [heatFor_of_none h]
  · rw [ho]
    dsimp only
    cases hs : (q.cmd.bind s.cmd).map (·.src) with
    | none => rw [h]
    | some x =>
      dsimp only
      rw [heatFor_of_none h]

end

/-- Settles O50: commands enter the queue in order, and its head is refused, placed, or left until the manager is free. -/
theorem heatCommands : Obligations.HeatCommands := by
  unfold Obligations.HeatCommands
  refine ⟨fun id c s => ⟨fun h => congrArg Host.Outcome.next (run_enterQueue h rfl),
    fun h => congrArg Host.Outcome.next (run_enterQueue h rfl), fun h => congrArg Host.Outcome.next (run_enterQueue h rfl),
    fun h => congrArg Host.Outcome.next (run_enterQueue h rfl)⟩, fun s hr => ⟨fun hq => ?_, fun q rest hj hf hq hn => ?_,
    fun q rest id hfree hq hc => ⟨fun w ho => ⟨fun hw => ?_, fun hw hs r hrec hb h2 h3 => ?_, fun hw hs r hrec hb h2 he => ?_,
      fun hk n h ts hnet hp => ?_⟩, fun no keep ho h => ?_, fun no rank ho h => ?_⟩⟩⟩
  · rw [exec_heatQueueHead hr, queueHead_of_empty hq]
  · have hjoin : s.joins q.op = false := by
      rcases hn with hn | hn | ⟨no, rank, hn⟩
      · exact hn
      · exact joins_of_not_computing _ hn
      · rw [hn]
        rfl
    rw [exec_heatQueueHead hr, queueHead_of_busy hj hf hq hjoin]
  · rw [exec_heatQueueHead_served hr hfree hq, heatCommand_of_refused hc ho (carveChecks_of_bad_word hw)]
    rfl
  · have hk : (s.unqueued rest).carveChecks (((s.unqueued rest).cmd id).map (·.src)) q.records w = some (fail sBusy) := by
      exact (carveChecks_of_record (s := s.unqueued rest) hw (source_may_name (s := s.unqueued rest) hs) hrec hb).trans
        ((if_neg h3).trans (if_pos h2))
    rw [exec_heatQueueHead_served hr hfree hq, heatCommand_of_refused hc ho hk]
    rfl
  · have hk : (s.unqueued rest).carveChecks (((s.unqueued rest).cmd id).map (·.src)) q.records w = some (fail sQuota) := by
      have h2' : (s.unqueued rest).mgr.fabricState = 2 := h2
      refine (carveChecks_of_record (s := s.unqueued rest) hw (source_may_name (s := s.unqueued rest) hs) hrec hb).trans ?_
      rw [carveQuota_of_disabled he, h2']
      rfl
    rw [exec_heatQueueHead_served hr hfree hq, heatCommand_of_refused hc ho hk]
    rfl
  · rw [exec_heatQueueHead_served hr hfree hq, heatCommand_of_placed (s := s.unqueued rest) hc ho hk hnet hp]
    rfl
  · rw [exec_heatQueueHead_served hr hfree hq, heatCommand_of_no_release (s := s.unqueued rest) hc ho h]
    rfl
  · rw [exec_heatQueueHead_served hr hfree hq, heatCommand_of_no_fence (s := s.unqueued rest) hc ho h]
    rfl

end Sys2Proof.Machine

/-! # Plan loads, plan commands and the forge state (R31, R298, R299, R303, R382, R394, R401 to R403) -/

namespace Sys2Proof.Machine

/-! ## What the hub's sending leaves of the manager's model -/

theorem foldl_hubSend_mgr (l : List Pkt) (s : State) : (l.foldl State.hubSend s).mgr = s.mgr := by
  induction l generalizing s with
  | nil => rfl
  | cons p l ih =>
    rw [List.foldl_cons, ih]
    unfold State.hubSend
    split <;> rfl

theorem hubLaunch_mgr (s : State) (st : SrcStep) : (s.hubLaunch st).mgr = s.mgr := foldl_hubSend_mgr _ _

theorem sendResult_mgr (s : State) (no : Nat) (p : Pkt) : (s.sendResult no p).mgr = s.mgr := by
  have ho (base : Nat) : (s.hubOffer p base).1.mgr = s.mgr := hubLaunch_mgr s _
  unfold State.sendResult
  dsimp only
  split
  · exact ho _
  · exact ho _

/-- Steps that leave the manager's model as it is leave it so together. -/
theorem foldl_keeps_mgr {α : Type} (f : State → α → State) (hf : ∀ s x, (f s x).mgr = s.mgr) (l : List α) (s : State) :
    (l.foldl f s).mgr = s.mgr := by
  induction l generalizing s with
  | nil => rfl
  | cons x l ih => rw [List.foldl_cons, ih, hf]

theorem sendToRanks_mgr (s : State) (no : Nat) (h : Heat) (d : CollDesc) (unit : Nat) (ranks : List Nat) (multi : Bool)
    (hdr : BilletHdr) (payload : List Byte) : (s.sendToRanks no h d unit ranks multi hdr payload).mgr = s.mgr := by
  unfold State.sendToRanks
  dsimp only
  refine (foldl_keeps_mgr _ (fun s k => ?_) _ _).trans (foldl_keeps_mgr _ (fun s l => ?_) _ _)
  · split
    · exact sendResult_mgr _ _ _
    · rfl
  · split
    · rfl
    · exact sendResult_mgr _ _ _

theorem startStep_mgr (s : State) (no : Nat) (d : CollDesc) (step : Nat) : (s.startStep no d step).mgr = s.mgr := by
  have hopen : (s.openHubStep no d.collId step).mgr = s.mgr := by
    unfold State.openHubStep
    split <;> rfl
  unfold State.startStep
  dsimp only
  split
  · unfold State.broadcast
    split
    · exact hopen
    · refine (foldl_keeps_mgr _ (fun s c => ?_) _ _).trans hopen
      exact sendToRanks_mgr _ _ _ _ _ _ _ _ _
  · exact hopen

/-! ## A plan that begins -/

/-- Noting that a fenced rank is lost touches no heat's record. -/
theorem foldl_loseFenced_heats (h : Heat) (l : List Nat) (s : State) :
    (l.foldl (fun s e => s.loseFenced h e) s).mgr.heats = s.mgr.heats := by
  induction l generalizing s with
  | nil => rfl
  | cons e l ih =>
    rw [List.foldl_cons, ih]
    unfold State.loseFenced
    dsimp only
    split <;> rfl

theorem checkFenced_heats (s : State) (no : Nat) (d : CollDesc) (step : Nat) :
    (s.checkFenced no d step).mgr.heats = s.mgr.heats := by
  unfold State.checkFenced
  split
  · split
    · rfl
    · exact foldl_loseFenced_heats _ _ _
  · rfl

theorem checkSource_heats (s : State) (no rank : Nat) : (s.checkSource no rank).mgr.heats = s.mgr.heats := by
  unfold State.checkSource
  split
  · split
    · exact foldl_loseFenced_heats _ _ _
    · rfl
  · rfl

theorem foldl_keeps_heats {α : Type} (f : State → α → State) (hf : ∀ s x, (f s x).mgr.heats = s.mgr.heats) (l : List α)
    (s : State) : (l.foldl f s).mgr.heats = s.mgr.heats := by
  induction l generalizing s with
  | nil => rfl
  | cons x l ih => rw [List.foldl_cons, ih, hf]

theorem checkPlan_heats (s : State) (no : Nat) : (s.checkPlan no).mgr.heats = s.mgr.heats := by
  unfold State.checkPlan
  split
  · dsimp only
    refine (foldl_keeps_heats _ (fun s k => checkSource_heats s no k) _ _).trans (foldl_keeps_heats _ (fun s d => ?_) _ _)
    split
    · rfl
    · exact checkFenced_heats _ _ _ _
  · rfl

/-- Opening a plan's steps counts them from the step that it resumes at, and changes no other heat's record. -/
theorem openPlan_heats (s : State) (no : Nat) (p : Plan) (resume : Nat) : (s.openPlan no p resume).mgr.heats =
    (s.modPlan no fun q => { q with resume := resume, opens := [] }).mgr.heats := by
  unfold State.openPlan
  rw [checkPlan_heats]
  unfold State.openSteps
  refine congrArg Mgr.heats (foldl_keeps_mgr _ (fun s d => ?_) _ _)
  split
  · rfl
  · split
    · exact startStep_mgr _ _ _ _
    · rfl

theorem startStream_mgr (s : State) (no : Nat) : (s.startStream no).mgr = s.mgr := by
  unfold State.startStream
  repeat' split
  all_goals rfl

/-- A plan as it starts: with nothing saved yet but what it starts from. -/
def Plan.started (p : Plan) (tenant : Nat) : Plan :=
  { p with held := false, lastSaved := some (p.snapshot tenant p.resume), opens := [] }

theorem beginPlan_heat {s : State} {no : Nat} {h : Heat} {p : Plan} (hh : tget s.mgr.heats no = some h) (hp : h.plan = some p) :
    tget (s.beginPlan no).mgr.heats no = some { h with plan := some (p.started h.tenant), state := 1 } := by
  have h1 (f : Heat → Heat) : tget (s.modHeat no f).mgr.heats no = some (f h) :=
    (tget_tmod_self s.mgr.heats no f).trans (congrArg (Option.map f) hh)
  unfold State.beginPlan
  dsimp only
  generalize hu : s.modHeat no _ = u
  have h2 : tget u.mgr.heats no = some { h with
      plan := some { p with held := false, lastSaved := some (p.snapshot h.tenant p.resume) }, state := 1 } := by
    rw [← hu, h1, hp]
    rfl
  have h3 : u.planOf no = some { p with held := false, lastSaved := some (p.snapshot h.tenant p.resume) } := by
    unfold State.planOf
    rw [h2]
    rfl
  rw [h3]
  dsimp only
  rw [startStream_mgr, openPlan_heats]
  refine (tget_tmod_self u.mgr.heats no _).trans ?_
  rw [h2]
  rfl

/-! ## A plan that stops -/

/-- A heat whose plan's places are free has no plan. -/
theorem freePlan_heat (s : State) (no : Nat) : ∀ g, tget (s.freePlan no).mgr.heats no = some g → g.plan = none := by
  have hkeys (u : State) : u.retireKeys.mgr = u.mgr := by
    have hk (l : List Nat) (v : State) (h : u.Keyed v) : u.Keyed (l.foldl State.retireKey v) := by
      induction l generalizing v with
      | nil => exact h
      | cons t l ih => exact ih _ (h.retireKey t)
    obtain ⟨_, _, _, hm, _⟩ := (hk (tkeys u.trust.gens) u .refl).frame
    exact hm
  intro g hg
  unfold State.freePlan at hg
  rw [hkeys] at hg
  generalize (s.setMgr { s.mgr with groups := s.mgr.groups.filter fun g => g.2.heat != no }).setMem _ = u at hg
  have hg' := (tget_tmod_self s.mgr.heats no _).symm.trans hg
  obtain ⟨k, _, rfl⟩ := Option.map_eq_some_iff.mp hg'
  rfl

theorem stopPlan_heat (s : State) (no : Nat) (h : Heat) (keep : Bool) :
    ∀ g, tget (s.stopPlan no h keep).1.mgr.heats no = some g → g.plan = none := by
  intro g hg
  unfold State.stopPlan at hg
  dsimp only at hg
  generalize (if h.keptId = 0 then _ else _ : State × Nat) = kept at hg
  have hheats : tget ((kept.1.freePlan no).modHeat no fun h => { h with keptId := 0 }).mgr.heats no = some g := by
    split at hg
    · exact hg
    · exact hg
  obtain ⟨k, hk, rfl⟩ := Option.map_eq_some_iff.mp ((tget_tmod_self (kept.1.freePlan no).mgr.heats no _).symm.trans hheats)
  exact freePlan_heat kept.1 no k hk

/-! ## Loads -/

section
variable {id no : Nat} {c : Cmd} {s u : State} {h : Heat} {n : Net} {image : PlanImage} {supplied : Nat} {enter : Bool}

theorem heatFor_open {src : Source} (hh : s.heatFor src no = some h) : tget s.mgr.heats no = some h := by
  unfold State.heatFor at hh
  split at hh
  next k hk =>
    split at hh
    · rw [hk, ← hh]
    · cases hh
  next => cases hh

theorem loadBy_of_none (hh : u.heatFor c.src (c.num 32 2) = none) :
    u.loadBy c image supplied enter = (u, some (bad 32)) := by
  unfold State.loadBy
  dsimp only
  rw [hh]

theorem loadBy_busy (hh : u.heatFor c.src (c.num 32 2) = some h) (hn : u.net = some n)
    (hb : h.plan.isSome = true ∨ u.loading (c.num 32 2) = true) :
    u.loadBy c image supplied enter = (u, some (fail sBusy)) := by
  unfold State.loadBy
  dsimp only
  rw [hh, hn]
  refine if_pos ?_
  rcases hb with hb | hb <;> simp [hb]

/-- What a load command asks for (R401). -/
def Cmd.loadAsk (c : Cmd) (image : PlanImage) (supplied : Nat) (enter : Bool) (moved : Nat) : LoadAsk :=
  { image := image, supplied := supplied, stochastic := c.num 35 1 == 1, seed := BitVec.ofNat 64 (c.num 40 8)
    resume := c.num 48 8, savedId := c.num 56 8, hold := c.bit 34 1, enter := enter, cmd := some c.id, restart := none
    moved := moved }

/-- What a load that is judged comes to: its checks' answer, or the load begun. -/
def State.judged (u : State) (c : Cmd) (n : Net) (h : Heat) (q : LoadAsk) : State × Option Ans :=
  match u.loadPlan n (c.num 32 2) h q with
  | .inl a => (u, some a)
  | .inr v => ((v.startLoad (c.num 32 2)).settle, none)

/-- How a load command stands after that: answered, or with its load begun. -/
def State.loadAnswered (u : State) (id : Nat) (c : Cmd) (n : Net) (h : Heat) (q : LoadAsk) : State :=
  match u.loadPlan n (c.num 32 2) h q with
  | .inl a => u.finish id a
  | .inr v => (v.startLoad (c.num 32 2)).settle

/-- A command whose body is a judged load ends as the load does. -/
theorem loadAnswered_eq (u : State) (id : Nat) (c : Cmd) (n : Net) (h : Heat) (q : LoadAsk) :
    (match (u.judged c n h q).2 with
      | some a => (u.judged c n h q).1.finish id a
      | none => (u.judged c n h q).1) = u.loadAnswered id c n h q := by
  unfold State.judged State.loadAnswered
  cases u.loadPlan n (c.num 32 2) h q <;> rfl

theorem loadBy_judged (hh : u.heatFor c.src (c.num 32 2) = some h) (hn : u.net = some n) (hp : h.plan = none)
    (hl : u.loading (c.num 32 2) = false) (hr : c.num 35 1 ≤ 1) : u.loadBy c image supplied enter =
      u.judged c n h (c.loadAsk image supplied enter (if readsBuffer c.opcode then supplied else 0)) := by
  unfold State.loadBy
  dsimp only
  rw [hh, hn]
  refine (if_neg ?_).trans (if_neg (Nat.not_lt.mpr hr))
  rw [hp, hl]
  decide

theorem exec_planLoadCached_of_none {err : Bool} (hr : s.Ready id 0x0502 c) (hh : s.heatFor c.src (c.num 32 2) = none) :
    exec (.planLoadCached ⟨id, err⟩) s = .next ((s.markStarted id).finish id (bad 32)) := by
  have hh' : (s.markStarted id).heatFor c.src (c.num 32 2) = none := hh
  refine congrArg Host.Outcome.next (run_answers hr rfl ?_)
  rw [hh']

theorem exec_planLoadCached_busy {err : Bool} (hr : s.Ready id 0x0502 c) (hh : s.heatFor c.src (c.num 32 2) = some h)
    (hb : h.plan.isSome = true ∨ s.loading (c.num 32 2) = true) :
    exec (.planLoadCached ⟨id, err⟩) s = .next ((s.markStarted id).finish id (fail sBusy)) := by
  have hh' : (s.markStarted id).heatFor c.src (c.num 32 2) = some h := hh
  refine congrArg Host.Outcome.next (run_answers hr rfl ?_)
  rw [hh']
  refine if_pos ?_
  change (h.plan.isSome || s.loading (c.num 32 2)) = true
  rcases hb with hb | hb <;> simp [hb]

/-- The entry of the cache that a command names, of the heat's tenant. -/
def State.cached (s : State) (h : Heat) (c : Cmd) : Option CacheEntry :=
  s.mem.cache.find? fun e => e.tenant == h.tenant && e.image.hash == c.hash 64

theorem cached_read (hh : s.heatFor c.src (c.num 32 2) = some h) (hp : h.plan = none)
    (hl : s.loading (c.num 32 2) = false) : (h.plan.isSome || s.loading (c.num 32 2)) = false := by
  rw [hp, hl]
  rfl

theorem cacheMiss_eq (s : State) (c : Cmd) : s.cacheMiss c =
    if c.src.isVf = true ∧ ∃ e ∈ s.mem.cache, e.image.hash = c.hash 64 then bad 64 else fail sNotCached := by
  unfold State.cacheMiss
  simp only [Bool.and_eq_true, List.any_eq_true, beq_iff_eq]

theorem exec_planLoadCached_missing {err : Bool} (hr : s.Ready id 0x0502 c) (hh : s.heatFor c.src (c.num 32 2) = some h)
    (hp : h.plan = none) (hl : s.loading (c.num 32 2) = false) (hc : s.cached h c = none) :
    exec (.planLoadCached ⟨id, err⟩) s = .next ((s.markStarted id).finish id (s.cacheMiss c)) := by
  have hh' : (s.markStarted id).heatFor c.src (c.num 32 2) = some h := hh
  have hg : (h.plan.isSome || (s.markStarted id).loading (c.num 32 2)) = false := cached_read hh hp hl
  have hc' : ((s.markStarted id).mem.cache.find? fun e => e.tenant == h.tenant && e.image.hash == c.hash 64) = none := hc
  refine congrArg Host.Outcome.next (run_answers hr rfl ?_)
  simp only [hh', hg, hc', Bool.false_eq_true, if_false]
  rfl

theorem exec_planLoadCached_unread {err : Bool} {e : CacheEntry} (hr : s.Ready id 0x0502 c)
    (hh : s.heatFor c.src (c.num 32 2) = some h) (hp : h.plan = none) (hl : s.loading (c.num 32 2) = false)
    (hc : s.cached h c = some e) (he : err = true ∨ e.torn = true) :
    exec (.planLoadCached ⟨id, err⟩) s = .next ((s.markStarted id).finish id (fail sDataError)) := by
  have hh' : (s.markStarted id).heatFor c.src (c.num 32 2) = some h := hh
  have hg : (h.plan.isSome || (s.markStarted id).loading (c.num 32 2)) = false := cached_read hh hp hl
  have hc' : ((s.markStarted id).mem.cache.find? fun e => e.tenant == h.tenant && e.image.hash == c.hash 64) = some e := hc
  have he' : (err || e.torn) = true := by rcases he with he | he <;> simp [he]
  refine congrArg Host.Outcome.next (run_answers hr rfl ?_)
  simp only [hh', hg, hc', he', Bool.false_eq_true, if_false, if_true]

theorem exec_planLoadCached_judged {e : CacheEntry} (hr : s.Ready id 0x0502 c)
    (hh : s.heatFor c.src (c.num 32 2) = some h) (hp : h.plan = none) (hl : s.loading (c.num 32 2) = false)
    (hc : s.cached h c = some e) (ht : e.torn = false) (hn : s.net = some n) (hk : c.num 35 1 ≤ 1) :
    exec (.planLoadCached ⟨id, false⟩) s =
      .next ((s.markStarted id).loadAnswered id c n h (c.loadAsk e.image e.image.imageBytes true 0)) := by
  have hh' : (s.markStarted id).heatFor c.src (c.num 32 2) = some h := hh
  have hg : (h.plan.isSome || (s.markStarted id).loading (c.num 32 2)) = false := cached_read hh hp hl
  have hc' : ((s.markStarted id).mem.cache.find? fun e => e.tenant == h.tenant && e.image.hash == c.hash 64) = some e := hc
  have hbody : (s.markStarted id).loadBy c e.image e.image.imageBytes true =
      (s.markStarted id).judged c n h (c.loadAsk e.image e.image.imageBytes true 0) := by
    obtain ⟨_, ho, _⟩ := hr
    rw [loadBy_judged hh' hn hp hl hk, ho]
    rfl
  refine congrArg Host.Outcome.next ?_
  rw [run_of_ready hr rfl]
  simp only [hh', hg, hc', ht, Bool.or_self, Bool.false_eq_true, if_false, hbody]
  exact loadAnswered_eq _ id c n h _

theorem exec_planLoad (hr : s.Ready id 0x0501 c) (bytes : List Byte) (sections : PlanSections) :
    exec (.planLoad id ⟨bytes, sections⟩) s = .next (if s.bufferFails c then
        ((s.markStarted id).bufferRead c).reply id (fail sHostError)
      else match (((s.markStarted id).bufferRead c).loadBy c (readImage bytes sections) c.dataLen (!c.bit 34 0)).2 with
        | some a => (((s.markStarted id).bufferRead c).loadBy c (readImage bytes sections) c.dataLen (!c.bit 34 0)).1.finish id a
        | none => (((s.markStarted id).bufferRead c).loadBy c (readImage bytes sections) c.dataLen (!c.bit 34 0)).1) :=
  congrArg Host.Outcome.next (run_of_buffer hr rfl)

/-! ## Plan commands -/

theorem exec_planGo_of_not_held (hr : s.Ready id 0x0503 c) (hh : s.heatFor c.src (c.num 32 2) = some h)
    (hp : h.heldPlan = false) : exec (.planGo id) s = .next ((s.markStarted id).finish id (bad 32)) := by
  have hh' : (s.markStarted id).heatFor c.src (c.num 32 2) = some h := hh
  refine congrArg Host.Outcome.next (run_answers hr rfl ?_)
  simp only [hh', hp, Bool.not_false, if_true]

theorem exec_planGo_of_held (hr : s.Ready id 0x0503 c) (hh : s.heatFor c.src (c.num 32 2) = some h)
    (hp : h.heldPlan = true) : exec (.planGo id) s = .next (((s.markStarted id).beginPlan (c.num 32 2)).finish id (ok [])) := by
  have hh' : (s.markStarted id).heatFor c.src (c.num 32 2) = some h := hh
  refine congrArg Host.Outcome.next (run_answers hr rfl ?_)
  simp only [hh', hp, Bool.not_true, Bool.false_eq_true, if_false]

theorem exec_planStop_of_none (hr : s.Ready id 0x0504 c) (hh : s.heatFor c.src (c.num 32 2) = some h) (hp : h.plan = none)
    (h3 : h.state ≠ 3) : exec (.planStop id) s = .next ((s.markStarted id).finish id (bad 32)) := by
  have hh' : (s.markStarted id).heatFor c.src (c.num 32 2) = some h := hh
  refine congrArg Host.Outcome.next (run_answers hr rfl ?_)
  simp [hh', hp, h3]

theorem exec_planStop_of_loading (hr : s.Ready id 0x0504 c) (hh : s.heatFor c.src (c.num 32 2) = some h)
    (hp : h.plan.isSome = true ∨ h.state = 3) (hl : s.loading (c.num 32 2) = true) :
    exec (.planStop id) s = .next ((s.markStarted id).finish id (fail sBusy)) := by
  have hh' : (s.markStarted id).heatFor c.src (c.num 32 2) = some h := hh
  have hl' : (s.markStarted id).loading (c.num 32 2) = true := hl
  have hg : (h.plan.isNone && decide (h.state ≠ 3)) = false := by
    rcases hp with hp | hp
    · simp [Option.isNone_eq_false_iff.mpr hp]
    · simp [hp]
  refine congrArg Host.Outcome.next (run_answers hr rfl ?_)
  simp only [hh', hg, hl', Bool.false_eq_true, if_false, if_true]

theorem exec_planStop_stops (hr : s.Ready id 0x0504 c) (hh : s.heatFor c.src (c.num 32 2) = some h)
    (hp : h.plan.isSome = true ∨ h.state = 3) (hl : s.loading (c.num 32 2) = false) :
    exec (.planStop id) s = .next (((s.markStarted id).stopPlan (c.num 32 2) h (c.bit 34 0)).1.settle.finish id
      (ok (leBytes 8 0 ++ leBytes 8 ((s.markStarted id).stopPlan (c.num 32 2) h (c.bit 34 0)).2))) := by
  have hh' : (s.markStarted id).heatFor c.src (c.num 32 2) = some h := hh
  have hl' : (s.markStarted id).loading (c.num 32 2) = false := hl
  have hg : (h.plan.isNone && decide (h.state ≠ 3)) = false := by
    rcases hp with hp | hp
    · simp [Option.isNone_eq_false_iff.mpr hp]
    · simp [hp]
  refine congrArg Host.Outcome.next (run_answers hr rfl ?_)
  simp only [hh', hg, hl', Bool.false_eq_true, if_false]

/-! ## Values taken into a held plan and out of a saved step -/

/-- What STATE_IMPORT does with the bytes of its buffer (R401, R402). -/
def State.importBody (u : State) (c : Cmd) (data : List Byte) (h : Heat) : State × Option Ans :=
  if u.loading (c.num 32 2) || !h.heldPlan then (u, some (fail sBusy))
  else
    match u.forgeOf (c.num 32 2) with
    | none => (u, some (bad 32))
    | some f =>
      match f.rangeFault c with
      | some a => (u, some a)
      | none =>
        if c.dataLen < f.rangeBytes c then (u, some (bad 24))
        else
          (u.modPlan (c.num 32 2) fun p => { p with
            elems := importValues f.sec (c.num 34 1) (c.num 40 8) (c.num 48 8) (c.buffer data) p.elems },
            some { ok [] with bytes := f.rangeBytes c })

/-- A state that differs from another in the count of open values alone has the same heats and forges. -/
theorem heats_of_free {v : State} (hu : u = { v with free := u.free }) : (∀ src no, u.heatFor src no = v.heatFor src no) ∧
    (∀ no, u.loading no = v.loading no) ∧ (∀ no, u.forgeOf no = v.forgeOf no) ∧ u.net = v.net ∧ u.mgr = v.mgr := by
  rw [hu]
  exact ⟨fun _ _ => rfl, fun _ => rfl, fun _ => rfl, rfl, rfl⟩

/-- How STATE_IMPORT stands after that. -/
def State.imported (u : State) (id : Nat) (c : Cmd) (data : List Byte) (h : Heat) : State :=
  match (u.importBody c data h).2 with
  | some a => (u.importBody c data h).1.finish id a
  | none => (u.importBody c data h).1

theorem imported_of_answer {a : Ans} {v : State} {data : List Byte} (hb : u.importBody c data h = (v, some a)) :
    u.imported id c data h = v.finish id a := by
  unfold State.imported
  rw [hb]

theorem exec_stateImport (data : List Byte) (hr : s.Ready id 0x0603 c) (hh : s.heatFor c.src (c.num 32 2) = some h)
    (hf : s.bufferFails c = false) :
    exec (.stateImport id data) s = .next (((s.markStarted id).bufferRead c).imported id c data h) := by
  obtain ⟨hheat, _⟩ := heats_of_free (bufferRead_frame (s.markStarted id) c)
  have hh' : ((s.markStarted id).bufferRead c).heatFor c.src (c.num 32 2) = some h := (hheat _ _).trans hh
  refine congrArg Host.Outcome.next ?_
  rw [run_of_buffer hr rfl, hf]
  simp only [hh']
  rfl

theorem importBody_busy (data : List Byte) (hb : u.loading (c.num 32 2) = true ∨ h.heldPlan = false) :
    u.importBody c data h = (u, some (fail sBusy)) := by
  refine if_pos ?_
  rcases hb with hb | hb <;> simp [hb]

theorem importBody_of_range {f : Forge} {a : Ans} (data : List Byte) (hl : u.loading (c.num 32 2) = false)
    (hp : h.heldPlan = true) (hf : u.forgeOf (c.num 32 2) = some f) (ha : f.rangeFault c = some a) :
    u.importBody c data h = (u, some a) := by
  unfold State.importBody
  rw [hl, hp, hf]
  dsimp only
  rw [ha]
  rfl

/-- The plan's elements with the values of a buffer. -/
def State.importPlan (u : State) (c : Cmd) (data : List Byte) (f : Forge) : State :=
  u.modPlan (c.num 32 2) fun p => { p with
    elems := importValues f.sec (c.num 34 1) (c.num 40 8) (c.num 48 8) (c.buffer data) p.elems }

theorem importBody_imports {f : Forge} (data : List Byte) (hl : u.loading (c.num 32 2) = false) (hp : h.heldPlan = true)
    (hf : u.forgeOf (c.num 32 2) = some f) (ha : f.rangeFault c = none) (hn : f.rangeBytes c ≤ c.dataLen) :
    u.importBody c data h = (u.importPlan c data f, some { ok [] with bytes := f.rangeBytes c }) := by
  refine (if_neg (by rw [hl, hp]; decide)).trans ?_
  rw [hf]
  dsimp only
  rw [ha]
  exact if_neg (Nat.not_lt.mpr hn)

theorem imported_heat {f : Forge} {p : Plan} (data : List Byte) (hh : tget u.mgr.heats (c.num 32 2) = some h)
    (hp : h.plan = some p) : tget (u.importPlan c data f).mgr.heats (c.num 32 2) = some { h with plan := some { p with
      elems := importValues f.sec (c.num 34 1) (c.num 40 8) (c.num 48 8) (c.buffer data) p.elems } } := by
  refine (tget_tmod_self u.mgr.heats (c.num 32 2) _).trans ?_
  rw [hh, Option.map_some, hp]
  rfl

end

@[simp] theorem elemOf_putElem (t : Tab Elem) (i : Nat) (e : Elem) : elemOf (putElem t i e) i = e := by
  unfold putElem elemOf
  split
  next h => rw [tget_tdel_self, h]; rfl
  next h => rw [tget_tset_self]; rfl

/-- One master weight that is imported is what the buffer begins with (R402). -/
theorem importValues_one (u : UpdateSec) (first : Nat) (data : List Byte) (t : Tab Elem) :
    (elemOf (importValues u 0 first 1 data t) first).w = BitVec.ofNat 32 (natAt data 0 4) := by
  unfold importValues
  change (elemOf (putElem t first { elemOf t first with w := BitVec.ofNat 32 (natAt data 0 4) }) first).w = _
  rw [elemOf_putElem]

theorem length_exportValues (u : UpdateSec) (what first count : Nat) (t : Tab Elem) :
    (exportValues u what first count t).length = valueAt u what first count := by
  unfold exportValues valueAt
  rw [List.length_flatMap]
  congr 1
  exact List.map_congr_left fun n _ => length_bytesAt _ _ _

/-- One master weight that is exported is four bytes alone (R402). -/
theorem exportValues_one (u : UpdateSec) (first : Nat) (t : Tab Elem) :
    exportValues u 0 first 1 t = bvBytes (elemOf t first).w := by
  change bytesAt (bvBytes (elemOf t first).w) 0 4 ++ [] = _
  rw [List.append_nil]
  refine List.ext_getElem (by rw [length_bytesAt, length_bvBytes]) fun i h1 h2 => ?_
  unfold bytesAt
  simp [List.getElem?_eq_getElem h2]

section
variable {id : Nat} {c : Cmd} {s : State} {h : Heat} {im : PlanImage} {d : CollDesc} {u : UpdateSec} {err : Bool}

theorem exec_stateExport_of_no_source (hr : s.Ready id 0x0604 c) (hh : s.heatFor c.src (c.num 32 2) = some h)
    (hx : s.exportFrom h (c.num 56 8) = none) : exec (.stateExport id err) s =
      .next ((s.markStarted id).finish id (bad (if c.num 56 8 = 0 then 32 else 56))) := by
  have hh' : (s.markStarted id).heatFor c.src (c.num 32 2) = some h := hh
  have hx' : (s.markStarted id).exportFrom h (c.num 56 8) = none := hx
  refine congrArg Host.Outcome.next (run_answers hr rfl ?_)
  simp only [hh', hx', Option.bind_some, Option.isSome_some, Bool.true_and]
  by_cases h0 : c.num 56 8 = 0 <;> simp [h0]

variable {x : Option Saved}

theorem exec_stateExport_of_no_forge (hr : s.Ready id 0x0604 c) (hh : s.heatFor c.src (c.num 32 2) = some h)
    (hx : s.exportFrom h (c.num 56 8) = some (x, im)) (hi : imageForge im = none) :
    exec (.stateExport id err) s = .next ((s.markStarted id).finish id (bad 32)) := by
  have hh' : (s.markStarted id).heatFor c.src (c.num 32 2) = some h := hh
  have hx' : (s.markStarted id).exportFrom h (c.num 56 8) = some (x, im) := hx
  refine congrArg Host.Outcome.next (run_answers hr rfl ?_)
  simp only [hh', hx', Option.bind_some, hi]

theorem exec_stateExport_of_range {a : Ans} (hr : s.Ready id 0x0604 c) (hh : s.heatFor c.src (c.num 32 2) = some h)
    (hx : s.exportFrom h (c.num 56 8) = some (x, im)) (hi : imageForge im = some (d, u)) (hf : rangeFault d u c = some a) :
    exec (.stateExport id err) s = .next ((s.markStarted id).finish id a) := by
  have hh' : (s.markStarted id).heatFor c.src (c.num 32 2) = some h := hh
  have hx' : (s.markStarted id).exportFrom h (c.num 56 8) = some (x, im) := hx
  refine congrArg Host.Outcome.next (run_answers hr rfl ?_)
  simp only [hh', hx', Option.bind_some, hi, hf]

theorem exec_stateExport_of_unsaved (hr : s.Ready id 0x0604 c) (hh : s.heatFor c.src (c.num 32 2) = some h)
    (hx : s.exportFrom h (c.num 56 8) = some (none, im)) (hi : imageForge im = some (d, u)) (hf : rangeFault d u c = none) :
    exec (.stateExport id err) s = .next ((s.markStarted id).finish id (bad 56)) := by
  have hh' : (s.markStarted id).heatFor c.src (c.num 32 2) = some h := hh
  have hx' : (s.markStarted id).exportFrom h (c.num 56 8) = some (none, im) := hx
  refine congrArg Host.Outcome.next (run_answers hr rfl ?_)
  simp only [hh', hx', Option.bind_some, hi, hf]

/-- What a saved step gives out: its values, or S_DATA_ERROR where they cannot be read. -/
theorem exec_stateExport_of_saved {y : Saved} (hr : s.Ready id 0x0604 c) (hh : s.heatFor c.src (c.num 32 2) = some h)
    (hx : s.exportFrom h (c.num 56 8) = some (some y, im)) (hi : imageForge im = some (d, u)) (hf : rangeFault d u c = none) :
    exec (.stateExport id err) s = .next ((s.markStarted id).finish id (if err || y.torn then fail sDataError
      else okData c [] (exportValues u (c.num 34 1) (c.num 40 8) (c.num 48 8) y.elems))) := by
  have hh' : (s.markStarted id).heatFor c.src (c.num 32 2) = some h := hh
  have hx' : (s.markStarted id).exportFrom h (c.num 56 8) = some (some y, im) := hx
  refine congrArg Host.Outcome.next (run_answers hr rfl ?_)
  simp only [hh', hx', Option.bind_some, hi, hf]
  split <;> rfl

theorem exec_stateExport_of_torn {y : Saved} (hr : s.Ready id 0x0604 c) (hh : s.heatFor c.src (c.num 32 2) = some h)
    (hx : s.exportFrom h (c.num 56 8) = some (some y, im)) (hi : imageForge im = some (d, u)) (hf : rangeFault d u c = none)
    (ht : y.torn = true) : exec (.stateExport id err) s = .next ((s.markStarted id).finish id (fail sDataError)) := by
  rw [exec_stateExport_of_saved hr hh hx hi hf, ht, Bool.or_true]
  rfl

theorem exec_stateExport_exports {y : Saved} (hr : s.Ready id 0x0604 c) (hh : s.heatFor c.src (c.num 32 2) = some h)
    (hx : s.exportFrom h (c.num 56 8) = some (some y, im)) (hi : imageForge im = some (d, u)) (hf : rangeFault d u c = none)
    (ht : y.torn = false) : exec (.stateExport id false) s = .next ((s.markStarted id).finish id
      (okData c [] (exportValues u (c.num 34 1) (c.num 40 8) (c.num 48 8) y.elems))) := by
  rw [exec_stateExport_of_saved hr hh hx hi hf, ht, Bool.or_self, if_neg Bool.false_ne_true]

/-- What PLAN_LOAD's buffer leaves as it is: the heats, and so the answers that it gets. -/
theorem planLoad_body (hr : s.Ready id 0x0501 c) {bytes : List Byte} {sections : PlanSections} {n : Net}
    (hf : s.bufferFails c = false) (hh : s.heatFor c.src (c.num 32 2) = some h) (hn : s.net = some n) :
    (h.plan.isSome = true ∨ s.loading (c.num 32 2) = true → exec (.planLoad id ⟨bytes, sections⟩) s =
      .next (((s.markStarted id).bufferRead c).finish id (fail sBusy))) ∧
    (h.plan = none → s.loading (c.num 32 2) = false → c.num 35 1 ≤ 1 → exec (.planLoad id ⟨bytes, sections⟩) s =
      .next (((s.markStarted id).bufferRead c).loadAnswered id c n h
        (c.loadAsk (readImage bytes sections) c.dataLen (!c.bit 34 0) c.dataLen))) := by
  obtain ⟨hheat, hload, _, hnet, _⟩ := heats_of_free (bufferRead_frame (s.markStarted id) c)
  have hh' : ((s.markStarted id).bufferRead c).heatFor c.src (c.num 32 2) = some h := (hheat _ _).trans hh
  have hn' : ((s.markStarted id).bufferRead c).net = some n := hnet.trans hn
  have ho : c.opcode = 0x0501 := by
    obtain ⟨_, ho, _⟩ := hr
    exact ho
  refine ⟨fun hb => ?_, fun hp hl hk => ?_⟩
  · have hb' : h.plan.isSome = true ∨ ((s.markStarted id).bufferRead c).loading (c.num 32 2) = true := by
      rw [hload]
      exact hb
    exact congrArg Host.Outcome.next (run_buffer_answers hr rfl hf (loadBy_busy hh' hn' hb'))
  · have hl' : ((s.markStarted id).bufferRead c).loading (c.num 32 2) = false := (hload _).trans hl
    rw [exec_planLoad hr, hf, loadBy_judged hh' hn' hp hl' hk, ho]
    exact congrArg Host.Outcome.next (loadAnswered_eq _ id c n h _)

end

/-- Settles O51: each command's checks in their order, and what a plan's beginning and end leave of its heat. -/
theorem planCommands : Obligations.PlanCommands := by
  unfold Obligations.PlanCommands
  refine ⟨fun id c s => ⟨fun hr => ⟨fun err hh => exec_planLoadCached_of_none hr hh, fun err h hh hb =>
      exec_planLoadCached_busy hr hh hb, fun err h hh hp hl hc => ?_, fun err h e hh hp hl hc he =>
      exec_planLoadCached_unread hr hh hp hl hc he, fun h e n hh hc hn ht hp hl hk =>
      exec_planLoadCached_judged hr hh hp hl hc ht hn hk⟩, fun bytes sections hr => ?_⟩,
    fun id c s => ⟨fun hr h hh => ⟨fun hp => exec_planGo_of_not_held hr hh hp, fun hp =>
        ⟨_, exec_planGo_of_held hr hh hp, fun p hplan _ => ?_⟩⟩,
      fun hr h hh => ⟨fun hp h3 => exec_planStop_of_none hr hh hp h3, fun hp hl => exec_planStop_of_loading hr hh hp hl,
        fun hp hl => ⟨_, _, exec_planStop_stops hr hh hp hl, stopPlan_heat _ _ _ _⟩⟩,
      fun data hr h f hh hforge => ?_, fun err hr h hh => ⟨fun hx => exec_stateExport_of_no_source hr hh hx, fun x im hx =>
        ⟨fun hi => exec_stateExport_of_no_forge hr hh hx hi, fun d u hi => ⟨fun a hf => exec_stateExport_of_range hr hh hx hi hf,
          fun hf hn => ?_, fun y hf hy => ?_⟩⟩⟩⟩⟩
  · rw [← cacheMiss_eq]
    exact exec_planLoadCached_missing hr hh hp hl hc
  · have hfree : ((s.markStarted id).bufferRead c) =
        { s.markStarted id with free := ((s.markStarted id).bufferRead c).free } := bufferRead_frame _ _
    cases hf : s.bufferFails c with
    | true => exact ⟨_, _, congrArg Host.Outcome.next (run_buffer_fails hr rfl hf), hfree, if_pos rfl ▸ rfl⟩
    | false =>
      obtain ⟨hheat, _⟩ := heats_of_free hfree
      refine ⟨_, _, exec_planLoad hr bytes sections, hfree, ?_⟩
      rw [if_neg Bool.false_ne_true, hf]
      refine ⟨fun hh => ?_, fun h n hh hn => ⟨fun hb => ?_, fun hp hl hk => ?_⟩⟩
      · rw [loadBy_of_none ((hheat _ _).trans hh)]
        rfl
      · obtain ⟨hbusy, _⟩ := planLoad_body (bytes := bytes) (sections := sections) hr hf hh hn
        have he := (exec_planLoad hr bytes sections).symm.trans (hbusy hb)
        rw [hf] at he
        exact Host.Outcome.next.inj he
      · obtain ⟨_, hjudged⟩ := planLoad_body (bytes := bytes) (sections := sections) hr hf hh hn
        have he := (exec_planLoad hr bytes sections).symm.trans (hjudged hp hl hk)
        rw [hf] at he
        exact Host.Outcome.next.inj he
  · exact ⟨_, _, beginPlan_heat (s := s.markStarted id) (heatFor_open hh) hplan, rfl, rfl, rfl, rfl, rfl⟩
  · have hfree : ((s.markStarted id).bufferRead c) =
        { s.markStarted id with free := ((s.markStarted id).bufferRead c).free } := bufferRead_frame _ _
    cases hf : s.bufferFails c with
    | true => exact ⟨_, _, congrArg Host.Outcome.next (run_buffer_fails hr rfl hf), hfree, if_pos rfl ▸ rfl⟩
    | false =>
      obtain ⟨_, hload, hforges, _, hmgr⟩ := heats_of_free hfree
      have hforge' := (hforges (c.num 32 2)).trans hforge
      refine ⟨_, _, exec_stateImport data hr hh hf, hfree, ?_⟩
      rw [if_neg Bool.false_ne_true]
      refine ⟨fun hb => imported_of_answer (importBody_busy data (by rw [hload]; exact hb)), fun hl hp a ha =>
        imported_of_answer (importBody_of_range data ((hload _).trans hl) hp hforge' ha), fun hl hp ha hn h0 h1 =>
        ⟨_, imported_of_answer (importBody_imports data ((hload _).trans hl) hp hforge' ha hn), fun p hplan => ?_⟩⟩
      have hk := imported_heat (u := (s.markStarted id).bufferRead c) (c := c) (f := f) data
        (by rw [hmgr]; exact heatFor_open hh) hplan
      refine ⟨_, _, hk, rfl, ?_⟩
      rw [h0, h1]
      exact importValues_one _ _ _ _
  · subst hn
    exact exec_stateExport_of_unsaved hr hh hx hi hf
  · subst hy
    refine ⟨exec_stateExport_of_saved hr hh hx hi hf, fun ht => exec_stateExport_of_torn hr hh hx hi hf ht, fun ht =>
      ⟨_, exec_stateExport_exports hr hh hx hi hf ht, length_exportValues _ _ _ _ _, fun h0 h1 => ?_⟩⟩
    rw [h0, h1]
    exact exportValues_one _ _ _

end Sys2Proof.Machine

/-! # Frames at a port, in and out (R57, R61, R62, R76, R77, R83 to R85, R180, R185) -/

namespace Sys2Proof.Machine

/-! ## A received frame -/

/-- The checks that a frame passes or fails as a whole (R61, Table 2-2). -/
def frameGood (f : Frame) : Bool :=
  f.fecOk && fwOk f.word && fwKind f.word == 0 && f.hop == hopCheck f.word f.pkt && fwLen f.word == pktCells f.pkt &&
    (fwVc f.word).getLsbD 1 == isBillet f.pkt

theorem judgeFrame_skipped {q : Port} {f : Frame} (hr : q.resync = true) (hs : f.atFsp = false) :
    judgeFrame q f = .skipped := by
  unfold judgeFrame
  rw [hr, hs]
  rfl

theorem judgeFrame_dropped {q : Port} {f : Frame} (hstart : q.resync = false ∨ f.atFsp = true) (hg : frameGood f = false) :
    judgeFrame q f = .dropped := by
  have hskip : (q.resync && !f.atFsp) = false := by
    rcases hstart with h | h <;> simp [h]
  unfold judgeFrame
  rw [hskip, if_neg Bool.false_ne_true]
  refine if_pos ?_
  have hn : (!frameGood f) = true := by rw [hg]; rfl
  unfold frameGood at hn
  rw [← hn]
  simp only [Bool.not_and, bne, BEq.comm (a := f.hop)]

theorem receive_skipped {q : Port} {f : Frame} (h : judgeFrame q f = .skipped) : q.receive f = q := by
  unfold Port.receive
  rw [h]

theorem receive_dropped {q : Port} {f : Frame} (h : judgeFrame q f = .dropped) :
    q.receive f = { q with errCount := q.errCount + 1, resync := !fwOk f.word } := by
  unfold Port.receive
  rw [h]

/-- A frame that is taken changes the channel's counts, and the port no longer looks for a frame start. -/
theorem receive_taken {q : Port} {f : Frame} (h : judgeFrame q f = .taken) :
    q.receive f = { q with resync := false, vcs := (q.receive f).vcs } := by
  unfold Port.receive
  rw [h]

/-! ### At an agent -/

section
variable {g : Agent} {p : Nat} {f : Frame}

theorem agent_receive_down (hup : (g.port p).isUp = false) : g.receive p f = (g, []) := by
  unfold Agent.receive
  dsimp only
  rw [hup]
  rfl

theorem agent_receive_not_taken (hup : (g.port p).isUp = true) (h : judgeFrame (g.port p) f ≠ .taken) :
    g.receive p f = (g.setPort p ((g.port p).receive f), []) := by
  unfold Agent.receive
  dsimp only
  rw [hup]
  cases hj : judgeFrame (g.port p) f with
  | taken => exact absurd hj h
  | skipped => rfl
  | dropped => rfl

theorem agent_receive_refused (hup : (g.port p).isUp = true) (h : judgeFrame (g.port p) f = .taken)
    (hk : keyAllowed (g.keyEntry p) f.pkt.c.laneKey = false) : g.receive p f = (g.setPort p
      ((((g.port p).receive f).fenceDrop f.pkt.c.laneKey).freeCells (fwVc f.word) (pktCells f.pkt)), []) := by
  unfold Agent.receive
  dsimp only
  rw [hup, h]
  dsimp only
  rw [hk]
  rfl

/-- A row that changes an agent's ports alone puts out what it says and no more: AGENT_IRQ stays. -/
theorem exec_setPort {s : State} {a : Nat} {c : Instr} {row : Agent → AgentStep} {q : Port} {es : List Emission}
    (hlive : (s.agent a).inReset = false) (hc : exec c s = .next (s.onAgent a (whileLive row)))
    (hr : row (s.agent a) = ((s.agent a).setPort p q, es)) :
    exec c s = .next ((s.setAgent a ((s.agent a).setPort p q)).emit es) := by
  rw [exec_live hlive hc, onAgent_of_irq_eq (by rw [hr]; rfl), hr]

end

/-! ### At the link tiles -/

theorem tally_hub (s : State) (series unit : BitVec 16) (k : Nat) : (s.tally series unit k).hub = s.hub := by
  obtain ⟨_, _, hhub, _⟩ := ((Outward.refl s).tally series unit k).frame
  exact hhub

theorem receiveAtTile_not_taken {s : State} {p : Nat} {f : Frame} (hport : s.hasPort .chrohar p = true)
    (hup : (s.link.port p).isUp = true) (h : judgeFrame (s.link.port p) f ≠ .taken) :
    s.receiveAtTile p f = { s with link := s.link.setPort p ((s.link.port p).receive f) } := by
  unfold State.receiveAtTile
  dsimp only
  rw [hport, hup]
  cases hj : judgeFrame (s.link.port p) f with
  | taken => exact absurd hj h
  | skipped => rfl
  | dropped => rfl

/-- A packet for a hub EID of this module waits for its unit. -/
theorem receiveAtTile_ownHub {s : State} {p : Nat} {f : Frame} (hport : s.hasPort .chrohar p = true)
    (hup : (s.link.port p).isUp = true) (h : judgeFrame (s.link.port p) f = .taken)
    (hkey : s.link.allows p f.pkt.c.laneKey = true) (hhub : s.isOwnHub f.pkt.c.dst = true) (hone : f.pkt.c.mcast = false) :
    s.receiveAtTile p f = { s with
      link := s.link.setPort p ((s.link.port p).receive f)
      hub := { s.hub with arrived := s.hub.arrived ++
        [{ port := p, vc := fwVc f.word, pkt := f.pkt, hold := none, owed := true }] } } := by
  simp [State.receiveAtTile, hport, hup, h, hkey, hhub, hone]

theorem exec_frameReceive_tile (s : State) (p : Nat) (f : Frame) : ∃ t, exec (.frameReceive .chrohar p f) s = .next t ∧
    t.link = (s.receiveAtTile p f).link ∧ t.hub = (s.receiveAtTile p f).hub :=
  ⟨_, rfl, tally_link _ _ _ _, tally_hub _ _ _ _⟩

/-! ## What a frame's cells give back -/

/-- Cells that return change counts of channels alone. -/
theorem release_port (g : Agent) (o : Option (Nat × BitVec 2)) (x : Pkt) (n : Nat) :
    (g.release o x).port n = { g.port n with vcs := ((g.release o x).port n).vcs } := by
  unfold Agent.release
  cases o with
  | none => rfl
  | some o =>
    obtain ⟨port, vc⟩ := o
    unfold Agent.port
    dsimp only
    by_cases hn : n = port
    · subst hn
      rw [tget_tmod_self]
      cases tget g.ports n <;> rfl
    · rw [tget_tmod_of_ne _ _ hn]

theorem free_port (g : Agent) (o : Option (Nat × BitVec 2)) (h : Option Nat) (x : Pkt) (n : Nat) :
    (g.free o h x).port n = { g.port n with vcs := ((g.free o h x).port n).vcs } := by
  unfold Agent.free
  split
  · rfl
  · exact release_port _ _ _ _

/-- A frame of this module's own gives no cells back. -/
theorem free_of_no_origin (g : Agent) (h : Option Nat) (x : Pkt) : g.free none h x = g := by
  unfold Agent.free
  split <;> rfl

/-! ## Frames that leave without being sent -/

/-- At a port that is up, a frame that is not void stays (R171). -/
theorem shedsFrom_of_kept (kept : List Nat) (l : List QFrame) (h : ∀ x ∈ l, x.void = false) : shedsFrom true kept l = [] := by
  induction l generalizing kept with
  | nil => rfl
  | cons x r ih =>
    have hx : x.void = false := h x List.mem_cons_self
    have hr : ∀ y ∈ r, y.void = false := fun y hy => h y (List.mem_cons_of_mem _ hy)
    unfold shedsFrom
    rw [hx]
    split
    · exact ih _ hr
    · exact ih _ hr

theorem sheds_of_kept {q : Port} (hup : q.isUp = true) (h : ∀ x ∈ q.queue, x.void = false) : sheds q = [] := by
  unfold sheds
  rw [hup]
  exact shedsFrom_of_kept _ _ h

/-- At a port that is down every frame goes (R180). -/
theorem shedsFrom_down (l : List QFrame) : shedsFrom false [] l = l := by
  induction l with
  | nil => rfl
  | cons x r ih =>
    unfold shedsFrom
    rw [if_neg (by simp), if_pos (by simp), ih]

theorem sheds_down {q : Port} (hup : q.isUp = false) : sheds q = q.queue := by
  unfold sheds
  rw [hup]
  exact shedsFrom_down _

theorem popLine_of_head {q : Port} {x : QFrame} {r : List QFrame} (h : q.queue = x :: r) :
    popLine (lineOf x) q = { q with queue := r } := by
  unfold popLine
  rw [h]
  simp [takeFirst]

theorem shed_frame (p : Nat) (g : Agent) (x : QFrame) : Agent.shed p g x = { g with ports := (Agent.shed p g x).ports } :=
  free_frame _ _ _ _

/-- The head of a queue that is shed leaves it. -/
theorem shed_port {g : Agent} {p : Nat} {x : QFrame} {r : List QFrame} (h : (g.port p).queue = x :: r) :
    ((Agent.shed p g x).port p).queue = r ∧ ((Agent.shed p g x).port p).state = (g.port p).state := by
  unfold Agent.shed
  dsimp only
  rw [popLine_of_head h, free_port, port_setPort_self]
  split
  · exact ⟨rfl, rfl⟩
  · exact ⟨rfl, rfl⟩

theorem foldl_shed_port (p : Nat) (l : List QFrame) (g : Agent) (h : (g.port p).queue = l) :
    ((l.foldl (Agent.shed p) g).port p).queue = [] ∧ ((l.foldl (Agent.shed p) g).port p).state = (g.port p).state := by
  induction l generalizing g with
  | nil => exact ⟨h, rfl⟩
  | cons x r ih =>
    obtain ⟨hq, hs⟩ := shed_port h
    obtain ⟨hq', hs'⟩ := ih _ hq
    exact ⟨hq', hs'.trans hs⟩

theorem foldl_shed_frame (p : Nat) (l : List QFrame) (g : Agent) :
    l.foldl (Agent.shed p) g = { g with ports := (l.foldl (Agent.shed p) g).ports } := by
  induction l generalizing g with
  | nil => rfl
  | cons x r ih =>
    rw [List.foldl_cons, ih, shed_frame]

/-- A port that is down sends nothing, and drops what waits in it (R180). -/
theorem agent_sendFrame_down {g : Agent} {p : Nat} (a : Nat) (hup : (g.port p).isUp = false) :
    g.sendFrame a p = ((g.port p).queue.foldl (Agent.shed p) g, []) := by
  obtain ⟨_, hs⟩ := foldl_shed_port p _ g rfl
  have hup' : (((g.port p).queue.foldl (Agent.shed p) g).port p).isUp = false := by
    unfold Port.isUp at hup ⊢
    rw [hs]
    exact hup
  unfold Agent.sendFrame
  dsimp only
  rw [sheds_down hup, hup']
  rfl

/-! ## What a port chooses -/

theorem headOf_mem {l : Nat} {q : Port} {x : QFrame} (h : headOf l q = some x) : x ∈ q.queue ∧ lineOf x = l := by
  unfold headOf at h
  exact ⟨List.mem_of_find?_eq_some h, by simpa using List.find?_some h⟩

theorem entityHead_mem {e : Nat} {q : Port} {x : QFrame} (h : entityHead e q = some x) :
    x ∈ q.queue ∧ q.ready x = true ∧ isBillet x.pkt = true := by
  unfold entityHead at h
  have hx := List.find?_some h
  simp only [Bool.and_eq_true] at hx
  obtain ⟨⟨⟨hb, _⟩, _⟩, hr⟩ := hx
  exact ⟨List.mem_of_find?_eq_some h, hr, hb⟩

/-- The head of a line may start. -/
def headReady (q : Port) (l : Nat) : Bool :=
  match headOf l q with
  | some h => q.ready h
  | none => false

theorem headReady_head {q : Port} {l : Nat} (h : headReady q l = true) : ∃ x, headOf l q = some x ∧ q.ready x = true := by
  unfold headReady at h
  cases hx : headOf l q with
  | none => rw [hx] at h; cases h
  | some x => rw [hx] at h; exact ⟨x, rfl, h⟩

theorem tallyLine_eq (q : Port) : tallyLine q =
    if q.tallyTurn then (if headReady q 1 then some 1 else if headReady q 0 then some 0 else none)
    else (if headReady q 0 then some 0 else if headReady q 1 then some 1 else none) := rfl

/-- The line that is served has a head which may start (R185). -/
theorem tallyLine_ready {q : Port} {l : Nat} (h : tallyLine q = some l) : ∃ x, headOf l q = some x ∧ q.ready x = true := by
  refine headReady_head ?_
  rw [tallyLine_eq] at h
  cases h0 : headReady q 0 <;> cases h1 : headReady q 1 <;> cases ht : q.tallyTurn <;>
    simp only [h0, h1, ht, Bool.false_eq_true, if_false, if_true, Option.some.injEq, reduceCtorEq] at h <;>
    subst h <;> assumption

/-- Removing the head of a line that has one takes one frame from the queue and nothing else. -/
theorem popLine_of_mem {q : Port} {x : QFrame} (h : x ∈ q.queue) : ∃ rest : List QFrame,
    popLine (lineOf x) q = { q with queue := rest } ∧ rest.length + 1 = q.queue.length := by
  obtain ⟨y, rest, ht, _, hl⟩ := takeFirst_of_mem (p := fun z => lineOf z == lineOf x) ⟨x, h, by simp⟩
  refine ⟨rest, ?_, hl⟩
  unfold popLine
  rw [ht]

/-- What leaves a port at a frame boundary: nothing, with no more changed than the deficits, or a frame of its queue that may start. -/
theorem choose_cases (q : Port) (shares : List (Nat × Nat)) :
    (∃ d, q.choose shares = (none, { q with deficits := d })) ∨
    ∃ x q', q.choose shares = (some x, q') ∧ x ∈ q.queue ∧ q.ready x = true ∧
      q'.queue.length + 1 = q.queue.length ∧ q'.tx = q.tx ∧ q'.vcs = q.vcs := by
  unfold Port.choose
  cases ht : tallyLine q with
  | some l =>
    obtain ⟨x, hx, hr⟩ := tallyLine_ready ht
    obtain ⟨hmem, hline⟩ := headOf_mem hx
    obtain ⟨rest, hpop, hlen⟩ := popLine_of_mem hmem
    rw [hline] at hpop
    refine .inr ⟨x, { popLine l q with tallyTurn := l == 0 }, by dsimp only; rw [hx], hmem, hr, ?_⟩
    rw [hpop]
    exact ⟨hlen, rfl, rfl⟩
  | none =>
    dsimp only
    obtain ⟨d, e⟩ := serveRound q shares (roundOrder q shares) q.deficits
    cases e with
    | none => exact .inl ⟨d, rfl⟩
    | some e =>
      dsimp only
      cases hx : entityHead e q with
      | none => exact .inl ⟨d, rfl⟩
      | some x =>
        obtain ⟨hmem, hr, _⟩ := entityHead_mem hx
        obtain ⟨rest, hpop, hlen⟩ := popLine_of_mem hmem
        refine .inr ⟨x, { popLine (lineOf x) q with deficits := d, lastServed := e }, rfl, hmem, hr, ?_⟩
        rw [hpop]
        exact ⟨hlen, rfl, rfl⟩

/-- T0's turn: its head, where it may start, is the frame that leaves (R185). -/
theorem choose_t0 {q : Port} {x : QFrame} (shares : List (Nat × Nat)) (ht : q.tallyTurn = false) (hx : headOf 0 q = some x)
    (hr : q.ready x = true) : q.choose shares = (some x, { popLine 0 q with tallyTurn := true }) := by
  have hl : tallyLine q = some 0 := by
    have h0 : headReady q 0 = true := by
      unfold headReady
      rw [hx]
      exact hr
    rw [tallyLine_eq, ht, h0]
    rfl
  unfold Port.choose
  rw [hl]
  dsimp only
  rw [hx]
  rfl

/-- A round in which no entity has a frame that may start serves none. -/
theorem serveRound_none {q : Port} (shares : List (Nat × Nat)) (l : List Nat) (d : Tab Nat) (h : ∀ e, entityHead e q = none) :
    (serveRound q shares l d).2 = none := by
  induction l generalizing d with
  | nil => rfl
  | cons e l ih =>
    unfold serveRound
    rw [h e]
    exact ih _

/-- With no tally and no billet that may start, nothing leaves. -/
theorem choose_none {q : Port} (shares : List (Nat × Nat)) (ht : tallyLine q = none) (h : ∀ e, entityHead e q = none) :
    ∃ d, q.choose shares = (none, { q with deficits := d }) := by
  have hn := serveRound_none shares (roundOrder q shares) q.deficits h
  unfold Port.choose
  rw [ht]
  generalize serveRound q shares (roundOrder q shares) q.deficits = r at hn ⊢
  obtain ⟨d, e⟩ := r
  obtain rfl : e = none := hn
  exact ⟨d, rfl⟩

/-! ## A frame that leaves -/

section
variable {g : Agent} {p : Nat}

theorem agent_sendFrame_none {q' : Port} (a : Nat) (hup : (g.port p).isUp = true) (hs : sheds (g.port p) = [])
    (hc : (g.port p).choose (g.shares p) = (none, q')) : g.sendFrame a p = (g.setPort p q', []) := by
  unfold Agent.sendFrame
  dsimp only
  simp only [hs, List.foldl_nil, hup, hc, Bool.not_true, Bool.false_eq_true, if_false]

/-- The frame that a port has chosen starts, and its cells return to where it came from. -/
theorem agent_sendFrame_some {q' : Port} {x : QFrame} (a : Nat) (hup : (g.port p).isUp = true) (hs : sheds (g.port p) = [])
    (hc : (g.port p).choose (g.shares p) = (some x, q')) : g.sendFrame a p =
      ((g.setPort p (q'.sendFrame x).1).free x.origin x.hold x.pkt, [.frame (.agent a) p (slotNo q'.tx.next)
        (frameOf x.pkt x.vc (q'.vcs.get x.vc).sent).1 x.pkt (frameOf x.pkt x.vc (q'.vcs.get x.vc).sent).2]) := by
  unfold Agent.sendFrame
  dsimp only
  simp only [hs, List.foldl_nil, hup, hc, Bool.not_true, Bool.false_eq_true, if_false]
  rfl

/-- The slots, the channel and the queue of a port after a frame's start (R57, R84). -/
theorem port_sendFrame (q : Port) (x : QFrame) : (q.sendFrame x).1.queue = q.queue ∧
    (q.sendFrame x).1.tx.next = q.tx.next + pktCells x.pkt ∧
    ((q.sendFrame x).1.vcs.get x.vc).sent = (q.vcs.get x.vc).sent + BitVec.ofNat 16 (pktCells x.pkt) := by
  refine ⟨rfl, rfl, ?_⟩
  unfold Port.sendFrame
  dsimp only
  rw [vcs_get_set_self]

end

section
variable {s : State} {a p : Nat}

/-- What FRAME_SEND puts out at an agent, where only ports change. -/
theorem exec_frameSend_agent {h : Agent} {es : List Emission} (hlive : (s.agent a).inReset = false)
    (hr : (s.agent a).sendFrame a p = (h, es)) (hf : h = { s.agent a with ports := h.ports }) :
    exec (.frameSend (.agent a) p) s = .next ((s.setAgent a h).emit es) := by
  have hc : exec (.frameSend (.agent a) p) s = .next (s.onAgent a (whileLive fun g => g.sendFrame a p)) := rfl
  rw [exec_live hlive hc, onAgent_of_irq_eq, hr]
  rw [hr]
  dsimp only
  rw [hf]
  rfl

theorem exec_frameSend_down (hlive : (s.agent a).inReset = false) (hup : ((s.agent a).port p).isUp = false) :
    exec (.frameSend (.agent a) p) s =
      .next (s.setAgent a (((s.agent a).port p).queue.foldl (Agent.shed p) (s.agent a))) := by
  rw [exec_frameSend_agent hlive (agent_sendFrame_down a hup) (foldl_shed_frame _ _ _)]
  exact congrArg Host.Outcome.next (emit_nil _)

theorem exec_frameSend_none {q' : Port} (hlive : (s.agent a).inReset = false) (hup : ((s.agent a).port p).isUp = true)
    (hs : sheds ((s.agent a).port p) = []) (hc : ((s.agent a).port p).choose ((s.agent a).shares p) = (none, q')) :
    exec (.frameSend (.agent a) p) s = .next (s.setAgent a ((s.agent a).setPort p q')) := by
  rw [exec_frameSend_agent hlive (agent_sendFrame_none a hup hs hc) rfl]
  exact congrArg Host.Outcome.next (emit_nil _)

theorem exec_frameSend_some {q' : Port} {x : QFrame} (hlive : (s.agent a).inReset = false)
    (hup : ((s.agent a).port p).isUp = true) (hs : sheds ((s.agent a).port p) = [])
    (hc : ((s.agent a).port p).choose ((s.agent a).shares p) = (some x, q')) :
    exec (.frameSend (.agent a) p) s = .next ((s.setAgent a
      (((s.agent a).setPort p (q'.sendFrame x).1).free x.origin x.hold x.pkt)).emit
        [.frame (.agent a) p (slotNo q'.tx.next) (frameOf x.pkt x.vc (q'.vcs.get x.vc).sent).1 x.pkt
          (frameOf x.pkt x.vc (q'.vcs.get x.vc).sent).2]) := by
  refine exec_frameSend_agent hlive (agent_sendFrame_some a hup hs hc) ?_
  rw [free_frame]
  rfl

end

/-! ### At the link tiles -/

section
variable {s : State} {p : Nat}

theorem tile_sendFrame_none {l : LinkTiles} {shares : List (Nat × Nat)} {q' : Port} (hup : (l.port p).isUp = true)
    (hs : sheds (l.port p) = []) (hc : (l.port p).choose shares = (none, q')) :
    l.sendFrame shares p = (l.setPort p q', []) := by
  unfold LinkTiles.sendFrame
  dsimp only
  simp only [hs, List.foldl_nil, hup, hc, Bool.not_true, Bool.false_eq_true, if_false]

theorem tile_sendFrame_some {l : LinkTiles} {shares : List (Nat × Nat)} {q' : Port} {x : QFrame}
    (hup : (l.port p).isUp = true) (hs : sheds (l.port p) = []) (hc : (l.port p).choose shares = (some x, q')) :
    l.sendFrame shares p = ((l.setPort p (q'.sendFrame x).1).release x.origin x.pkt,
      [.frame .chrohar p (slotNo q'.tx.next) (frameOf x.pkt x.vc (q'.vcs.get x.vc).sent).1 x.pkt
        (frameOf x.pkt x.vc (q'.vcs.get x.vc).sent).2]) := by
  unfold LinkTiles.sendFrame
  dsimp only
  simp only [hs, List.foldl_nil, hup, hc, Bool.not_true, Bool.false_eq_true, if_false]
  rfl

theorem exec_frameSend_chrohar {l : LinkTiles} {es : List Emission} (hport : s.hasPort .chrohar p = true)
    (h : s.link.sendFrame (s.tileShares p) p = (l, es)) :
    exec (.frameSend .chrohar p) s = .next (({ s with link := l } : State).emit es) := by
  refine congrArg Host.Outcome.next ((if_pos hport).trans ?_)
  rw [h]

end

/-- A billet waits in no tally's line. -/
theorem lineOf_tally {x : QFrame} (h : lineOf x = 0) : isBillet x.pkt = false := by
  unfold lineOf at h
  cases hb : isBillet x.pkt with
  | false => rfl
  | true =>
    rw [hb] at h
    simp at h

/-- Of a port with one frame, a tally on T0 without credits, nothing may start. -/
theorem lone_tally_waits {q : Port} {x : QFrame} (hq : q.queue = [x]) (hl : lineOf x = 0) (hr : q.ready x = false) :
    tallyLine q = none ∧ ∀ e, entityHead e q = none := by
  have h0 : headReady q 0 = false := by
    simp [headReady, headOf, hq, hl, hr]
  have h1 : headReady q 1 = false := by
    simp [headReady, headOf, hq, hl]
  refine ⟨?_, fun e => ?_⟩
  · rw [tallyLine_eq, h0, h1]
    simp
  · simp [entityHead, hq, lineOf_tally hl]

/-- Settles O52: what a port makes of a frame, case by case of `judgeFrame`, and what leaves it, by `choose_cases`. -/
theorem frames : Obligations.Frames := by
  unfold Obligations.Frames
  refine ⟨fun p f s => ⟨fun a hlive => ⟨fun hup => ?_, fun hup hrs hfsp => ?_, fun hup hstart hgood => ?_,
      fun hup hstart hgood hkey => ?_⟩, fun hport hup hstart => ⟨fun hgood => ?_, fun hgood hkey hhub hone => ?_⟩⟩,
    fun p s => ⟨fun a hlive => ⟨fun hup => ?_, fun hup hvoid => ?_, fun x y hup ht hq hx hy hl hr => ?_⟩,
      fun x hport hup ht hq hx ho hl => ?_⟩⟩
  · have hc : exec (.frameReceive (.agent a) p f) s = .next (s.onAgent a (whileLive fun g => g.receive p f)) := rfl
    rw [exec_live hlive hc, onAgent_silent (agent_receive_down hup) rfl]
  · have hj := judgeFrame_skipped hrs hfsp
    have hrow := agent_receive_not_taken hup (p := p) (f := f) (by rw [hj]; nofun)
    rw [receive_skipped hj] at hrow
    refine ⟨_, exec_setPort hlive rfl hrow, ?_, ?_⟩
    · simp
    · simp [Agent.setPort]
  · have hj := judgeFrame_dropped hstart hgood
    have hrow := agent_receive_not_taken hup (p := p) (f := f) (by rw [hj]; nofun)
    rw [receive_dropped hj] at hrow
    refine ⟨_, exec_setPort hlive rfl hrow, ?_, ?_⟩
    · simp
    · simp [Agent.setPort]
  · have hj := judgeFrame_eq_taken hstart hgood
    have hrow := agent_receive_refused hup hj hkey
    rw [receive_taken hj] at hrow
    refine ⟨_, exec_setPort hlive rfl hrow, ?_, ?_, ?_, ?_⟩
    · simp [Agent.setPort]
    · simp [Port.freeCells, Port.fenceDrop]
    · simp [Port.freeCells, Port.fenceDrop, countFence]
    · simp [Port.freeCells, Port.fenceDrop, countFence]
  · have hj := judgeFrame_dropped hstart hgood
    obtain ⟨t, hexec, hlink, hhub⟩ := exec_frameReceive_tile s p f
    rw [receiveAtTile_not_taken hport hup (by rw [hj]; nofun)] at hlink hhub
    refine ⟨t, hexec, hhub, ?_⟩
    rw [hlink, receive_dropped hj]
    exact tilesPort_setPort_self _ _ _
  · have hj := judgeFrame_eq_taken hstart hgood
    obtain ⟨t, hexec, hlink, hh⟩ := exec_frameReceive_tile s p f
    rw [receiveAtTile_ownHub hport hup hj hkey hhub hone] at hlink hh
    refine ⟨t, hexec, hh, ?_⟩
    have hp : t.link.port p = (s.link.port p).receive f := by
      rw [hlink]
      exact tilesPort_setPort_self _ _ _
    rw [hp]
    exact receive_taken hj
  · obtain ⟨hqueue, _⟩ := foldl_shed_port p _ (s.agent a) rfl
    refine ⟨_, exec_frameSend_down hlive hup, rfl, ?_, fun hempty => ?_⟩
    · rw [agent_setAgent_self]
      exact hqueue
    · rw [agent_setAgent_self, hempty]
      rfl
  · have hs := sheds_of_kept hup hvoid
    rcases choose_cases ((s.agent a).port p) ((s.agent a).shares p) with ⟨d, hc⟩ | ⟨x, q', hc, hmem, hr, hlen, htx, hvcs⟩
    · refine ⟨_, exec_frameSend_none hlive hup hs hc, .inl ⟨rfl, ?_⟩⟩
      rw [agent_setAgent_self, port_setPort_self]
    · refine ⟨_, exec_frameSend_some hlive hup hs hc, .inr ⟨x, hmem, hr, fun ho => ?_, ?_⟩⟩
      · obtain ⟨h1, h2, h3⟩ := port_sendFrame q' x
        rw [ho, free_of_no_origin]
        change ((State.agent (s.setAgent a _) a).port p).queue.length + 1 = _ ∧ ((State.agent (s.setAgent a _) a).port p).tx.next = _ ∧
          (((State.agent (s.setAgent a _) a).port p).vcs.get x.vc).sent = _
        rw [agent_setAgent_self, port_setPort_self, h1, h2, h3, htx, hvcs]
        exact ⟨hlen, rfl, rfl⟩
      · rw [htx, hvcs]
        rfl
  · have hs : sheds ((s.agent a).port p) = [] := sheds_of_kept hup (by
      rw [hq]
      simp [hx, hy])
    have hh : headOf 0 ((s.agent a).port p) = some x := by simp [headOf, hq, hl]
    have hpop : popLine 0 ((s.agent a).port p) = { (s.agent a).port p with queue := [y] } := by
      rw [← hl]
      exact popLine_of_head hq
    have hc := choose_t0 ((s.agent a).shares p) ht hh hr
    rw [hpop] at hc
    exact ⟨_, exec_frameSend_some hlive hup hs hc, rfl⟩
  · have hs : sheds (s.link.port p) = [] := sheds_of_kept hup (by
      rw [hq]
      simp [hx])
    have hpop : popLine 0 (s.link.port p) = { s.link.port p with queue := [] } := by
      rw [← hl]
      exact popLine_of_head hq
    have hh : headOf 0 (s.link.port p) = some x := by simp [headOf, hq, hl]
    split
    next hr =>
      have hc := choose_t0 (s.tileShares p) ht hh hr
      rw [hpop] at hc
      have hrow := tile_sendFrame_some hup hs hc
      rw [ho] at hrow
      exact ⟨_, exec_frameSend_chrohar hport hrow, congrArg Port.queue (tilesPort_setPort_self _ _ _), rfl⟩
    next hr =>
      obtain ⟨h1, h2⟩ := lone_tally_waits hq hl (by simpa using hr)
      obtain ⟨d, hc⟩ := choose_none (s.tileShares p) h1 h2
      refine ⟨_, exec_frameSend_chrohar hport (tile_sendFrame_none hup hs hc), List.append_nil _, ?_⟩
      exact (congrArg Port.queue (tilesPort_setPort_self _ _ _)).trans hq

end Sys2Proof.Machine

/-! # Pages and memory links (R222, R223, R301, R302, R382, R433, R434, R466, R468) -/

namespace Sys2Proof.Machine

/-! ## Counts of pages -/

/-- Pages of some sets. -/
def pageSum (l : List PageSet) : Nat := (l.map (·.count)).sum

theorem pageSum_cons (x : PageSet) (l : List PageSet) : pageSum (x :: l) = x.count + pageSum l := by
  simp [pageSum]

theorem pageSum_append (l r : List PageSet) : pageSum (l ++ r) = pageSum l + pageSum r := by
  simp [pageSum]

/-- A set that is taken from is one that fits; what is left is one page less, of every kind that counts the set. -/
theorem takePage_takes {p : PageSet → Bool} {l rest : List PageSet} {x : PageSet} (h : takePage p l = some (x, rest)) :
    p x = true ∧ x.count ≠ 0 ∧ pageSum rest + 1 = pageSum l ∧ ∀ q : PageSet → Bool,
      (∀ y n, q { y with count := n } = q y) → q x = true → pageSum (rest.filter q) + 1 = pageSum (l.filter q) := by
  induction l generalizing rest with
  | nil => cases h
  | cons y r ih =>
    unfold takePage at h
    split at h
    next hy =>
      simp only [Bool.and_eq_true, bne_iff_ne, ne_eq] at hy
      obtain ⟨hp, hc⟩ := hy
      cases h
      refine ⟨hp, hc, ?_, fun q hq hx => ?_⟩
      · split
        next h1 => rw [pageSum_cons, h1, Nat.add_comm]
        next h1 =>
          rw [pageSum_cons, pageSum_cons]
          dsimp only
          omega
      · rw [List.filter_cons_of_pos hx, pageSum_cons]
        split
        next h1 => rw [h1, Nat.add_comm]
        next h1 =>
          rw [List.filter_cons_of_pos ((hq x (x.count - 1)).trans hx), pageSum_cons]
          dsimp only
          omega
    next hy =>
      obtain ⟨⟨z, w⟩, hz, hr⟩ := Option.map_eq_some_iff.mp h
      cases hr
      obtain ⟨hp, hc, hs, hf⟩ := ih hz
      refine ⟨hp, hc, ?_, fun q hq hx => ?_⟩
      · rw [pageSum_cons, pageSum_cons]
        dsimp only
        omega
      · have := hf q hq hx
        by_cases hqy : q y = true
        · rw [List.filter_cons_of_pos hqy, List.filter_cons_of_pos hqy, pageSum_cons, pageSum_cons]
          dsimp only
          omega
        · rw [List.filter_cons_of_neg hqy, List.filter_cons_of_neg hqy]
          exact this

/-- Where no set fits, those of the kind hold no page. -/
theorem takePage_none {p : PageSet → Bool} {l : List PageSet} (h : takePage p l = none) : pageSum (l.filter p) = 0 := by
  induction l with
  | nil => rfl
  | cons y r ih =>
    unfold takePage at h
    split at h
    next => cases h
    next hy =>
      have hr := ih (Option.map_eq_none_iff.mp h)
      by_cases hp : p y = true
      · rw [List.filter_cons_of_pos hp, pageSum_cons, hr]
        simpa [hp] using hy
      · rw [List.filter_cons_of_neg hp, hr]

theorem pageSum_split (p : PageSet → Bool) (l : List PageSet) :
    pageSum (l.filter fun x => !p x) + pageSum (l.filter p) = pageSum l := by
  induction l with
  | nil => rfl
  | cons x l ih =>
    cases hp : p x with
    | true =>
      rw [List.filter_cons_of_neg (by simp [hp]), List.filter_cons_of_pos hp, pageSum_cons, pageSum_cons]
      omega
    | false =>
      rw [List.filter_cons_of_pos (by simp [hp]), List.filter_cons_of_neg (by simp [hp]), pageSum_cons, pageSum_cons]
      omega

/-- Released pages go under quench, and stay in the count (R222, R468). -/
theorem release_pages (m : Mem) (p : PageUse → Bool) : pageSum (m.release p).sets = pageSum m.sets := by
  have hmap (l : List PageSet) : pageSum (l.map fun x => { x with use := .quench }) = pageSum l := by
    simp [pageSum, Function.comp_def]
  unfold Mem.release
  dsimp only
  rw [pageSum_append, hmap]
  exact pageSum_split (fun x => p x.use) m.sets

/-- No page is held for a use that has been released. -/
theorem release_uses (m : Mem) (u : PageUse) (hu : u ≠ .quench) : ∀ y ∈ (m.release fun v => v == u).sets, y.use ≠ u := by
  intro y hy
  unfold Mem.release at hy
  rcases List.mem_append.mp hy with h | h
  · simpa using (List.mem_filter.mp h).2
  · obtain ⟨z, _, rfl⟩ := List.mem_map.mp h
    exact Ne.symm hu

/-! ## Keys that go leave the pages -/

theorem retireKey_mem (s : State) (tenant : Nat) : (s.retireKey tenant).mem = { s.mem with slots := (s.retireKey tenant).mem.slots } := by
  have hd (gen : Nat) : (s.destroyKey tenant gen).mem = { s.mem with slots := (s.destroyKey tenant gen).mem.slots } := by
    unfold State.destroyKey
    dsimp only
    split <;> rfl
  unfold State.retireKey
  split
  · split
    · exact hd _
    · rfl
  · rfl

theorem retireKeys_mem (s : State) : s.retireKeys.mem = { s.mem with slots := s.retireKeys.mem.slots } ∧ s.Keyed s.retireKeys := by
  have hk (l : List Nat) (t : State) (hm : t.mem = { s.mem with slots := t.mem.slots }) (h : s.Keyed t) :
      (l.foldl State.retireKey t).mem = { s.mem with slots := (l.foldl State.retireKey t).mem.slots } ∧
        s.Keyed (l.foldl State.retireKey t) := by
    induction l generalizing t with
    | nil => exact ⟨hm, h⟩
    | cons x l ih => exact ih _ (by rw [retireKey_mem, hm]) (h.retireKey x)
  exact hk _ s rfl .refl

/-! ## Quench and re-encryption -/

section
variable {s : State}

/-- The state after one page's quench, with no load that waits for pages. -/
def State.quenched (s : State) (x : PageSet) (sets : List PageSet) : State :=
  (s.setMem { s.mem with sets := sets }).retireKey x.tenant

theorem quenched_leaves (x : PageSet) (sets : List PageSet) : (s.quenched x sets).mem.sets = sets ∧
    (s.quenched x sets).mem.loads = s.mem.loads ∧ (s.quenched x sets).mem.cache = s.mem.cache ∧
    (s.quenched x sets).mem.saved = s.mem.saved ∧ (s.quenched x sets).mgr = s.mgr ∧ (s.quenched x sets).hif = s.hif := by
  obtain ⟨_, hhif, _, hmgr, _⟩ := ((State.Keyed.refl (s := s)).setMem { s.mem with sets := sets } |>.retireKey x.tenant).frame
  refine ⟨?_, ?_, ?_, ?_, hmgr, hhif⟩ <;> (unfold State.quenched; rw [retireKey_mem]; rfl)

theorem quenchPage_of_page {x : PageSet} {sets : List PageSet} (hl : s.mem.loads = [])
    (h : takePage (fun x => x.use.quenching) s.mem.sets = some (x, sets)) : s.quenchPage = (s.quenched x sets).settle := by
  obtain ⟨_, hloads, _⟩ := quenched_leaves (s := s) x sets
  have hset : (s.quenched x sets).setMem { (s.quenched x sets).mem with loads := [] } = s.quenched x sets := by
    rw [← hl, ← hloads]
    rfl
  unfold State.quenchPage
  rw [h]
  change (List.foldl State.beginLoad _ _).settle = _
  rw [show ((s.setMem { s.mem with sets := sets }).retireKey x.tenant) = s.quenched x sets from rfl, hloads, hl]
  dsimp only [List.filter_nil, List.map_nil, List.foldl_nil]
  exact congrArg State.settle hset

theorem quenchPage_of_none (h : takePage (fun x => x.use.quenching) s.mem.sets = none) : s.quenchPage = s := by
  unfold State.quenchPage
  rw [h]

/-- The sweep quenches what nothing needs, and its pages stay in the count (R466). -/
theorem sweepsOut_pages {u : PageUse} {m : Mem} (h : s.sweepsOut u = some m) : pageSum m.sets = pageSum s.mem.sets := by
  have hgone {c : Prop} [Decidable c] {v : PageUse → Bool} {k : Mem} (hk : pageSum k.sets = pageSum (s.mem.release v).sets)
      (hm : (if c then none else some k) = some m) : pageSum m.sets = pageSum s.mem.sets := by
    split at hm
    · cases hm
    · cases hm
      rw [hk, release_pages]
  cases u with
  | kept id => exact hgone (k := s.mem.dropSaved id) (v := fun u => u == .kept id) rfl h
  | cache n => exact hgone (k := s.mem.dropEntry n) (v := fun u => u == .cache n) rfl h
  | live n => cases h
  | save n b => cases h
  | module => cases h
  | quench => cases h

theorem retireKey_sets (s : State) (tenant : Nat) : (s.retireKey tenant).mem.sets = s.mem.sets := by
  rw [retireKey_mem]

/-- The sweep moves pages and loses none; the manager and the host side see nothing of it. -/
theorem reencrypt_leaves (s : State) : pageSum s.reencrypt.mem.sets = pageSum s.mem.sets ∧ s.reencrypt.mgr = s.mgr ∧
    s.reencrypt.hif = s.hif := by
  have hkeyed (m : Mem) (tenant : Nat) : ((s.setMem m).retireKey tenant).mgr = s.mgr ∧ ((s.setMem m).retireKey tenant).hif = s.hif := by
    obtain ⟨_, hhif, _, hmgr, _⟩ := ((State.Keyed.refl (s := s)).setMem m |>.retireKey tenant).frame
    exact ⟨hmgr, hhif⟩
  unfold State.reencrypt
  dsimp only
  split
  · exact ⟨rfl, rfl, rfl⟩
  next x rest hx =>
    obtain ⟨_, _, hsum, _⟩ := takePage_takes hx
    split
    next m hm =>
      refine ⟨?_, hkeyed _ _⟩
      rw [retireKey_sets]
      exact sweepsOut_pages hm
    next hm =>
      refine ⟨?_, hkeyed _ _⟩
      rw [retireKey_sets]
      change pageSum (rest ++ [_]) = _
      rw [pageSum_append, pageSum_cons]
      exact hsum

/-- One page of the older key moves to the newer one (R466). -/
theorem reencrypt_moves {g o : Nat} {r : List Nat} {x : PageSet} (hlive : s.trust.live x.tenant = g :: o :: r)
    (hsets : s.mem.sets = [x]) (hgen : x.gen = o) (hcount : x.count = 2) (huse : x.use = .live 0) :
    s.reencrypt.mem.sets = [{ x with count := 1 }, { x with count := 1, gen := g }] := by
  have hunder : x.under x.tenant o = true := by simp [PageSet.under, hgen, huse]
  have hquench : x.use.quenching = false := by rw [huse]; rfl
  have htake (old : PageSet → Bool) (ho : old x = true) : takePage old s.mem.sets = some (x, [{ x with count := 1 }]) := by
    rw [hsets]
    simp [takePage, ho, hcount]
  have hnew : s.newest x.tenant = g := by
    unfold State.newest
    rw [hlive]
    rfl
  unfold State.reencrypt
  dsimp only
  rw [htake _ (by rw [hlive]; simp [hunder, hquench])]
  dsimp only
  rw [show s.sweepsOut x.use = none by rw [huse]; rfl]
  dsimp only
  rw [retireKey_sets, hnew]
  rfl

end

/-! ## Cache entries and saved states -/

section
variable {s : State} {id : Nat} {c : Cmd}

theorem exec_cacheDrop_missing (h : s.Ready id 0x0506 c) (hn : c.src.mayNameTenant (c.num 32 2) = true)
    (hc : (s.mem.cache.find? fun e => e.tenant == c.num 32 2 && e.image.hash == c.hash 64) = none) :
    exec (.cacheDrop id) s = .next ((s.markStarted id).finish id (s.cacheMiss c)) := by
  have hc' : ((s.markStarted id).mem.cache.find? fun e => e.tenant == c.num 32 2 && e.image.hash == c.hash 64) = none := hc
  refine congrArg Host.Outcome.next (run_answers h rfl ?_)
  simp only [hn, hc', Bool.not_true, Bool.false_eq_true, if_false]
  rfl

theorem exec_cacheDrop_pinned {e : CacheEntry} (h : s.Ready id 0x0506 c) (hn : c.src.mayNameTenant (c.num 32 2) = true)
    (hc : (s.mem.cache.find? fun e => e.tenant == c.num 32 2 && e.image.hash == c.hash 64) = some e) (hp : s.pinned e = true) :
    exec (.cacheDrop id) s = .next ((s.markStarted id).finish id (fail sBusy)) := by
  have hc' : ((s.markStarted id).mem.cache.find? fun e => e.tenant == c.num 32 2 && e.image.hash == c.hash 64) = some e := hc
  have hp' : (s.markStarted id).pinned e = true := hp
  refine congrArg Host.Outcome.next (run_answers h rfl ?_)
  simp only [hn, hc', hp', Bool.not_true, Bool.false_eq_true, if_false, if_true]

theorem exec_cacheDrop_drops {e : CacheEntry} (h : s.Ready id 0x0506 c) (hn : c.src.mayNameTenant (c.num 32 2) = true)
    (hc : (s.mem.cache.find? fun e => e.tenant == c.num 32 2 && e.image.hash == c.hash 64) = some e) (hp : s.pinned e = false) :
    exec (.cacheDrop id) s = .next ((((s.markStarted id).setMem (s.mem.dropEntry e.order)).retireKey (c.num 32 2)).finish id
      (ok [])) := by
  have hc' : ((s.markStarted id).mem.cache.find? fun e => e.tenant == c.num 32 2 && e.image.hash == c.hash 64) = some e := hc
  have hp' : (s.markStarted id).pinned e = false := hp
  refine congrArg Host.Outcome.next (run_answers h rfl ?_)
  simp only [hn, hc', hp', Bool.not_true, Bool.false_eq_true, if_false]
  rfl

theorem exec_savedDiscard_unknown (h : s.Ready id 0x0602 c) (hn : c.src.mayNameTenant (c.num 32 2) = true)
    (hs : (s.mem.saved.any fun x => x.savedId == c.num 56 8 && x.tenant == c.num 32 2) = false) :
    exec (.savedDiscard id) s = .next ((s.markStarted id).finish id (bad 56)) := by
  have hs' : ((s.markStarted id).mem.saved.any fun x => x.savedId == c.num 56 8 && x.tenant == c.num 32 2) = false := hs
  refine congrArg Host.Outcome.next (run_answers h rfl ?_)
  simp only [hn, hs', Bool.not_true, Bool.false_eq_true, if_false]

theorem exec_savedDiscard_discards (h : s.Ready id 0x0602 c) (hn : c.src.mayNameTenant (c.num 32 2) = true)
    (hs : (s.mem.saved.any fun x => x.savedId == c.num 56 8 && x.tenant == c.num 32 2) = true) :
    exec (.savedDiscard id) s = .next (((s.markStarted id).setMem (s.mem.dropSaved (c.num 56 8))).retireKeys.finish id (ok [])) := by
  have hs' : ((s.markStarted id).mem.saved.any fun x => x.savedId == c.num 56 8 && x.tenant == c.num 32 2) = true := hs
  refine congrArg Host.Outcome.next (run_answers h rfl ?_)
  simp only [hn, hs', Bool.not_true, Bool.false_eq_true, if_false, if_true]
  rfl

end

/-! ## Memory links -/

theorem tally_mem_out (s : State) (series unit : BitVec 16) (k : Nat) : (s.tally series unit k).mem = s.mem ∧
    (s.tally series unit k).out = s.out := by
  unfold State.tally
  split <;> exact ⟨rfl, rfl⟩

theorem beginRetrain_leaves (s : State) (t : Tier) (i : Nat) (l : MemLink) :
    (s.beginRetrain t i l).mem = s.mem.setLink t i { l with state := if l.state = 2 then 3 else 1 } ∧
    (s.beginRetrain t i l).out = s.out := tally_mem_out _ _ _ _

theorem holdLink_mem (s : State) (t : Tier) (i : Nat) (l : MemLink) :
    (s.holdLink t i l).mem = s.mem.setLink t i { l with state := 2, cmd := none } := by
  obtain ⟨_, _, _, _, hmem, _⟩ := ((Outward.refl (s.setMem (s.mem.setLink t i { l with state := 2, cmd := none }))).alarm 0x1107
    [BitVec.ofNat 8 (tierCode t), BitVec.ofNat 8 i]).frame
  exact hmem

/-- What is withheld of a link's pile, of one that is held and of one that is retrained from there alike (R434). -/
theorem withheldOf_held (m : Mem) (t : Tier) (i : Nat) (h : (m.link t i).state = 2) (x : Option Nat) :
    (m.setLink t i { m.link t i with state := 3, cmd := x }).withheldOf t i = m.withheldOf t i := by
  have hheld : m.held t i = true := by
    unfold Mem.link at h
    unfold Mem.held
    cases hl : tget m.links (pileKey t i) with
    | none => rw [hl] at h; cases h
    | some l =>
      rw [hl] at h
      have h2 : l.state = 2 := h
      simp [h2]
  have hheld' : (m.setLink t i { m.link t i with state := 3, cmd := x }).held t i = true := by
    unfold Mem.held Mem.setLink
    dsimp only
    rw [tget_tset_self]
    rfl
  unfold Mem.withheldOf
  rw [hheld, hheld']
  rfl

section
variable {s : State} {tier link i : Nat} {t : Tier}

/-- A link that was not lost within the last `d` ticks. -/
theorem lost_long_ago {l : Option Nat} {n d : Nat} (hx : ∀ x, l = some x → x + d ≤ n) :
    (l.any fun x => decide (n < x + d)) = false := by
  cases l with
  | none => rfl
  | some x => simpa using hx x rfl

theorem lost_just_now {l : Option Nat} {n d x : Nat} (hl : l = some x) (hx : n < x + d) :
    (l.any fun x => decide (n < x + d)) = true := by
  rw [hl]
  simpa using hx

theorem exec_memLinkLoss (h : memLink tier link = some (t, i)) (h0 : (s.mem.link t i).state = 0) : exec (.memLinkLoss tier link) s =
    .next (if (s.mem.link t i).lastLoss.any fun x => s.ticks < x + tickPerS then
        s.holdLink t i { s.mem.link t i with lastLoss := some s.ticks }
      else s.beginRetrain t i { s.mem.link t i with lastLoss := some s.ticks }) := by
  change Host.Outcome.next (match memLink tier link with
    | none => s
    | some (t, i) => if (s.mem.link t i).state ≠ 0 then s
      else if (s.mem.link t i).lastLoss.any fun x => s.ticks < x + tickPerS then
        s.holdLink t i { s.mem.link t i with lastLoss := some s.ticks }
      else s.beginRetrain t i { s.mem.link t i with lastLoss := some s.ticks }) = _
  rw [h]
  exact congrArg Host.Outcome.next (if_neg (not_not_intro h0))

/-- A link whose retraining has ended: up, or held. -/
def State.retrained (s : State) (t : Tier) (i : Nat) (up : Bool) : State :=
  if up then s.setMem (s.mem.setLink t i { s.mem.link t i with state := 0, cmd := none }) else s.holdLink t i (s.mem.link t i)

theorem retrained_of_up (s : State) (t : Tier) (i : Nat) : s.retrained t i true =
    { s with mem := s.mem.setLink t i { s.mem.link t i with state := 0, cmd := none } } := if_pos rfl

theorem leBytes_one : leBytes 1 0 = [0] ∧ leBytes 1 1 = [1] := by decide

theorem exec_memLinkRetrainDone {up : Bool} (h : memLink tier link = some (t, i))
    (hs : (s.mem.link t i).state = 1 ∨ (s.mem.link t i).state = 3) : exec (.memLinkRetrainDone tier link up) s =
    .next (match (s.mem.link t i).cmd with
      | some id => (s.retrained t i up).finish id (ok (leBytes 1 (if up then 0 else 1)))
      | none => s.retrained t i up) := by
  change Host.Outcome.next (match memLink tier link with
    | none => s
    | some (t, i) => if (s.mem.link t i).state ≠ 1 ∧ (s.mem.link t i).state ≠ 3 then s
      else match (s.mem.link t i).cmd with
        | some id => (s.retrained t i up).finish id (ok (leBytes 1 (if up then 0 else 1)))
        | none => s.retrained t i up) = _
  rw [h]
  exact congrArg Host.Outcome.next (if_neg (by omega))

theorem exec_memLinkRetrainDone_up (h : memLink tier link = some (t, i))
    (hs : (s.mem.link t i).state = 1 ∨ (s.mem.link t i).state = 3) (hc : (s.mem.link t i).cmd = none) :
    exec (.memLinkRetrainDone tier link true) s =
      .next { s with mem := s.mem.setLink t i { s.mem.link t i with state := 0 } } := by
  have hl : ({ s.mem.link t i with state := 0, cmd := none } : MemLink) = { s.mem.link t i with state := 0 } := by
    rw [← hc]
  rw [exec_memLinkRetrainDone h hs, hc]
  change Host.Outcome.next (s.retrained t i true) = _
  rw [retrained_of_up, hl]

theorem exec_memLinkRetrainDone_held (h : memLink tier link = some (t, i))
    (hs : (s.mem.link t i).state = 1 ∨ (s.mem.link t i).state = 3) :
    ∃ u : State, exec (.memLinkRetrainDone tier link false) s = .next (match (s.mem.link t i).cmd with
        | some id => u.finish id (ok [1])
        | none => u) ∧ u.mem = s.mem.setLink t i { s.mem.link t i with state := 2, cmd := none } := by
  refine ⟨s.holdLink t i (s.mem.link t i), ?_, holdLink_mem _ _ _ _⟩
  rw [exec_memLinkRetrainDone h hs, if_neg Bool.false_ne_true, leBytes_one.2]
  rfl

theorem exec_memLinkRetrainDone_idle (up : Bool) (h : memLink tier link = some (t, i)) (h1 : (s.mem.link t i).state ≠ 1)
    (h3 : (s.mem.link t i).state ≠ 3) : exec (.memLinkRetrainDone tier link up) s = .next s := by
  change Host.Outcome.next (match memLink tier link with
    | none => s
    | some (t, i) => if (s.mem.link t i).state ≠ 1 ∧ (s.mem.link t i).state ≠ 3 then s
      else match (s.mem.link t i).cmd with
        | some id => (s.retrained t i up).finish id (ok (leBytes 1 (if up then 0 else 1)))
        | none => s.retrained t i up) = _
  rw [h]
  exact congrArg Host.Outcome.next (if_pos ⟨h1, h3⟩)

theorem exec_memRetrain_busy {id : Nat} {c : Cmd} (hr : s.Ready id 0x0703 c) (h : memLink (c.num 32 1) (c.num 33 1) = some (t, i))
    (hs : (s.mem.link t i).state = 1 ∨ (s.mem.link t i).state = 3) :
    exec (.memRetrain id) s = .next ((s.markStarted id).finish id (fail sBusy)) := by
  refine congrArg Host.Outcome.next (run_answers hr rfl ?_)
  dsimp only
  rw [h]
  exact if_pos hs

theorem exec_memRetrain_begins {id : Nat} {c : Cmd} (hr : s.Ready id 0x0703 c) (h : memLink (c.num 32 1) (c.num 33 1) = some (t, i))
    (h1 : (s.mem.link t i).state ≠ 1) (h3 : (s.mem.link t i).state ≠ 3) :
    exec (.memRetrain id) s = .next ((s.markStarted id).beginRetrain t i { s.mem.link t i with cmd := some id }) := by
  refine congrArg Host.Outcome.next (run_begins hr rfl ?_)
  dsimp only
  rw [h]
  exact if_neg (not_or.mpr ⟨h1, h3⟩)

end

/-- Settles O54: pages by what `takePage` and a release leave of the count, links by their state. -/
theorem pagesAndMemoryLinks : Obligations.PagesAndMemoryLinks := by
  unfold Obligations.PagesAndMemoryLinks
  refine ⟨fun s => ⟨fun hl hq => ?_, fun hq => ?_, ⟨_, rfl, reencrypt_leaves s⟩, fun ten g o r x hlive _ hsets hten hgen hc hu =>
      ⟨_, rfl, reencrypt_moves (hten.symm ▸ hlive) hsets hgen hc hu⟩, fun id c h hn => ⟨fun hc => ?_, fun e hc =>
      ⟨fun hp => exec_cacheDrop_pinned h hn hc hp, fun hp => ⟨_, exec_cacheDrop_drops h hn hc hp, ?_⟩⟩⟩,
      fun id c h hn => ⟨fun hs => exec_savedDiscard_unknown h hn hs, fun hs => ⟨_, exec_savedDiscard_discards h hn hs, ?_⟩⟩⟩,
    fun tier link t i s h => ⟨fun h0 hx => ?_, fun x h0 hl hx => ?_, fun hs hc => ⟨?_, ?_⟩, fun id hs hc => ⟨?_, ?_⟩,
      fun h1 h3 up => exec_memLinkRetrainDone_idle up h h1 h3, fun h2 x => withheldOf_held _ _ _ h2 x, fun id c hr ht hlk =>
      ⟨fun hs => ?_, fun h1 h3 => ?_⟩⟩⟩
  · cases hx : takePage (fun x => x.use.quenching) s.mem.sets with
    | none => exact absurd (takePage_none hx) hq
    | some y =>
      obtain ⟨x, sets⟩ := y
      obtain ⟨hp, _, hsum, hfilter⟩ := takePage_takes hx
      obtain ⟨h1, _, h3, h4, h5, h6⟩ := quenched_leaves (s := s) x sets
      have hquench : pageSum ((s.quenched x sets).mem.sets.filter fun x => x.use.quenching) + 1 =
          pageSum (s.mem.sets.filter fun x => x.use.quenching) := by
        rw [h1]
        exact hfilter (fun x => x.use.quenching) (fun _ _ => rfl) hp
      have hpages : pageSum (s.quenched x sets).mem.sets + 1 = pageSum s.mem.sets := by
        rw [h1]
        exact hsum
      exact ⟨s.quenched x sets, congrArg Host.Outcome.next (quenchPage_of_page hl hx), hquench, hpages, h5, h6, h3, h4⟩
  · cases hx : takePage (fun x => x.use.quenching) s.mem.sets with
    | none => exact congrArg Host.Outcome.next (quenchPage_of_none hx)
    | some y =>
      obtain ⟨hp, _, _, hfilter⟩ := takePage_takes hx
      have := hfilter (fun x => x.use.quenching) (fun _ _ => rfl) hp
      rw [show pageSum (s.mem.sets.filter fun x => x.use.quenching) = 0 from hq] at this
      cases this
  · rw [← cacheMiss_eq]
    exact exec_cacheDrop_missing h hn hc
  · obtain ⟨_, hhif, _, hmgr, _⟩ := ((State.Keyed.refl (s := s.markStarted id)).setMem (s.mem.dropEntry e.order)
      |>.retireKey (c.num 32 2)).frame
    have hpages : pageSum (((s.markStarted id).setMem (s.mem.dropEntry e.order)).retireKey (c.num 32 2)).mem.sets =
        pageSum s.mem.sets := by
      rw [retireKey_sets]
      exact release_pages s.mem fun u => u == .cache e.order
    refine ⟨?_, hpages, ?_, hmgr, hhif⟩
    · rw [retireKey_mem]
      rfl
    · rw [retireKey_sets]
      exact release_uses s.mem (.cache e.order) (by nofun)
  · obtain ⟨hmem, _⟩ := retireKeys_mem ((s.markStarted id).setMem (s.mem.dropSaved (c.num 56 8)))
    have hpages : pageSum ((s.markStarted id).setMem (s.mem.dropSaved (c.num 56 8))).retireKeys.mem.sets = pageSum s.mem.sets := by
      rw [hmem]
      exact release_pages s.mem fun u => u == .kept (c.num 56 8)
    refine ⟨hpages, ?_, ?_⟩
    · rw [hmem]
      rfl
    · rw [hmem]
      exact release_uses s.mem (.kept (c.num 56 8)) (by nofun)
  · have hany : ((s.mem.link t i).lastLoss.any fun x => decide (s.ticks < x + tickPerS)) = false := lost_long_ago hx
    refine ⟨_, exec_memLinkLoss h h0, ?_⟩
    obtain ⟨hmem, _⟩ := beginRetrain_leaves s t i { s.mem.link t i with lastLoss := some s.ticks }
    rw [hany, if_neg Bool.false_ne_true, hmem]
    dsimp only
    rw [h0]
    rfl
  · have hany : ((s.mem.link t i).lastLoss.any fun x => decide (s.ticks < x + tickPerS)) = true := lost_just_now hl hx
    refine ⟨_, exec_memLinkLoss h h0, ?_⟩
    rw [hany, if_pos rfl, holdLink_mem]
  · exact exec_memLinkRetrainDone_up h hs hc
  · obtain ⟨u, hexec, hmem⟩ := exec_memLinkRetrainDone_held h hs
    refine ⟨u, ?_, ?_⟩
    · rw [hexec, hc]
    · rw [hmem, ← hc]
  · rw [exec_memLinkRetrainDone h hs, hc, retrained_of_up]
    exact congrArg (fun b => Host.Outcome.next (State.finish _ id (ok b))) leBytes_one.1
  · obtain ⟨u, hexec, hmem⟩ := exec_memLinkRetrainDone_held h hs
    refine ⟨u, ?_, hmem⟩
    rw [hexec, hc]
  · rw [← ht, ← hlk] at h
    exact exec_memRetrain_busy hr h hs
  · rw [← ht, ← hlk] at h
    exact ⟨_, exec_memRetrain_begins hr h h1 h3, beginRetrain_leaves _ _ _ _⟩

end Sys2Proof.Machine

/-! # The manager's waits and the reports of agents (R166, R176, R187, R219, R226, R227, R229, R346, R355) -/

namespace Sys2Proof.Machine

/-! ## The job in hand -/

section
variable {s : State} {j : Job} {rest : List Job}

/-- A wait of the job in hand is over. -/
def State.without (s : State) (j : Job) (rest : List Job) (w : Wait) : State :=
  { s with mgr := { s.mgr with jobs := { j with waits := j.waits.erase w } :: rest } }

theorem dropHeadWait_eq (hj : s.mgr.jobs = j :: rest) (w : Wait) : s.dropHeadWait w = s.without j rest w := by
  unfold State.dropHeadWait State.onHead
  rw [hj]
  rfl

/-- An answer ends the wait for it in the job in hand (R355). -/
theorem dropReply_eq (hj : s.mgr.jobs = j :: rest) {e : Nat} {op : BitVec 8} (hw : .reply e op ∈ j.waits) :
    s.dropReply e op = s.without j rest (.reply e op) := by
  unfold State.dropReply
  dsimp only
  rw [hj]
  unfold modFirst
  rw [if_pos (by simpa using hw)]
  rfl

theorem computeDone_eq (hj : s.mgr.jobs = j :: rest) {full : Bool} (hw : j.waits = [.compute full]) :
    s.computeDone = (s.without j rest (.compute full)).computed full := by
  unfold State.computeDone
  rw [hj]
  dsimp only [List.head?_cons, Option.bind_some]
  rw [hw]
  dsimp only [List.findSome?]
  rw [dropHeadWait_eq hj]

/-! ## The end of a procedure -/

/-- With nothing that has come up, the manager has nothing to decide. -/
theorem nothing_to_decide (fuel : Nat) (ht : s.mgr.troubles = []) (hg : s.mgr.gathers = []) (hf : s.mgr.fencings = [])
    (hp : s.mgr.probing = []) : (State.decideAll fuel s).gathersDone.boundariesDone.nextReadmit = s := by
  have hd : State.decideAll fuel s = s := by
    cases fuel with
    | zero => rfl
    | succ fuel =>
      unfold State.decideAll
      rw [ht]
  have hg' : s.gathersDone = s := by
    unfold State.gathersDone
    rw [hg]
    rfl
  have hb : s.boundariesDone = s := by
    unfold State.boundariesDone
    rw [hf]
    rfl
  rw [hd, hg', hb]
  unfold State.nextReadmit
  split
  · rfl
  · split
    · rfl
    · rw [hp]
      rfl

/-- One round of the manager's work, where nothing has come up. -/
theorem pump_idle (fuel : Nat) (ht : s.mgr.troubles = []) (hg : s.mgr.gathers = []) (hf : s.mgr.fencings = [])
    (hp : s.mgr.probing = []) : State.pump (fuel + 1) s = ((s.jobStep.map (State.pump fuel)).getD s) := by
  have hs : (if s.reconciling then s
      else (State.decideAll (s.mgr.troubles.length + 8) s).gathersDone.boundariesDone.nextReadmit) = s := by
    split
    · rfl
    · exact nothing_to_decide _ ht hg hf hp
  rw [State.pump, hs]
  cases s.jobStep <;> rfl

/-- A procedure with nothing left to do is over. -/
theorem settle_ends (hr : s.mgrRuns = true) (hj : s.mgr.jobs = [j]) (hs : j.steps = []) (ht : s.mgr.troubles = [])
    (hg : s.mgr.gathers = []) (hf : s.mgr.fencings = []) (hp : s.mgr.probing = []) :
    s.settle = { s with mgr := { s.mgr with jobs := [] } } := by
  have hone : s.jobStep = some { s with mgr := { s.mgr with jobs := [] } } := by
    unfold State.jobStep
    rw [hj]
    dsimp only
    rw [hs]
    rfl
  have hfuel : ∃ k, s.mgr.fuel = k + 1 + 1 := ⟨62 + 8 * (s.mgr.jobs.map fun j => j.steps.length + 4).sum +
    64 * s.mgr.troubles.length, by unfold Mgr.fuel; omega⟩
  obtain ⟨k, hk⟩ := hfuel
  unfold State.settle
  rw [if_pos hr, hk, pump_idle _ ht hg hf hp, hone]
  exact pump_idle (s := { s with mgr := { s.mgr with jobs := [] } }) k ht hg hf hp

end

/-! ## Reports that have arrived -/

section
variable {s : State} {p : Pkt}

/-- The state once the report in the inbox has been taken. -/
def State.emptied (s : State) : State := { s with hub := { s.hub with inbox := [] } }

theorem takeReport_eq {type : BitVec 8} (hi : s.hub.inbox = [p]) (hb : isBillet p = false) (ht : p.c.type = type)
    (f : Nat → BitVec 128 → State → State) : s.takeReport type f = f p.c.src.toNat (pktTally p) s.emptied := by
  have htake : takeFirst (fun p => !isBillet p && p.c.type == type) [p] = some (p, []) := by
    unfold takeFirst
    rw [hb, ht]
    simp
  unfold State.takeReport State.takeInbox
  rw [hi, htake]
  rfl

theorem asMgr_takeReport {type : BitVec 8} (hr : s.mgrRuns = true) (hi : s.hub.inbox = [p]) (hb : isBillet p = false)
    (ht : p.c.type = type) (f : Nat → BitVec 128 → State → State) :
    (s.asMgr fun s => s.takeReport type f) = (f p.c.src.toNat (pktTally p) s.emptied).settle := by
  rw [asMgr_of_mgrRuns hr, takeReport_eq hi hb ht]

end

/-! ### What each report does -/

section
variable {u : State} {e : Nat} {b : BitVec 128}

/-- An answer other than to TBL_STATE and TBL_SEED ends its wait and no more (R355). -/
theorem takeCtrlReply_eq (h3 : field b 0 8 ≠ (0x03#8)) (h4 : field b 0 8 ≠ (0x04#8)) :
    State.takeCtrlReply e b u = u.dropReply e (field b 0 8) := by
  have h3' : ¬field b 0 8 = 0x03 := h3
  have h4' : ¬field b 0 8 = 0x04 := h4
  unfold State.takeCtrlReply
  simp only [h3', h4', decide_false, Bool.false_and, Bool.false_eq_true, if_false, false_and]

theorem takeReportOf_stale (h : u.fresh e (field b 16 32) (field b 48 16) = false) :
    State.takeReportOf e b u = u.stale e (field b 16 32) (field b 48 16) := by
  unfold State.takeReportOf
  refine if_pos ?_
  rw [h]
  rfl

theorem takeReportOf_lost {x : Nat × Heat} (h : u.fresh e (field b 16 32) (field b 48 16) = true)
    (hk : (field b 0 6).toNat = 1) (hx : u.heatOfEntry e = some x) :
    State.takeReportOf e b u = u.loseEndpoint e (b.getLsbD 15) := by
  unfold State.takeReportOf
  refine (if_neg (by rw [h]; decide)).trans ?_
  rw [hk, hx]
  rfl

theorem takeLinkEvent_stale (h : u.fresh e (field b 48 32) (field b 80 16) = false) :
    State.takeLinkEvent e b u = u.stale e (field b 48 32) (field b 80 16) := by
  unfold State.takeLinkEvent
  refine if_pos ?_
  rw [h]
  rfl

/-- The width of a port goes into the model, and a changed one calls for an epoch (R166, R227). -/
def State.widthTo (s : State) (k w : Nat) : State :=
  if (tget s.mgr.widths k).getD 0 = w then s else (s.setMgr { s.mgr with widths := tset s.mgr.widths k w }).requestEpoch

theorem widthTo_same {s : State} {k w : Nat} (h : (tget s.mgr.widths k).getD 0 = w) : s.widthTo k w = s := if_pos h

theorem widthTo_other {s : State} {k w : Nat} (h : (tget s.mgr.widths k).getD 0 ≠ w) :
    s.widthTo k w = ({ s with mgr := { s.mgr with widths := tset s.mgr.widths k w } } : State).requestEpoch := if_neg h

/-- A port's event of a known stamp, where the port is not held. -/
theorem takeLinkEvent_eq {r : InstRecord} (h : u.fresh e (field b 48 32) (field b 80 16) = true) (hr : u.mgr.record = some r)
    (hn : field b 7 3 ≠ stateCode .held) {port w : Nat} (hp : port = (field b 0 4).toNat) (hw : w = eventWidth r u.boot.strap e b) :
    State.takeLinkEvent e b u = (if w != 0 && w < r.minOf e port then (u.holdPorts [(e, port)] true).1 else u).widthTo
      (16 * e + port) (if w < r.minOf e port then 0 else w) := by
  have hnote : u.noteHeld e b = u := by
    unfold State.noteHeld
    exact if_neg (by simpa using hn)
  subst hp hw
  unfold State.takeLinkEvent
  refine (if_neg (by rw [h]; decide)).trans ?_
  rw [hr]
  dsimp only
  rw [hnote]
  rfl

theorem takeLinkEvent_wide {r : InstRecord} (h : u.fresh e (field b 48 32) (field b 80 16) = true) (hr : u.mgr.record = some r)
    (hn : field b 7 3 ≠ stateCode .held) {port w : Nat} (hp : port = (field b 0 4).toNat) (hw : w = eventWidth r u.boot.strap e b)
    (hm : w = 0 ∨ r.minOf e port ≤ w) : State.takeLinkEvent e b u = u.widthTo (16 * e + port) w := by
  rw [takeLinkEvent_eq h hr hn hp hw]
  rcases hm with hm | hm
  · rw [hm, if_neg (by simp), ite_self]
  · rw [if_neg (by simp [hm]), if_neg (Nat.not_lt.mpr hm)]

/-- A port that is up below the record's minimum is held (R346). -/
theorem takeLinkEvent_narrow {r : InstRecord} (h : u.fresh e (field b 48 32) (field b 80 16) = true) (hr : u.mgr.record = some r)
    (hn : field b 7 3 ≠ stateCode .held) {port w : Nat} (hp : port = (field b 0 4).toNat) (hw : w = eventWidth r u.boot.strap e b)
    (h0 : w ≠ 0) (hm : w < r.minOf e port) :
    State.takeLinkEvent e b u = (u.holdPorts [(e, port)] true).1.widthTo (16 * e + port) 0 := by
  rw [takeLinkEvent_eq h hr hn hp hw, if_pos (by simp [h0, hm]), if_pos hm]

theorem takeFenceAck_some {f : Fencing} (hb : b.getLsbD 32 = true)
    (hf : (u.mgr.fencings.find? fun f => f.seq == field b 0 32 && f.entry == e) = some f) :
    State.takeFenceAck e b u = u.fenceDone f := by
  unfold State.takeFenceAck
  rw [if_pos hb, hf]

theorem takeFenceAck_none (hb : b.getLsbD 32 = true)
    (hf : (u.mgr.fencings.find? fun f => f.seq == field b 0 32 && f.entry == e) = none) : State.takeFenceAck e b u = u := by
  unfold State.takeFenceAck
  rw [if_pos hb, hf]

theorem takeResendFail_some {no : Nat} {h : Heat} (hh : u.heatOfEntry e = some (no, h)) (hr : u.releasing no = false) :
    State.takeResendFail e b u = u.gatherFail no { src := BitVec.ofNat 18 e, body := b } := by
  unfold State.takeResendFail
  rw [hh]
  exact if_neg (by rw [hr]; decide)

theorem takeResendFail_none (hh : u.heatOfEntry e = none) : State.takeResendFail e b u = u := by
  unfold State.takeResendFail
  rw [hh]

end

/-- Settles O56: waits that go, and each report by what its row does with it. -/
theorem managerWaitsAndReports : Obligations.ManagerWaitsAndReports := by
  unfold Obligations.ManagerWaitsAndReports
  refine ⟨fun j rest s hr hj => ⟨fun _ => ?_, fun _ => ?_, fun full hw => ?_, fun p hi hb ht hw h3 h4 => ?_,
      fun _ hs hrest htr hg hf hp _ => settle_ends hr (hrest ▸ hj) hs htr hg hf hp⟩,
    fun p s hr hi hb => ⟨fun ht h => ?_, fun ht h hk x hx => ?_, fun ht h => ?_, fun ht h r hrec hn => ⟨fun hm =>
      ⟨fun hw => ?_, fun hw => ?_⟩, fun h0 hm => ⟨fun hw => ?_, fun hw => ?_⟩⟩, fun ht hb' => ⟨fun f hf => ?_, fun hf => ?_⟩,
      fun ht no h hh hrel => ?_, fun ht hh => ?_, fun no => congrArg Host.Outcome.next (asMgr_of_mgrRuns hr _)⟩⟩
  · refine congrArg Host.Outcome.next ((asMgr_of_mgrRuns hr _).trans ?_)
    rw [dropHeadWait_eq hj]
    rfl
  · refine congrArg Host.Outcome.next ((asMgr_of_mgrRuns hr _).trans ?_)
    rw [dropHeadWait_eq hj]
    rfl
  · refine congrArg Host.Outcome.next ((asMgr_of_mgrRuns hr _).trans ?_)
    rw [computeDone_eq hj hw]
    rfl
  · refine congrArg Host.Outcome.next ((asMgr_takeReport hr hi hb ht _).trans ?_)
    rw [takeCtrlReply_eq h3 h4, dropReply_eq (s := s.emptied) hj hw]
    rfl
  · refine congrArg Host.Outcome.next ((asMgr_takeReport hr hi hb ht _).trans ?_)
    exact congrArg State.settle (takeReportOf_stale (u := s.emptied) h)
  · refine congrArg Host.Outcome.next ((asMgr_takeReport hr hi hb ht _).trans ?_)
    exact congrArg State.settle (takeReportOf_lost (u := s.emptied) h hk hx)
  · refine congrArg Host.Outcome.next ((asMgr_takeReport hr hi hb ht _).trans ?_)
    exact congrArg State.settle (takeLinkEvent_stale (u := s.emptied) h)
  · refine congrArg Host.Outcome.next ((asMgr_takeReport hr hi hb ht _).trans ?_)
    rw [takeLinkEvent_wide (u := s.emptied) h hrec hn rfl rfl hm]
    exact congrArg State.settle (widthTo_same (s := s.emptied) hw.symm)
  · refine congrArg Host.Outcome.next ((asMgr_takeReport hr hi hb ht _).trans ?_)
    rw [takeLinkEvent_wide (u := s.emptied) h hrec hn rfl rfl hm]
    exact congrArg State.settle (widthTo_other (s := s.emptied) (Ne.symm hw))
  · refine congrArg Host.Outcome.next ((asMgr_takeReport hr hi hb ht _).trans ?_)
    rw [takeLinkEvent_narrow (u := s.emptied) h hrec hn rfl rfl h0 hm]
    exact congrArg State.settle (widthTo_same hw)
  · refine congrArg Host.Outcome.next ((asMgr_takeReport hr hi hb ht _).trans ?_)
    rw [takeLinkEvent_narrow (u := s.emptied) h hrec hn rfl rfl h0 hm]
    exact congrArg State.settle (widthTo_other hw)
  · refine congrArg Host.Outcome.next ((asMgr_takeReport hr hi hb ht _).trans ?_)
    exact congrArg State.settle (takeFenceAck_some (u := s.emptied) hb' hf)
  · refine congrArg Host.Outcome.next ((asMgr_takeReport hr hi hb ht _).trans ?_)
    exact congrArg State.settle (takeFenceAck_none (u := s.emptied) hb' hf)
  · refine congrArg Host.Outcome.next ((asMgr_takeReport hr hi hb ht _).trans ?_)
    exact congrArg State.settle (takeResendFail_some (u := s.emptied) hh hrel)
  · refine congrArg Host.Outcome.next ((asMgr_takeReport hr hi hb ht _).trans ?_)
    exact congrArg State.settle (takeResendFail_none (u := s.emptied) hh)

end Sys2Proof.Machine

/-! # Discovery and probing (R136, R137, R141, R142, R225, R249) -/

namespace Sys2Proof.Machine

/-! ## What discovery touches of the link tiles and of the hub: the ports alone -/

/-- From `s` to `t` nothing of the link tiles but their ports has changed, and nothing of the hub. -/
def State.PortsMove (s t : State) : Prop := t.link = { s.link with ports := t.link.ports } ∧ t.hub = s.hub

namespace State.PortsMove

variable {s t u : State}

theorem refl : s.PortsMove s := ⟨rfl, rfl⟩

theorem trans (h : s.PortsMove t) (k : t.PortsMove u) : s.PortsMove u := by
  obtain ⟨hl, hh⟩ := h
  obtain ⟨kl, kh⟩ := k
  exact ⟨by rw [kl, hl], kh.trans hh⟩

/-- What keeps both as they are. -/
theorem same (h : s.PortsMove t) (hl : u.link = t.link) (hh : u.hub = t.hub) : s.PortsMove u :=
  h.trans ⟨by rw [hl], hh⟩

theorem setMgr (h : s.PortsMove t) (m : Mgr) : s.PortsMove (t.setMgr m) := h.same rfl rfl

theorem outward (h : s.PortsMove t) (k : Outward t u) : s.PortsMove u := by
  obtain ⟨_, hl, hh, _⟩ := k.frame
  exact h.same hl hh

theorem finish (h : s.PortsMove t) (id : Nat) (a : Ans) : s.PortsMove (t.finish id a) := by
  obtain ⟨_, hl, hh, _⟩ := finish_keeps t id a
  exact h.same hl hh

theorem foldl {α : Type} {f : State → α → State} (hf : ∀ (t : State) (x : α), t.PortsMove (f t x)) (h : s.PortsMove t) (l : List α) :
    s.PortsMove (l.foldl f t) := by
  induction l generalizing t with
  | nil => exact h
  | cons x l ih => exact ih (h.trans (hf t x))

theorem differ (h : s.PortsMove t) (d : Diff) (x y : BitVec 16) : s.PortsMove (t.differ d x y) :=
  (h.setMgr _).outward ((Outward.refl _).note _ _ _)

theorem holdCh (h : s.PortsMove t) (p : Nat) : s.PortsMove (t.holdCh p) := by
  unfold State.holdCh
  split
  · exact h
  · exact h.trans ⟨rfl, rfl⟩

theorem setFabric (h : s.PortsMove t) (v : Nat) : s.PortsMove (t.setFabric v) := by
  unfold State.setFabric
  split
  · exact h
  · exact (h.setMgr _).outward ((Outward.refl _).postPf _)

theorem enqueue (h : s.PortsMove t) (port : Nat) (p : Pkt) (o : Option (Nat × BitVec 2)) :
    s.PortsMove { t with link := t.link.enqueue port p o } := by
  refine h.trans ⟨?_, rfl⟩
  dsimp only
  unfold LinkTiles.enqueue
  split <;> rfl

theorem hubSend (h : s.PortsMove t) (p : Pkt) : s.PortsMove (t.hubSend p) := by
  unfold State.hubSend
  split
  · exact h.enqueue _ _ _
  · exact h

theorem sendQuery (h : s.PortsMove t) (q : Query) : s.PortsMove (t.sendQuery q) := by
  unfold State.sendQuery
  dsimp only
  split
  · exact (h.setMgr _).hubSend _
  · exact (h.setMgr _).enqueue _ _ _

theorem checkWidth (h : s.PortsMove t) (r : InstRecord) (p : Nat) (q : Port) : s.PortsMove (t.checkWidth r p q) := by
  unfold State.checkWidth
  dsimp only
  split
  · exact h
  · split
    · exact h.differ _ _ _
    · split
      · exact h.differ _ _ _
      · exact h

theorem checkRoots (h : s.PortsMove t) (r : InstRecord) : s.PortsMove (t.checkRoots r) := by
  refine foldl (fun t x => ?_) h _
  have hw := (refl (s := t)).checkWidth r x.1 x.2
  dsimp only
  split
  · exact hw
  · split
    · exact hw.differ _ _ _
    · split
      · exact hw
      · exact hw.differ _ _ _

theorem checkPeers (h : s.PortsMove t) (r : InstRecord) : s.PortsMove (t.checkPeers r) := by
  unfold State.checkPeers
  dsimp only
  split
  · exact h
  · exact (foldl (fun t x => ((refl (s := t)).holdCh _).differ _ _ _) h _).setMgr _

theorem discoverAnswer (h : s.PortsMove t) : s.PortsMove t.discoverAnswer := by
  unfold State.discoverAnswer
  split
  · exact h
  · exact (h.setMgr _).finish _ _

theorem discovered (h : s.PortsMove t) (r : InstRecord) : s.PortsMove (t.discovered r) := by
  unfold State.discovered
  dsimp only
  generalize hX : List.foldl State.holdCh _ _ = X
  have hm : s.PortsMove X := by
    rw [← hX]
    refine foldl (fun t p => (refl (s := t)).holdCh p) ?_ _
    refine foldl (fun t x => (refl (s := t)).differ _ _ _) ?_ _
    refine setMgr ?_ _
    refine checkPeers ?_ r
    exact foldl (fun t e => ((refl (s := t)).setMgr _).differ _ _ _) h _
  split
  · exact (hm.setFabric 3).discoverAnswer
  · exact (foldl (fun t e => (refl (s := t)).setMgr _) (hm.setMgr _) _).setMgr _

theorem nextQuery (h : s.PortsMove t) (r : InstRecord) (fuel : Nat) : s.PortsMove (State.nextQuery r fuel t) := by
  induction fuel generalizing t with
  | zero => exact h
  | succ fuel ih =>
    unfold State.nextQuery
    dsimp only
    split
    · exact h
    · split
      · split
        · exact (h.setMgr _).sendQuery _
        · exact ih (h.setMgr _)
      · exact ih (h.setMgr _)
      · exact h.discovered r

theorem goOn (h : s.PortsMove t) : s.PortsMove t.goOn := by
  unfold State.goOn
  split
  · exact h
  · exact (h.setMgr _).nextQuery _ _

theorem fromRoots (h : s.PortsMove t) : s.PortsMove t.fromRoots := ((h.setMgr _).setMgr _).goOn

end State.PortsMove

/-! ## The beginning -/

section
variable {s : State}

/-- The link tiles and the hub as the queries begin (R141). -/
def State.startedAfresh (s : State) : State :=
  let s : State := { s with link := { s.link with
    forgetting := false, current := { epoch := 0, dest := [] }, other := { epoch := 1, dest := [] }, bitmaps := [] } }
  let s := s.setHub { s.hub with arrived := [], inbox := [], srcs := [], dsts := [] }
  s.setMgr { s.mgr with epoch := 0 }

theorem discoveryStart_begins {r : InstRecord} (hr : s.mgr.record = some r) (hf : s.link.forgetting = true)
    (hv : s.mgr.fabricState = 1) (ha : s.mgr.disc.active = false) :
    s.discoveryStart = (s.startedAfresh.checkRoots r).fromRoots := by
  unfold State.discoveryStart
  rw [hr]
  exact if_neg (by rw [hf, hv, ha]; decide)

theorem discoveryStart_idle (hf : s.link.forgetting = false) : s.discoveryStart = s := by
  unfold State.discoveryStart
  split
  · rfl
  · exact if_pos (by rw [hf]; rfl)

/-! ## Queries without a reply -/

theorem discoverLate_eq (hr : s.mgr.disc.readmit = false) : s.discoverLate = s.replyLate := by
  unfold State.discoverLate
  exact if_pos (by rw [hr]; rfl)

theorem discoverLate_again {q : Query} (hc : s.mgr.disc.current = some q) (hr : s.mgr.disc.readmit = false) (ht : q.tries < 3) :
    s.discoverLate = s.sendQuery { q with tries := q.tries + 1 } := by
  rw [discoverLate_eq hr]
  unfold State.replyLate
  rw [hc]
  exact if_pos ht

theorem discoverLate_goesOn {q : Query} (hc : s.mgr.disc.current = some q) (hr : s.mgr.disc.readmit = false) (ht : 3 ≤ q.tries) :
    s.discoverLate = s.goOn := by
  rw [discoverLate_eq hr]
  unfold State.replyLate
  rw [hc]
  exact if_neg (Nat.not_lt.mpr ht)

theorem discoverLate_of_none (hc : s.mgr.disc.current = none) : s.discoverLate = s := by
  unfold State.discoverLate State.replyLate
  rw [hc]
  exact ite_self s

/-- A reply that has come and passes its checks is taken (R136). -/
theorem takeDiscover_eq {x : Arrived} (ha : s.hub.arrived = [x]) (hb : isBillet x.pkt = false) (ht : x.pkt.c.type = tDiscoverReply)
    (hg : tallyGood x.pkt = true) (hk : x.pkt.c.laneKey = mgrKey) (hr : s.mgr.disc.readmit = false) :
    s.takeDiscover = ({ s with hub := { s.hub with arrived := [] }, link := s.link.release x.origin x.pkt } : State).takeReply
      (pktTally x.pkt) := by
  have htake : takeTally tDiscoverReply s.hub.arrived = some (x, []) := by
    unfold takeTally takeFirst
    rw [ha]
    dsimp only
    rw [hb, ht]
    simp
  unfold State.takeDiscover
  rw [htake]
  refine (if_neg ?_).trans (if_neg ?_)
  · rw [hg, hk]
    decide
  · change ¬s.mgr.disc.readmit = true
    rw [hr]
    decide

/-! ## Port changes and probes -/

theorem tileChange_of_not_logged {p : Nat} (h : p ∉ s.link.log) : State.tileChange p s = s := by
  unfold State.tileChange
  exact if_pos (by simpa using h)

/-- A port that is up and not yet identified leaves the log, and the routes are computed again. -/
theorem tileChange_of_up {p : Nat} (h : p ∈ s.link.log) (ht : s.ember.takeover = false)
    (hu : ((s.link.port p).isUp && !(s.link.port p).nbrSeen) = true) : State.tileChange p s =
      ({ s with link := { s.link with log := s.link.log.filter (· != p) } } : State).startTakeover.requestEpoch := by
  simp only [Bool.and_eq_true, Bool.not_eq_true'] at hu
  obtain ⟨hup, hseen⟩ := hu
  unfold State.tileChange
  refine (if_neg (by simpa using h)).trans ?_
  refine congrArg (fun v : State => v.startTakeover.requestEpoch) ((if_neg ?_).trans (if_neg ?_))
  · change ¬((s.link.port p).isUp && (s.link.port p).nbrSeen ||
      !(s.link.port p).isUp && (s.link.port p).state != PortState.training) = true
    rw [hup, hseen]
    simp
  · change ¬s.ember.takeover = true
    rw [ht]
    decide

theorem probeAll_of_out {r : InstRecord} (hr : s.mgr.record = some r) (hf : s.mgr.fabricState ≠ 2) : s.probeAll = s := by
  unfold State.probeAll
  rw [hr]
  exact if_pos (by simpa using hf)

theorem probeAll_in_service {r : InstRecord} (hr : s.mgr.record = some r) (hf : s.mgr.fabricState = 2) : s.probeAll =
    ((List.range r.agents.length).filter fun e => (s.entry e).service == .outOfService).foldl State.startProbe s := by
  unfold State.probeAll
  rw [hr]
  exact if_neg (by simpa using hf)

theorem probeStops_of_not_probing {e : Nat} (h : e ∉ s.mgr.probing) : s.probeStops e = s := by
  unfold State.probeStops
  exact if_pos (by simpa using h)

theorem probeStops_of_probing {e : Nat} (h : e ∈ s.mgr.probing) : s.probeStops e =
    ((({ s with mgr := { s.mgr with probing := s.mgr.probing.filter (· != e) } } : State).holdFacing e true).answerReadmit e) := by
  unfold State.probeStops
  exact if_neg (by simpa using h)

end

/-- Settles O57: the ports are all that a discovery's beginning moves of the link tiles (`State.PortsMove`), and each of the manager's
rows by its branches. -/
theorem discoveryAndProbes : Obligations.DiscoveryAndProbes := by
  unfold Obligations.DiscoveryAndProbes
  intro s
  refine ⟨fun r hr hf hv ha => ?_, fun hf => congrArg Host.Outcome.next (discoveryStart_idle hf), fun hm =>
    ⟨fun q hc hr ht => ?_, fun q hc hr ht => ?_, fun hc => ?_, fun x ha hb ht hg hk hr => ?_, fun p hp => ?_, fun p hp ht hu => ?_,
      fun r hr hf => ?_, fun r hr hf => ?_, fun e he => ?_, fun e he => ?_, fun e he hn => ?_⟩⟩
  · obtain ⟨hl, hh⟩ := (State.PortsMove.refl (s := s.startedAfresh)).checkRoots r |>.fromRoots
    refine ⟨_, congrArg Host.Outcome.next (discoveryStart_begins hr hf hv ha), ?_⟩
    rw [hl, hh]
    exact ⟨rfl, rfl, rfl, rfl, rfl⟩
  · refine congrArg Host.Outcome.next ((asMgr_of_mgrRuns hm _).trans ?_)
    rw [discoverLate_again hc hr ht]
  · refine congrArg Host.Outcome.next ((asMgr_of_mgrRuns hm _).trans ?_)
    rw [discoverLate_goesOn hc hr ht]
  · refine congrArg Host.Outcome.next ((asMgr_of_mgrRuns hm _).trans ?_)
    rw [discoverLate_of_none hc]
  · refine congrArg Host.Outcome.next ((asMgr_of_mgrRuns hm _).trans ?_)
    rw [takeDiscover_eq ha hb ht hg hk hr]
  · refine congrArg Host.Outcome.next ((asMgr_of_mgrRuns hm _).trans ?_)
    rw [tileChange_of_not_logged hp]
  · refine congrArg Host.Outcome.next ((asMgr_of_mgrRuns hm _).trans ?_)
    rw [tileChange_of_up hp ht hu]
  · refine congrArg Host.Outcome.next ((asMgr_of_mgrRuns hm _).trans ?_)
    rw [probeAll_of_out hr hf]
  · refine congrArg Host.Outcome.next ((asMgr_of_mgrRuns hm _).trans ?_)
    rw [probeAll_in_service hr hf]
  · have hover : State.probeOver e s = s := by
      unfold State.probeOver
      rw [probeStops_of_not_probing he, ite_self]
    refine congrArg Host.Outcome.next ((asMgr_of_mgrRuns hm _).trans ?_)
    rw [hover]
  · refine congrArg Host.Outcome.next ((asMgr_of_mgrRuns hm _).trans ?_)
    exact congrArg State.settle (if_pos he)
  · refine congrArg Host.Outcome.next ((asMgr_of_mgrRuns hm _).trans ?_)
    exact congrArg State.settle ((if_neg (by rw [hn]; decide)).trans (probeStops_of_probing he))

end Sys2Proof.Machine

/-! # Packets at the hub units, and the pacer (R90, R92, R93, R99, R108, R274, R289, R562) -/

namespace Sys2Proof.Machine

theorem takeFirst_one {α : Type} {p : α → Bool} {x : α} (h : p x = true) : takeFirst p [x] = some (x, []) := by
  unfold takeFirst
  rw [if_pos h]

section
variable {s : State}

/-! ## What arrives -/

/-- The state once the one packet that has arrived is taken. -/
def State.unarrived (s : State) : State := { s with hub := { s.hub with arrived := [] } }

theorem hubTake_eq {x : Arrived} (lost : Bool) (ha : s.hub.arrived = [x]) (hk : acknowledged x.pkt = true)
    (ht : s.hubTakes x = true) : State.hubTake lost s = s.unarrived.hubJudge x true lost := by
  unfold State.hubTake
  rw [ha, takeFirst_one (by rw [hk, ht]; rfl)]
  rfl

theorem hubTakeHeld_judges {x : Arrived} (hn : s.hub.noRoom = []) (hh : s.hub.heldBack = [x]) (hb : s.holdsBack x.pkt = false) :
    s.hubTakeHeld = ({ s with hub := { s.hub with heldBack := [] } } : State).hubJudge x false false := by
  unfold State.hubTakeHeld
  rw [hn, hh, takeFirst_one (by rw [hb]; rfl)]
  rfl

theorem hubTakeHeld_delivers {p : Pkt} (hn : s.hub.noRoom = [p]) (hb : s.holdsBack p = false) :
    s.hubTakeHeld = ((({ s with hub := { s.hub with noRoom := [] } } : State).hubDeliver p).pumpForge.endReady) := by
  have hroom : s.roomFor [] [p] = some (p, []) := by
    unfold State.roomFor
    rw [hb]
    rfl
  unfold State.hubTakeHeld
  rw [hn, hroom]
  rfl

/-! ## Flows at their source -/

section
variable {key : FlowKey} {f : SrcFlow}

theorem hubOnFlow_eq (h : (s.hub.srcs.find? fun f => f.key == key) = some f) (act : SrcFlow → SrcStep) :
    s.hubOnFlow key act = ((s.hubLaunch (act f)).dropAcked).endReady := by
  unfold State.hubOnFlow
  rw [h]

theorem hubResend_again {q : Seq} (h : (s.hub.srcs.find? fun f => f.key == key) = some f) (hl : lastTry f q = false) :
    State.hubResend key q s = s.hubLaunch (srcExpire s.hubEpoch f q) := by
  unfold State.hubResend
  rw [h]
  exact if_pos (by rw [hl]; rfl)

theorem hubResend_fails {q : Seq} {c : Copy} (h : (s.hub.srcs.find? fun f => f.key == key) = some f) (hl : lastTry f q = true)
    (hc : copyOf f q = some c) : State.hubResend key q s = s.hubFails f c := by
  unfold State.hubResend
  rw [h]
  refine (if_neg (by rw [hl]; decide)).trans ?_
  rw [hc]

theorem hubAckTimer_eq {d : DstFlow} (h : findDst s.hub.dsts key = some d) :
    State.hubAckTimer key s = if d.timer then s.hubAck d else s := by
  unfold State.hubAckTimer
  rw [h]

end

/-! ## Answers -/

/-- The state once an arrived packet has been taken and its cells are given back (R84). -/
def State.answerTaken (s : State) (x : Arrived) : State :=
  { s with hub := { s.hub with arrived := [] }, link := s.link.release x.origin x.pkt }

/-- Cells that return leave the link tiles' tables, and so the hub's epoch. -/
theorem answerTaken_hubEpoch (s : State) (x : Arrived) : (s.answerTaken x).hubEpoch = s.hubEpoch := by
  unfold State.hubEpoch State.answerTaken
  dsimp only
  unfold LinkTiles.release
  split <;> rfl

theorem hubAnswer_eq {x : Arrived} {f : SrcFlow} {type : BitVec 8} (act : BitVec 2 → Pkt → SrcFlow → SrcStep) (key : Pkt → FlowKey)
    (ha : s.hub.arrived = [x]) (hb : isBillet x.pkt = false) (hg : tallyGood x.pkt = true) (hh : s.hearsAnswer x = true)
    (ht : x.pkt.c.type = type) (hf : (s.hub.srcs.find? fun f => f.key == key x.pkt) = some f) :
    State.hubAnswer type act key s = (((s.answerTaken x).hubLaunch (act s.hubEpoch x.pkt f)).dropAcked).endReady := by
  have htake : takeFirst (fun (x : Arrived) => !isBillet x.pkt && x.pkt.c.type == type && s.hearsAnswer x) s.hub.arrived =
      some (x, []) := by
    rw [ha]
    exact takeFirst_one (by rw [hb, ht, hh]; simp)
  unfold State.hubAnswer
  rw [htake]
  refine (if_neg (by rw [hg]; decide)).trans ?_
  rw [← answerTaken_hubEpoch s x]
  exact hubOnFlow_eq (s := s.answerTaken x) hf (act (s.answerTaken x).hubEpoch x.pkt)

/-- With no procedure in hand no answer of a takeover is waited for. -/
theorem handoverAck_of_no_jobs (h : s.mgr.jobs = []) : s.handoverAck = s := by
  unfold State.handoverAck
  split
  · rfl
  · rw [h]
    exact if_neg (by simp)

/-! ## While the hub does not serve -/

theorem hubTakes_of_not_running {x : Arrived} (hr : s.mgrRuns = false) : s.hubTakes x = false := by
  unfold State.mgrRuns at hr
  rw [Bool.or_eq_false_iff] at hr
  obtain ⟨hs, hc⟩ := hr
  unfold State.hubTakes
  rw [hs, hc]
  exact ite_self _

theorem turnAway_eq {x : Arrived} (hr : s.mgrRuns = false) (ha : s.hub.arrived = [x]) (hb : s.behindHeld x = false) :
    s.turnAway = if acknowledged x.pkt && tallyGood x.pkt then (s.answerTaken x).hubSend (busyPkt x.pkt s.hubEpoch s.holdUs)
      else s.answerTaken x := by
  have htake : takeFirst (fun x => !(s.behindHeld x || (s.mgrRuns && !acknowledged x.pkt && s.hearsAnswer x) || s.hubTakes x))
      s.hub.arrived = some (x, []) := by
    rw [ha]
    exact takeFirst_one (by rw [hb, hr, hubTakes_of_not_running hr]; rfl)
  unfold State.turnAway
  dsimp only
  rw [htake, ← answerTaken_hubEpoch s x]
  rfl

/-! ## The pacer -/

theorem takeInbox_eq {p : Pkt} {type : BitVec 8} (hi : s.hub.inbox = [p]) (hb : isBillet p = false) (ht : p.c.type = type) :
    s.takeInbox type = some (p, s.emptied) := by
  unfold State.takeInbox
  rw [hi, takeFirst_one (by rw [hb, ht]; simp)]
  rfl

theorem exec_paceArrive {p : Pkt} (hi : s.hub.inbox = [p]) (hb : isBillet p = false) (ht : p.c.type = tPaceArrive) :
    exec .paceArrive s = .next (s.emptied.arrive p) := by
  change Host.Outcome.next (match s.takeInbox tPaceArrive with
    | some x => x.2.arrive x.1
    | none => s) = _
  rw [takeInbox_eq hi hb ht]

variable {p : Pkt} {no rank : Nat} {h : Heat} {x : Barrier}

/-- An arrival that counts is entered (R289). -/
theorem arrive_counts (hm : s.mapEid p.c.src = some (no, h, rank))
    (hx : (s.hub.barriers.find? fun b => b.is no (field (pktTally p) 0 32)) = some x) {step : Int}
    (hstep : step = nearestStep (field (pktTally p) 32 32) x.openStep) (hk : p.c.laneKey = tenantKey h.tenant)
    (hr : (field (pktTally p) 64 12).toNat = rank) (hf : p.c.src.toNat ∉ h.fenced) (h1 : (x.openStep : Int) ≤ step)
    (h2 : step ≤ x.openStep + 1) (ha : (step.toNat, rank) ∉ x.arrived) : s.arrive p =
      (s.modBarrier no x.barrier fun y => { y with arrived := y.arrived ++ [(step.toNat, rank)] }).checkBarrier no x.barrier := by
  subst hstep
  unfold State.arrive
  dsimp only
  rw [hm]
  dsimp only
  rw [hx]
  refine (if_neg ?_).trans (if_neg ?_)
  · simp [hk, hr, hf]
  · simp [h1, h2, ha]

/-- Any other is discarded. -/
theorem arrive_discarded (hm : s.mapEid p.c.src = some (no, h, rank))
    (hx : (s.hub.barriers.find? fun b => b.is no (field (pktTally p) 0 32)) = some x) {step : Int}
    (hstep : step = nearestStep (field (pktTally p) 32 32) x.openStep)
    (hn : ¬(p.c.laneKey = tenantKey h.tenant ∧ (field (pktTally p) 64 12).toNat = rank ∧ p.c.src.toNat ∉ h.fenced ∧
      (x.openStep : Int) ≤ step ∧ step ≤ x.openStep + 1 ∧ (step.toNat, rank) ∉ x.arrived)) : s.arrive p = s := by
  subst hstep
  unfold State.arrive
  dsimp only
  rw [hm]
  dsimp only
  rw [hx]
  by_cases hown : (p.c.laneKey != tenantKey h.tenant || (field (pktTally p) 64 12).toNat != rank ||
      h.fenced.contains p.c.src.toNat) = true
  · exact if_pos hown
  · refine (if_neg hown).trans (if_pos ?_)
    simp only [Bool.or_eq_true, bne_iff_ne, List.contains_iff_mem, not_or, Classical.not_not] at hown
    obtain ⟨⟨hk, hr⟩, hf⟩ := hown
    refine Classical.byContradiction fun hlate => ?_
    simp only [Bool.or_eq_true, decide_eq_true_eq, List.contains_iff_mem, not_or, Int.not_lt] at hlate
    obtain ⟨⟨h1, h2⟩, ha⟩ := hlate
    exact hn ⟨hk, hr, hf, h1, h2, ha⟩

end

/-- Settles O58: each row at the hub by what it takes and the act that it names, and the pacer's arrivals counted or discarded. -/
theorem hubPacketsAndPacer : Obligations.HubPacketsAndPacer := by
  unfold Obligations.HubPacketsAndPacer
  refine ⟨fun key s => ⟨fun hm => ⟨fun x lost ha hk ht => ?_, fun x hn hh hb => ?_, fun p hn hb => ?_, fun d hd => ?_,
      fun f hf => ⟨?_, ?_, fun q => ?_, fun i b => ?_, fun q hl => ?_, fun q c hl hc => ?_⟩,
      fun x f ha hb hg hh => ⟨fun ht hf => ?_, fun ht hf => ?_, fun ht hj hf => ?_⟩⟩,
      fun hs hv => ?_, fun x hr ha hv hb => ?_⟩,
    fun p s hi hb ht no h rank x hmap hx => ⟨fun hc => ?_, fun hc => ?_⟩⟩
  · refine congrArg Host.Outcome.next ((asMgr_of_mgrRuns hm _).trans ?_)
    exact congrArg State.settle (hubTake_eq lost ha hk ht)
  · refine congrArg Host.Outcome.next ((asMgr_of_mgrRuns hm _).trans ?_)
    exact congrArg State.settle (hubTakeHeld_judges hn hh hb)
  · refine congrArg Host.Outcome.next ((asMgr_of_mgrRuns hm _).trans ?_)
    exact congrArg State.settle (hubTakeHeld_delivers hn hb)
  · refine congrArg Host.Outcome.next ((asMgr_of_mgrRuns hm _).trans ?_)
    exact congrArg State.settle (hubAckTimer_eq hd)
  · refine congrArg Host.Outcome.next ((asMgr_of_mgrRuns hm _).trans ?_)
    exact congrArg State.settle (hubOnFlow_eq hf _)
  · refine congrArg Host.Outcome.next ((asMgr_of_mgrRuns hm _).trans ?_)
    exact congrArg State.settle (hubOnFlow_eq hf _)
  · refine congrArg Host.Outcome.next ((asMgr_of_mgrRuns hm _).trans ?_)
    exact congrArg State.settle (hubOnFlow_eq hf fun f => srcHoldEnd s.hubEpoch f q)
  · refine congrArg Host.Outcome.next ((asMgr_of_mgrRuns hm _).trans ?_)
    exact congrArg State.settle (hubOnFlow_eq hf fun f => srcFence f i b)
  · refine congrArg Host.Outcome.next ((asMgr_of_mgrRuns hm _).trans ?_)
    exact congrArg State.settle (hubResend_again hf hl)
  · refine congrArg Host.Outcome.next ((asMgr_of_mgrRuns hm _).trans ?_)
    exact congrArg State.settle (hubResend_fails hf hl hc)
  · refine congrArg Host.Outcome.next ((asMgr_of_mgrRuns hm _).trans ?_)
    exact congrArg State.settle (hubAnswer_eq nakAct nakKey ha hb hg hh ht hf)
  · refine congrArg Host.Outcome.next ((asMgr_of_mgrRuns hm _).trans ?_)
    exact congrArg State.settle (hubAnswer_eq (fun _ => busyAct) busyKey ha hb hg hh ht hf)
  · refine congrArg Host.Outcome.next ((asMgr_of_mgrRuns hm _).trans ?_)
    dsimp only
    rw [handoverAck_of_no_jobs hj]
    exact congrArg State.settle (hubAnswer_eq (fun _ => ackAct) ackKey ha hb hg hh ht hf)
  · exact congrArg Host.Outcome.next (if_pos (by rw [hs, hv]; rfl))
  · have hs : s.service = false := by
      unfold State.mgrRuns at hr
      exact (Bool.or_eq_false_iff.mp hr).1
    exact congrArg Host.Outcome.next ((if_neg (by rw [hs]; simp)).trans (turnAway_eq hr ha hb))
  · obtain ⟨hk, hrank, hf, h1, h2, hnew⟩ := hc
    rw [exec_paceArrive hi hb ht]
    exact congrArg Host.Outcome.next (arrive_counts (s := s.emptied) hmap hx rfl hk hrank hf h1 h2 hnew)
  · rw [exec_paceArrive hi hb ht]
    exact congrArg Host.Outcome.next (arrive_discarded (s := s.emptied) hmap hx rfl hc)

end Sys2Proof.Machine

/-! # The Hearths at work (O59) -/

namespace Sys2Proof.Machine

open Sys2Proof

section
variable (s t : State) (no h : Nat) (u : UpdateSec) (x : Hearth) (d : CollDesc) (c : Nat) (f : Forge) (g : Grad)

@[simp] theorem hearthAt_setHearth : (s.setHearth no h x).hearthAt no h u = x :=
  congrArg (fun o => Option.getD o (Hearth.fresh u)) (tget_tset_self s.hub.hearths (hearthKey no h) x)

/-- What is written to a Hearth's record is all that a taken gradient leaves there. -/
theorem takeGrad_hearthAt : (s.takeGrad no h f g).hearthAt no h f.sec =
    (if ((s.hearthAt no h f.sec).unoffer g).has f.plan.openStep g then (s.hearthAt no h f.sec).unoffer g
    else { (s.hearthAt no h f.sec).unoffer g with
      buffer := (s.hearthAt no h f.sec).buffer ++ [{ g with seq := s.hub.gradSeq }]
      received := if g.step.toNat = f.plan.openStep then (s.hearthAt no h f.sec).received ++ [g.chunk]
        else (s.hearthAt no h f.sec).received }) :=
  hearthAt_setHearth (s.setHub { s.hub with gradSeq := s.hub.gradSeq + 1 }) no h f.sec _

/-- A gradient that is new goes into the buffer under its number, and its chunk counts as received in the open step (R327). -/
theorem takeGrad_new (hnew : (s.hearthAt no h f.sec).has f.plan.openStep g = false) :
    ((s.takeGrad no h f g).hearthAt no h f.sec).buffer =
      (s.hearthAt no h f.sec).buffer ++ [{ g with seq := s.hub.gradSeq }] ∧
    (g.step.toNat = f.plan.openStep →
      ((s.takeGrad no h f g).hearthAt no h f.sec).received = (s.hearthAt no h f.sec).received ++ [g.chunk]) := by
  have hn : ((s.hearthAt no h f.sec).unoffer g).has f.plan.openStep g = false := hnew
  rw [takeGrad_hearthAt, hn]
  exact ⟨rfl, fun hs => if_pos hs⟩

/-- Each record counts once over the three tiers. -/
theorem sum_prog_advanced (prog : Tab Nat) (t : Tier) :
    ([Tier.p, .b, .c].map fun k =>
      (tget (tset prog (progKey c t) ((tget prog (progKey c t)).getD 0 + 1)) (progKey c k)).getD 0).sum =
    ([Tier.p, .b, .c].map fun k => (tget prog (progKey c k)).getD 0).sum + 1 := by
  have hkey : ∀ a b : Tier, a.no ≠ b.no → progKey c a ≠ progKey c b := fun a b hab => by
    unfold progKey; omega
  cases t with
  | p => simp [tget_tset_of_ne _ _ (hkey .b .p (by decide)), tget_tset_of_ne _ _ (hkey .c .p (by decide))]; omega
  | b => simp [tget_tset_of_ne _ _ (hkey .p .b (by decide)), tget_tset_of_ne _ _ (hkey .c .b (by decide))]; omega
  | c => simp [tget_tset_of_ne _ _ (hkey .p .c (by decide)), tget_tset_of_ne _ _ (hkey .b .c (by decide))]; omega

theorem progKey_chunk (t : Tier) : progKey c t / 3 = c := by
  have hno : t.no < 3 := by cases t <;> decide
  unfold progKey
  omega

/-- The last record of a chunk, in whichever tier: the chunk has passed and its counts are gone (R318, R332). -/
theorem advance_last (r : Tier) (wrote : Bool)
    (hlast : recordCount d c ≤ ([Tier.p, .b, .c].map fun t => (tget x.prog (progKey c t)).getD 0).sum + 1) :
    (x.advance d c r wrote).1.passed = x.passed ++ [c] ∧ ∀ t, tget (x.advance d c r wrote).1.prog (progKey c t) = none := by
  have hn : ¬ ([Tier.p, .b, .c].map fun k =>
      (tget (tset x.prog (progKey c r) ((tget x.prog (progKey c r)).getD 0 + 1)) (progKey c k)).getD 0).sum
        < recordCount d c := by
    rw [sum_prog_advanced]; omega
  unfold Hearth.advance
  dsimp only
  rw [if_neg hn]
  refine ⟨rfl, fun t => ?_⟩
  refine (tget_filter_key _ (fun k => k / 3 != c) _).trans (if_neg ?_)
  simp [progKey_chunk]

/-- Pass 1 of a record counts it at its Hearth; the gradient leaves the buffer with the chunk's last. -/
theorem stageAt_counts (r : RecordAt) :
    ((s.stageAt no h f r g).hearthAt no h f.sec).passed =
      ((s.hearthAt no h f.sec).advance f.desc r.chunk r.tier false).1.passed ∧
    ((s.stageAt no h f r g).hearthAt no h f.sec).prog =
      ((s.hearthAt no h f.sec).advance f.desc r.chunk r.tier false).1.prog := by
  have hx : (s.stageAt no h f r g).hearthAt no h f.sec =
      if ((s.hearthAt no h f.sec).advance f.desc r.chunk r.tier false).2
      then ((s.hearthAt no h f.sec).advance f.desc r.chunk r.tier false).1.consume g
      else ((s.hearthAt no h f.sec).advance f.desc r.chunk r.tier false).1 := hearthAt_setHearth _ no h f.sec _
  rw [hx]
  split
  · exact ⟨rfl, rfl⟩
  · exact ⟨rfl, rfl⟩

/-- A record that is staged, with its page in reach and its words good. -/
theorem stepRecord_stage (y : RecordDue) (hw : y.work = .stage g)
    (hheld : s.recordHeld ((s.planOf no).getD f.plan) h y.at' = false) :
    s.stepRecord no h f y false = s.stageAt no h f y.at' g := by
  unfold State.stepRecord
  rw [hw]
  refine if_neg ?_
  simp [hheld]

/-- A staged pass of a Hearth ends without the step's end, which waits for the decision (R320). -/
theorem endPass_staged (hst : f.sec.staged = true) (hd : f.plan.decision = none) :
    ((s.endPass no h f).hearthAt no h f.sec).ended = true := by
  have he : s.endPass no h f = s.setHearth no h { s.hearthAt no h f.sec with ended := true } :=
    if_neg (by simp [hst, hd])
  rw [he, hearthAt_setHearth]

end

section
variable {s : State} {no h : Nat} {f : Forge} {g : Grad}

theorem receiveGrad_error (ho : (s.offeredAt h fun g => !g.refused) = some (no, f, g)) :
    s.receiveGrad h true = s.forgeError no f := by
  unfold State.receiveGrad
  rw [ho] <;> rfl

theorem receiveGrad_room (ho : (s.offeredAt h fun g => !g.refused) = some (no, f, g))
    (hroom : s.bufferRoom h (gradBytes f.sec g) = true) : s.receiveGrad h false = s.takeGrad no h f g := by
  unfold State.receiveGrad
  rw [ho]
  refine (if_neg Bool.false_ne_true).trans (if_pos ?_)
  simp [hroom]

/-- The offered gradient that finds no room, marked as refused. -/
def State.refuseGrad (s : State) (no h : Nat) (f : Forge) (g : Grad) : State :=
  s.setHearth no h { s.hearthAt no h f.sec with
    offered := (s.hearthAt no h f.sec).offered.map fun y =>
      if y.chunk = g.chunk ∧ y.step = g.step then { y with refused := true } else y }

theorem refuseGrad_keeps (s : State) (no h : Nat) (f : Forge) (g : Grad) :
    ((s.refuseGrad no h f g).hearthAt no h f.sec).buffer = (s.hearthAt no h f.sec).buffer ∧
    ((s.refuseGrad no h f g).hearthAt no h f.sec).offered.length = (s.hearthAt no h f.sec).offered.length := by
  unfold State.refuseGrad
  rw [hearthAt_setHearth]
  exact ⟨rfl, List.length_map _⟩

/-- A gradient without room is refused and stays offered (R327). -/
theorem receiveGrad_refused (ho : (s.offeredAt h fun g => !g.refused) = some (no, f, g))
    (hnew : (s.hearthAt no h f.sec).has f.plan.openStep g = false)
    (hroom : s.bufferRoom h (gradBytes f.sec g) = false) :
    s.receiveGrad h false = s.refuseGrad no h f g := by
  unfold State.receiveGrad
  rw [ho]
  refine (if_neg Bool.false_ne_true).trans (if_neg ?_)
  simp [hnew, hroom]

theorem receiveGrad_none (ho : (s.offeredAt h fun g => !g.refused) = none) (e : Bool) : s.receiveGrad h e = s := by
  unfold State.receiveGrad
  rw [ho] <;> rfl

theorem acceptRefused_offered (ho : (s.offeredAt h fun g => g.refused) = some (no, f, g)) :
    s.acceptRefused h = if s.bufferRoom h (gradBytes f.sec g) = true then s.takeGrad no h f g else s := by
  unfold State.acceptRefused
  rw [ho] <;> rfl

theorem recordAt_none {t : Tier} (hd : s.dueIn h t = none) (e : Bool) : s.recordAt h t e = s := by
  unfold State.recordAt
  rw [hd] <;> rfl

theorem recordAt_due {t : Tier} {x : RecordDue} (hd : s.dueIn h t = some (no, f, x)) (e : Bool) :
    s.recordAt h t e =
      if s.recordWaits ((s.planOf no).getD f.plan) h x.at' then s else s.stepRecord no h f x e := by
  unfold State.recordAt
  rw [hd] <;> rfl

theorem exec_record {n : Nat} {t : Tier} (hr : s.mgrRuns = true) (ht : tierOf n = some t) (e : Bool) :
    exec (.hearthRecordUpdate h ⟨n, e⟩) s = .next (s.recordAt h t e).settle := by
  refine congrArg Host.Outcome.next (Eq.trans ?_ (asMgr_of_mgrRuns hr fun s => s.recordAt h t e))
  dsimp only
  rw [ht]

theorem tierOf_none {n : Nat} (hn : 3 ≤ n) : tierOf n = none := by
  obtain ⟨k, rfl⟩ := Nat.exists_eq_add_of_le hn
  rw [Nat.add_comm]; rfl

/-- The pass that ends is the one of the Hearth's one heat. -/
theorem passEndAt_one (hh : s.heatsAt h = [no]) (hf : s.forgeOf no = some f) (hc : hearthChunks f.desc f.sec h ≠ [])
    (hp : s.passDone no h f = true) (he : (s.hearthAt no h f.sec).ended = false) : s.passEndAt h = s.endPass no h f := by
  have hfind : ((s.heatsAt h).findSome? fun no => (s.forgeOf no).bind fun f =>
      if !(hearthChunks f.desc f.sec h).isEmpty && s.passDone no h f && !(s.hearthAt no h f.sec).ended then some (no, f)
      else none) = some (no, f) := by
    rw [hh]
    simp [hf, hp, he, hc]
  unfold State.passEndAt
  rw [hfind]

theorem normDecision_none (hr : s.stagedReady = none) : s.normDecision = s := by
  unfold State.normDecision
  rw [hr] <;> rfl

/-- The step's Σ, kept in a record of its own. -/
def State.keepSigma (s : State) (no : Nat) (f : Forge) : State :=
  s.setChunk { freshChunk no f.desc f.plan.openStep normChunk with total := some [sumSquares f.plan] }

/-- In a heat of one pod whose Σ has no record yet, the decision is formed from the pod's own Σ (R319, R320). -/
theorem normDecision_alone (hr : s.stagedReady = some (no, f)) (hpods : f.plan.image.pods = [])
    (hc : s.chunkRec no f.desc.collId f.plan.openStep normChunk = none) :
    s.normDecision = (s.keepSigma no f).decideStep no f (sumSquares f.plan) := by
  have hn : s.normRec no f = freshChunk no f.desc f.plan.openStep normChunk :=
    congrArg (fun o => Option.getD o (freshChunk no f.desc f.plan.openStep normChunk)) hc
  have hall : ∀ c : CruChunk, f.normsIn c = true := fun c =>
    congrArg (fun l : List Nat => l.all fun slot => c.podCount slot != 0) hpods
  have hsend : ∀ (t : State) (i : Ingot), t.sendNorm no f i = t := fun t i => by
    unfold State.sendNorm
    rw [hpods] <;> rfl
  unfold State.normDecision
  rw [hr]
  dsimp only
  rw [hn, if_pos (hall _), hsend]
  rfl

end

/-- Settles O59: each act of a Hearth on the record that is due, through what the record then holds. -/
theorem hearthsAtWork : Obligations.HearthsAtWork := by
  intro h s hr
  refine ⟨fun no f g ho => ⟨?_, fun hnew hroom => ⟨s.takeGrad no h f g, ?_, ?_⟩, fun hnew hroom => ⟨s.refuseGrad no h f g, ?_, refuseGrad_keeps s no h f g⟩⟩,
    fun ho e => ?_, fun no f g ho => ?_, fun n t ht => ⟨fun hd e => ?_, fun no f x hd => ⟨fun e hw => ?_, fun e hw => ?_,
      fun g hg hheld hlast => ?_⟩⟩, fun n e hn => ?_, fun no f hh hf hc hp he => ⟨?_, endPass_staged s no h f⟩, fun hn => ?_,
    fun no f hs hpods hc => ⟨s.keepSigma no f, ?_, ?_⟩⟩
  · exact congrArg Host.Outcome.next ((asMgr_of_mgrRuns hr _).trans (congrArg State.settle (receiveGrad_error ho)))
  · exact congrArg Host.Outcome.next ((asMgr_of_mgrRuns hr _).trans (congrArg State.settle (receiveGrad_room ho hroom)))
  · exact takeGrad_new s no h f g hnew
  · exact congrArg Host.Outcome.next ((asMgr_of_mgrRuns hr _).trans (congrArg State.settle (receiveGrad_refused ho hnew hroom)))
  · exact congrArg Host.Outcome.next ((asMgr_of_mgrRuns hr _).trans (congrArg State.settle (receiveGrad_none ho e)))
  · exact congrArg Host.Outcome.next ((asMgr_of_mgrRuns hr _).trans (congrArg State.settle (acceptRefused_offered ho)))
  · rw [exec_record hr ht, recordAt_none hd]
  · rw [exec_record hr ht, recordAt_due hd, if_pos hw]
  · rw [exec_record hr ht, recordAt_due hd, if_neg (by simp [hw])]
  · rw [stepRecord_stage s no h f g x hg hheld]
    obtain ⟨hpassed, hprog⟩ := stageAt_counts s no h f g x.at'
    rw [hpassed, hprog]
    exact advance_last _ _ _ _ _ hlast
  · refine congrArg Host.Outcome.next ?_
    dsimp only
    rw [tierOf_none hn]
  · exact congrArg Host.Outcome.next ((asMgr_of_mgrRuns hr _).trans (congrArg State.settle (passEndAt_one hh hf hc hp he)))
  · exact congrArg Host.Outcome.next ((asMgr_of_mgrRuns hr _).trans (congrArg State.settle (normDecision_none hn)))
  · exact congrArg Host.Outcome.next ((asMgr_of_mgrRuns hr _).trans (congrArg State.settle (normDecision_alone hs hpods hc)))
  · rfl

end Sys2Proof.Machine

/-! # The ports of the link tiles (O60) -/

namespace Sys2Proof.Machine

open Sys2Proof

/-! ## Attempts (R409, R431, R516) -/

section
variable {s : State} {p : Nat}

theorem startTraining_chrohar_of_mayTrain (hport : s.hasPort .chrohar p = true) (hg : s.ember.grant = true)
    (hq : (s.link.port p).mayTrain = true) : s.startTraining .chrohar p =
      (State.useCal { (s.putPortAt .chrohar p (s.link.port p).training).emit
          (idleChange .chrohar p (s.link.port p) (s.link.port p).training ++ [.portTrain .chrohar p]) with
        link := (s.link.setPort p (s.link.port p).training).reclaim s.mgr.record p } p).tally
        0x0012 (BitVec.ofNat 16 (p / 4)) 1 := by
  have hd : (s.drives .chrohar && s.hasPort .chrohar p && (s.portAt .chrohar p).mayTrain) = true := by
    rw [Bool.and_eq_true, Bool.and_eq_true]
    exact ⟨⟨hg, hport⟩, hq⟩
  exact if_pos hd

theorem idleChange_training (q : Port) :
    idleChange .chrohar p q q.training = if q.idle = true then [.portIdle .chrohar p false] else [] := by
  unfold idleChange
  cases hq : q.idle <;> simp [hq, Port.training]

/-- An attempt of a module that holds the grant: the lanes leave electrical idle under the stored calibration set. -/
theorem startTraining_chrohar_begins (hport : s.hasPort .chrohar p = true) (hg : s.ember.grant = true)
    (hq : (s.link.port p).mayTrain = true) :
    (s.startTraining .chrohar p).link.port p = (s.link.port p).training ∧
    tget (s.startTraining .chrohar p).cfg.calUsed p = some s.cfg.calSet ∧
    (s.startTraining .chrohar p).out = s.out ++
      (if (s.link.port p).idle = true then [.portIdle .chrohar p false] else []) ++ [.portTrain .chrohar p] := by
  rw [startTraining_chrohar_of_mayTrain hport hg hq, tally_link, (Outward.tally (.refl _) _ _ _).rest.2.2.2.1,
    (tally_mem_out _ _ _ _).2]
  refine ⟨tilesPort_setPort_self s.link p _, tget_tset_self _ _ _, ?_⟩
  rw [← idleChange_training, List.append_assoc] <;> rfl

/-- A module without the grant starts none (R516). -/
theorem startTraining_chrohar_without_grant (hg : s.ember.grant = false) : s.startTraining .chrohar p = s :=
  if_neg (by simp [State.drives, hg])

end

/-! ## A window that closes on a port with every lane good (R118, R125) -/

/-- The report of a port whose lanes are all good. -/
abbrev allLanesGood (p : Nat) : LaneReport := { port := p, ok := 0xFF, spareOk := 0 }

theorem splitGroup_fits (split g : Nat) : (splitGroup split g).1 + (splitGroup split g).2 ≤ 8 := by
  unfold splitGroup
  split <;> decide

theorem lanesOf_fits (r : Option InstRecord) (p : Nat) : (lanesOf r p).1 + (lanesOf r p).2 ≤ 8 := splitGroup_fits _ _

theorem laneMask_lane {lo n i : Nat} (hi : i < n) (hfit : lo + n ≤ 8) : (laneMask lo n).getLsbD (lo + i) = true := by
  have hlane : lo + i < 8 := by omega
  simp [laneMask, BitVec.getLsbD_ofNat, hlane, hi, Nat.testBit_mul_two_pow]

/-- None of the lanes of a full mask is among the failed. -/
theorem failed_of_mask {lo n : Nat} (hfit : lo + n ≤ 8) :
    (((List.range n).map (lo + ·)).filter fun i => !(laneMask lo n).getLsbD i) = [] := by
  refine List.filter_eq_nil_iff.mpr fun i hi => ?_
  obtain ⟨j, hj, rfl⟩ := List.mem_map.mp hi
  simp [laneMask_lane (List.mem_range.mp hj) hfit]

theorem tget_foldl_tdel {α : Type} (key : Nat → Nat) (l : List Nat) (t : Tab α) {k : Nat}
    (h : tget t k = none ∨ ∃ i ∈ l, key i = k) : tget (l.foldl (fun t i => tdel t (key i)) t) k = none := by
  induction l generalizing t with
  | nil =>
    obtain h | ⟨i, hi, -⟩ := h
    · exact h
    · cases hi
  | cons j r ih =>
    rw [List.foldl_cons]
    refine ih _ ?_
    by_cases hj : key j = k
    · exact .inl (hj ▸ tget_tdel_self t (key j))
    · obtain h | ⟨i, hi, hik⟩ := h
      · exact .inl ((tget_tdel_of_ne t (Ne.symm hj)).trans h)
      · obtain rfl | hi := List.mem_cons.mp hi
        · exact absurd hik hj
        · exact .inr ⟨i, hi, hik⟩

/-- The lanes taken off their spares have none (R125). -/
theorem spared_of_cleared (t : Tab Nat) (base lo n : Nat) :
    (((List.range n).map fun i => base + lo + i).filter fun x =>
      (tget ((List.range n).foldl (fun t i => tdel t (base + lo + i)) t) x).isSome) = [] := by
  refine List.filter_eq_nil_iff.mpr fun k hk => ?_
  obtain ⟨i, hi, hik⟩ := List.mem_map.mp hk
  rw [tget_foldl_tdel (fun i => base + lo + i) _ _ (.inr ⟨i, hi, hik⟩)]
  nofun

theorem badLanes_none (link : Nat) : badLanes [] link = 0 := rfl

/-- The first pass over a port with every lane good trains them all, with no spare. -/
theorem trainPort_allGood (r : Option InstRecord) {bad : Nat → List Nat} (hbad : ∀ k, bad k = []) (l : LinkTiles) (p : Nat)
    (hmin : (l.port p).minW ≤ ((l.port p).trained (laneMask (lanesOf r p).1 (lanesOf r p).2) 0).width) :
    (LinkTiles.trainPort r bad false l (allLanesGood p)).ports =
      tset l.ports p ((l.port p).trained (laneMask (lanesOf r p).1 (lanesOf r p).2) 0) ∧
    (LinkTiles.trainPort r bad false l (allLanesGood p)).log = l.log := by
  have hfit := lanesOf_fits r p
  unfold LinkTiles.trainPort
  dsimp only
  generalize lanesOf r p = lanes at *
  obtain ⟨lo, n⟩ := lanes
  have hbegun : (0xFF &&& laneMask lo n &&& ~~~(badLanes (bad (p / 32)) (p / 4))) = laneMask lo n := by
    rw [hbad, badLanes_none]
    exact (BitVec.and_allOnes ..).trans (BitVec.allOnes_and ..)
  simp only [Bool.false_eq_true, if_false, hbegun, failed_of_mask hfit, respare, spared_of_cleared, List.length_nil]
  have hup : ¬((l.port p).trained (laneMask lo n) 0).width < ((l.port p).trained (laneMask lo n) 0).minW :=
    Nat.not_lt.mpr hmin
  rw [if_neg hup]
  exact ⟨rfl, rfl⟩

theorem mem_tset_of_ne {α : Type} {t : Tab α} {k : Nat} {y : α} {e : Nat × α} (he : e ∈ t) (hk : e.1 ≠ k) :
    e ∈ tset t k y := by
  induction t with
  | nil => cases he
  | cons b r ih =>
    obtain ⟨j, x⟩ := b
    unfold tset
    split
    · exact List.mem_cons_of_mem _ he
    · split
      next hj =>
        obtain rfl | he := List.mem_cons.mp he
        · exact absurd hj hk
        · exact List.mem_cons_of_mem _ he
      next =>
        obtain rfl | he := List.mem_cons.mp he
        · exact List.mem_cons_self
        · exact List.mem_cons_of_mem _ (ih he)

theorem mem_tmap_of_mem {α β : Type} (f : Nat → α → β) {t : Tab α} {e : Nat × α} (he : e ∈ t) :
    (e.1, f e.1 e.2) ∈ tmap f t := by
  induction t with
  | nil => cases he
  | cons b r ih =>
    obtain rfl | he := List.mem_cons.mp he
    · exact List.mem_cons_self
    · exact List.mem_cons_of_mem _ (ih he)

/-- The window's end for one port with every lane good: both passes leave it trained whole, logged, and the packets that it
brought owed to no one. -/
theorem closeWindow_allGood (r : Option InstRecord) {bad : Nat → List Nat} (hbad : ∀ k, bad k = []) (l : LinkTiles) (p : Nat)
    (ht : (l.port p).state = .training)
    (hmin : (l.port p).minW ≤ ((l.port p).trained (laneMask (lanesOf r p).1 (lanesOf r p).2) 0).width) :
    (l.closeWindow r bad [allLanesGood p]).ports = tmap (fun _ q => q.forgetOrigin p)
      (tset l.ports p ((l.port p).trained (laneMask (lanesOf r p).1 (lanesOf r p).2) 0)) ∧
    (l.closeWindow r bad [allLanesGood p]).log = l.log ++ [p] := by
  obtain ⟨hports, hlog⟩ := trainPort_allGood r hbad l p hmin
  have hreps : sortBy (fun x y : LaneReport => x.port ≤ y.port)
      ([allLanesGood p].filter fun x => (l.port x.port).state == .training) = [allLanesGood p] := by
    rw [List.filter_cons_of_pos (by simp [ht])]
    rfl
  have hport : (LinkTiles.trainPort r bad false l (allLanesGood p)).port p =
      (l.port p).trained (laneMask (lanesOf r p).1 (lanesOf r p).2) 0 := by
    unfold LinkTiles.port
    rw [hports, tget_tset_self]
    rfl
  unfold LinkTiles.closeWindow
  dsimp only
  rw [hreps]
  dsimp only [List.foldl_cons, List.foldl_nil]
  rw [List.filter_cons_of_neg, List.filter_nil, List.foldl_nil, hports, hlog]
  · exact ⟨rfl, rfl⟩
  · have hlanes : ((LinkTiles.trainPort r bad false l (allLanesGood p)).port p).laneOk =
        laneMask (lanesOf r p).1 (lanesOf r p).2 := congrArg Port.laneOk hport
    simp [hlanes]

section
variable {s : State} {p : Nat}

theorem regradePort_keeps (s : State) : s.regradePort.link = s.link ∧ s.regradePort.mgr = s.mgr ∧
    s.regradePort.agents = s.agents ∧ s.regradePort.hub = s.hub := by
  unfold State.regradePort
  split
  · exact ⟨rfl, rfl, rfl, rfl⟩
  · unfold State.regrade
    dsimp only
    split
    · exact ⟨rfl, rfl, rfl, rfl⟩
    · obtain ⟨hagents, hlink, hhub, hmgr, -⟩ :=
        ((Outward.refl ({ s with boot := { s.boot with grade := s.allUnfilled != 0 } } : State)).alarm 0x1105
          (leBytes 2 _ ++ leBytes 4 s.allUnfilled)).frame
      exact ⟨hlink, hmgr, hagents, hhub⟩

/-- While a port still trains, the window's end is not the end of the first training (R132). -/
theorem windowsClosed_training (h : ∃ x ∈ s.link.ports, x.2.state = .training) : s.windowsClosed = s := by
  obtain ⟨x, hx, hst⟩ := h
  have hany : (s.link.ports.any fun q => q.2.state == .training) = true :=
    List.any_eq_true.mpr ⟨x, hx, by rw [hst]; rfl⟩
  refine if_pos ?_
  rw [hany, Bool.or_true]

/-- The module after the window of one port with every lane good: the port's packets are owed to no one. -/
def State.tilesWindow (s : State) (p : Nat) : State :=
  { s with
    link := s.link.closeWindow s.mgr.record s.boot.badPairs [allLanesGood p]
    hub := { s.hub with arrived := forgetOwed p s.hub.arrived, heldBack := forgetOwed p s.hub.heldBack } }

theorem exec_windowClose_allGood (ht : (s.link.port p).state = .training) :
    exec (.trainingWindowClose .chrohar [allLanesGood p]) s = .next
      (if s.boot.windowClosed || s.boot.computeTest then (s.tilesWindow p).regradePort else s.tilesWindow p).windowsClosed := by
  have htrained : ([allLanesGood p].filter fun x => (s.link.port x.port).state == .training) = [allLanesGood p] :=
    List.filter_cons_of_pos (by simp [ht])
  refine congrArg Host.Outcome.next ?_
  dsimp only
  rw [htrained]
  rfl

/-- A window that closes on one port with every lane good, while another still trains. -/
theorem windowClose_allGood (ht : (s.link.port p).state = .training) (hbad : ∀ k, s.boot.badPairs k = [])
    (hother : ∃ x ∈ s.link.ports, x.1 ≠ p ∧ x.2.state = .training)
    (hmin : (s.link.port p).minW ≤
      ((s.link.port p).trained (laneMask (lanesOf s.mgr.record p).1 (lanesOf s.mgr.record p).2) 0).width) :
    ∃ t, exec (.trainingWindowClose .chrohar [allLanesGood p]) s = .next t ∧
      t.link.port p = ((s.link.port p).trained (laneMask (lanesOf s.mgr.record p).1 (lanesOf s.mgr.record p).2) 0).forgetOrigin
        p ∧
      t.link.log = s.link.log ++ [p] ∧ t.mgr = s.mgr ∧ t.agents = s.agents ∧
      t.hub = { s.hub with arrived := forgetOwed p s.hub.arrived, heldBack := forgetOwed p s.hub.heldBack } := by
  obtain ⟨hports, hlog⟩ := closeWindow_allGood s.mgr.record hbad s.link p ht hmin
  have hstill : ∃ x ∈ (s.tilesWindow p).link.ports, x.2.state = .training := by
    obtain ⟨x, hx, hne, hst⟩ := hother
    have hmem := mem_tmap_of_mem (fun _ q => Port.forgetOrigin p q) (mem_tset_of_ne
      (y := (s.link.port p).trained (laneMask (lanesOf s.mgr.record p).1 (lanesOf s.mgr.record p).2) 0) hx hne)
    exact ⟨_, (congrArg (fun l => (x.1, x.2.forgetOrigin p) ∈ l) hports).mpr hmem, hst⟩
  have hport : (s.tilesWindow p).link.port p =
      ((s.link.port p).trained (laneMask (lanesOf s.mgr.record p).1 (lanesOf s.mgr.record p).2) 0).forgetOrigin p := by
    change (tget (s.link.closeWindow s.mgr.record s.boot.badPairs [allLanesGood p]).ports p).getD Port.reset = _
    rw [hports, tget_tmap, tget_tset_self]
    rfl
  rw [exec_windowClose_allGood ht]
  split
  · obtain ⟨hl, hm, ha, hh⟩ := regradePort_keeps (s.tilesWindow p)
    rw [windowsClosed_training (by rw [hl]; exact hstill)]
    exact ⟨_, rfl, by rw [hl]; exact hport, by rw [hl]; exact hlog, hm, ha, hh⟩
  · rw [windowsClosed_training hstill]
    exact ⟨_, rfl, hport, hlog, rfl, rfl, rfl⟩

end

/-! ## Lanes, identification and cells of a Chrohar port -/

section
variable {s : State} {p : Nat} {c : CtlCell}

/-- A change that leaves the transmitters as they are puts nothing out. -/
theorem changePortAt_chrohar_quiet {q : Port} (h : (s.link.port p).idle = q.idle) :
    s.changePortAt .chrohar p q = { s with link := s.link.change p q } := by
  have hquiet : idleChange .chrohar p (s.link.port p) q = [] := if_pos h
  unfold State.changePortAt
  dsimp only
  rw [hquiet]
  unfold State.emit
  rw [List.append_nil]

/-- A port whose pairs go to the pool trains and spares no lane (R122). -/
theorem releasePairs_port (r : Option InstRecord) (bad : Nat → List Nat) {l : LinkTiles} {q : Port}
    (h : tget l.ports p = some q) : (l.releasePairs r bad p).port p = { q with laneOk := 0, spareIn := 0 } := by
  unfold LinkTiles.port LinkTiles.releasePairs
  dsimp only
  rw [tget_tmod_self, h]
  rfl

/-- A Chrohar port on the lanes that are left to it. -/
def State.onLanes (s : State) (p : Nat) (lanes : BitVec 8) : Port :=
  (s.link.port p).lanesChange (lanes &&& laneMask (lanesOf s.mgr.record p).1 (lanesOf s.mgr.record p).2)

/-- The module once that port has fallen below its minimum: its pairs are in the tile's pool (R122). -/
def State.lanesLost (s : State) (p : Nat) (lanes : BitVec 8) : State :=
  { s.changePortAt .chrohar p (s.onLanes p lanes) with
    link := (s.link.change p (s.onLanes p lanes)).releasePairs s.mgr.record s.boot.badPairs p }

theorem exec_laneUpChange_chrohar {lanes : BitVec 8} (hport : s.hasPort .chrohar p = true)
    (hup : (s.link.port p).isUp = true)
    (hne : (s.link.port p).laneOk ≠ lanes &&& laneMask (lanesOf s.mgr.record p).1 (lanesOf s.mgr.record p).2) :
    exec (.laneUpChange .chrohar p lanes) s = .next
      (if (s.onLanes p lanes).width < (s.onLanes p lanes).minW then s.lanesLost p lanes
      else s.changePortAt .chrohar p (s.onLanes p lanes)) := by
  refine congrArg Host.Outcome.next (if_pos ?_)
  rw [Bool.and_eq_true, Bool.and_eq_true]
  exact ⟨⟨hport, hup⟩, bne_iff_ne.mpr hne⟩

theorem lanesLost_port (s : State) (p : Nat) (lanes : BitVec 8) :
    (s.lanesLost p lanes).link.port p = { s.onLanes p lanes with laneOk := 0, spareIn := 0 } :=
  releasePairs_port s.mgr.record s.boot.badPairs (tget_tset_self s.link.ports p (s.onLanes p lanes))

theorem takesCell_chrohar {csub : BitVec 8} (hport : s.hasPort .chrohar p = true) (hup : (s.link.port p).isUp = true)
    (hok : cellOk c = true) (hc : c.csub = csub) : s.takesCell .chrohar p c csub = true := by
  unfold State.takesCell
  rw [Bool.and_eq_true, Bool.and_eq_true, Bool.and_eq_true]
  exact ⟨⟨⟨hport, hup⟩, hok⟩, beq_iff_eq.mpr hc⟩

/-- The port after a lap exchange cell: MEAS and the peer's DEPTH are kept (R293, R294). -/
def State.lapTaken (s : State) (p : Nat) (c : CtlCell) : State :=
  { s with link := s.link.setPort p { (s.link.port p).takeFreed c.freed with
    meas := BitVec.ofInt 32 (lapDiff (field s.lap 0 40) (field c.data 0 40)), nbrDepth := (field c.data 75 5).toNat } }

theorem exec_lapExchangeCell_chrohar (h : s.takesCell .chrohar p c 1 = true) :
    exec (.lapExchangeCell .chrohar p c) s = .next
      (if s.ember.lapWait && !s.isPeerPort p && field c.data 40 32 != 0x80000000#32 then
        { s.lapTaken p c with
          lap := s.lap - BitVec.ofInt 64 (lapOffset (field s.lap 0 40) (field c.data 0 40) (field c.data 40 32))
          ember := { s.ember with lapWait := false } }
      else s.lapTaken p c) :=
  congrArg Host.Outcome.next (if_pos h)

/-- The port that the third matching cell in a row identifies (R130). -/
def Port.identified (q : Port) (c : CtlCell) : Port :=
  { q.takeFreed c.freed with cand := nbrOf c, candCount := 0, diffCount := 0, nbr := nbrOf c, nbrSeen := true }

/-- The module once that port is identified. -/
def State.identify (s : State) (p : Nat) (c : CtlCell) : State :=
  { s with link := s.link.change p ((s.link.port p).identified c) }

/-- A neighbour cell that changes what the port knows of its neighbour: the port is logged, and peer links are refused where
the record's quad section says another peer. -/
theorem exec_nbrCell_third (h : s.takesCell .chrohar p c 2 = true) (hno : (s.link.port p).nbrSeen = false)
    (hc : (s.link.port p).cand = nbrOf c) (hk : (s.link.port p).candCount = 2) :
    (s.mgr.record = none → exec (.neighbourDiscoveryCell .chrohar p c) s = .next (s.identify p c)) ∧
    ∀ r, s.mgr.record = some r → peerMismatch r s.quadSlot p c = true →
      exec (.neighbourDiscoveryCell .chrohar p c) s = .next ((s.identify p c).refusePeers r) := by
  have hthird : ((s.link.port p).takeFreed c.freed).takeNbr (nbrOf c) = (s.link.port p).identified c :=
    takeNbr_third hno hc hk
  have hwas : ((s.portAt .chrohar p).takeFreed c.freed).nbrSeen = false := hno
  have hnow : (((s.portAt .chrohar p).takeFreed c.freed).takeNbr (nbrOf c)).nbrSeen = true := congrArg Port.nbrSeen hthird
  have hchange : s.changePortAt .chrohar p (((s.portAt .chrohar p).takeFreed c.freed).takeNbr (nbrOf c)) = s.identify p c :=
    (congrArg (s.changePortAt .chrohar p) hthird).trans (changePortAt_chrohar_quiet rfl)
  have hbne : (true != false) = true := rfl
  refine ⟨fun hr => congrArg Host.Outcome.next ((if_pos h).trans ?_),
    fun r hr hmis => congrArg Host.Outcome.next ((if_pos h).trans ?_)⟩
  · have hrec : (s.identify p c).mgr.record = none := hr
    simp only [hwas, hnow, hbne, Bool.true_or, if_true, hchange, hrec]
  · have hrec : (s.identify p c).mgr.record = some r := hr
    have hmis' : peerMismatch r (s.identify p c).quadSlot p c = true := hmis
    simp only [hwas, hnow, hbne, Bool.true_or, if_true, hchange, hrec, hmis', Bool.not_false, Bool.and_true]

end

/-! ## Peer links (R145) -/

/-- A peer that is no Chrohar unit is not what the quad section says. -/
theorem peerMismatch_kind {r : InstRecord} {p : Nat} {c : CtlCell} (slot : Nat) (hpeer : ∃ x ∈ r.peers, x.1 = p / 4)
    (hkind : (nbrOf c).kind ≠ 2) : peerMismatch r slot p c = true := by
  unfold peerMismatch
  split
  next hnone =>
    obtain ⟨x, hx, hp⟩ := hpeer
    exact absurd (beq_iff_eq.mpr hp) (List.find?_eq_none.mp hnone x hx)
  next x _ =>
    have hne : ((nbrOf c).kind != 2) = true := bne_iff_ne.mpr hkind
    rw [hne, Bool.true_or, Bool.true_or, Bool.true_or]

/-- Every port of a peer link that is there is held, with width 0. -/
theorem refusePeers_holds (s : State) {r : InstRecord} {x : Nat × Nat} (hx : x ∈ r.peers)
    (hport : (tget s.link.ports (4 * x.1)).isSome = true) :
    ((s.refusePeers r).link.port (4 * x.1)).state = .held ∧ ((s.refusePeers r).link.port (4 * x.1)).width = 0 := by
  obtain ⟨q, hq⟩ := Option.isSome_iff_exists.mp hport
  have hany : (r.peers.any fun y => y.1 == 4 * x.1 / 4) = true :=
    List.any_eq_true.mpr ⟨x, hx, beq_iff_eq.mpr (by omega)⟩
  have hheld : (s.refusePeers r).link.port (4 * x.1) = q.hold := by
    unfold State.refusePeers LinkTiles.port
    dsimp only
    rw [tget_tmap, hq]
    exact if_pos hany
  rw [hheld]
  exact ⟨rfl, rfl⟩

theorem tget_tset_isSome {α : Type} {t : Tab α} {k j : Nat} (y : α) (h : (tget t j).isSome = true) :
    (tget (tset t k y) j).isSome = true := by
  by_cases hj : j = k
  · rw [hj, tget_tset_self]; rfl
  · rwa [tget_tset_of_ne t y hj]

/-- Settles O60: each act at a Chrohar port, by what the port, the tile and the log hold afterwards. -/
theorem portsOfTheLinkTiles : Obligations.PortsOfTheLinkTiles := by
  intro p s hport q mask
  refine ⟨fun hg hq => ?_, fun hg => congrArg Host.Outcome.next (startTraining_chrohar_without_grant hg),
    fun ht _ hbad hother hmin => windowClose_allGood ht hbad hother hmin, fun lanes hup hne => ⟨fun hmin hidle => ?_, fun hlow => ?_⟩,
    fun hup hno => ?_, fun c hup hok => ⟨fun h0 => ?_, fun h3 => ?_, fun h1 hkeep => ?_, fun h1 hwait hpeer hmeas => ?_,
      fun h2 hno hc hk => ⟨fun hr => ?_, fun r hr hpeer hkind => ?_⟩⟩⟩
  · obtain ⟨hp, hcal, hout⟩ := startTraining_chrohar_begins hport hg hq
    exact ⟨_, rfl, hp, hcal, hout⟩
  · refine (exec_laneUpChange_chrohar hport hup hne).trans (congrArg Host.Outcome.next ?_)
    exact (if_neg (Nat.not_lt.mpr hmin)).trans (changePortAt_chrohar_quiet hidle)
  · have hidle : ((s.lanesLost p lanes).link.port p).idle = true := by
      rw [lanesLost_port]
      exact decide_eq_true hlow
    exact ⟨s.lanesLost p lanes, (exec_laneUpChange_chrohar hport hup hne).trans (congrArg Host.Outcome.next (if_pos hlow)),
      rfl, rfl, rfl, lanesLost_port s p lanes, hidle⟩
  · refine congrArg Host.Outcome.next ((if_pos ?_).trans (changePortAt_chrohar_quiet rfl))
    rw [Bool.and_eq_true, Bool.and_eq_true]
    exact ⟨⟨hport, hup⟩, by rw [show (s.portAt .chrohar p).nbrSeen = false from hno]; rfl⟩
  · exact exec_idleCell_of_takes (takesCell_chrohar hport hup hok rfl) h0
  · exact congrArg Host.Outcome.next (if_pos (takesCell_chrohar hport hup hok h3))
  · rw [exec_lapExchangeCell_chrohar (takesCell_chrohar hport hup hok h1), if_neg]
    · rfl
    · obtain hkeep | hkeep := hkeep <;> simp [hkeep]
  · rw [exec_lapExchangeCell_chrohar (takesCell_chrohar hport hup hok h1), if_pos]
    · exact ⟨_, rfl, rfl, rfl⟩
    · simp [hwait, hpeer, hmeas]
  · have hport' : (s.identify p c).link.port p = q.identified c := tilesPort_setPort_self s.link p _
    refine ⟨_, (exec_nbrCell_third (takesCell_chrohar hport hup hok h2) hno hc hk).1 hr, rfl, ?_, ?_, rfl⟩
    · exact congrArg Port.nbrSeen hport'
    · exact congrArg Port.nbr hport'
  · refine ⟨_, (exec_nbrCell_third (takesCell_chrohar hport hup hok h2) hno hc hk).2 r hr
      (peerMismatch_kind s.quadSlot hpeer hkind), rfl, fun x hx hp => ?_⟩
    exact refusePeers_holds (s.identify p c) hx (tget_tset_isSome _ hp)

end Sys2Proof.Machine
